-- ==== Sys2Proof/Word.lean ====
section
/-!
DEFINITION. The word types of the Ramhal and the keyed table that holds sparse or fixed-size
collections of them (R1, R2: fields are numbered from bit 0, values are little-endian).
-/

namespace Sys2Proof

/-- A scalar register, system register, address or locator (64 bits). -/
abbrev Word := BitVec 64

/-- One byte of any memory. -/
abbrev Byte := BitVec 8

/-- A bay, an anchor entry or a queue entry: 1024 bits in 32 lanes (R154, R256). -/
abbrev Bay := BitVec 1024

/-- A predicate register: one bit for each of 32 lanes (R233). -/
abbrev Pred := BitVec 32

/-- A taint mask: tags in bits 7:0, ALL in bit 8 (R90). -/
abbrev Mask := BitVec 9

/-- A table from numbers to values, kept as a list of pairs. A key that is not listed reads as the
default that its reader names, so a table needs no length and a reset table is empty. -/
abbrev FMap (β : Type) := List (Nat × β)

/-- A memory: bytes by address in canonical form (strictly rising addresses, no listed byte equal
to what an unlisted address reads as). -/
abbrev Memory := List (Nat × BitVec 8)

end Sys2Proof
end

