-- ==== Sys2Proof/Syntax.lean ====
section
/-!
DEFINITION. The instructions of the Ramhal: one constructor for each row of the opcode table. The
slot forms carry the fields of their encodings (R213, R216, R222, R223); a vector or copy form also
carries the slot it stands in, and a global access its header class (R209). The event rows carry the
numbers that say which part of the device they happen to.
-/

namespace Sys2Proof

/-- The two vector slots (R208). -/
inductive VSlot | v0 | v1
  deriving DecidableEq, Repr

/-- The two copy slots (R208). -/
inductive CSlot | c0 | c1
  deriving DecidableEq, Repr

/-- The fields of a vector slot under a control word (R216). -/
structure VFields where
  cwi : BitVec 9
  dst : BitVec 6
  x : BitVec 6
  y : BitVec 6
  z : BitVec 6
  xm : BitVec 2
  ym : BitVec 2
  zm : BitVec 2
  guard : BitVec 5
  nx : Bool
  cx : Bool
  cy : Bool
  cz : Bool
  deriving DecidableEq, Repr

/-- The fields of `mmul` (R222). -/
structure MmulFields where
  opx : BitVec 4
  fmt : BitVec 5
  lt : Bool
  bb : Bool
  row : BitVec 9
  m : BitVec 7
  sp : Bool
  mode : BitVec 2
  gang : BitVec 3
  cbar : BitVec 6
  deriving DecidableEq, Repr

/-- What an uncorrectable error in a core's own state damaged (R179). -/
inductive Damage
  | nothing
  | scratchpad (unit : Nat)
  | queueEntry (ctx queue entry : Nat)
  | accRow (row : Nat)
  | latch (lt : Bool)
  | bbuf (bb : Bool)
  | scaleQueue
  | bay (ctx bay : Nat)
  | anchor (ctx anchor : Nat)
  | controlWord (entry : Nat)
  deriving DecidableEq, Repr

/-- Where an uncorrectable soft error of on-chip storage lies, or a correctable one anywhere (R57, R65). -/
inductive SoftSite
  | fetchLine (core line : Nat)
  | nearLine (quarter line : Nat)
  | cleanHomeLine (line : Nat)
  | dirtyHomeLine (line : Nat)
  | stagingUnit (unit : Nat)
  | scratchpadUnit (core unit : Nat)
  | correctable
  deriving DecidableEq, Repr

/-- The level from which a line is evicted (R62). -/
inductive FetchLevel
  | l1i (core : Nat)
  | plaza (plaza : Nat)
  | home
  deriving DecidableEq, Repr

/-- A request that reaches this device's home slices from outside a core (R22, R61, R336). -/
inductive BusOp
  | read (size : Nat)
  | write (size value : Nat)
  | atomic (size : Nat) (aop : BitVec 4) (operand : Nat)
  | cas (size compare swap : Nat)
  deriving DecidableEq, Repr

/-- What a management packet asks for (R342). -/
inductive ManagementAsk
  | measurement
  | attestation (nonce : BitVec 256)
  | audit (first count : Nat)
  deriving DecidableEq, Repr

/-- Which engine firmware thaws (R40). -/
inductive ThawTarget
  | dray (core d : Nat)
  | collective (quarter : Nat)
  deriving DecidableEq, Repr

/-- The object of an ownership change (R19). -/
inductive GranuleTarget
  | granule (n : Nat)
  | descriptor (base length : Nat)
  deriving DecidableEq, Repr

/-- The instructions and events of the opcode table. -/
inductive Instr
  -- scalar slot (R215)
  | nop
  | add (d a b g : BitVec 5)
  | sub (d a b g : BitVec 5)
  | mul (d a b g : BitVec 5)
  | mulh (d a b g : BitVec 5)
  | mulhu (d a b g : BitVec 5)
  | div (d a b g : BitVec 5)
  | divu (d a b g : BitVec 5)
  | rem (d a b g : BitVec 5)
  | remu (d a b g : BitVec 5)
  | and (d a b g : BitVec 5)
  | or (d a b g : BitVec 5)
  | xor (d a b g : BitVec 5)
  | shl (d a b g : BitVec 5)
  | shr (d a b g : BitVec 5)
  | sra (d a b g : BitVec 5)
  | min (d a b g : BitVec 5)
  | minu (d a b g : BitVec 5)
  | max (d a b g : BitVec 5)
  | maxu (d a b g : BitVec 5)
  | sel (d a b g f : BitVec 5)
  | clz (d a g : BitVec 5)
  | ctz (d a g : BitVec 5)
  | popc (d a g : BitVec 5)
  | addi (d a : BitVec 5) (imm : BitVec 15)
  | andi (d a : BitVec 5) (imm : BitVec 15)
  | ori (d a : BitVec 5) (imm : BitVec 15)
  | xori (d a : BitVec 5) (imm : BitVec 15)
  | shli (d a : BitVec 5) (imm : BitVec 6)
  | shri (d a : BitVec 5) (imm : BitVec 6)
  | srai (d a : BitVec 5) (imm : BitVec 6)
  | lim (d : BitVec 5) (imm : BitVec 15)
  | lims (d a : BitVec 5) (imm : BitVec 15)
  | cmpEq (d a b g : BitVec 5)
  | cmpNe (d a b g : BitVec 5)
  | cmpLt (d a b g : BitVec 5)
  | cmpLtu (d a b g : BitVec 5)
  | cmpLe (d a b g : BitVec 5)
  | cmpLeu (d a b g : BitVec 5)
  | cmpiEq (d a : BitVec 5) (imm : BitVec 15)
  | cmpiLt (d a : BitVec 5) (imm : BitVec 15)
  | cmpiLtu (d a : BitVec 5) (imm : BitVec 15)
  | pand (d a b g : BitVec 5)
  | por (d a b g : BitVec 5)
  | pxor (d a b g : BitVec 5)
  | pandn (d a b g : BitVec 5)
  | pnot (d a g : BitVec 5)
  | pget (d a g : BitVec 5)
  | pset (d a g : BitVec 5)
  | br (g pad : BitVec 5) (disp : BitVec 15)
  | brn (g pad : BitVec 5) (disp : BitVec 15)
  | call (pad : BitVec 5) (disp : BitVec 15)
  | jmp (a pad : BitVec 5)
  | ret (pad : BitVec 5)
  | loop (level : BitVec 2) (len : BitVec 8) (a sigma : BitVec 5) (fl : Bool)
  | lbrk (a pad : BitVec 5)
  | lidx (d : BitVec 5) (level : BitVec 2)
  | wait (d : BitVec 5) (mask : BitVec 8) (all : Bool)
  | bara (a : BitVec 5) (id : BitVec 6) (scope : BitVec 3)
  | barw (id : BitVec 6)
  | span (d a : BitVec 5) (eng : BitVec 3) (opn : Bool)
  | tclr (a : BitVec 5) (kind : BitVec 3) (mask : BitVec 9)
  | tmask (d a : BitVec 5) (kind : BitVec 3) (rot : Bool)
  | slack (n : BitVec 8)
  | yield
  | getsr (d n : BitVec 5)
  | setsr (a n : BitVec 5)
  | trap (code : BitVec 8)
  | brkpt (code : BitVec 8)
  | done
  | mark (a : BitVec 5)
  | rdtime (d : BitVec 5)
  | tblw (a : BitVec 5) (table : BitVec 4) (index : BitVec 9)
  | tblr (d : BitVec 5) (table : BitVec 4) (index : BitVec 9)
  | qpop (d : BitVec 5) (q : Bool) (word : BitVec 4)
  | xget (s : BitVec 5) (bay : BitVec 6) (lane : BitVec 5) (size : BitVec 2)
  | xput (s : BitVec 5) (bay : BitVec 6) (lane : BitVec 5) (size : BitVec 2)
  -- vector slots (R216, R219)
  | vectorCascade (u : VSlot) (f : VFields)
  | vmov (u : VSlot) (dst x : BitVec 6) (xm : BitVec 2) (guard : BitVec 5) (cx : Bool)
  | anc (u : VSlot) (dst : BitVec 4) (x : BitVec 6) (xm : BitVec 2)
  | vzero (u : VSlot) (dst : BitVec 6) (guard : BitVec 5)
  | vtclr (u : VSlot) (dst : BitVec 6)
  -- matrix slot (R222)
  | mnop
  | mmul (f : MmulFields)
  | mwld (bb : Bool) (sa : BitVec 5) (k n : BitVec 7) (fmt : BitVec 4)
  | mgath (lt : Bool) (ix : BitVec 6) (base : BitVec 5) (m : BitVec 7) (fmt : BitVec 4)
  | mdrain (row : BitVec 9) (m : BitVec 7) (sa : BitVec 5) (ofmt : BitVec 4) (clr : Bool)
  | mdrainb (row : BitVec 9) (dst : BitVec 6) (ofmt : BitVec 4)
  | mzero (row : BitVec 9) (m : BitVec 7) (opx : BitVec 4)
  | mrel
  | mwait
  -- copy slots (R223)
  | ldb (c : CSlot) (w : BitVec 2) (imm : BitVec 8) (base : BitVec 5) (v : BitVec 6)
  | stb (c : CSlot) (w : BitVec 2) (imm : BitVec 8) (base : BitVec 5) (v : BitVec 6)
  | lds (c : CSlot) (imm : BitVec 8) (base v : BitVec 5)
  | sts (c : CSlot) (imm : BitVec 8) (base v : BitVec 5)
  | ldx (c : CSlot) (w es : BitVec 2) (base : BitVec 5) (ix v : BitVec 6)
  | stx (c : CSlot) (w es : BitVec 2) (base : BitVec 5) (ix v : BitVec 6)
  | ldcw (c : CSlot) (imm : BitVec 8) (base v : BitVec 5)
  | sclq (c : CSlot) (w : BitVec 2) (imm : BitVec 8) (base : BitVec 5)
  | bankacq (c : CSlot) (v : BitVec 5)
  | bankrel (c : CSlot) (v : BitVec 5)
  | spzero (c : CSlot) (w : BitVec 2) (imm : BitVec 8) (base : BitVec 5)
  | ldq (c : CSlot) (cls tk : BitVec 4) (imm : BitVec 8) (base v : BitVec 5)
  | ldqv (c : CSlot) (cls tk : BitVec 4) (w : BitVec 2) (imm : BitVec 8) (base : BitVec 5)
  | stq (c : CSlot) (cls tk : BitVec 4) (imm : BitVec 8) (base v : BitVec 5)
  | stqv (c : CSlot) (cls tk : BitVec 4) (w : BitVec 2) (imm : BitVec 8) (base : BitVec 5) (v : BitVec 6)
  | pref (c : CSlot) (imm : BitVec 8) (base : BitVec 5)
  | atom (c : CSlot) (cls tk : BitVec 4) (scope : BitVec 3) (rel acq : Bool) (size : BitVec 2) (aop : BitVec 4) (base v : BitVec 5)
  | atomr (c : CSlot) (cls tk : BitVec 4) (scope : BitVec 3) (rel acq : Bool) (size : BitVec 2) (aop : BitVec 4) (base v : BitVec 5)
  | cas (c : CSlot) (cls tk : BitVec 4) (scope : BitVec 3) (rel acq : Bool) (size : BitVec 2) (base v : BitVec 5)
  | atomv (c : CSlot) (cls tk : BitVec 4) (et : BitVec 2) (aop : BitVec 4) (base : BitVec 5) (v : BitVec 6)
  | fenceC (c : CSlot) (mask : BitVec 16)
  | fenceS (c : CSlot) (scope : BitVec 3)
  | acq (c : CSlot) (scope : BitVec 3)
  | rel (c : CSlot) (scope : BitVec 3)
  | xcp (c : CSlot) (tk : BitVec 3) (scope : BitVec 3) (rel acq : Bool) (base : BitVec 5)
  | xcp2 (c : CSlot) (tk : BitVec 3) (scope : BitVec 3) (rel acq : Bool) (base : BitVec 5)
  | xcoll (c : CSlot) (tk : BitVec 3) (scope : BitVec 3) (rel acq : Bool) (base : BitVec 5)
  | xcan (c : CSlot) (tk : BitVec 3)
  | tkres (c : CSlot) (cls : BitVec 4) (base v : BitVec 5)
  | tkpost (c : CSlot) (cls : BitVec 4) (base v : BitVec 5)
  | tktake (c : CSlot) (cls : BitVec 4) (base v : BitVec 5)
  | tkfree (c : CSlot) (cls : BitVec 4) (base v : BitVec 5)
  -- events of a context (c: physical core × 4 + context)
  | bundleReoffer (c : Nat)
  | issueSelection (core : Nat)
  | forcedYield (c : Nat)
  | bayLanding (c bay : Nat)
  | scratchpadAccessActs (c : Nat)
  | ldsRegisterWrite (c d : Nat)
  | vectorPredicateWrite (c p : Nat)
  | controlWordWrite (c : Nat)
  | scaleQueuePush (c : Nat)
  | bankOwnershipChange (c : Nat)
  | fetchFill (c : Nat)
  | walkComplete (quarter tenant page : Nat)
  | globalLoadPerforms (c id : Nat) (near : Bool)
  | nearBufferExpiry (quarter line : Nat)
  | globalStorePerforms (c id : Nat)
  | atomicPerforms (c id : Nat)
  | ticketOpPerforms (c id : Nat)
  | ticketResultReturn (c : Nat)
  | manifestHeadWrite (c : Nat)
  | replayTimeout (c : Nat)
  | intervalClose (launch : Nat)
  | barrierArrival (c id : Nat)
  -- engines
  | drayCommandStart (core d : Nat)
  | drayLineTransfer (core d : Nat)
  | drayCommandComplete (core d : Nat)
  | collectiveComplete (quarter : Nat)
  | collectiveAbort (group : Nat)
  | engineThaw (target : ThawTarget)
  | leaseGrant (core : Nat)
  | leaseScrubDone (core : Nat)
  | matrixCommandStart (core : Nat)
  | slewStep (core : Nat)
  | mmulRowWrite (core id : Nat)
  | mzeroRowWrite (core id : Nat)
  | mdrainRow (core id : Nat)
  | mdrainbRead (core id : Nat)
  | porterGatherFill (core : Nat) (lt : Bool)
  | weightLoadFill (core : Nat) (bb : Bool)
  | matrixCommandComplete (core id : Nat)
  | bankZeroingDone (core : Nat)
  -- dispatcher and context life
  | teamInstall (quarter : Nat)
  | teamRelease (launch quarter : Nat)
  | preemption (quarter : Nat)
  | checkpoint (c : Nat)
  | kill (launch : Nat)
  | teamRestore (quarter : Nat)
  | firmwareResume (c : Nat) (mask : BitVec 6)
  | firmwareEndTeam (c : Nat)
  | teamFinish (c : Nat)
  | scrubComplete (c : Nat)
  | launchEnd (launch : Nat)
  | coreFreeze (core : Nat) (damage : Damage)
  | migrationComplete (core : Nat)
  -- memory, links and the environment
  | memoryUncorrectableError (line : Nat)
  | onchipSoftError (site : SoftSite)
  | cxlDeviceFailure (port : Nat)
  | peerLinkDown (peer : Nat)
  | peerRequest (pa : Nat) (op : BusOp)
  | lineEviction (level : FetchLevel) (line : Nat)
  | granuleReassign (target : GranuleTarget) (owner : BitVec 5)
  | stagingGrant (slice block : Nat) (owner : BitVec 5)
  -- launch queues
  | reservationRegisterRead (fn queue : Nat)
  | commitRegisterWrite (fn queue slot : Nat)
  | queueMapping (queue : Nat)
  | earlyLaunchRead (queue slot : Nat)
  | launchTake (queue : Nat)
  -- host functions
  | windowAccess (fn off : Nat) (op : BusOp)
  | mailboxRegisterWrite (fn off : Nat) (value : Word)
  | mailboxCommandDone (fn : Nat)
  | features (fn : Nat)
  | accept (fn : Nat)
  | load (fn : Nat)
  | unload (fn : Nat)
  | inval (fn : Nat)
  | depotlat (fn : Nat)
  | ovlchk (fn : Nat)
  | qreset (fn : Nat)
  | collgrp (fn : Nat)
  | peerset (fn : Nat)
  | bindq (fn : Nat)
  | keyimport (fn : Nat)
  | tenantend (fn : Nat)
  | measure (fn : Nat)
  | attest (fn : Nat)
  | auditread (fn : Nat)
  | update (fn : Nat)
  | updateTakeover
  | imgadopt (fn : Nat)
  | winmap (fn : Nat)
  | functionLevelReset (fn : Nat)
  | deviceReset (firmware kernel firmwareSig kernelSig : List Byte)
  | keyStoreChange (index : Nat) (key signature : List Byte)
  | watchpointImpreciseStop (c : Nat)
  | islandClockChange (island mhz : Nat)
  | islandPowerGate (island : Nat) (clockOnly : Bool)
  | peerLinkUp (peer : Nat)
  | islandPowerRestore (island : Nat)
  | hostCxlMemAccess (pa : Nat) (op : BusOp)
  | managementPortRequest (ask : ManagementAsk)
  | watchpointProgram (quarter n : Nat) (control : Word) (unit : Nat) (value mask : BitVec 128)
  | traceSinkEnable (quarter : Nat) (lossless : Bool) (base size : Nat)
  | tenantSpaceCreate (tenant root fn : Nat)
  deriving DecidableEq, Repr

end Sys2Proof
end

