-- ==== Sys2Proof/WellFormed.lean ====
section
/-!
DEFINITION. Which values of the fields are instructions: the static decode rules of R213–R224,
R226 and R302, as one Boolean check for each constructor. An event row has no encoding and no field
to check.
-/

namespace Sys2Proof.WellFormed

/-- A field that names a predicate accepts 0–23 (R214). -/
def predOk (p : BitVec 5) : Bool := p.ult 24#5

/-- Scopes 0–5 are defined, 6 and 7 reserved (R73, R223). -/
def scopeOk (sc : BitVec 3) : Bool := sc.ult 6#3

/-- Token 0–7, or 8 for none (R223). -/
def tokenOk (tk : BitVec 4) : Bool := tk.ule 8#4

/-- Rows or cell rows 1–96 (R222). -/
def rowsOk (m : BitVec 7) : Bool := m != 0#7 && m.ule 96#7

/-- The nine output formats of a drain (R288). -/
def outFormatOk (o : BitVec 4) : Bool :=
  o == 0#4 || o == 1#4 || o == 2#4 || o == 6#4 || o == 7#4 || o == 8#4 || o == 9#4 || o == 10#4 || o == 11#4

/-- `tclr` names a register, a predicate below 24, or the control taint with a = 0 (R99). -/
def tclrOk (a : BitVec 5) (kind : BitVec 3) : Bool :=
  kind == 0#3 || (kind == 1#3 && predOk a) || (kind == 2#3 && a == 0#5)

/-- `tmask` kinds and the fields each uses (R100). -/
def tmaskOk (a : BitVec 5) (kind : BitVec 3) (rot : Bool) : Bool :=
  (kind == 0#3 && !rot) || (kind == 1#3 && predOk a && !rot) || (kind == 2#3 && a == 0#5 && !rot) ||
  kind == 3#3 || (kind == 4#3 && a == 0#5 && !rot)

/-- The registers a `setsr` may name: the writable ones of R225, and register 2, whose write is a
permission violation and no decode fault (R8, R225). -/
def srWritable (n : BitVec 5) : Bool :=
  n == 2#5 || n == 3#5 || (n.ule 10#5 && (5#5).ule n) || n == 12#5 || n == 18#5

/-- `tblw` writes format entries 0–15 and operator entries 8–15 (R247). -/
def tblwOk (table : BitVec 4) (index : BitVec 9) : Bool :=
  (table == 0#4 && index.ule 15#9) || (table == 1#4 && index.ule 15#9 && (8#9).ule index)

/-- `tblr` reads format and operator entries 0–15 (R247). -/
def tblrOk (table : BitVec 4) (index : BitVec 9) : Bool := table.ule 1#4 && index.ule 15#9

/-- A 64-bit lane pair starts at an even lane (R213, R249). -/
def laneOk (lane : BitVec 5) (size : BitVec 2) : Bool := !(size == 1#2 && lane.getLsbD 0)

/-- The unused bits of an operand field in its mode are zero (R217). -/
def operandOk (x : BitVec 6) (xm : BitVec 2) : Bool :=
  xm == 0#2 || (xm == 1#2 && x.ult 4#6) || (xm == 2#2 && x.ult 2#6) || (xm == 3#2 && x.ult 32#6)

/-- Capture is legal with every mode but anchor (R217). -/
def captureOk (c : Bool) (xm : BitVec 2) : Bool := !(c && xm == 1#2)

/-- The fields of a vector slot that names a control word (R216, R217). -/
def vfieldsOk (f : VFields) : Bool :=
  f.cwi.ult 504#9 && operandOk f.x f.xm && operandOk f.y f.ym && operandOk f.z f.zm && predOk f.guard &&
  captureOk f.cx f.xm && captureOk f.cy f.ym && captureOk f.cz f.zm

/-- Elements of 4, 8, 16 or 128 bytes must fit the width (R306). -/
def indexedOk (w es : BitVec 2) : Bool := w != 0#2 && (es != 3#2 || w == 3#2)

/-- The scope is defined, and zero unless acq or rel is set (R314, R316). -/
def flagScopeOk (sc : BitVec 3) (rel acq : Bool) : Bool := scopeOk sc && (rel || acq || sc == 0#3)

/-- The floating operations of R104. -/
def aopFloat (aop : BitVec 4) : Bool := aop == 1#4 || aop == 6#4 || aop == 7#4

/-- Sizes an operation takes: 4 bytes, or 8 for the integer operations (R104). -/
def aopSizeOk (aop : BitVec 4) (size : BitVec 2) : Bool := size == 0#2 || (size == 1#2 && !aopFloat aop)

/-- `atom`: operations 0–10 (R105). -/
def atomOk (aop : BitVec 4) (size : BitVec 2) : Bool := aop.ule 10#4 && aopSizeOk aop size

/-- `atomr`: operations 0–11 (R105). -/
def atomrOk (aop : BitVec 4) (size : BitVec 2) : Bool := aop.ule 11#4 && aopSizeOk aop size

/-- `cas`: 4, 8 or 16 bytes, its register pair or quad within s31 (R105, R314). -/
def casOk (size : BitVec 2) (v : BitVec 5) : Bool :=
  (size.ule 1#2 && v.ule 30#5) || (size == 2#2 && v.ule 28#5)

/-- `atomv`: integer operations on i32 or i64, floating ones on f32 (R105). -/
def atomvOk (et : BitVec 2) (aop : BitVec 4) : Bool :=
  aop.ule 10#4 && ((et.ule 1#2 && !aopFloat aop) || (et == 2#2 && aopFloat aop))

end Sys2Proof.WellFormed

namespace Sys2Proof

open WellFormed in
/-- The static checks of one instruction. -/
def Instr.wellFormed (i : Instr) : Bool :=
  match i with
  | .nop => true
  | .add _ _ _ g => predOk g
  | .sub _ _ _ g => predOk g
  | .mul _ _ _ g => predOk g
  | .mulh _ _ _ g => predOk g
  | .mulhu _ _ _ g => predOk g
  | .div _ _ _ g => predOk g
  | .divu _ _ _ g => predOk g
  | .rem _ _ _ g => predOk g
  | .remu _ _ _ g => predOk g
  | .and _ _ _ g => predOk g
  | .or _ _ _ g => predOk g
  | .xor _ _ _ g => predOk g
  | .shl _ _ _ g => predOk g
  | .shr _ _ _ g => predOk g
  | .sra _ _ _ g => predOk g
  | .min _ _ _ g => predOk g
  | .minu _ _ _ g => predOk g
  | .max _ _ _ g => predOk g
  | .maxu _ _ _ g => predOk g
  | .sel _ _ _ g f => predOk g && predOk f
  | .clz _ _ g => predOk g
  | .ctz _ _ g => predOk g
  | .popc _ _ g => predOk g
  | .addi _ _ _ => true
  | .andi _ _ _ => true
  | .ori _ _ _ => true
  | .xori _ _ _ => true
  | .shli _ _ _ => true
  | .shri _ _ _ => true
  | .srai _ _ _ => true
  | .lim _ _ => true
  | .lims _ _ _ => true
  | .cmpEq d _ _ g => predOk d && predOk g
  | .cmpNe d _ _ g => predOk d && predOk g
  | .cmpLt d _ _ g => predOk d && predOk g
  | .cmpLtu d _ _ g => predOk d && predOk g
  | .cmpLe d _ _ g => predOk d && predOk g
  | .cmpLeu d _ _ g => predOk d && predOk g
  | .cmpiEq d _ _ => predOk d
  | .cmpiLt d _ _ => predOk d
  | .cmpiLtu d _ _ => predOk d
  | .pand d a b g => predOk d && predOk a && predOk b && predOk g
  | .por d a b g => predOk d && predOk a && predOk b && predOk g
  | .pxor d a b g => predOk d && predOk a && predOk b && predOk g
  | .pandn d a b g => predOk d && predOk a && predOk b && predOk g
  | .pnot d a g => predOk d && predOk a && predOk g
  | .pget _ a g => predOk a && predOk g
  | .pset d _ g => predOk d && predOk g
  | .br g _ _ => predOk g
  | .brn g _ _ => predOk g
  | .call _ _ => true
  | .jmp _ _ => true
  | .ret _ => true
  | .loop _ len _ _ _ => len != 0#8
  | .lbrk a _ => predOk a
  | .lidx _ _ => true
  | .wait _ _ _ => true
  | .bara _ _ scope => scopeOk scope
  | .barw _ => true
  | .span _ _ eng _ => eng.ult 4#3
  | .tclr a kind _ => tclrOk a kind
  | .tmask _ a kind rot => tmaskOk a kind rot
  | .slack _ => true
  | .yield => true
  | .getsr _ n => n.ult 26#5
  | .setsr _ n => srWritable n
  | .trap _ => true
  | .brkpt _ => true
  | .done => true
  | .mark _ => true
  | .rdtime _ => true
  | .tblw _ table index => tblwOk table index
  | .tblr _ table index => tblrOk table index
  | .qpop _ _ _ => true
  | .xget _ _ lane size => laneOk lane size
  | .xput _ _ lane size => laneOk lane size
  | .vectorCascade _ f => vfieldsOk f
  | .vmov _ _ x xm guard cx => predOk guard && operandOk x xm && captureOk cx xm
  | .anc _ dst x xm => dst.extractLsb' 2 2 != 3#2 && operandOk x xm
  | .vzero _ _ guard => predOk guard
  | .vtclr _ _ => true
  | .mnop => true
  | .mmul f => rowsOk f.m && f.mode.ult 2#2
  | .mwld _ _ k _ _ => rowsOk k
  | .mgath _ _ _ m _ => rowsOk m
  | .mdrain _ m _ ofmt _ => rowsOk m && outFormatOk ofmt
  | .mdrainb _ _ ofmt => outFormatOk ofmt
  | .mzero _ m _ => rowsOk m
  | .mrel => true
  | .mwait => true
  | .ldb _ w _ _ _ => w != 0#2
  | .stb _ w _ _ _ => w != 0#2
  | .lds _ _ _ _ => true
  | .sts _ _ _ _ => true
  | .ldx _ w es _ _ _ => indexedOk w es
  | .stx _ w es _ _ _ => indexedOk w es
  | .ldcw _ _ _ _ => true
  | .sclq _ w _ _ => w != 0#2
  | .bankacq _ _ => true
  | .bankrel _ _ => true
  | .spzero _ w _ _ => w != 0#2
  | .ldq _ _ tk _ _ _ => tokenOk tk
  | .ldqv _ _ tk w _ _ => tokenOk tk && w != 0#2
  | .stq _ _ tk _ _ _ => tokenOk tk
  | .stqv _ _ tk w _ _ _ => tokenOk tk && w != 0#2
  | .pref _ _ _ => true
  | .atom _ _ tk scope r q size aop _ _ => tokenOk tk && flagScopeOk scope r q && atomOk aop size
  | .atomr _ _ tk scope r q size aop _ _ => tokenOk tk && flagScopeOk scope r q && atomrOk aop size
  | .cas _ _ tk scope r q size _ v => tokenOk tk && flagScopeOk scope r q && casOk size v
  | .atomv _ _ tk et aop _ _ => tokenOk tk && atomvOk et aop
  | .fenceC _ _ => true
  | .fenceS _ scope => scopeOk scope
  | .acq _ scope => scopeOk scope
  | .rel _ scope => scopeOk scope
  | .xcp _ _ scope r q base => flagScopeOk scope r q && base.ule 28#5
  | .xcp2 _ _ scope r q _ => flagScopeOk scope r q
  | .xcoll _ _ scope r q _ => flagScopeOk scope r q
  | .xcan _ _ => true
  | .tkres _ _ _ _ => true
  | .tkpost _ _ _ _ => true
  | .tktake _ _ _ _ => true
  | .tkfree _ _ _ _ => true
  | .bundleReoffer _ => true
  | .issueSelection _ => true
  | .forcedYield _ => true
  | .bayLanding _ _ => true
  | .scratchpadAccessActs _ => true
  | .ldsRegisterWrite _ _ => true
  | .vectorPredicateWrite _ _ => true
  | .controlWordWrite _ => true
  | .scaleQueuePush _ => true
  | .bankOwnershipChange _ => true
  | .fetchFill _ => true
  | .walkComplete _ _ _ => true
  | .globalLoadPerforms _ _ _ => true
  | .nearBufferExpiry _ _ => true
  | .globalStorePerforms _ _ => true
  | .atomicPerforms _ _ => true
  | .ticketOpPerforms _ _ => true
  | .ticketResultReturn _ => true
  | .manifestHeadWrite _ => true
  | .replayTimeout _ => true
  | .intervalClose _ => true
  | .barrierArrival _ _ => true
  | .drayCommandStart _ _ => true
  | .drayLineTransfer _ _ => true
  | .drayCommandComplete _ _ => true
  | .collectiveComplete _ => true
  | .collectiveAbort _ => true
  | .engineThaw _ => true
  | .leaseGrant _ => true
  | .leaseScrubDone _ => true
  | .matrixCommandStart _ => true
  | .slewStep _ => true
  | .mmulRowWrite _ _ => true
  | .mzeroRowWrite _ _ => true
  | .mdrainRow _ _ => true
  | .mdrainbRead _ _ => true
  | .porterGatherFill _ _ => true
  | .weightLoadFill _ _ => true
  | .matrixCommandComplete _ _ => true
  | .bankZeroingDone _ => true
  | .teamInstall _ => true
  | .teamRelease _ _ => true
  | .preemption _ => true
  | .checkpoint _ => true
  | .kill _ => true
  | .teamRestore _ => true
  | .firmwareResume _ _ => true
  | .firmwareEndTeam _ => true
  | .teamFinish _ => true
  | .scrubComplete _ => true
  | .launchEnd _ => true
  | .coreFreeze _ _ => true
  | .migrationComplete _ => true
  | .memoryUncorrectableError _ => true
  | .onchipSoftError _ => true
  | .cxlDeviceFailure _ => true
  | .peerLinkDown _ => true
  | .peerRequest _ _ => true
  | .lineEviction _ _ => true
  | .granuleReassign _ _ => true
  | .stagingGrant _ _ _ => true
  | .reservationRegisterRead _ _ => true
  | .commitRegisterWrite _ _ _ => true
  | .queueMapping _ => true
  | .earlyLaunchRead _ _ => true
  | .launchTake _ => true
  | .windowAccess _ _ _ => true
  | .mailboxRegisterWrite _ _ _ => true
  | .mailboxCommandDone _ => true
  | .features _ => true
  | .accept _ => true
  | .load _ => true
  | .unload _ => true
  | .inval _ => true
  | .depotlat _ => true
  | .ovlchk _ => true
  | .qreset _ => true
  | .collgrp _ => true
  | .peerset _ => true
  | .bindq _ => true
  | .keyimport _ => true
  | .tenantend _ => true
  | .measure _ => true
  | .attest _ => true
  | .auditread _ => true
  | .update _ => true
  | .updateTakeover => true
  | .imgadopt _ => true
  | .winmap _ => true
  | .functionLevelReset _ => true
  | .deviceReset _ _ _ _ => true
  | .keyStoreChange _ _ _ => true
  | .watchpointImpreciseStop _ => true
  | .islandClockChange _ _ => true
  | .islandPowerGate _ _ => true
  | .peerLinkUp _ => true
  | .islandPowerRestore _ => true
  | .hostCxlMemAccess _ _ => true
  | .managementPortRequest _ => true
  | .watchpointProgram _ _ _ _ _ _ => true
  | .traceSinkEnable _ _ _ _ => true
  | .tenantSpaceCreate _ _ _ => true

end Sys2Proof
end

