-- ==== Sys2Proof/Decode.lean ====
section
/-!
DEFINITION. Decoding and encoding (R208–R227). A slot's bits give a refusal reason of R226 or an
instruction; a refusal is the first offence from the least significant bit (R227). The encoder lays
the same fields out again.
-/

namespace Sys2Proof

/-- Sign extension to 64 bits. -/
def sext64 {n : Nat} (x : BitVec n) : Word := x.signExtend 64

/-- Zero extension to 64 bits. -/
def zext64 {n : Nat} (x : BitVec n) : Word := x.zeroExtend 64

/-- n bytes of a number, the least significant first (R1). -/
def toBytes : (n : Nat) → (v : Nat) → List Byte
  | 0, _ => []
  | n + 1, v => BitVec.ofNat 8 v :: toBytes n (v / 256)

/-- The number that a list of bytes spells, the first least significant (R1). -/
def ofBytes : List Byte → Nat
  | [] => 0
  | b :: bs => b.toNat + 256 * ofBytes bs

namespace Decode

/-- An offence: the bit at which it is found, and the reason R226 gives. -/
abbrev Offence := Nat × Nat

/-- An offence at a bit, when the condition holds. -/
def off (bad : Bool) (bit reason : Nat) : List Offence := if bad then [(bit, reason)] else []

/-- The first offence of a list, by bit position (R227). -/
def firstOffence : List Offence → Option Offence
  | [] => none
  | o :: os =>
    match firstOffence os with
    | none => some o
    | some p => if p.1 < o.1 then some p else some o

/-- An offence of a predicate field (R214, R226). -/
def predOff (p : BitVec 5) (bit : Nat) : List Offence := off (!WellFormed.predOk p) bit 2

/-- A field the opcode does not use must be zero (R214, R226). -/
def zeroOff {n : Nat} (x : BitVec n) (bit : Nat) : List Offence := off (x != 0#n) bit 3

/-- The instruction a scalar slot's word names, or none for a reserved opcode (R213, R215). -/
def readScalar (w : BitVec 32) : Option Instr :=
  let d := w.extractLsb' 7 5
  let a := w.extractLsb' 12 5
  let b := w.extractLsb' 17 5
  let g := w.extractLsb' 22 5
  let f := w.extractLsb' 27 5
  let imm := w.extractLsb' 17 15
  match (w.extractLsb' 0 7).toNat with
  | 0x00 => some .nop
  | 0x01 => some (.add d a b g)
  | 0x02 => some (.sub d a b g)
  | 0x03 => some (.mul d a b g)
  | 0x04 => some (.mulh d a b g)
  | 0x05 => some (.mulhu d a b g)
  | 0x06 => some (.div d a b g)
  | 0x07 => some (.divu d a b g)
  | 0x08 => some (.rem d a b g)
  | 0x09 => some (.remu d a b g)
  | 0x0A => some (.and d a b g)
  | 0x0B => some (.or d a b g)
  | 0x0C => some (.xor d a b g)
  | 0x0D => some (.shl d a b g)
  | 0x0E => some (.shr d a b g)
  | 0x0F => some (.sra d a b g)
  | 0x10 => some (.min d a b g)
  | 0x11 => some (.minu d a b g)
  | 0x12 => some (.max d a b g)
  | 0x13 => some (.maxu d a b g)
  | 0x14 => some (.sel d a b g f)
  | 0x15 => some (.clz d a g)
  | 0x16 => some (.ctz d a g)
  | 0x17 => some (.popc d a g)
  | 0x20 => some (.addi d a imm)
  | 0x21 => some (.andi d a imm)
  | 0x22 => some (.ori d a imm)
  | 0x23 => some (.xori d a imm)
  | 0x24 => some (.shli d a (w.extractLsb' 17 6))
  | 0x25 => some (.shri d a (w.extractLsb' 17 6))
  | 0x26 => some (.srai d a (w.extractLsb' 17 6))
  | 0x27 => some (.lim d imm)
  | 0x28 => some (.lims d a imm)
  | 0x30 => some (.cmpEq d a b g)
  | 0x31 => some (.cmpNe d a b g)
  | 0x32 => some (.cmpLt d a b g)
  | 0x33 => some (.cmpLtu d a b g)
  | 0x34 => some (.cmpLe d a b g)
  | 0x35 => some (.cmpLeu d a b g)
  | 0x36 => some (.cmpiEq d a imm)
  | 0x37 => some (.cmpiLt d a imm)
  | 0x38 => some (.cmpiLtu d a imm)
  | 0x39 => some (.pand d a b g)
  | 0x3A => some (.por d a b g)
  | 0x3B => some (.pxor d a b g)
  | 0x3C => some (.pandn d a b g)
  | 0x3D => some (.pnot d a g)
  | 0x3E => some (.pget d a g)
  | 0x3F => some (.pset d a g)
  | 0x40 => some (.br d a imm)
  | 0x41 => some (.brn d a imm)
  | 0x42 => some (.call a imm)
  | 0x43 => some (.jmp a b)
  | 0x44 => some (.ret b)
  | 0x45 => some (.loop (w.extractLsb' 7 2) (w.extractLsb' 9 8) b g (w.getLsbD 27))
  | 0x46 => some (.lbrk a b)
  | 0x47 => some (.lidx d (w.extractLsb' 12 2))
  | 0x48 => some (.wait d (w.extractLsb' 17 8) (w.getLsbD 25))
  | 0x49 => some (.bara a (w.extractLsb' 17 6) (w.extractLsb' 23 3))
  | 0x4A => some (.barw (w.extractLsb' 17 6))
  | 0x4B => some (.span d a (w.extractLsb' 17 3) (w.getLsbD 20))
  | 0x4C => some (.tclr a (w.extractLsb' 17 3) (w.extractLsb' 20 9))
  | 0x4D => some (.tmask d a (w.extractLsb' 17 3) (w.getLsbD 20))
  | 0x4E => some (.slack (w.extractLsb' 17 8))
  | 0x4F => some .yield
  | 0x50 => some (.getsr d b)
  | 0x51 => some (.setsr a b)
  | 0x52 => some (.trap (w.extractLsb' 17 8))
  | 0x53 => some (.brkpt (w.extractLsb' 17 8))
  | 0x54 => some .done
  | 0x55 => some (.mark a)
  | 0x56 => some (.rdtime d)
  | 0x57 => some (.tblw a (w.extractLsb' 17 4) (w.extractLsb' 21 9))
  | 0x58 => some (.tblr d (w.extractLsb' 17 4) (w.extractLsb' 21 9))
  | 0x59 => some (.qpop d (w.getLsbD 17) (w.extractLsb' 18 4))
  | 0x60 => some (.xget d (w.extractLsb' 12 6) (w.extractLsb' 18 5) (w.extractLsb' 23 2))
  | 0x61 => some (.xput d (w.extractLsb' 12 6) (w.extractLsb' 18 5) (w.extractLsb' 23 2))
  | _ => none

/-- The offences of a scalar slot's word whose opcode is defined (R213, R214, R229, R240). -/
def scanScalar (w : BitVec 32) : List Offence :=
  let d := w.extractLsb' 7 5
  let a := w.extractLsb' 12 5
  let b := w.extractLsb' 17 5
  let g := w.extractLsb' 22 5
  let f := w.extractLsb' 27 5
  let op := (w.extractLsb' 0 7).toNat
  let above (n : Nat) : List Offence := off (w.toNat / 2 ^ n != 0) n 3
  if op == 0x14 then predOff g 22 ++ predOff f 27
  else if 0x15 ≤ op && op ≤ 0x17 then zeroOff b 17 ++ predOff g 22 ++ zeroOff f 27
  else if 0x01 ≤ op && op ≤ 0x13 then predOff g 22 ++ zeroOff f 27
  else if 0x24 ≤ op && op ≤ 0x26 then above 23
  else if op == 0x27 then zeroOff a 12
  else if 0x30 ≤ op && op ≤ 0x35 then predOff d 7 ++ predOff g 22 ++ zeroOff f 27
  else if 0x36 ≤ op && op ≤ 0x38 then predOff d 7
  else if 0x39 ≤ op && op ≤ 0x3C then predOff d 7 ++ predOff a 12 ++ predOff b 17 ++ predOff g 22 ++ zeroOff f 27
  else if op == 0x3D then predOff d 7 ++ predOff a 12 ++ zeroOff b 17 ++ predOff g 22 ++ zeroOff f 27
  else if op == 0x3E then predOff a 12 ++ zeroOff b 17 ++ predOff g 22 ++ zeroOff f 27
  else if op == 0x3F then predOff d 7 ++ zeroOff b 17 ++ predOff g 22 ++ zeroOff f 27
  else if op == 0x40 || op == 0x41 then predOff d 7
  else if op == 0x42 then off (d != 0#5) 7 2
  else if op == 0x43 then zeroOff d 7 ++ above 22
  else if op == 0x44 then zeroOff d 7 ++ zeroOff a 12 ++ above 22
  else if op == 0x45 then off (w.extractLsb' 9 8 == 0#8) 9 2 ++ above 28
  else if op == 0x46 then zeroOff d 7 ++ predOff a 12 ++ above 22
  else if op == 0x47 then zeroOff (w.extractLsb' 14 3) 14 ++ above 17
  else if op == 0x48 then zeroOff a 12 ++ above 26
  else if op == 0x49 then zeroOff d 7 ++ off (!WellFormed.scopeOk (w.extractLsb' 23 3)) 23 2 ++ above 26
  else if op == 0x4A then zeroOff d 7 ++ zeroOff a 12 ++ above 23
  else if op == 0x4B then off (w.getLsbD 19) 17 2 ++ above 21
  else if op == 0x4C then
    zeroOff d 7 ++
    off (w.extractLsb' 17 3 == 1#3 && !WellFormed.predOk a) 12 2 ++
    off (w.extractLsb' 17 3 == 2#3 && a != 0#5) 12 3 ++
    off ((2#3).ult (w.extractLsb' 17 3)) 17 2 ++ above 29
  else if op == 0x4D then
    off (w.extractLsb' 17 3 == 1#3 && !WellFormed.predOk a) 12 2 ++
    off ((w.extractLsb' 17 3 == 2#3 || w.extractLsb' 17 3 == 4#3) && a != 0#5) 12 3 ++
    off ((4#3).ult (w.extractLsb' 17 3)) 17 2 ++
    off (w.getLsbD 20 && w.extractLsb' 17 3 != 3#3) 20 3 ++ above 21
  else if op == 0x4E then zeroOff d 7 ++ zeroOff a 12 ++ above 25
  else if op == 0x50 then zeroOff a 12 ++ off ((25#5).ult b) 17 2 ++ above 22
  else if op == 0x51 then
    zeroOff d 7 ++ off ((25#5).ult b) 17 2 ++
    off (b.ule 25#5 && !WellFormed.srWritable b) 17 8 ++ above 22
  else if op == 0x52 || op == 0x53 then zeroOff d 7 ++ zeroOff a 12 ++ above 25
  else if op == 0x55 then zeroOff d 7 ++ above 17
  else if op == 0x56 then zeroOff a 12 ++ above 17
  else if op == 0x57 then
    zeroOff d 7 ++ off ((1#4).ult (w.extractLsb' 17 4)) 17 2 ++
    off (!((w.extractLsb' 21 9).ule 15#9) || (w.extractLsb' 17 4 == 1#4 && (w.extractLsb' 21 9).ult 8#9)) 21 2 ++
    above 30
  else if op == 0x58 then
    zeroOff a 12 ++ off ((1#4).ult (w.extractLsb' 17 4)) 17 2 ++
    off (!((w.extractLsb' 21 9).ule 15#9)) 21 2 ++ above 30
  else if op == 0x59 then zeroOff a 12 ++ above 22
  else if op == 0x60 || op == 0x61 then
    off (!WellFormed.laneOk (w.extractLsb' 18 5) (w.extractLsb' 23 2)) 18 2 ++ above 25
  else if op == 0x00 || op == 0x4F || op == 0x54 then above 7
  else []

/-- The fields of a vector slot that names a control word (R216). -/
def vfields (w : BitVec 48) : VFields where
  cwi := w.extractLsb' 0 9
  dst := w.extractLsb' 9 6
  x := w.extractLsb' 15 6
  y := w.extractLsb' 21 6
  z := w.extractLsb' 27 6
  xm := w.extractLsb' 33 2
  ym := w.extractLsb' 35 2
  zm := w.extractLsb' 37 2
  guard := w.extractLsb' 39 5
  nx := w.getLsbD 44
  cx := w.getLsbD 45
  cy := w.getLsbD 46
  cz := w.getLsbD 47

/-- The instruction a vector slot's bits name (R216, R219); cwi 508–511 is reserved. -/
def readVector (u : VSlot) (w : BitVec 48) : Option Instr :=
  let v := vfields w
  if v.cwi.ult 504#9 then some (.vectorCascade u v)
  else if v.cwi == 504#9 then some (.vmov u v.dst v.x v.xm v.guard v.cx)
  else if v.cwi == 505#9 then some (.anc u (w.extractLsb' 9 4) v.x v.xm)
  else if v.cwi == 506#9 then some (.vzero u v.dst v.guard)
  else if v.cwi == 507#9 then some (.vtclr u v.dst)
  else none

/-- Offences of an operand field in its mode (R217). -/
def operandOff (x : BitVec 6) (xm : BitVec 2) (bit : Nat) : List Offence :=
  off (!WellFormed.operandOk x xm) bit 3

/-- The static offences of a vector slot (R216, R217, R219, R101). -/
def scanVector (w : BitVec 48) : List Offence :=
  let v := vfields w
  if v.cwi.ult 504#9 then
    operandOff v.x v.xm 15 ++ operandOff v.y v.ym 21 ++ operandOff v.z v.zm 27 ++ predOff v.guard 39 ++
    off (!WellFormed.captureOk v.cx v.xm) 45 2 ++ off (!WellFormed.captureOk v.cy v.ym) 46 2 ++
    off (!WellFormed.captureOk v.cz v.zm) 47 2
  else if v.cwi == 504#9 then
    operandOff v.x v.xm 15 ++ zeroOff v.y 21 ++ zeroOff v.z 27 ++ zeroOff v.ym 35 ++ zeroOff v.zm 37 ++
    predOff v.guard 39 ++ off v.nx 44 3 ++ off (!WellFormed.captureOk v.cx v.xm) 45 2 ++ off v.cy 46 3 ++ off v.cz 47 3
  else if v.cwi == 505#9 then
    off (w.extractLsb' 11 2 == 3#2) 11 2 ++ zeroOff (w.extractLsb' 13 2) 13 ++ operandOff v.x v.xm 15 ++
    zeroOff (w.extractLsb' 21 12) 21 ++ zeroOff (w.extractLsb' 35 13) 35
  else if v.cwi == 506#9 then
    zeroOff (w.extractLsb' 15 24) 15 ++ predOff v.guard 39 ++ zeroOff (w.extractLsb' 44 4) 44
  else if v.cwi == 507#9 then zeroOff (w.extractLsb' 15 33) 15
  else []

/-- The instruction a matrix slot's bits name (R222). -/
def readMatrix (w : BitVec 48) : Option Instr :=
  match (w.extractLsb' 0 5).toNat with
  | 0 => some .mnop
  | 1 => some (.mmul
      (MmulFields.mk (w.extractLsb' 5 4) (w.extractLsb' 9 5) (w.getLsbD 14) (w.getLsbD 15) (w.extractLsb' 16 9)
        (w.extractLsb' 25 7) (w.getLsbD 32) (w.extractLsb' 33 2) (w.extractLsb' 35 3) (w.extractLsb' 38 6)))
  | 2 => some (.mwld (w.getLsbD 5) (w.extractLsb' 6 5) (w.extractLsb' 11 7) (w.extractLsb' 18 7) (w.extractLsb' 25 4))
  | 3 => some (.mgath (w.getLsbD 5) (w.extractLsb' 6 6) (w.extractLsb' 12 5) (w.extractLsb' 17 7) (w.extractLsb' 24 4))
  | 4 => some (.mdrain (w.extractLsb' 5 9) (w.extractLsb' 14 7) (w.extractLsb' 21 5) (w.extractLsb' 26 4) (w.getLsbD 30))
  | 5 => some (.mdrainb (w.extractLsb' 5 9) (w.extractLsb' 14 6) (w.extractLsb' 20 4))
  | 6 => some (.mzero (w.extractLsb' 5 9) (w.extractLsb' 14 7) (w.extractLsb' 21 4))
  | 7 => some .mrel
  | 8 => some .mwait
  | _ => none

/-- The static offences of a matrix slot (R222). -/
def scanMatrix (w : BitVec 48) : List Offence :=
  let above (n : Nat) : List Offence := off (w.toNat / 2 ^ n != 0) n 3
  let rows (bit : Nat) : List Offence := off (!WellFormed.rowsOk (w.extractLsb' bit 7)) bit 2
  match (w.extractLsb' 0 5).toNat with
  | 1 => rows 25 ++ off (w.getLsbD 34) 33 2 ++ above 44
  | 2 => rows 11 ++ above 29
  | 3 => rows 17 ++ above 28
  | 4 => rows 14 ++ off (!WellFormed.outFormatOk (w.extractLsb' 26 4)) 26 2 ++ above 31
  | 5 => off (!WellFormed.outFormatOk (w.extractLsb' 20 4)) 20 2 ++ above 24
  | 6 => rows 14 ++ above 25
  | 0 | 7 | 8 => above 5
  | _ => []

/-- The opcodes of the copy slot that are global accesses and carry a class (R66, R69). -/
def copyGlobal (op : Nat) : Bool :=
  (0x10 ≤ op && op ≤ 0x13) || (0x18 ≤ op && op ≤ 0x1B) || (0x30 ≤ op && op ≤ 0x33)

/-- The instruction a copy slot's word names, with the class of its header (R223, R224). -/
def readCopy (c : CSlot) (cls : BitVec 4) (w : BitVec 32) : Option Instr :=
  let r7 := w.extractLsb' 7 5
  let v6 := w.extractLsb' 7 6
  let base := w.extractLsb' 13 5
  let b12 := w.extractLsb' 12 5
  let imm := w.extractLsb' 18 8
  let sz := w.extractLsb' 26 2
  let tk := w.extractLsb' 28 4
  let scope := w.extractLsb' 25 3
  match (w.extractLsb' 0 7).toNat with
  | 0x01 => some (.ldb c sz imm base v6)
  | 0x02 => some (.stb c sz imm base v6)
  | 0x03 => some (.lds c imm base r7)
  | 0x04 => some (.sts c imm base r7)
  | 0x05 => some (.ldx c sz (w.extractLsb' 24 2) (w.extractLsb' 19 5) (w.extractLsb' 13 6) v6)
  | 0x06 => some (.stx c sz (w.extractLsb' 24 2) (w.extractLsb' 19 5) (w.extractLsb' 13 6) v6)
  | 0x07 => some (.ldcw c imm base r7)
  | 0x08 => some (.sclq c sz imm base)
  | 0x09 => some (.bankacq c r7)
  | 0x0A => some (.bankrel c r7)
  | 0x0B => some (.spzero c sz imm base)
  | 0x10 => some (.ldq c cls tk imm base r7)
  | 0x11 => some (.ldqv c cls tk sz imm base)
  | 0x12 => some (.stq c cls tk imm base r7)
  | 0x13 => some (.stqv c cls tk sz imm base v6)
  | 0x14 => some (.pref c imm base)
  | 0x18 => some (.atom c cls tk scope (w.getLsbD 24) (w.getLsbD 23) (w.extractLsb' 21 2) (w.extractLsb' 17 4) b12 r7)
  | 0x19 => some (.atomr c cls tk scope (w.getLsbD 24) (w.getLsbD 23) (w.extractLsb' 21 2) (w.extractLsb' 17 4) b12 r7)
  | 0x1A => some (.cas c cls tk scope (w.getLsbD 24) (w.getLsbD 23) (w.extractLsb' 21 2) b12 r7)
  | 0x1B => some (.atomv c cls tk (w.extractLsb' 22 2) (w.extractLsb' 18 4) base v6)
  | 0x20 => some (.fenceC c (w.extractLsb' 7 16))
  | 0x21 => some (.fenceS c (w.extractLsb' 7 3))
  | 0x22 => some (.acq c (w.extractLsb' 7 3))
  | 0x23 => some (.rel c (w.extractLsb' 7 3))
  | 0x28 => some (.xcp c (w.extractLsb' 28 3) (w.extractLsb' 14 3) (w.getLsbD 13) (w.getLsbD 12) r7)
  | 0x29 => some (.xcp2 c (w.extractLsb' 28 3) (w.extractLsb' 14 3) (w.getLsbD 13) (w.getLsbD 12) r7)
  | 0x2A => some (.xcoll c (w.extractLsb' 28 3) (w.extractLsb' 14 3) (w.getLsbD 13) (w.getLsbD 12) r7)
  | 0x2B => some (.xcan c (w.extractLsb' 28 3))
  | 0x30 => some (.tkres c cls b12 r7)
  | 0x31 => some (.tkpost c cls b12 r7)
  | 0x32 => some (.tktake c cls b12 r7)
  | 0x33 => some (.tkfree c cls b12 r7)
  | _ => none

/-- The offences of a copy slot's word and class field (R69, R73, R223, R302, R314–R321). The class
field is examined just after the opcode (R227). -/
def scanCopy (cls : BitVec 4) (w : BitVec 32) : List Offence :=
  let op := (w.extractLsb' 0 7).toNat
  let v12 := off (w.getLsbD 12) 12 3
  let base := w.extractLsb' 13 5
  let imm := w.extractLsb' 18 8
  let sz := w.extractLsb' 26 2
  let tk := w.extractLsb' 28 4
  let width0 := off (sz != 0#2) 26 2
  let width := off (sz == 0#2) 26 2
  let noToken := off (tk != 8#4) 28 2
  let token := off (!WellFormed.tokenOk tk) 28 2
  let above (n : Nat) : List Offence := off (w.toNat / 2 ^ n != 0) n 3
  let scope (bit : Nat) (sc : BitVec 3) (flags : Bool) : List Offence :=
    off (!WellFormed.scopeOk sc) bit 2 ++ off (WellFormed.scopeOk sc && !flags && sc != 0#3) bit 3
  let aop := w.extractLsb' 17 4
  let size := w.extractLsb' 21 2
  let ca := scope 25 (w.extractLsb' 25 3) (w.getLsbD 23 || w.getLsbD 24) ++ token
  let ce := zeroOff (w.extractLsb' 17 11) 17 ++ scope 14 (w.extractLsb' 14 3) (w.getLsbD 12 || w.getLsbD 13) ++
    off (tk.getLsbD 3) 28 2
  off (cls != 0#4 && !copyGlobal op) 6 6 ++
  match op with
  | 0x01 | 0x02 => width ++ noToken
  | 0x03 | 0x04 => v12 ++ width0 ++ noToken
  | 0x05 | 0x06 =>
      off (sz != 0#2 && !WellFormed.indexedOk sz (w.extractLsb' 24 2)) 24 2 ++ width ++ above 28
  | 0x07 => v12 ++ width0 ++ noToken
  | 0x08 | 0x0B => zeroOff (w.extractLsb' 7 6) 7 ++ width ++ noToken
  | 0x09 | 0x0A => v12 ++ zeroOff base 13 ++ zeroOff imm 18 ++ width0 ++ noToken
  | 0x10 | 0x12 => v12 ++ width0 ++ token
  | 0x11 => zeroOff (w.extractLsb' 7 6) 7 ++ width ++ token
  | 0x13 => width ++ token
  | 0x14 => zeroOff (w.extractLsb' 7 6) 7 ++ width0 ++ noToken
  | 0x18 => off (!WellFormed.atomOk aop size) 17 2 ++ ca
  | 0x19 => off (!WellFormed.atomrOk aop size) 17 2 ++ ca
  | 0x1A => off (!WellFormed.casOk size (w.extractLsb' 7 5)) 7 2 ++ off (aop != 0#4) 17 2 ++ ca
  | 0x1B => off (!WellFormed.atomvOk (w.extractLsb' 22 2) (w.extractLsb' 18 4)) 18 2 ++
      zeroOff (w.extractLsb' 24 4) 24 ++ token
  | 0x20 => above 23
  | 0x21 | 0x22 | 0x23 => scope 7 (w.extractLsb' 7 3) true ++ above 10
  | 0x28 => off (!((w.extractLsb' 7 5).ule 28#5)) 7 2 ++ ce
  | 0x29 | 0x2A => ce
  | 0x2B => zeroOff (w.extractLsb' 7 21) 7 ++ off (tk.getLsbD 3) 28 2
  | 0x30 | 0x31 | 0x32 | 0x33 => above 17
  | _ => []

/-- What one slot's bits hold: an instruction with its static offences, or a reserved opcode. -/
def readSlot (slot : Nat) (cls : BitVec 4) (w : Nat) : Option Instr × List Offence :=
  match slot with
  | 0 => (readScalar (BitVec.ofNat 32 w), scanScalar (BitVec.ofNat 32 w))
  | 1 => (readVector .v0 (BitVec.ofNat 48 w), scanVector (BitVec.ofNat 48 w))
  | 2 => (readVector .v1 (BitVec.ofNat 48 w), scanVector (BitVec.ofNat 48 w))
  | 3 => (readMatrix (BitVec.ofNat 48 w), scanMatrix (BitVec.ofNat 48 w))
  | 4 => (readCopy .c0 cls (BitVec.ofNat 32 w), scanCopy cls (BitVec.ofNat 32 w))
  | 5 => (readCopy .c1 cls (BitVec.ofNat 32 w), scanCopy cls (BitVec.ofNat 32 w))
  | _ => (none, [])

/-- Decode one slot without context: a reason of R226, or the instruction. -/
def decodeSlot (slot : Nat) (cls : BitVec 4) (w : Nat) : Except Nat Instr :=
  match readSlot slot cls w with
  | (none, _) => .error 1
  | (some i, os) =>
    match firstOffence os with
    | some (_, r) => .error r
    | none => .ok i

/-- The 256 bits of a bundle (R208, R209). -/
structure Bundle where
  valid : BitVec 6
  cls0 : BitVec 4
  cls1 : BitVec 4
  tp : Bool
  top : Bool
  s : BitVec 32
  v0 : BitVec 48
  v1 : BitVec 48
  m : BitVec 48
  c0 : BitVec 32
  c1 : BitVec 32
  deriving DecidableEq, Repr

/-- The fields of a bundle's pattern (R208, R209). -/
def splitBundle (w : BitVec 256) : Bundle where
  valid := w.extractLsb' 0 6
  cls0 := w.extractLsb' 6 4
  cls1 := w.extractLsb' 10 4
  tp := w.getLsbD 14
  top := w.getLsbD 15
  s := w.extractLsb' 16 32
  v0 := w.extractLsb' 48 48
  v1 := w.extractLsb' 96 48
  m := w.extractLsb' 144 48
  c0 := w.extractLsb' 192 32
  c1 := w.extractLsb' 224 32

/-- The pattern of a bundle's fields (R208, R209). -/
def joinBundle (b : Bundle) : BitVec 256 :=
  b.c1 ++ b.c0 ++ b.m ++ b.v1 ++ b.v0 ++ b.s ++
    ((if b.top then 1#1 else 0#1) ++ (if b.tp then 1#1 else 0#1) ++ b.cls1 ++ b.cls0 ++ b.valid)

/-- The bits of slot n. -/
def slotBits (b : Bundle) (n : Nat) : Nat :=
  match n with
  | 0 => b.s.toNat
  | 1 => b.v0.toNat
  | 2 => b.v1.toNat
  | 3 => b.m.toNat
  | 4 => b.c0.toNat
  | _ => b.c1.toNat

/-- The class field beside slot n: zero for a slot that is no copy slot. -/
def slotClass (b : Bundle) (n : Nat) : BitVec 4 :=
  if n = 4 then b.cls0 else if n = 5 then b.cls1 else 0#4

/-- A decode refusal: the slot of the first offending field and the reason (R226). -/
abbrev Refused := Nat × Nat

/-- The header's offences (R209, R226, R227): reason 0x04 at slot 0. -/
def headerOffence (b : Bundle) : Option Refused :=
  if b.valid = 0#6 || b.top then some (0, 4) else none

/-- The first offence of slot n, with offences found in the context's state added; `skip` marks slots
that re-entry treats as not valid (R174, R226, R227). -/
def slotOffence (ctxOff : Nat → Instr → List Offence) (skip : BitVec 6) (b : Bundle) (n : Nat) : Option Refused :=
  if skip.getLsbD n then none
  else if b.valid.getLsbD n then
    match readSlot n (slotClass b n) (slotBits b n) with
    | (none, _) => some (n, 1)
    | (some i, os) =>
      match firstOffence (os ++ ctxOff n i) with
      | some (_, r) => some (n, r)
      | none => none
  else if slotClass b n != 0#4 then some (n, 6)
  else if slotBits b n != 0 then some (n, 4)
  else none

/-- The first offence of a list of slots, in index order (R227). -/
def firstSlotOffence (ctxOff : Nat → Instr → List Offence) (skip : BitVec 6) (b : Bundle) : List Nat → Option Refused
  | [] => none
  | n :: ns =>
    match slotOffence ctxOff skip b n with
    | some r => some r
    | none => firstSlotOffence ctxOff skip b ns

/-- The valid slots of a bundle, less those in `skip`, with their instructions. -/
def slotInstrs (skip : BitVec 6) (b : Bundle) : List (Nat × Instr) :=
  [0, 1, 2, 3, 4, 5].filterMap fun n =>
    if b.valid.getLsbD n && !skip.getLsbD n then
      (readSlot n (slotClass b n) (slotBits b n)).1.map fun i => (n, i)
    else none

/-- Decode a bundle (R226, R227): the refusal of the first offence, or the slots' instructions. -/
def decodeBundle (ctxOff : Nat → Instr → List Offence) (skip : BitVec 6) (w : BitVec 256) :
    Except Refused (List (Nat × Instr)) :=
  let b := splitBundle w
  match headerOffence b with
  | some r => .error r
  | none =>
    match firstSlotOffence ctxOff skip b [0, 1, 2, 3, 4, 5] with
    | some r => .error r
    | none => .ok (slotInstrs skip b)

/-- One bit as a vector. -/
def bit (b : Bool) : BitVec 1 := if b then 1#1 else 0#1

/-- The word of an SR form (R213). -/
def encSR (op : BitVec 7) (d a b g f : BitVec 5) : BitVec 32 := f ++ g ++ b ++ a ++ d ++ op

/-- The word of an SI or SX form (R213). -/
def encSI (op : BitVec 7) (d a : BitVec 5) (imm : BitVec 15) : BitVec 32 := imm ++ a ++ d ++ op

/-- The word of a scalar form (R213, R215, R240), or none for an instruction of another slot. -/
def encodeScalar (i : Instr) : Option (BitVec 32) :=
  match i with
  | .nop => some (encSI 0x00#7 0#5 0#5 0#15)
  | .add d a b g => some (encSR 0x01#7 d a b g 0#5)
  | .sub d a b g => some (encSR 0x02#7 d a b g 0#5)
  | .mul d a b g => some (encSR 0x03#7 d a b g 0#5)
  | .mulh d a b g => some (encSR 0x04#7 d a b g 0#5)
  | .mulhu d a b g => some (encSR 0x05#7 d a b g 0#5)
  | .div d a b g => some (encSR 0x06#7 d a b g 0#5)
  | .divu d a b g => some (encSR 0x07#7 d a b g 0#5)
  | .rem d a b g => some (encSR 0x08#7 d a b g 0#5)
  | .remu d a b g => some (encSR 0x09#7 d a b g 0#5)
  | .and d a b g => some (encSR 0x0A#7 d a b g 0#5)
  | .or d a b g => some (encSR 0x0B#7 d a b g 0#5)
  | .xor d a b g => some (encSR 0x0C#7 d a b g 0#5)
  | .shl d a b g => some (encSR 0x0D#7 d a b g 0#5)
  | .shr d a b g => some (encSR 0x0E#7 d a b g 0#5)
  | .sra d a b g => some (encSR 0x0F#7 d a b g 0#5)
  | .min d a b g => some (encSR 0x10#7 d a b g 0#5)
  | .minu d a b g => some (encSR 0x11#7 d a b g 0#5)
  | .max d a b g => some (encSR 0x12#7 d a b g 0#5)
  | .maxu d a b g => some (encSR 0x13#7 d a b g 0#5)
  | .sel d a b g f => some (encSR 0x14#7 d a b g f)
  | .clz d a g => some (encSR 0x15#7 d a 0#5 g 0#5)
  | .ctz d a g => some (encSR 0x16#7 d a 0#5 g 0#5)
  | .popc d a g => some (encSR 0x17#7 d a 0#5 g 0#5)
  | .addi d a imm => some (encSI 0x20#7 d a imm)
  | .andi d a imm => some (encSI 0x21#7 d a imm)
  | .ori d a imm => some (encSI 0x22#7 d a imm)
  | .xori d a imm => some (encSI 0x23#7 d a imm)
  | .shli d a imm => some (encSI 0x24#7 d a (0#9 ++ imm))
  | .shri d a imm => some (encSI 0x25#7 d a (0#9 ++ imm))
  | .srai d a imm => some (encSI 0x26#7 d a (0#9 ++ imm))
  | .lim d imm => some (encSI 0x27#7 d 0#5 imm)
  | .lims d a imm => some (encSI 0x28#7 d a imm)
  | .cmpEq d a b g => some (encSR 0x30#7 d a b g 0#5)
  | .cmpNe d a b g => some (encSR 0x31#7 d a b g 0#5)
  | .cmpLt d a b g => some (encSR 0x32#7 d a b g 0#5)
  | .cmpLtu d a b g => some (encSR 0x33#7 d a b g 0#5)
  | .cmpLe d a b g => some (encSR 0x34#7 d a b g 0#5)
  | .cmpLeu d a b g => some (encSR 0x35#7 d a b g 0#5)
  | .cmpiEq d a imm => some (encSI 0x36#7 d a imm)
  | .cmpiLt d a imm => some (encSI 0x37#7 d a imm)
  | .cmpiLtu d a imm => some (encSI 0x38#7 d a imm)
  | .pand d a b g => some (encSR 0x39#7 d a b g 0#5)
  | .por d a b g => some (encSR 0x3A#7 d a b g 0#5)
  | .pxor d a b g => some (encSR 0x3B#7 d a b g 0#5)
  | .pandn d a b g => some (encSR 0x3C#7 d a b g 0#5)
  | .pnot d a g => some (encSR 0x3D#7 d a 0#5 g 0#5)
  | .pget d a g => some (encSR 0x3E#7 d a 0#5 g 0#5)
  | .pset d a g => some (encSR 0x3F#7 d a 0#5 g 0#5)
  | .br g pad disp => some (encSI 0x40#7 g pad disp)
  | .brn g pad disp => some (encSI 0x41#7 g pad disp)
  | .call pad disp => some (encSI 0x42#7 0#5 pad disp)
  | .jmp a pad => some (encSI 0x43#7 0#5 a (0#10 ++ pad))
  | .ret pad => some (encSI 0x44#7 0#5 0#5 (0#10 ++ pad))
  | .loop level len a sigma fl => some (0#4 ++ bit fl ++ sigma ++ a ++ len ++ level ++ 0x45#7)
  | .lbrk a pad => some (encSI 0x46#7 0#5 a (0#10 ++ pad))
  | .lidx d level => some (encSI 0x47#7 d (0#3 ++ level) 0#15)
  | .wait d mask all => some (encSI 0x48#7 d 0#5 (0#6 ++ bit all ++ mask))
  | .bara a id scope => some (encSI 0x49#7 0#5 a (0#6 ++ scope ++ id))
  | .barw id => some (encSI 0x4A#7 0#5 0#5 (0#9 ++ id))
  | .span d a eng opn => some (encSI 0x4B#7 d a (0#11 ++ bit opn ++ eng))
  | .tclr a kind mask => some (encSI 0x4C#7 0#5 a (0#3 ++ mask ++ kind))
  | .tmask d a kind rot => some (encSI 0x4D#7 d a (0#11 ++ bit rot ++ kind))
  | .slack n => some (encSI 0x4E#7 0#5 0#5 (0#7 ++ n))
  | .yield => some (encSI 0x4F#7 0#5 0#5 0#15)
  | .getsr d n => some (encSI 0x50#7 d 0#5 (0#10 ++ n))
  | .setsr a n => some (encSI 0x51#7 0#5 a (0#10 ++ n))
  | .trap code => some (encSI 0x52#7 0#5 0#5 (0#7 ++ code))
  | .brkpt code => some (encSI 0x53#7 0#5 0#5 (0#7 ++ code))
  | .done => some (encSI 0x54#7 0#5 0#5 0#15)
  | .mark a => some (encSI 0x55#7 0#5 a 0#15)
  | .rdtime d => some (encSI 0x56#7 d 0#5 0#15)
  | .tblw a table index => some (encSI 0x57#7 0#5 a (0#2 ++ index ++ table))
  | .tblr d table index => some (encSI 0x58#7 d 0#5 (0#2 ++ index ++ table))
  | .qpop d q word => some (encSI 0x59#7 d 0#5 (0#10 ++ word ++ bit q))
  | .xget s bay lane size => some (0#7 ++ size ++ lane ++ bay ++ s ++ 0x60#7)
  | .xput s bay lane size => some (0#7 ++ size ++ lane ++ bay ++ s ++ 0x61#7)
  | _ => none

/-- The 48 bits of a vector slot's fields (R216). -/
def encV (v : VFields) : BitVec 48 :=
  bit v.cz ++ bit v.cy ++ bit v.cx ++ bit v.nx ++ v.guard ++ v.zm ++ v.ym ++ v.xm ++ v.z ++ v.y ++ v.x ++ v.dst ++ v.cwi

/-- The bits of a vector form (R216, R219). -/
def encodeVector (i : Instr) : Option (VSlot × BitVec 48) :=
  match i with
  | .vectorCascade u v => some (u, encV v)
  | .vmov u dst x xm guard cx =>
      some (u, encV ⟨504#9, dst, x, 0#6, 0#6, xm, 0#2, 0#2, guard, false, cx, false, false⟩)
  | .anc u dst x xm =>
      some (u, encV ⟨505#9, 0#2 ++ dst, x, 0#6, 0#6, xm, 0#2, 0#2, 0#5, false, false, false, false⟩)
  | .vzero u dst guard =>
      some (u, encV ⟨506#9, dst, 0#6, 0#6, 0#6, 0#2, 0#2, 0#2, guard, false, false, false, false⟩)
  | .vtclr u dst =>
      some (u, encV ⟨507#9, dst, 0#6, 0#6, 0#6, 0#2, 0#2, 0#2, 0#5, false, false, false, false⟩)
  | _ => none

/-- The bits of a matrix form (R222). -/
def encodeMatrix (i : Instr) : Option (BitVec 48) :=
  match i with
  | .mnop => some (0#43 ++ 0#5)
  | .mmul f => some (0#4 ++ f.cbar ++ f.gang ++ f.mode ++ bit f.sp ++ f.m ++ f.row ++ bit f.bb ++ bit f.lt ++ f.fmt ++ f.opx ++ 1#5)
  | .mwld bb sa k n fmt => some (0#19 ++ fmt ++ n ++ k ++ sa ++ bit bb ++ 2#5)
  | .mgath lt ix base m fmt => some (0#20 ++ fmt ++ m ++ base ++ ix ++ bit lt ++ 3#5)
  | .mdrain row m sa ofmt clr => some (0#17 ++ bit clr ++ ofmt ++ sa ++ m ++ row ++ 4#5)
  | .mdrainb row dst ofmt => some (0#24 ++ ofmt ++ dst ++ row ++ 5#5)
  | .mzero row m opx => some (0#23 ++ opx ++ m ++ row ++ 6#5)
  | .mrel => some (0#43 ++ 7#5)
  | .mwait => some (0#43 ++ 8#5)
  | _ => none

/-- The word of a CM form (R223). -/
def encCM (op : BitVec 7) (tk : BitVec 4) (w : BitVec 2) (imm : BitVec 8) (base : BitVec 5) (v : BitVec 6) : BitVec 32 :=
  tk ++ w ++ imm ++ base ++ v ++ op

/-- The word of a CX form (R223). -/
def encCX (op : BitVec 7) (w es : BitVec 2) (base : BitVec 5) (ix v : BitVec 6) : BitVec 32 :=
  0#4 ++ w ++ es ++ base ++ ix ++ v ++ op

/-- The word of a CA form (R223). -/
def encCA (op : BitVec 7) (tk : BitVec 4) (scope : BitVec 3) (r q : Bool) (size : BitVec 2) (aop : BitVec 4)
    (base v : BitVec 5) : BitVec 32 :=
  tk ++ scope ++ bit r ++ bit q ++ size ++ aop ++ base ++ v ++ op

/-- The word of a CE form (R223). -/
def encCE (op : BitVec 7) (tk : BitVec 3) (scope : BitVec 3) (r q : Bool) (base : BitVec 5) : BitVec 32 :=
  0#1 ++ tk ++ 0#11 ++ scope ++ bit r ++ bit q ++ base ++ op

/-- The word of a CT form (R223). -/
def encCT (op : BitVec 7) (base v : BitVec 5) : BitVec 32 := 0#15 ++ base ++ v ++ op

/-- The slot, header class and word of a copy form (R223, R224). -/
def encodeCopy (i : Instr) : Option (CSlot × BitVec 4 × BitVec 32) :=
  match i with
  | .ldb c w imm base v => some (c, 0#4, encCM 0x01#7 8#4 w imm base v)
  | .stb c w imm base v => some (c, 0#4, encCM 0x02#7 8#4 w imm base v)
  | .lds c imm base v => some (c, 0#4, encCM 0x03#7 8#4 0#2 imm base (0#1 ++ v))
  | .sts c imm base v => some (c, 0#4, encCM 0x04#7 8#4 0#2 imm base (0#1 ++ v))
  | .ldx c w es base ix v => some (c, 0#4, encCX 0x05#7 w es base ix v)
  | .stx c w es base ix v => some (c, 0#4, encCX 0x06#7 w es base ix v)
  | .ldcw c imm base v => some (c, 0#4, encCM 0x07#7 8#4 0#2 imm base (0#1 ++ v))
  | .sclq c w imm base => some (c, 0#4, encCM 0x08#7 8#4 w imm base 0#6)
  | .bankacq c v => some (c, 0#4, encCM 0x09#7 8#4 0#2 0#8 0#5 (0#1 ++ v))
  | .bankrel c v => some (c, 0#4, encCM 0x0A#7 8#4 0#2 0#8 0#5 (0#1 ++ v))
  | .spzero c w imm base => some (c, 0#4, encCM 0x0B#7 8#4 w imm base 0#6)
  | .ldq c cls tk imm base v => some (c, cls, encCM 0x10#7 tk 0#2 imm base (0#1 ++ v))
  | .ldqv c cls tk w imm base => some (c, cls, encCM 0x11#7 tk w imm base 0#6)
  | .stq c cls tk imm base v => some (c, cls, encCM 0x12#7 tk 0#2 imm base (0#1 ++ v))
  | .stqv c cls tk w imm base v => some (c, cls, encCM 0x13#7 tk w imm base v)
  | .pref c imm base => some (c, 0#4, encCM 0x14#7 8#4 0#2 imm base 0#6)
  | .atom c cls tk scope r q size aop base v => some (c, cls, encCA 0x18#7 tk scope r q size aop base v)
  | .atomr c cls tk scope r q size aop base v => some (c, cls, encCA 0x19#7 tk scope r q size aop base v)
  | .cas c cls tk scope r q size base v => some (c, cls, encCA 0x1A#7 tk scope r q size 0#4 base v)
  | .atomv c cls tk et aop base v => some (c, cls, tk ++ 0#4 ++ et ++ aop ++ base ++ v ++ 0x1B#7)
  | .fenceC c mask => some (c, 0#4, 0#9 ++ mask ++ 0x20#7)
  | .fenceS c scope => some (c, 0#4, 0#22 ++ scope ++ 0x21#7)
  | .acq c scope => some (c, 0#4, 0#22 ++ scope ++ 0x22#7)
  | .rel c scope => some (c, 0#4, 0#22 ++ scope ++ 0x23#7)
  | .xcp c tk scope r q base => some (c, 0#4, encCE 0x28#7 tk scope r q base)
  | .xcp2 c tk scope r q base => some (c, 0#4, encCE 0x29#7 tk scope r q base)
  | .xcoll c tk scope r q base => some (c, 0#4, encCE 0x2A#7 tk scope r q base)
  | .xcan c tk => some (c, 0#4, encCE 0x2B#7 tk 0#3 false false 0#5)
  | .tkres c cls base v => some (c, cls, encCT 0x30#7 base v)
  | .tkpost c cls base v => some (c, cls, encCT 0x31#7 base v)
  | .tktake c cls base v => some (c, cls, encCT 0x32#7 base v)
  | .tkfree c cls base v => some (c, cls, encCT 0x33#7 base v)
  | _ => none

/-- Where a form's bits go: the slot index, the header class beside it, and the slot's bits. -/
structure SlotWord where
  slot : Nat
  cls : BitVec 4
  bits : Nat
  deriving DecidableEq, Repr

/-- The encoding of an instruction: none for an event row, which has no encoding. -/
def encode (i : Instr) : Option SlotWord :=
  match encodeScalar i with
  | some w => some ⟨0, 0#4, w.toNat⟩
  | none =>
    match encodeVector i with
    | some (.v0, w) => some ⟨1, 0#4, w.toNat⟩
    | some (.v1, w) => some ⟨2, 0#4, w.toNat⟩
    | none =>
      match encodeMatrix i with
      | some w => some ⟨3, 0#4, w.toNat⟩
      | none =>
        match encodeCopy i with
        | some (.c0, cls, w) => some ⟨4, cls, w.toNat⟩
        | some (.c1, cls, w) => some ⟨5, cls, w.toNat⟩
        | none => none

/-- The bundle that holds one slot's bits and nothing else (R208, R209). -/
def singleBundle (sw : SlotWord) : Bundle where
  valid := 1#6 <<< sw.slot
  cls0 := if sw.slot = 4 then sw.cls else 0#4
  cls1 := if sw.slot = 5 then sw.cls else 0#4
  tp := false
  top := false
  s := if sw.slot = 0 then BitVec.ofNat 32 sw.bits else 0#32
  v0 := if sw.slot = 1 then BitVec.ofNat 48 sw.bits else 0#48
  v1 := if sw.slot = 2 then BitVec.ofNat 48 sw.bits else 0#48
  m := if sw.slot = 3 then BitVec.ofNat 48 sw.bits else 0#48
  c0 := if sw.slot = 4 then BitVec.ofNat 32 sw.bits else 0#32
  c1 := if sw.slot = 5 then BitVec.ofNat 32 sw.bits else 0#32

/-- The instruction and slot that a word of the opcode table stands for. The table gives no slot: a
32-bit word is read as a scalar form where that is one, else as a copy form of C0; a 48-bit word as a
matrix form, else as a form of V0 (assumption log, 12). -/
def tableSlot (nbits w : Nat) : Option (SlotWord × Instr) :=
  if nbits ≤ 32 then
    match decodeSlot 0 0#4 w with
    | .ok i => some (⟨0, 0#4, w⟩, i)
    | .error _ =>
      match decodeSlot 4 0#4 w with
      | .ok i => some (⟨4, 0#4, w⟩, i)
      | .error _ => none
  else
    match decodeSlot 3 0#4 w with
    | .ok i => some (⟨3, 0#4, w⟩, i)
    | .error _ =>
      match decodeSlot 1 0#4 w with
      | .ok i => some (⟨1, 0#4, w⟩, i)
      | .error _ => none

end Decode

/-- The instruction the decoder reads from a word numbered as the opcode table numbers it. -/
def decodeTableWord (nbits w : Nat) : Option Instr := (Decode.tableSlot nbits w).map (·.2)

end Sys2Proof
end

