-- ==== Sys2Proof/Machine/Shake.lean ====
section
/-!
DEFINITION. SHAKE256 with a 256-bit output (R117, R344, R347). The sponge is one bit vector of five planes of 320 bits,
each of five lanes; its turns and its round bits are computed as the public standard that the manual names generates them
(assumption log, 32).
-/

namespace Sys2Proof.Machine

/-- A sponge: plane y begins at bit 320·y, and lane x of a plane 64·x above that. -/
abbrev Sponge := BitVec 1600

/-- A plane: the lanes of one y. -/
abbrev Plane := BitVec 320

/-- Plane y. -/
def Sponge.plane (a : Sponge) (y : Nat) : Plane := a.extractLsb' (320 * y) 320

/-- A sponge made of five planes. -/
def spongeOf (f : (y : Nat) → Plane) : Sponge :=
  (List.range 5).foldl (fun a y => a ||| (f y).zeroExtend 1600 <<< (320 * y)) 0#1600

/-- Bit 0 of every lane of a plane. -/
def laneFloors : Plane := (List.range 5).foldl (fun m x => m ||| 1#320 <<< (64 * x)) 0#320

/-- Every lane of a plane turned left by one. -/
def Plane.turned (p : Plane) : Plane := (p <<< 1 &&& ~~~laneFloors) ||| (p >>> 63 &&& laneFloors)

/-- Each bit takes the parities of two columns: of the lane before it, and of the lane after it at the bit below. -/
def Sponge.mixColumns (a : Sponge) : Sponge :=
  let sum : Plane := (List.range 5).foldl (fun p y => p ^^^ a.plane y) 0#320
  let mask := sum.rotateLeft 64 ^^^ Plane.turned (sum.rotateRight 64)
  spongeOf fun y => a.plane y ^^^ mask

/-- The walk over the lanes other than the first: the t-th is turned by the t-th triangular number on its way to its new
place. -/
def Sponge.scatter (a : Sponge) : (fuel t x y : Nat) → Sponge → Sponge
  | 0, _, _, _, out => out
  | n + 1, t, x, y, out =>
    let lane : Word := a.extractLsb' (320 * y + 64 * x) 64
    let nx := y
    let ny := (2 * x + 3 * y) % 5
    a.scatter n (t + 1) nx ny (out ||| (lane.rotateLeft (t * (t + 1) / 2)).zeroExtend 1600 <<< (320 * ny + 64 * nx))

/-- Within a plane each lane takes the complement of the next, cut by the one after. -/
def Plane.nonlinear (p : Plane) : Plane := p ^^^ (~~~(p.rotateRight 64) &&& p.rotateRight 128)

/-- The shift register that makes the round bits, a step on. -/
def roundRegister (r : BitVec 8) : BitVec 8 := if r.getLsbD 7 then r <<< 1 ^^^ 0x71#8 else r <<< 1

/-- The seven bits of a round enter lane 0 at places one below the powers of two; the register goes on. -/
def roundBits : (fuel j : Nat) → (r : BitVec 8) → Sponge → Sponge × BitVec 8
  | 0, _, r, a => (a, r)
  | n + 1, j, r, a => roundBits n (j + 1) (roundRegister r) (if r.getLsbD 0 then a ^^^ 1#1600 <<< (2 ^ j - 1) else a)

/-- Rounds of the permutation, from a state of the register on. -/
def Sponge.rounds : (fuel : Nat) → BitVec 8 → Sponge → Sponge
  | 0, _, a => a
  | n + 1, r, a =>
    let b := a.mixColumns
    let c := b.scatter 24 1 1 0 (b &&& (BitVec.allOnes 64).zeroExtend 1600)
    let d := roundBits 7 0 r (spongeOf fun y => Plane.nonlinear (c.plane y))
    Sponge.rounds n d.2 d.1

/-- The permutation. -/
def Sponge.permuted (a : Sponge) : Sponge := a.rounds 24 1#8

/-- Bytes in a block: what the sponge takes at once. -/
def blockBytes : Nat := 136

/-- Blocks enter the sponge, one after another. -/
def Sponge.soak : (blocks : Nat) → List Byte → Sponge → Sponge
  | 0, _, a => a
  | n + 1, b, a => Sponge.soak n (b.drop blockBytes) (a ^^^ BitVec.ofNat 1600 (ofBytes (b.take blockBytes))).permuted

/-- A message as the sponge takes it: its suffix bits, zeros, and the last bit of its last block. -/
def framed (m : List Byte) : List Byte :=
  let n := blockBytes - m.length % blockBytes
  m ++ toBytes n (0x1F ^^^ 2 ^ (8 * n - 1))

/-- SHAKE256 with a 256-bit output, its first byte lowest. -/
def shake256 (m : List Byte) : BitVec 256 := (Sponge.soak (m.length / blockBytes + 1) (framed m) 0#1600).extractLsb' 0 256

end Sys2Proof.Machine
end

