-- ==== Sys2Proof/Config.lean ====
section
/-!
DEFINITION. What the implementation fixes and what the manual leaves open: constants of the module,
free values (no body: a claim holds whatever they are) and the cryptography the manual names by
reference to other standards.
-/

namespace Sys2Proof.Config

/-- A free choice between two outcomes that the manual calls unpredictable (R24, R44). DESIGN CHOICE: log entry 1. -/
opaque freeBool : Nat → Bool

/-- A free 64-bit value, one for each count of the state's `fresh` counter. DESIGN CHOICE: log entry 1. -/
opaque freeWord : Nat → Word

/-- A free byte. DESIGN CHOICE: log entry 1. -/
opaque freeByte : Nat → Byte

/-- SLH-DSA-SHAKE-256s verification of a message digest under a public key (R343, R346). DESIGN CHOICE: log entry 32. -/
opaque slhVerify : (publicKey : List Byte) → (message signature : List Byte) → Bool

/-- The signature the device attestation key makes over a message, byte i (R345). DESIGN CHOICE: log entry 32. -/
opaque attestSign : List Byte → Nat → Byte

/-- The device attestation public key, 64 bytes (R345). DESIGN CHOICE: log entry 32. -/
opaque attestKey : Nat → Byte

/-- The vendor certificate of the device attestation key that MEASURE writes (R344). DESIGN CHOICE: log entry 32. -/
opaque attestCert : List Byte

/-- Byte i of the vendor public key against which boot images verify (R343). DESIGN CHOICE: log entry 32. -/
opaque vendorKey : List Byte

/-- The owner public key fixed at provisioning, under which key-store changes verify (R346). DESIGN CHOICE: log entry 32. -/
opaque ownerKey : List Byte

/-- AES key unwrap under the device's key-import key (R36): the tenant key, or none. DESIGN CHOICE: log entry 32. -/
opaque unwrapKey : List Byte → Option (BitVec 256)

/-- The 4-byte nonce prefix fixed at manufacture (R187). DESIGN CHOICE: log entry 32. -/
opaque noncePrefix : BitVec 32

/-- Byte i of the AES-256-GCM key stream under a key, the device's prefix and a counter (R187). DESIGN CHOICE: log entry
32. -/
opaque keyStream : (key : BitVec 256) → (counter : Nat) → (i : Nat) → Byte

/-- Byte i of the GCM tag over an image's header and its sections (R187). DESIGN CHOICE: log entry 32. -/
opaque tagByte : (key : BitVec 256) → (counter : Nat) → List Byte → (i : Nat) → Byte

/-- Byte i of the payload of a section of the n-th image that the device seals (R188: the layout is not published).
DESIGN CHOICE: log entry 17. -/
opaque payloadByte : (image : Nat) → (type : Nat) → (i : Nat) → Byte

/-- The length in bytes of a section that R188 does not size, by its type and the entries it holds. DESIGN CHOICE: log
entry 17. -/
opaque sectionLength : (type : Nat) → (entries : Nat) → Nat

/-- The typical Depot latency published for a logical core and a slice (R49). DESIGN CHOICE: log entry 39. -/
opaque depotLatency : (core slice : Nat) → Byte

/-- Where the loader places the n-th object when it may choose, in units of 64 KiB (R132, R339). DESIGN CHOICE: log entry 36. -/
opaque loaderPlace : Nat → Nat

/-- Type of the audit record that IMGADOPT appends (R191; R347 names none). DESIGN CHOICE: log entry 17. -/
opaque adoptAuditType : Nat

/-- Bytes of an entry of COLLGRP's member table, less one, and what an entry names: device, rank and tenant (R339; the
layout is not published). DESIGN CHOICE: log entry 18. -/
opaque memberSize : Nat
opaque memberOf : List Byte → Nat × Nat × Nat

/-- The upper half of the handle that the loader returns for the n-th object (R132). DESIGN CHOICE: log entry 36. -/
opaque handleValue : Nat → BitVec 32

/-- Where the host has placed BAR 4 of a function among its own physical addresses (R335, R339). DESIGN CHOICE: log entry 13. -/
opaque bar4Base : Nat → Nat

/-- Whether standby firmware accepts the version of the state table (R342). DESIGN CHOICE: log entry 34. -/
opaque stateTableAccepted : List Byte → Bool

/-- The features this module offers, bits 0–7 of R340. -/
def offeredFeatures : BitVec 128 := 0xFF#128

/-- A near-buffer line is usable for fewer than this many reference ticks (R54). -/
def nearBufferAge : Nat := 16384

/-- Lines of 256 bytes in the 64 KiB near buffer of a slice (R47). -/
def nearLines : Nat := 256

/-- The mixed-size check compares accesses less than this many ticks apart (R83). -/
def overlapWindow : Nat := 4096

/-- A context may hold this many issued and unperformed global accesses (R71). -/
def accessLimit : Nat := 64

/-- Entries of each load-data queue (R310). -/
def queueEntries : Nat := 32

/-- Batched operations pending at one home slice (R112). -/
def batchLimit : Nat := 1024

/-- Cycles that zeroing granted banks takes (R32). -/
def bankZeroCycles : Nat := 512

/-- Cycles that zeroing the latches, B buffers and scale queue takes (R277). -/
def scrubCycles : Nat := 96

/-- Turns after which a context yields to a ready context of equal or higher class (R143). -/
def yieldTurns : Nat := 4096

/-- Entries of the core's L1 TLB (R20). -/
def l1TlbEntries : Nat := 64

/-- Entries of a Quarter's last-level TLB (R20). -/
def llTlbEntries : Nat := 1536

/-- Walks a Quarter's walker runs at once (R21). -/
def walkLimit : Nat := 64

/-- Queues mapped at once in each Quarter (R149). -/
def mappedQueues : Nat := 64

/-- Nominal core clock in MHz (R3 and the headline figures). DESIGN CHOICE: log entry 3. -/
def nominalMHz : Nat := 1050

/-- Replay timeout at reset, in ticks: 100 ms (R125). -/
def replayTimeoutDefault : Nat := 100000000

/-- Drain window at reset, in microseconds (R144). -/
def drainWindowDefault : Nat := 20

/-- Capacity of the scale queue (R287). -/
def scaleQueueEntries : Nat := 4096

/-- A batched record that this device did not make was made under another interval exponent than one given (R126). Free value:
log entry 31. -/
opaque otherExponent : (record : List Byte) → (exponent : Nat) → Bool

/-- Records a trace sink's buffer holds before it is full (R350; the size is not published). DESIGN CHOICE: log entry 28. -/
opaque sinkBuffer : Nat

end Sys2Proof.Config
end

