-- ==== Sys2Proof/Machine/State.lean ====
section
/-!
DEFINITION. The state of the machine as plain data: what the manual gives the device, its cores and
its contexts, and the model's own bookkeeping (the agenda of moves to come, the counter of free values,
and the registers of the issuing context as they stood at issue, R210). Every FMap field reads its
default where it lists nothing.
-/

namespace Sys2Proof.Machine

/-- How the machine stops. -/
inductive Fault
  /-- An image failed its verification at boot, and the boot stopped (R343): raised by `step` when no
  reset is on the agenda. Safe: the manual says that nothing runs. -/
  | bootStopped
  deriving DecidableEq, Repr

/-- Why the model gives an instruction no meaning. -/
inductive Refusal
  /-- An instruction that has no meaning yet: raised by `exec`. Safe: nothing is claimed of it. -/
  | notModelled (mnemonic : String)
  deriving DecidableEq, Repr

/-- What the next steps do before the step's own policy resumes: the order of the device's agents. -/
inductive Move
  /-- The event or instruction happens now. -/
  | event (i : Instr)
  /-- What must happen in this cycle happens; then one core cycle passes. -/
  | tick
  /-- A host processor or a peer stores bytes in its own memory (R60, R61). -/
  | hostStore (pa : Nat) (bytes : List Byte)
  /-- A Quarter's trace sink writes the oldest record of its buffer to its ring (R350). -/
  | sinkWrite (quarter : Nat)
  /-- The host link or a peer has answered an access that its home had forwarded (R75). -/
  | farDone (ctx id : Nat)
  /-- A 16-byte unit of an engine's write that is on its way is applied at its home (R79, R81). -/
  | sentUnit (id unit : Nat)
  /-- The host link or a peer has answered an engine's write (R75, R79). -/
  | sentFar (id : Nat)
  /-- A collective engine reads or writes the next line of its operation (R67, R319). -/
  | collLine (group : Nat)
  /-- The driver enables or disables AtomicOp requests on the host link (R60). -/
  | hostAtomics (on : Bool)
  /-- Firmware programs the decoder range of a port's tier device (R58). -/
  | tierRange (port size : Nat)
  /-- The domain identifier of a peer device is set there (R341). -/
  | peerDomain (peer domain : Nat)
  /-- The host reads a register of a function's mailbox (R337). -/
  | mailboxRead (fn off : Nat)
  /-- The host writes the MSI-X table of a function's BAR 0 (R335). -/
  | msixWrite (fn off : Nat) (value : Word)
  /-- The driver gives a function's BAR 4 a size of 2^lg bytes (R335). -/
  | barResize (fn lg : Nat)
  /-- Firmware sets the replay timeout, in ticks (R125). -/
  | replayTimeout (ticks : Nat)
  /-- Firmware sets the drain window, in microseconds (R144). -/
  | drainWindow (microseconds : Nat)
  /-- The abort beat of a member of a group on another device arrives (R185). -/
  | abortBeat (group : Nat)
  deriving DecidableEq, Repr

/-! ## A context -/

/-- The states of a context (R186). -/
inductive CtxState | free | resident | held | saving | releasing | frozen
  deriving DecidableEq, Repr

/-- Why a team ended (R145). -/
inductive Cause | none | violation | memerr | nokey | fault | killed
  deriving DecidableEq, Repr

/-- A hardware loop level (R236). -/
structure Loop where
  active : Bool := false
  i : BitVec 32 := 0
  n : BitVec 32 := 0
  sigma : BitVec 5 := 0
  len : BitVec 8 := 0
  start : Word := 0
  stop : Word := 0
  fl : Bool := false
  deriving DecidableEq, Repr

/-- The registers of a context that an instruction reads as they stand at issue (R210). Anchors are
numbered slot·12 + input·4 + entry; taint masks stand beside their values (R90). -/
structure Regs where
  /-- s1–s31 (R213). -/
  s : FMap Word := []
  sT : FMap Mask := []
  /-- p1–p23 (R233). -/
  p : FMap Pred := []
  pT : FMap Mask := []
  /-- b0–b31 (R154). -/
  b : FMap Bay := []
  bT : FMap Mask := []
  /-- The anchors of V0 and V1 (R166). -/
  a : FMap Bay := []
  aT : FMap Mask := []
  /-- The control taint (R93). -/
  ctl : Mask := 0
  /-- System register 3 (R245). -/
  fpctl : BitVec 5 := 0
  /-- System register 12, the literal program counter (R286). -/
  lpc : Word := 0
  /-- System register 18 (R246). -/
  slack : BitVec 8 := 0
  /-- The four loop levels (R236). -/
  loops : FMap Loop := []
  /-- The format table (R280). -/
  fmt : FMap (BitVec 32) := []
  /-- Entries 8–15 of the operator table (R283). -/
  opt : FMap (BitVec 64) := []
  /-- System registers 5–10, by slot (R176). -/
  xrec : FMap Word := []
  /-- Read and write sets of the four engines (R114). -/
  spanR : FMap (BitVec 48) := []
  spanW : FMap (BitVec 48) := []
  deriving DecidableEq, Repr

/-- A taint tag: 0 idle, 1 live, 2 performed (R88). -/
structure Tag where
  st : Nat := 0
  stamp : Nat := 0
  holder : Nat := 0
  deriving DecidableEq, Repr

/-- An entry of a load-data queue (R310). `poison` is 0, or the detail that a pop reports (R180);
`overlap` is the address that a pop reports under the mixed-size check (R83). -/
structure QEntry where
  acc : Nat
  filled : Bool := false
  data : Bay := 0
  mask : Mask := 0
  poison : Nat := 0
  overlap : Option Word := none
  deriving DecidableEq, Repr

/-- The record an engine stores with a token (R177). -/
structure EngineFault where
  engid : Nat := 0
  code : Nat := 0
  detail : Nat := 0
  addr : Word := 0
  deriving DecidableEq, Repr

/-- What an engine tells the context that issued a command: a violation or a watchpoint match, with the
bundles that the context had issued by then (R40, R355). -/
structure Report where
  code : Nat
  detail : Nat := 0
  engid : Nat
  addr : Word
  bundles : Nat := 0
  /-- The command that matched, by its place in program order, and the lines it has moved since (R355). -/
  cmd : Nat := 0
  lines : Nat := 0
  deriving DecidableEq, Repr

/-- A wait token: 0 idle, 1 busy, 2 done, 3 error; status 0 OK, 1 COLLABORT, 2 CANCELLED (R177).
`owner` says what runs under it: 0 an access, 1 a command of dray 0, 2 of dray 1. -/
structure Token where
  st : Nat := 0
  status : Nat := 0
  owner : Nat := 0
  err : EngineFault := {}
  rel : Bool := false
  scope : Nat := 0
  stamp : Nat := 0
  deriving DecidableEq, Repr

/-- The Manifest record an operation makes or is matched with (R121, R122). -/
structure Rec where
  index : Nat
  type : Nat
  slot : Nat
  sub : Nat
  bundles : Nat
  place : Word
  value : Word
  /-- In replay, the recorded order and, for a barrier, the recorded generation (R124). -/
  order : Option Nat := none
  gen : Nat := 0
  batched : Bool := false
  deriving DecidableEq, Repr

/-- What an issued access does at its home (R311–R315, R321), or the arrival of a `bara` (R77). -/
inductive AccKind
  | load (size : Nat)
  | store (bytes : List Byte)
  | atomic (aop size : Nat) (operand : Word) (returns : Bool)
  | cas (size compare new : Nat)
  | row (aop et : Nat) (data : Bay)
  | ticket (op : Nat) (value : Word) (dest : Nat)
  | arrive (id need scope : Nat)
  deriving DecidableEq, Repr

/-- A global access that has issued and whose work is not over (R66, R71). -/
structure Access where
  id : Nat
  slot : Nat
  cls : Nat
  kind : AccKind
  va : Word
  pa : Nat
  nb : Bool := false
  token : Option Nat := none
  /-- The accesses of the dependence set not yet performed, and the bound so far (R95). -/
  deps : List Nat := []
  bound : Nat := 0
  dependent : Bool := false
  acq : Bool := false
  rel : Bool := false
  scope : Nat := 0
  /-- The tag taken: 0–7, 8 for ALL (R88). -/
  tag : Option Nat := none
  rcd : Option Rec := none
  issueTick : Nat := 0
  issueCycle : Nat := 0
  bundle : Word := 0
  /-- The interval of a batched add, with its launch and team in the batch order (R110). -/
  interval : Option Nat := none
  /-- The add has reached its home and is held in its batch (R110). -/
  inBatch : Bool := false
  /-- Set while the home holds a replayed operation: when the hold began (R125). -/
  heldSince : Option Nat := none
  /-- The 16-byte units of a wide access that have performed (R81). -/
  unitsDone : List Nat := []
  /-- Bytes that an overlapping access of another size has written or displaced meanwhile, by address (R82). -/
  mixed : List (Nat × Byte) := []
  /-- Elements of a batched row that belong to its first interval, 0 for all, and those already applied (R112). -/
  early : Nat := 0
  applied : Nat := 0
  deriving DecidableEq, Repr

/-- The load-store unit's list in program order: accesses and fences (R74). -/
inductive LsuItem
  | access (a : Access)
  | fenceC (id : Nat) (mask : BitVec 16)
  | acq (id : Nat) (scope : Nat)
  | rel (id : Nat) (scope : Nat)
  deriving DecidableEq, Repr

/-- Where a scratchpad read delivers (R305–R307). -/
inductive ReadDest
  | bay (b lat : Nat) (taint : Mask)
  | reg (d lat : Nat) (taint : Mask)
  | word (entry lat : Nat)
  deriving DecidableEq, Repr

/-- A pending effect's action (R175). A bay or predicate is written in the bits of `bits`; `unite`
keeps the prior mask beside the new one (R92). -/
inductive Action
  | land (bay : Nat) (value bits : Bay) (taint : Mask) (unite : Bool)
  | untaint (bay : Nat)
  | predWrite (p : Nat) (value bits : Pred) (taint : Mask) (unite : Bool)
  | regWrite (d : Nat) (value : Word) (taint : Mask)
  | spRead (parts : List (Option Nat)) (es : Nat) (dest : ReadDest)
  | spWrite (parts : List (Nat × List Byte))
  | wordWrite (entry : Nat) (word : BitVec 256)
  | scalePush (addr size : Nat)
  | bankAcq (mask : BitVec 48)
  | bankRel (mask : BitVec 48)
  deriving DecidableEq, Repr

/-- A pending effect: due when κ reaches `due`; `seq` orders the effects of one context by issue. -/
structure Pending where
  due : Nat
  slot : Nat
  seq : Nat
  bundle : Word
  act : Action
  deriving DecidableEq, Repr

/-- A context's last arrival at a barrier identifier (R242, R243). -/
structure BarRecord where
  arrived : Bool := false
  gen : Nat := 0
  scope : Nat := 0
  /-- The generation is known to have completed (R188). -/
  complete : Bool := false
  /-- Core-local arrivals the team has made in generation `cgen`, which is not complete, each with the count
  it fixed (R175). -/
  counts : List Nat := []
  cgen : Nat := 0
  /-- When the completed generation did, where the record has been carried away from its instance (R77, R175). -/
  stamp : Nat := 0
  deriving DecidableEq, Repr

/-- A context's Manifest (R120–R125). -/
structure Manifest where
  base : Word := 0
  k : Nat := 0
  ctl : Word := 0
  /-- The next sequence number, system register 14 (R123). -/
  next : Nat := 0
  /-- The recorded head of a replay (R134). -/
  head : Nat := 0
  /-- Indices taken and not yet written. -/
  unwritten : List Nat := []
  /-- The head as last published. -/
  published : Nat := 0
  dropped : Nat := 0
  warned : Bool := false
  /-- System register 15 (R123). -/
  mstall : Nat := 0
  /-- A failed ring access: code, detail and address, raised at the next recorded operation (R120). -/
  err : Option EngineFault := none
  deriving DecidableEq, Repr

/-- Why a context's bundle waits (R156): `command` for a token of its own dray command, `token` for one of an access alone (R78);
`caravan` for a member that waits with its Caravan for an engine (R140, R299). -/
inductive Wait
  | queueEmpty | fetch | fenceS | token | barrier | bank | zeroing | accessLimit | walk | manifest
  | slack | width | queueFull | shadow | lease | gather | scale | ticket | bankUse | matrix | trace
  | watch | peers | caravan | command
  deriving DecidableEq, Repr

/-- The issue position of a context (R164–R169). -/
structure IssueState where
  /-- The phase Φ is (cycle + off) mod 32 (R154). -/
  off : Nat := 0
  /-- The context's cycle count κ: its issue and planned idle cycles so far (R155). -/
  kappa : Nat := 0
  /-- This cycle is an issue or planned idle cycle. -/
  active : Bool := false
  /-- Planned idle cycles still to come before the next bundle (R164). -/
  pad : Nat := 0
  /-- The phase at which the next bundle issues. -/
  nextPhase : Nat := 0
  /-- The cause found at the last offer (R156). -/
  cause : Option Wait := none
  lastIssue : Option Nat := none
  /-- Consecutive turns in which it issued while another was ready (R143). -/
  turns : Nat := 0
  yielding : Bool := false
  /-- Engine-wait idle cycles that count towards κ ≥ issue + 3 (R78, R297). -/
  idle : Nat := 0
  /-- `done` has issued (R253). -/
  done : Bool := false
  /-- The first cycle in which it may be offered; none until its release (R146). -/
  notBefore : Option Nat := none
  deriving DecidableEq, Repr

/-- A context (R49, R186). -/
structure Ctx where
  st : CtxState := .free
  launch : Nat := 0
  team : Nat := 0
  tenant : Nat := 0
  /-- The address of the next bundle. -/
  pc : Word := 0
  /-- Bundles issued (R121). -/
  bundles : Nat := 0
  r : Regs := {}
  iss : IssueState := {}
  /-- The next bundle as a transfer of the issuing bundle set it: target and pad (R164). -/
  jump : Option (Word × Nat) := none
  tags : FMap Tag := []
  /-- The most recent access that took ALL, and the ALL set's stamp so far (R89). -/
  allTop : Option Nat := none
  allStamp : Nat := 0
  /-- The largest perform stamp of a load, `atomr` or `cas`. -/
  loadStamp : Nat := 0
  /-- The fill stamp below which a later load takes no near-buffer line (R74). -/
  nearFloor : Nat := 0
  q0 : List QEntry := []
  q1 : List QEntry := []
  tokens : FMap Token := []
  lsu : List LsuItem := []
  /-- The next number in program order for accesses, fences and pending effects. -/
  seq : Nat := 0
  pend : List Pending := []
  bars : FMap BarRecord := []
  man : Manifest := {}
  /-- First entry and end of the control-word partition, and of the accumulator partition (R141, R225). -/
  cwbase : Nat := 0
  cwlim : Nat := 0
  accbase : Nat := 0
  acclim : Nat := 0
  /-- Banks the team may take by `bankacq` (R134). -/
  handover : BitVec 48 := 0
  /-- `status`, `fault`, `faddr` (R172, R173). -/
  slotres : Nat := 0
  donemask : BitVec 6 := 0
  fault : Word := 0
  faddr : Word := 0
  /-- Slots of the bundle at pc that re-entry skips (R174). -/
  skip : BitVec 6 := 0
  /-- Faults to raise before the next bundle, oldest first: code, detail, slot, address (R321, R355). -/
  doom : List (Nat × Nat × Nat × Word) := []
  /-- Engines' reports to deliver at a bundle boundary, oldest first (R40, R355). -/
  reports : List Report := []
  /-- The mixed-size overlaps to raise at the next ordering points, oldest first (R83). -/
  overlap : List Word := []
  /-- Accesses to the host or peer windows that have performed and are not far done (R75). -/
  far : List Nat := []
  /-- The newest value of a line that a class of the context has read or written, at class·2^60 + line, by its stamp and its
  place in the order of fills: no later load of the class takes an older near-buffer line (R68). -/
  seen : FMap (Nat × Nat) := []
  /-- Ticket operations whose result has not returned (R321). -/
  ticketWait : List Nat := []
  /-- Results on the way back: the operation, the register and the value (R321). -/
  ticketDone : List (Nat × Nat × Word) := []
  /-- A `fence.s` has issued whose scope has not been met for accesses up to this number (R74). -/
  fenceWait : Option Nat := none
  /-- That `fence.s` has scope 5 (R74). -/
  fenceFar : Bool := false
  /-- The line buffer: virtual line address and 128 bytes (R62). -/
  line : Option (Nat × List Byte) := none
  /-- Refusals of walks that this context's accesses or fetches waited for: page, code and reason
  (R21). -/
  walkFail : List (Nat × Nat × Nat) := []
  /-- The page whose walk an access or a fetch of the context waits for (R21). -/
  asked : Option Nat := none
  /-- Caravan: position and members (R140). -/
  cpos : Nat := 0
  csize : Nat := 0
  /-- A member issues its last bundle alone again after a migration (R182, R332). -/
  redo : Bool := false
  /-- The team has been migrated (R183). -/
  migrated : Bool := false
  /-- The words of the bundle last issued, which a Caravan's members issue (R140). -/
  words : BitVec 256 := 0
  /-- The address of the bundle last issued, its words, and the cycle in which it did. -/
  lastPc : Word := 0
  lastWords : BitVec 256 := 0
  issuedAt : Nat := 0
  /-- κ and Φ of the bundle last issued (R182). -/
  lastKappa : Nat := 0
  lastPhase : Nat := 0
  /-- Registers the S slot wrote in this cycle, and predicates with what they held before, for R211. -/
  wroteS : List Nat := []
  wroteP : FMap (Pred × Mask) := []
  /-- The registers as they stood at the issue of a bundle some of whose slots have committed, which its other slots
  read on re-entry; and those of the bundle last issued (R182, R210, R228). -/
  entry : Option Regs := none
  lastRegs : Regs := {}
  deriving DecidableEq, Repr

/-! ## A core -/

/-- A row of an operand latch (R289). -/
inductive LatchRow
  | padding
  | bytes (l : List Byte)
  deriving DecidableEq, Repr

/-- An operand latch (R289). -/
structure Latch where
  gathered : Bool := false
  af : Nat := 0
  scaled : Bool := false
  m : Nat := 0
  rows : FMap LatchRow := []
  poisoned : Bool := false
  deriving DecidableEq, Repr

/-- A B buffer (R290): columns as their bytes, scales by column and block. -/
structure BBuf where
  loaded : Bool := false
  bf : Nat := 0
  scaled : Bool := false
  k : Nat := 0
  n : Nat := 0
  cols : FMap (List Byte) := []
  scales : FMap (List Byte) := []
  poisoned : Bool := false
  deriving DecidableEq, Repr

/-- A gather or a load not yet filled (R289, R290). -/
structure Fill where
  owner : Nat
  issueK : Nat
  /-- Index rows of a gather, none for padding; empty for a load. -/
  idx : List (Option Nat) := []
  base : Nat := 0
  k : Nat := 0
  n : Nat := 0
  fmt : Nat := 0
  scaled : Bool := false
  /-- The bank of each 128-byte row still to be read, in order (R45, R289). -/
  rows : List Nat := []
  /-- Number of the matrix command after which it may begin. -/
  after : Nat := 0
  seq : Nat := 0
  spanR : BitVec 48 := 0
  spanW : BitVec 48 := 0
  deriving DecidableEq, Repr

/-- What a matrix command does (R291–R296). -/
inductive MKind
  | mmul (f : MmulFields) (entry : BitVec 64) (fmt : BitVec 32) (lit : Option (BitVec 32))
  | mzero (row m : Nat) (identity : BitVec 32)
  | mdrain (row m addr ofmt : Nat) (clr : Bool) (rm : BitVec 2)
  | mdrainb (row bay ofmt : Nat) (rm : BitVec 2)
  deriving DecidableEq, Repr

/-- A matrix command in the elastic buffer or running (R293). Times are engine times. -/
structure MCmd where
  id : Nat
  owner : Nat
  kind : MKind
  accbase : Nat
  issue : Nat
  issueK : Nat
  bundle : Word
  slack : Nat
  tenant : Nat := 0
  /-- A start before which the command may not begin: its ramp slot (R357). -/
  earliest : Nat := 0
  start : Option Nat := none
  /-- The core cycle of its start. -/
  startAt : Nat := 0
  /-- Cycles that the ramp adds to its start, of a gang the largest of its engines', and those of its own engine's ramp (R299,
  R357). -/
  g : Nat := 0
  ramp : Nat := 0
  scales : List Byte := []
  /-- The operands as they stand at the start (R291). -/
  lat : Latch := {}
  buf : BBuf := {}
  /-- Rows written, or rows drained. -/
  done : Nat := 0
  /-- Rows cleared by a drain with clr. -/
  cleared : Nat := 0
  flags : BitVec 7 := 0
  rcd : Option Rec := none
  /-- A share of a ganged command names its lead's core, and the lead's command there, and its place in the
  Caravan (R299). -/
  lead : Option (Nat × Nat) := none
  pos : Nat := 0
  /-- The core whose B buffer feeds it, none for its own (R299). -/
  feed : Option Nat := none
  /-- The phase at its issue, for the position of a delayed landing (R167). -/
  phase : Nat := 0
  /-- The number of its pending landing in the bay (R296). -/
  landSeq : Option Nat := none
  /-- The first row that it writes as zeros, marked poisoned, its lead's B buffer having been damaged (R330). -/
  badFrom : Option Nat := none
  classes : FMap Nat := []
  spanR : BitVec 48 := 0
  spanW : BitVec 48 := 0
  deriving DecidableEq, Repr

/-- A source line of an engine that is being read: the 256-byte line of its address space, the physical address that it was
translated to, the place and the size in it of what is read, and the cycle of the translation (R11, R23). -/
structure HeldLine where
  line : Nat
  pa : Nat
  lo : Nat
  size : Nat
  since : Nat
  deriving DecidableEq, Repr

/-- How a command that stops before its end completes its token: done with a status, or in error (R28, R177, R178). -/
inductive DrayEnd
  | done (status : Nat)
  | error (e : EngineFault)
  deriving DecidableEq, Repr

/-- A command of a dray, as issued (R316–R319). -/
structure DrayCmd where
  owner : Nat
  launch : Nat := 0
  team : Nat := 0
  tenant : Nat := 0
  token : Nat
  slot : Nat
  /-- 0 `xcp`, 1 `xcp2`, 2 `xcoll`. -/
  kind : Nat
  issueK : Nat
  issueSeq : Nat
  acq : Bool
  rel : Bool
  scope : Nat
  deps : List Nat := []
  src : Word := 0
  dst : Word := 0
  len : Word := 0
  flags : Word := 0
  /-- Scratchpad address of the descriptor row. -/
  row : Nat := 0
  rowlen : Nat := 0
  rows : Nat := 0
  sstride : Int := 0
  dstride : Int := 0
  zero : Bool := false
  started : Bool := false
  bad : Bool := false
  /-- The row and the offset in it of the next line to move (R317, R318). -/
  atRow : Nat := 0
  atOff : Nat := 0
  spanR : BitVec 48 := 0
  spanW : BitVec 48 := 0
  rcd : Option Rec := none
  /-- The descriptor row as read, of `xcp2` and `xcoll` (R318, R319). -/
  desc : List Byte := []
  /-- The 16-byte units of the present line that have been read, with their bytes, and those that have been written
  (R81). -/
  got : FMap (List Byte) := []
  unitsDone : List Nat := []
  /-- The page whose walk it waits for, and the refusals of walks that it waited for: page, code and reason (R21). -/
  asked : Option Nat := none
  walkFail : List (Nat × Nat × Nat) := []
  /-- The source lines that are being read, each translated once (R11), and the bytes that overlapping accesses of another
  size have displaced or left there meanwhile, by address (R82). -/
  held : List HeldLine := []
  mixed : List (Nat × Byte) := []
  /-- The command stops: how its token completes once its last line has moved; which of the lines left it still moves is open,
  and `chosen` says that the present one is moved (R28, R178). -/
  ending : Option DrayEnd := none
  chosen : Bool := false
  /-- Since when a replayed `xcoll` is held for its group sequence (R125). -/
  heldSince : Option Nat := none
  deriving DecidableEq, Repr

/-- A dray (R316). -/
structure Dray where
  running : Option DrayCmd := none
  shadow : Option DrayCmd := none
  frozen : Bool := false
  /-- The launch whose violation froze it (R40). -/
  blame : Nat := 0
  deriving DecidableEq, Repr

/-- A translation held by a TLB (R14, R20). -/
structure Tlb where
  tenant : Nat
  page : Nat
  big : Bool
  base : Nat
  perms : BitVec 9
  dirty : Bool
  deriving DecidableEq, Repr

/-- A core with its scratchpad, tables and engines. -/
structure CoreState where
  /-- Logical core number (R49); none for an unused spare. -/
  logical : Option Nat := none
  frozen : Bool := false
  retired : Bool := false
  /-- Issue width: its holder, the cycle at which it is offered, and who gave it up (R168). -/
  width : Option Nat := none
  offerAt : Nat := 0
  giver : Option Nat := none
  /-- The context that the selector last gave the width to (R349). -/
  lastHeld : Option Nat := none
  turn : Nat := 0
  scratch : Memory := []
  /-- Poisoned 16-byte units of the scratchpad (R181). -/
  spPoison : List Nat := []
  /-- Owner context + 1 of each bank, 0 for none (R31). -/
  bankOwner : FMap Nat := []
  /-- The cycle at which a bank being zeroed is zero (R32). -/
  bankZero : FMap Nat := []
  /-- Tenant + 1 of a released bank not yet acquired (R151). -/
  released : FMap Nat := []
  /-- The control-word table (R258). -/
  cwt : FMap (BitVec 256) := []
  /-- The accumulator (R277). -/
  acc : FMap (BitVec 4096) := []
  accPoison : List Nat := []
  /-- Rows written in the present engine time: the writer, and the row before (R294). -/
  accWas : FMap (Nat × BitVec 4096) := []
  /-- Lease holder, end of the scrub in core cycles, and the engine's time (R277, R279). -/
  lease : Option Nat := none
  scrubEnd : Nat := 0
  et : Nat := 0
  lat : FMap Latch := []
  bbuf : FMap BBuf := []
  gathers : FMap (Option Fill) := []
  loads : FMap (Option Fill) := []
  scales : List Byte := []
  scalePoison : Bool := false
  cmds : List MCmd := []
  cmdSeq : Nat := 0
  fillSeq : Nat := 0
  /-- Engine times of the current or last array command's start of ramp and end of rows, and the level
  it left (R357). -/
  rampFrom : Nat := 0
  rampLevel : Nat := 0
  rowsEnd : Nat := 0
  level : Nat := 0
  /-- The bundle of the last command that completed under the lease (R352). -/
  lastBundle : Option Word := none
  drays : FMap Dray := []
  tlb : List Tlb := []
  /-- Lines of the L1I: tenant·2^64 + virtual line, with the physical line fetched from and the bytes (R62). -/
  l1i : FMap (Nat × List Byte) := []
  /-- What the engine port of a bank last served a dray: the cycle, the row and the dray (R42, R45). -/
  port : FMap (Nat × Nat × Nat) := []
  perturb : Nat := 0
  /-- Cycles without a command that are charged to bundles of completed commands and not yet reported (R352). -/
  idleAt : FMap Nat := []
  deriving DecidableEq, Repr

/-! ## A Plaza, a Quarter, the device -/

/-- A near-buffer line (R53). -/
structure NearLine where
  quarter : Nat
  line : Nat
  bytes : List Byte
  stamp : Nat
  /-- Its place in the order of fills (R68). -/
  seq : Nat := 0
  deriving DecidableEq, Repr

/-- A page walk in flight (R21): the context or engine that waits is found by its own record. -/
structure Walk where
  tenant : Nat
  page : Nat
  write : Bool
  deriving DecidableEq, Repr

/-- A watchpoint (R353). -/
structure Watchpoint where
  mode : Nat := 0
  tenant : Nat := 0
  bytes : BitVec 16 := 0
  unit : Nat := 0
  value : BitVec 128 := 0
  mask : BitVec 128 := 0
  deriving DecidableEq, Repr

/-- A trace record (R348). -/
structure TraceRec where
  type : Nat
  slot : Nat
  ctx : Nat
  core : Nat
  delta : Nat
  addr : Word
  payload : BitVec 128
  /-- The scopes of the bundle's instructions that have one, by slot (R75): no bits of the 32 bytes hold them. -/
  scopes : List (Nat × Nat) := []
  deriving DecidableEq, Repr

/-- A Quarter's trace sink (R348–R351). -/
structure Sink where
  enabled : Bool := false
  lossless : Bool := false
  base : Nat := 0
  size : Nat := 0
  written : Nat := 0
  buffer : List TraceRec := []
  prev : Nat := 0
  dropped : Nat := 0
  needTime : Bool := false
  deriving DecidableEq, Repr

/-- A Quarter. -/
structure Quarter where
  tlb : List Tlb := []
  walks : List Walk := []
  discards : Nat := 0
  malformed : Nat := 0
  collFrozen : Bool := false
  collBlame : Nat := 0
  watch : FMap Watchpoint := []
  sink : Sink := {}
  deriving DecidableEq, Repr

/-- A barrier instance (R242). -/
structure Barrier where
  gen : Nat := 0
  count : Nat := 0
  need : Nat := 0
  /-- When the last generation to complete did (R77). -/
  stamp : Nat := 0
  deriving DecidableEq, Repr

/-- A code object (R129–R133). -/
structure Object where
  handle : Word
  tenant : Nat
  bundleVa : Nat
  bundleLen : Nat
  litVa : Nat
  litLen : Nat
  cwtVa : Nat
  cwt : List (BitVec 256)
  entry : Nat
  loops : List Byte
  optab : List (Nat × BitVec 64)
  fmtab : List (BitVec 32)
  features : BitVec 128
  /-- The granules that hold its sections: 8,192 pages of 64 KiB each, the last perhaps fewer (R17, R132). -/
  home : List Nat
  pages : Nat
  deriving DecidableEq, Repr

/-- The states of a team (R145). -/
inductive TeamState | waiting | resident | saved | migrating | finished | ended | faulted
  deriving DecidableEq, Repr

/-- A team of a launch. -/
structure Team where
  st : TeamState := .waiting
  cause : Cause := .none
  ctx : Nat := 0
  fault : Word := 0
  faddr : Word := 0
  mstall : Nat := 0
  /-- Counter of the latest image sealed for the team (R184). -/
  counter : Nat := 0
  orphan : Bool := false
  droppedSched : Bool := false
  /-- Saved because the Plaza's spare core was in use (R179). -/
  urgent : Bool := false
  deriving DecidableEq, Repr

/-- A launch (R134). -/
structure Launch where
  object : Word := 0
  args : Word := 0
  report : Word := 0
  replen : Nat := 0
  prio : Nat := 0
  tokens : Nat := 0
  det : Bool := false
  recording : Bool := false
  replay : Bool := false
  cores : Bool := false
  killable : Bool := false
  tenant : Nat := 0
  qmask : BitVec 4 := 0
  ie : Nat := 0
  trips : List Nat := []
  levels : List Nat := []
  estimate : Nat := 0
  accrows : Nat := 0
  grant : BitVec 48 := 0
  handover : BitVec 48 := 0
  manifests : Word := 0
  regions : List (Nat × Nat) := []
  ckpt : Word := 0
  teams : FMap Team := []
  ended : Bool := false
  status : Nat := 0
  t0 : Option Nat := none
  /-- Teams of the current pass, installed and not yet released, with the quarter (R146). -/
  pass : List Nat := []
  /-- Quarters in which its places are held for newcomers, with those newcomers (R144). -/
  drained : FMap (List Nat) := []
  /-- Teams that a checkpoint has chosen and that are still to be saved (R144). -/
  saving : List Nat := []
  /-- First team to end with a cause (R153). -/
  first : Option Nat := none
  overflow : Nat := 0
  undigested : Nat := 0
  dirty : List Nat := []
  /-- Intervals closed so far, and their roots (R117). -/
  closed : Nat := 0
  roots : List (BitVec 256) := []
  tend : Nat := 0
  killing : Bool := false
  violated : Bool := false
  /-- A co-resident launch that waits for pre-emption to free its contexts, and the contexts that are held for it
  (R142). -/
  claiming : Bool := false
  claims : List Nat := []
  /-- The launch queue it came from; all ones for an adopted launch. -/
  queue : Nat := 0xFFFF
  deriving DecidableEq, Repr

/-- A sealed context image: what its bytes stand for (R187, R188). -/
structure Image where
  tenant : Nat
  key : BitVec 256
  bytes : List Byte
  ctx : Ctx
  banks : BitVec 48
  scratch : Memory
  spPoison : List Nat
  acc : FMap (BitVec 4096)
  accPoison : List Nat
  words : FMap (BitVec 256)
  rows : Nat
  entries : Nat
  lease : Bool
  lat : FMap Latch
  bbuf : FMap BBuf
  gathers : FMap (Option Fill)
  loads : FMap (Option Fill)
  scales : List Byte
  scalePoison : Bool
  cmds : List MCmd
  et : Nat
  /-- Slew state: ramp start, its level, end of rows, level (R357). -/
  slew : List Nat
  drays : List DrayCmd
  /-- The sections as they stand: type and length in bytes (R188). -/
  sections : List (Nat × Nat) := []
  deriving DecidableEq, Repr

/-- What an image's bytes open to under a key on a device that did not seal them, none where they do not authenticate
(R188, R191: the payload layout is not published). -/
opaque openImage : (key : BitVec 256) → List Byte → Option Image

/-- A tenant key slot (R36). -/
structure KeySlot where
  key : Option (BitVec 256) := none
  counter : Nat := 0
  deriving DecidableEq, Repr

/-- A window descriptor (R17). -/
structure Window where
  base : Nat
  length : Nat
  owner : Nat
  zp : Bool
  deriving DecidableEq, Repr

/-- A launch queue (R146–R149). -/
structure Queue where
  bound : Bool := false
  tenant : Nat := 0
  ring : Nat := 0
  lg : Nat := 0
  /-- The ticket descriptor of a queue (R147), as its 64 bytes. -/
  desc : List Byte := []
  /-- Quarter in which it is mapped, and when it was last used (R149). -/
  mapped : Bool := false
  used : Nat := 0
  stored : List Nat := []
  /-- Functions whose reads of its reservation register wait for its mapping, oldest first. -/
  waiting : List Nat := []
  deriving DecidableEq, Repr

/-- A host function (R335–R340). -/
structure HostFn where
  cmd : Word := 0
  args : FMap Word := []
  st : Nat := 0
  overrun : Bool := false
  status : Nat := 0
  tag : Nat := 0
  res : FMap Word := []
  /-- The outcome of the command that runs, until it is written: status and results (R338). -/
  outcome : Option (Nat × List Word) := none
  /-- The core cycle at which the first part of a command that waits was done (R23). -/
  began : Option Nat := none
  accepted : Option (BitVec 128) := none
  winmap : FMap (Option Nat) := []
  aborted : Bool := false
  barSize : Nat := 0x40000000
  tenants : List Nat := []
  /-- How often MSI-X vector 0 has been raised, and the words of the MSI-X table by offset/8 (R335, R338). -/
  msix : Nat := 0
  msixTable : FMap Word := []
  /-- The granules of an object that an UNLOAD has unmapped, to be zeroed and given up (R19, R133). -/
  removing : List Nat := []
  deriving DecidableEq, Repr

/-- An audit record's fields that firmware supplies, and what the root of trust adds (R347). -/
structure Audit where
  counter : Nat
  time : Nat
  type : Nat
  tenant : Nat
  master : Nat
  detail : List Word
  chain : BitVec 256
  deriving DecidableEq, Repr

/-- An answer that leaves the device: to the host, a peer or the management port. -/
structure Reply where
  dest : Nat
  data : Nat
  abort : Bool
  deriving DecidableEq, Repr

/-- What firmware is told (R40, R57, R120, R123, R172). -/
structure Notice where
  kind : Nat
  who : Nat
  code : Nat
  addr : Nat
  deriving DecidableEq, Repr

/-- A piece of a line of a collective operation: the participant's core and dray, and the piece's kind, address and
size (R34, R81, R319). -/
structure CollLine where
  core : Nat
  dray : Nat
  kind : Nat
  addr : Nat
  size : Nat
  deriving DecidableEq, Repr

/-- A collective operation that runs: its participants' cores and drays, the pieces still to be read, what has been read,
and what is still to be written with its bytes, none before everything is read (R67, R319). `stopped` says that it stops, and
each participant's command then ends as it says itself (R28, R185). -/
structure CollRun where
  parts : List (Nat × Nat)
  reads : List CollLine
  got : List (CollLine × List Byte) := []
  writes : Option (List (CollLine × List Byte)) := none
  stopped : Bool := false
  deriving DecidableEq, Repr

/-- A group of a collective: its size, the tenant of each rank on this device, the operations done, the ranks
whose next operation an abort beat will end, and the operation that runs (R185, R319). -/
structure Group where
  size : Nat
  members : List (Nat × Nat)
  done : Nat := 0
  aborts : List Nat := []
  run : Option CollRun := none
  deriving DecidableEq, Repr

/-- A global write of an engine that has been sent towards its home: who sent it, for which command in its owner's
program order, where it goes, the parts that have not been applied by their offsets with their bytes, bytes that
overlapping accesses of another size left meanwhile, and whether the host link or a peer has still to answer (R75, R79,
R81, R82). -/
structure Sent where
  id : Nat
  core : Nat
  engid : Nat
  owner : Nat
  cmd : Nat
  launch : Nat
  tenant : Nat
  va : Word
  pa : Nat
  size : Nat
  left : List (Nat × List Byte)
  mixed : List (Nat × Byte) := []
  far : Bool := false
  /-- The mixed-size check has been made at its home (R83). -/
  compared : Bool := false
  deriving DecidableEq, Repr

/-- The last write to a line, for the mixed-size check (R83). -/
structure LastWrite where
  line : Nat
  lo : Nat
  size : Nat
  master : Nat
  cls : Nat
  tick : Nat
  deriving DecidableEq, Repr

/-- Host functions' and firmware's part of the device. -/
structure Platform where
  boot : Nat := 0
  active : Nat := 0
  /-- The function whose UPDATE waits for the takeover (R342). -/
  updating : Option Nat := none
  mreg : FMap (BitVec 256) := []
  audit : List Audit := []
  auditCounter : Nat := 0
  chain : BitVec 256 := 0
  keyStore : FMap (Option (List Byte)) := []
  keys : FMap KeySlot := []
  fns : FMap HostFn := []
  queues : FMap Queue := []
  objects : List Object := []
  objectSeq : Nat := 0
  images : List Image := []
  groups : FMap Group := []
  domain : Nat := 0
  device : Nat := 0
  /-- Peers with a link that is up, and the domain identifiers that peers have (R341). -/
  peers : List Nat := []
  peerDomains : FMap Nat := []
  /-- CXL ports with a device, each with the size of its decoder range (R58). -/
  cxl : FMap Nat := [(0, 2 ^ 41), (1, 2 ^ 41), (2, 2 ^ 41), (3, 2 ^ 41)]
  /-- The driver has enabled AtomicOp requests on the host link (R60). -/
  hostAtomics : Bool := false
  /-- The next 64 KiB page for a page table that firmware makes; 0 before the first (R132). -/
  tablePage : Nat := 0
  replayTimeout : Nat := Config.replayTimeoutDefault
  drainWindow : Nat := Config.drainWindowDefault
  islandMHz : FMap Nat := []
  gated : List Nat := []
  notices : List Notice := []
  replies : List Reply := []
  deriving DecidableEq, Repr

/-- An atomic to the host window that its home makes of a read and a write, between which a host processor may store:
its context and number, the unit of a row, and the bytes read (R60). -/
structure HostRmw where
  ctx : Nat
  id : Nat
  unit : Nat
  old : List Byte
  deriving DecidableEq, Repr

/-- A cycle reserved in a Plaza for the beginning of a ramp from level 0: the core, and its command (R357). -/
structure RampSlot where
  at' : Nat
  core : Nat
  cmd : Nat
  deriving DecidableEq, Repr

/-- Translation, ownership and home-slice state. -/
structure MemSys where
  poison : List Nat := []
  /-- Correctable errors, which are corrected and counted (R57, R65). -/
  corrected : Nat := 0
  /-- Engines' writes on their way to their homes, and the number of the next (R79). -/
  sent : List Sent := []
  sentSeq : Nat := 0
  /-- The atomic to the host window that has read and not yet written (R60). -/
  hostRmw : Option HostRmw := none
  /-- The bytes of the host window that the close of a launch's interval has read and not yet written, with the launch
  (R60, R110). -/
  hostBatch : Option (Nat × List (Nat × Byte)) := none
  staging : Memory := []
  stagingPoison : List Nat := []
  /-- Ownership-map entries: owner in [4:0], zp in bit 5; an unlisted granule is unassigned (R17). -/
  owners : FMap (BitVec 8) := []
  windows : List Window := []
  /-- Grant-map entries by slice·28 + block (R33). -/
  grants : FMap (BitVec 8) := []
  /-- Translation base of each tenant space, none where no space exists (R8). -/
  xlbase : FMap (Option Nat) := []
  near : List NearLine := []
  /-- The next place in the order of near-buffer fills (R68). -/
  fillSeq : Nat := 0
  /-- Lines of the Plazas' middle levels, each with the physical line fetched from (R62). -/
  plaza : FMap (Nat × List Byte) := []
  lineOrders : FMap Nat := []
  /-- The batched records that this device has made, with the interval exponent of each (R126). -/
  recordedIe : List (List Byte × Nat) := []
  ovl : List Nat := []
  lastWrites : List LastWrite := []
  barriers : FMap Barrier := []
  /-- Ramp-begin cycles reserved in each Plaza (R357). -/
  ramps : FMap (List RampSlot) := []
  deriving DecidableEq, Repr

/-- The machine. Physical core n is 54q + 9p + k; physical context c is core·4 + context. -/
structure State where
  /-- Core cycles, reference ticks, and the fraction of a tick that is carried, over its denominator (R3). -/
  cycle : Nat
  tick : Nat
  frac : Nat
  fracDen : Nat
  /-- Global memory by physical address (R16). -/
  mem : Memory
  ms : MemSys
  ctxs : FMap Ctx
  cores : FMap CoreState
  quarters : FMap Quarter
  launches : FMap Launch
  launchSeq : Nat
  pf : Platform
  /-- The model's own: moves to come, and the counter of free values. -/
  agenda : List Move
  fresh : Nat
  /-- The model's own: the context whose bundle issues, and its registers as they stood at issue (R210). -/
  cur : Nat
  snap : Option Regs
  deriving DecidableEq, Repr

/-- The machine right after reset. -/
def State.reset : State where
  cycle := 0
  tick := 0
  frac := 0
  fracDen := 1
  mem := []
  ms := {}
  ctxs := []
  cores := []
  quarters := []
  launches := []
  launchSeq := 0
  pf := {}
  agenda := []
  fresh := 0
  cur := 0
  snap := none

end Sys2Proof.Machine
end

