-- ==== Sys2Proof/Machine/Ops.lean ====
section
/-!
DEFINITION. The named operations over tables, memory, registers and contexts; taking a fault and
returning from one (R171–R174), as one shared operation each; firmware notices, audit records (R347) and
trace records (R348–R351).
-/

namespace Sys2Proof.Machine

/-! ## Tables -/

/-- The value of a key, or the default where the table lists none. -/
def fget {β : Type} (d : β) : FMap β → Nat → β
  | [], _ => d
  | (x, v) :: rest, k => if x = k then v else fget d rest k

/-- The value of a key, where the table lists one. -/
def ffind {β : Type} : FMap β → Nat → Option β
  | [], _ => none
  | (x, v) :: rest, k => if x = k then some v else ffind rest k

/-- Set the value of a key, keeping keys in rising order. -/
def fput {β : Type} : FMap β → Nat → β → FMap β
  | [], k, v => [(k, v)]
  | (x, w) :: rest, k, v =>
    if x = k then (k, v) :: rest
    else if k < x then (k, v) :: (x, w) :: rest
    else (x, w) :: fput rest k v

/-- Remove a key. -/
def fdel {β : Type} (m : FMap β) (k : Nat) : FMap β := m.filter (fun e => e.1 != k)

/-! ## Memories -/

/-- What a byte reads as that nothing has written (assumption log, 2). -/
def unlisted : Byte := 0

/-- The byte at an address. -/
def mget : Memory → Nat → Byte
  | [], _ => unlisted
  | (x, v) :: rest, a => if x = a then v else mget rest a

/-- Set the byte at an address, keeping the canonical form. -/
def mput : Memory → Nat → Byte → Memory
  | [], a, v => if v = unlisted then [] else [(a, v)]
  | (x, w) :: rest, a, v =>
    if a < x then (if v = unlisted then (x, w) :: rest else (a, v) :: (x, w) :: rest)
    else if a = x then (if v = unlisted then rest else (a, v) :: rest)
    else (x, w) :: mput rest a v

/-- The canonical form above a bound: strictly rising addresses, no entry equal to an unlisted byte. -/
def wfFrom : Nat → Memory → Bool
  | _, [] => true
  | lo, (x, v) :: rest => decide (lo ≤ x) && v != unlisted && wfFrom (x + 1) rest

/-- The canonical form of a memory. -/
def Memory.wf (m : Memory) : Bool := wfFrom 0 m

/-- n bytes from an address upward. -/
def mread (m : Memory) (a : Nat) : Nat → List Byte
  | 0 => []
  | n + 1 => mget m a :: mread m (a + 1) n

/-- Write bytes from an address upward. -/
def mwrite (m : Memory) (a : Nat) : List Byte → Memory
  | [] => m
  | b :: bs => mwrite (mput m a b) (a + 1) bs

/-- The little-endian number in n bytes at an address (R1). -/
def mnat (m : Memory) (a n : Nat) : Nat := ofBytes (mread m a n)

/-- Zeros over a range of a memory: the entries in it are dropped. -/
def mclear (m : Memory) (a n : Nat) : Memory := m.filter (fun e => decide (e.1 < a) || decide (a + n ≤ e.1))

/-- Replace the 256-byte line (or any span) of a memory by bytes: same as `mwrite`. -/
def mcopy (m : Memory) (a : Nat) (bytes : List Byte) : Memory := mwrite m a bytes

/-! ## Parts of the state -/

/-- Quarter of a physical core (R356). -/
def quarterOf (core : Nat) : Nat := core / 54

/-- Plaza of a physical core over the device, 0–23. -/
def plazaOf (core : Nat) : Nat := core / 9

/-- Core of a physical context. -/
def coreOf (c : Nat) : Nat := c / 4

/-- A core that nothing has changed: its logical number is its place in its Plaza; a spare has none
(R49, R356). -/
def freshCore (n : Nat) : CoreState :=
  { logical := if n % 9 < 8 then some (n / 54 * 48 + n / 9 % 6 * 8 + n % 9) else none }

def State.ctx (s : State) (c : Nat) : Ctx := fget {} s.ctxs c
def State.setCtx (s : State) (c : Nat) (x : Ctx) : State := { s with ctxs := fput s.ctxs c x }
def State.modCtx (s : State) (c : Nat) (f : Ctx → Ctx) : State := s.setCtx c (f (s.ctx c))
def State.core (s : State) (n : Nat) : CoreState := fget (freshCore n) s.cores n
def State.setCore (s : State) (n : Nat) (x : CoreState) : State := { s with cores := fput s.cores n x }
def State.modCore (s : State) (n : Nat) (f : CoreState → CoreState) : State := s.setCore n (f (s.core n))
def State.quarter (s : State) (q : Nat) : Quarter := fget {} s.quarters q
def State.modQuarter (s : State) (q : Nat) (f : Quarter → Quarter) : State :=
  { s with quarters := fput s.quarters q (f (s.quarter q)) }
def State.launch (s : State) (l : Nat) : Launch := fget {} s.launches l
def State.modLaunch (s : State) (l : Nat) (f : Launch → Launch) : State :=
  { s with launches := fput s.launches l (f (s.launch l)) }
def State.modPf (s : State) (f : Platform → Platform) : State := { s with pf := f s.pf }
def State.modMs (s : State) (f : MemSys → MemSys) : State := { s with ms := f s.ms }
def State.fn (s : State) (n : Nat) : HostFn := fget {} s.pf.fns n
def State.modFn (s : State) (n : Nat) (f : HostFn → HostFn) : State :=
  s.modPf fun p => { p with fns := fput p.fns n (f (fget {} p.fns n)) }

/-- A team of a launch. -/
def Launch.team (l : Launch) (t : Nat) : Team := fget {} l.teams t

/-- Change a team of a launch. -/
def State.modTeam (s : State) (l t : Nat) (f : Team → Team) : State :=
  s.modLaunch l fun x => { x with teams := fput x.teams t (f (x.team t)) }

/-- The issuing context. -/
def State.me (s : State) : Ctx := s.ctx s.cur

/-- Change the issuing context. -/
def State.modMe (s : State) (f : Ctx → Ctx) : State := s.modCtx s.cur f

/-- The registers an instruction reads: as they stood at issue (R210). -/
def State.rd (s : State) : Regs :=
  match s.snap with
  | some r => r
  | none => s.me.r

/-- Change the registers of the issuing context. -/
def State.modRegs (s : State) (f : Regs → Regs) : State := s.modMe fun c => { c with r := f c.r }

/-- The core of the issuing context. -/
def State.myCore (s : State) : CoreState := s.core (coreOf s.cur)

/-- The phase Φ of a context in this cycle (R154). -/
def State.phase (s : State) (c : Nat) : Nat := (s.cycle + (s.ctx c).iss.off) % 32

/-- A free choice, and the state after it (assumption log, 1). -/
def State.choose (s : State) : Bool × State := (Config.freeBool s.fresh, { s with fresh := s.fresh + 1 })

/-- The fastest clock of the cores' islands: the model's cycle is one cycle of it (assumption log, 3). -/
def State.megahertz (s : State) : Nat :=
  s.pf.islandMHz.foldl (fun m e => if e.1 < 216 then max m e.2 else m) Config.nominalMHz

/-- A core's clock runs: neither its island nor its Plaza's is stopped (R351, R356). -/
def State.clocked (s : State) (core : Nat) : Bool := !s.pf.gated.contains core && !s.pf.gated.contains (216 + plazaOf core)

/-- A core's clock runs and has its cycle now: a slower island lets cycles of the fastest pass in proportion (R3, R356). -/
def State.beats (s : State) (core : Nat) : Bool :=
  let f := fget Config.nominalMHz s.pf.islandMHz core
  s.clocked core && s.cycle * f / s.megahertz != (s.cycle + 1) * f / s.megahertz

/-! ## Accesses -/

/-- An access writes (R74). -/
def Access.writes (a : Access) : Bool := match a.kind with | .load _ => false | _ => true

/-- Bytes an access touches. -/
def Access.size (a : Access) : Nat :=
  match a.kind with
  | .load n => n
  | .store b => b.length
  | .atomic _ n _ _ => n
  | .cas n _ _ => n
  | .row _ _ _ => 128
  | .ticket _ _ _ => 64
  | .arrive _ _ _ => 0

/-! ## Registers -/

/-- s[r] in a register set: s0 reads zero (R213). -/
def Regs.sreg (r : Regs) (n : BitVec 5) : Word := if n = 0#5 then 0#64 else fget 0#64 r.s n.toNat

/-- Taint of s[r]: s0 never carries any (R90). -/
def Regs.staint (r : Regs) (n : BitVec 5) : Mask := if n = 0#5 then 0#9 else fget 0#9 r.sT n.toNat

/-- p[n]: p0 reads all ones (R233). -/
def Regs.preg (r : Regs) (n : BitVec 5) : Pred := if n = 0#5 then 0xFFFFFFFF#32 else fget 0#32 r.p n.toNat

/-- Taint of p[n] (R90). -/
def Regs.ptaint (r : Regs) (n : BitVec 5) : Mask := if n = 0#5 then 0#9 else fget 0#9 r.pT n.toNat

/-- A bay (R154). -/
def Regs.bay (r : Regs) (n : Nat) : Bay := fget 0#1024 r.b n

/-- Taint of a bay (R90). -/
def Regs.btaint (r : Regs) (n : Nat) : Mask := fget 0#9 r.bT n

/-- A loop level (R236). -/
def Regs.loopLevel (r : Regs) (n : Nat) : Loop := fget {} r.loops n

/-- Set a scalar register and its mask; s0 discards both (R229). -/
def Regs.setS (r : Regs) (d : BitVec 5) (v : Word) (t : Mask) : Regs :=
  if d = 0#5 then r else { r with s := fput r.s d.toNat v, sT := fput r.sT d.toNat t }

/-- Set a predicate and its mask; p0 discards both (R232, R233). -/
def Regs.setP (r : Regs) (d : BitVec 5) (v : Pred) (t : Mask) : Regs :=
  if d = 0#5 then r else { r with p := fput r.p d.toNat v, pT := fput r.pT d.toNat t }

/-- The S slot writes a scalar register: later bundles see it (R228), and a result of a later slot that
arrives in the same cycle displaces it (R211). -/
def State.writeS (s : State) (d : BitVec 5) (v : Word) (t : Mask) : State :=
  s.modMe fun c => { c with r := c.r.setS d v t, wroteS := if d = 0#5 then c.wroteS else d.toNat :: c.wroteS }

/-- The S slot writes a predicate (R228, R211). -/
def State.writeP (s : State) (d : BitVec 5) (v : Pred) (t : Mask) : State :=
  s.modMe fun c => { c with r := c.r.setP d v t, wroteP := if d = 0#5 then c.wroteP else fput c.wroteP d.toNat (c.r.preg d, c.r.ptaint d) }

/-! ## Notices, audit, trace -/

/-- Firmware is told (R40, R57, R120, R123, R172). -/
def State.notice (s : State) (kind who code addr : Nat) : State :=
  s.modPf fun p => { p with notices := p.notices ++ [{ kind := kind, who := who, code := code, addr := addr }] }

/-- An answer leaves the device. -/
def State.reply (s : State) (dest data : Nat) (abort : Bool) : State :=
  s.modPf fun p => { p with replies := p.replies ++ [{ dest := dest, data := data, abort := abort }] }

/-- Bytes 0–95 of an audit record (R347). -/
def auditHead (counter time type tenant master : Nat) (detail : List Word) : List Byte :=
  toBytes 8 counter ++ toBytes 8 time ++ toBytes 2 type ++ toBytes 1 tenant ++ toBytes 1 master ++ toBytes 12 0 ++
    ((detail ++ List.replicate 8 0#64).take 8).flatMap fun w => toBytes 8 w.toNat

/-- The root of trust numbers and chains a record (R347). -/
def State.audit (s : State) (type tenant master : Nat) (detail : List Word) : State :=
  s.modPf fun p =>
    let chain := shake256 (toBytes 32 p.chain.toNat ++ auditHead p.auditCounter s.tick type tenant master detail)
    { p with
      audit := p.audit ++ [{ counter := p.auditCounter, time := s.tick, type := type, tenant := tenant, master := master,
                             detail := detail, chain := chain }]
      auditCounter := p.auditCounter + 1
      chain := chain }

/-- A sink's buffer can take no further record (R350). -/
def Sink.full (k : Sink) : Bool := decide (Config.sinkBuffer < k.buffer.length)

/-- The scope that an instruction names (R75). -/
def scopeOf : Instr → Option Nat
  | .bara _ _ scope => some scope.toNat
  | .atom _ _ _ scope _ _ _ _ _ _ => some scope.toNat
  | .atomr _ _ _ scope _ _ _ _ _ _ => some scope.toNat
  | .cas _ _ _ scope _ _ _ _ _ => some scope.toNat
  | .fenceS _ scope => some scope.toNat
  | .acq _ scope => some scope.toNat
  | .rel _ scope => some scope.toNat
  | .xcp _ _ scope _ _ _ => some scope.toNat
  | .xcp2 _ _ scope _ _ _ => some scope.toNat
  | .xcoll _ _ scope _ _ _ => some scope.toNat
  | _ => none

/-- The scopes that the instructions of a bundle name, by slot (R75). -/
def bundleScopes (w : BitVec 256) : List (Nat × Nat) :=
  (Decode.slotInstrs 0#6 (Decode.splitBundle w)).filterMap fun e => (scopeOf e.2).map (e.1, ·)

/-- A trace record reaches its Quarter's sink with the scopes of the instructions that it names: TIME and GAP records go
before it, and a full sink in lossy mode drops it (R75, R348–R351; assumption log, 28). -/
def State.traceWith (s : State) (core type slot ctx : Nat) (addr : Word) (payload : BitVec 128) (scopes : List (Nat × Nat)) :
    State :=
  let q := quarterOf core
  let k := (s.quarter q).sink
  if !k.enabled then s
  else if k.full && !k.lossless then s.modQuarter q fun x => { x with sink := { k with dropped := k.dropped + 1 } }
  else
    let lc := (s.core core).logical.getD 0
    let late := decide (2 ^ 32 ≤ s.tick - k.prev)
    let time : List TraceRec :=
      if k.needTime || late then
        [{ type := 5, slot := 7, ctx := ctx, core := lc, delta := 0, addr := 0, payload := BitVec.ofNat 128 s.tick }]
      else []
    let since := if k.needTime || late then 0 else s.tick - k.prev
    let gap : List TraceRec :=
      if 0 < k.dropped then
        [{ type := 4, slot := 7, ctx := ctx, core := lc, delta := since, addr := 0, payload := BitVec.ofNat 128 k.dropped }]
      else []
    let since := if 0 < k.dropped then 0 else since
    let r : TraceRec := { type := type, slot := slot, ctx := ctx, core := lc, delta := since,
                          addr := addr &&& 0x007FFFFFFFFFFFE0#64, payload := payload, scopes := scopes }
    s.modQuarter q fun x =>
      { x with sink := { k with buffer := k.buffer ++ time ++ gap ++ [r], prev := s.tick, dropped := 0, needTime := false } }

/-- A trace record that names no instruction with a scope. -/
def State.trace (s : State) (core type slot ctx : Nat) (addr : Word) (payload : BitVec 128) : State :=
  s.traceWith core type slot ctx addr payload []

/-! ## Faults -/

/-- The bits of the slots below n. -/
def slotsBelow (n : Nat) : BitVec 6 := BitVec.ofNat 6 (2 ^ n - 1)

/-- The `fault` register of a slot's fault (R172). -/
def faultWord (code detail slot : Nat) : Word := BitVec.ofNat 64 (code + detail * 2 ^ 8 + slot * 2 ^ 16)

/-- The `fault` register that delivers an engine's record (R172, R177). -/
def engineFaultWord (code detail slot : Nat) (e : EngineFault) (token : Nat) : Word :=
  BitVec.ofNat 64 (code + detail * 2 ^ 8 + slot * 2 ^ 16 + 2 ^ 19 + e.engid * 2 ^ 24 + e.code * 2 ^ 32 +
    e.detail * 2 ^ 40 + token * 2 ^ 48)

/-- A context that held the issue width of its core holds it no more; the selector runs in the next cycle
(R168). -/
def State.dropWidth (s : State) (c : Nat) : State :=
  if (s.core (coreOf c)).width = some c then
    s.modCore (coreOf c) fun k => { k with width := none, giver := none, offerAt := s.cycle + 1 }
  else s

/-- Context c stops: `fault`, `faddr` and `status` are written, firmware is told, and a trace record is
made, with the scope of the instruction that it names (R75, R172–R174). The bundle at pc is re-entered when it resumes; what
a walk refused it is asked for anew (R29). -/
def State.stopWith (s : State) (c : Nat) (word faddr : Word) (slotres : Nat) (donemask : BitVec 6)
    (scopes : List (Nat × Nat) := []) : State :=
  let x := s.ctx c
  let s := (s.setCtx c { x with st := .held, fault := word, faddr := faddr, slotres := slotres, donemask := donemask,
                                walkFail := [], asked := none, iss := { x.iss with cause := none, active := false } }).dropWidth c
  let s := s.notice 1 c (word.extractLsb' 0 8).toNat faddr.toNat
  s.traceWith (coreOf c) 2 (word.extractLsb' 16 3).toNat (c % 4) x.pc (faddr ++ word) scopes

/-- `done` has issued, and no slot of its bundle is still to re-enter (R174, R253). -/
def Ctx.isDone (x : Ctx) : Bool := x.iss.done && x.skip = 0#6

/-- The slots of the bundle at pc that have committed when slot n faults (R174). -/
def Ctx.doneBelow (x : Ctx) (n : Nat) : BitVec 6 := (x.words.extractLsb' 0 6 &&& slotsBelow n) ||| x.skip

/-- Every other team of a launch is to end because of a violation or a memory error of one team (R40,
R145). -/
def State.condemn (s : State) (l : Nat) : State := s.modLaunch l fun x => { x with killing := true }

/-- What `faddr` holds: the address or index that the fault's rule names, and a free value where it names
none (R172). -/
def State.faultAddress (s : State) (a : Option Word) : Word := a.getD (Config.freeWord s.fresh)

/-- Taking a fault: the one operation by which a slot of the issuing context raises a fault precisely
(R171–R174). A permission violation also is told, audited, and ends the launch (R40). -/
def State.raise (s : State) (code detail slot : Nat) (addr : Option Word) : State :=
  let x := s.me
  let faddr := s.faultAddress addr
  let s := ({ s with fresh := s.fresh + 1 }).stopWith s.cur (faultWord code detail slot) faddr slot (x.doneBelow slot)
    ((bundleScopes x.words).filter fun e => e.1 = slot)
  if code = 4 then
    ((s.audit 2 x.tenant 0xFF [faddr]).notice 2 s.cur 4 faddr.toNat).modLaunch x.launch fun l =>
      { l with killing := true, violated := true }
  else s

/-- An illegal bundle: raised at decode, nothing commits, `slotres` 0 and the offending slot in the
fault register (R174, R226). -/
def State.illegal (s : State) (slot reason : Nat) : State :=
  let x := s.me
  s.stopWith s.cur (faultWord 2 reason slot) x.pc 0 x.skip

/-- Faults that firmware may resume (R171). -/
def resumable (fault : Word) : Bool :=
  let code := (fault.extractLsb' 0 8).toNat
  !(code == 4 || code == 0x0C || code == 0x12 || code == 0x14)

/-- Return from a fault: the bundle is re-entered at the phase and κ at which it issued; slots in
donemask, and those firmware names, are skipped (R29, R174, R252). -/
def State.resume (s : State) (c : Nat) (mask : BitVec 6) : State :=
  s.modCtx c fun x =>
    { x with st := .resident, skip := x.donemask ||| mask, donemask := x.donemask ||| mask,
             iss := { x.iss with cause := none } }

/-! ## Pending effects -/

/-- A committed slot of the issuing context leaves an effect due lat cycles of κ after its issue (R175). -/
def State.later (s : State) (lat slot : Nat) (act : Action) : State :=
  s.modMe fun c =>
    { c with pend := c.pend ++ [{ due := c.iss.kappa + lat, slot := slot, seq := c.seq, bundle := c.pc, act := act }]
             seq := c.seq + 1 }

end Sys2Proof.Machine
end

