-- ==== Sys2Proof/Machine/Geometry.lean ====
section
/-!
DEFINITION. The geometry of a launch (R136–R138): its levels, its teams and the Quarters they run in.
-/

namespace Sys2Proof.Machine

/-- The product of a list. -/
def product (l : List Nat) : Nat := l.foldl (· * ·) 1

/-- The spatial levels of a launch in table order: kind 1 Q, 2 C, 3 V, with the trip count (R136). -/
def Launch.spatial (l : Launch) : List (Nat × Nat) :=
  (l.levels.zip l.trips).filter fun x => decide (1 ≤ x.1) && decide (x.1 ≤ 3)

/-- Trip counts of the T levels, in table order. -/
def Launch.temporal (l : Launch) : List Nat := ((l.levels.zip l.trips).filter fun x => x.1 = 4).map (·.2)

/-- The team count (R137). -/
def Launch.count (l : Launch) : Nat := product (l.spatial.map (·.2))

/-- The indices of a team, level 0 most significant (R138). -/
def indicesOf : List (Nat × Nat) → (id : Nat) → List Nat
  | [], _ => []
  | (_, n) :: l, id => id / product (l.map (·.2)) % n :: indicesOf l id

/-- The bits of a Quarter mask that are set, in rising order. -/
def setBits (m : BitVec 4) : List Nat := (List.range 4).filter fun n => m.getLsbD n

/-- The Quarter of a team (R138). -/
def Launch.quarterOf (l : Launch) (t : Nat) : Nat :=
  let i := ((l.spatial.zip (indicesOf l.spatial t)).find? fun x => x.1.1 = 1).map (·.2)
  (setBits l.qmask).getD (i.getD 0) 0

/-- Members of a Caravan of the launch: 1 where it has none (R137). -/
def Launch.gangSize (l : Launch) : Nat := match l.spatial.getLast? with | some (3, n) => n | _ => 1

/-- The teams that are installed as one unit with a team (R138, R140). -/
def Launch.unitOf (l : Launch) (t : Nat) : List Nat :=
  (List.range l.gangSize).map fun p => t / l.gangSize * l.gangSize + p

/-- The teams of a launch in a Quarter, in identifier order. -/
def Launch.teamsIn (l : Launch) (quarter : Nat) : List Nat := (List.range l.count).filter fun t => l.quarterOf t = quarter

end Sys2Proof.Machine
end

