-- ==== Sys2Proof/Machine/Flags.lean ====
section
/-!
DEFINITION. Exception flags (R176, R197) and their record in a slot's sticky register.
-/

namespace Sys2Proof.Machine

/-- The flags of an exception record: nv, dz, of, uf, nx, ll, dm from bit 0 (R176). -/
abbrev Flags := BitVec 7

namespace Flag
def none : Flags := 0#7
def nv : Flags := 1#7
def dz : Flags := 2#7
def ovf : Flags := 4#7
def uf : Flags := 8#7
def nx : Flags := 16#7
def ll : Flags := 32#7
def dm : Flags := 64#7
/-- A flag when a condition holds. -/
def when' (b : Bool) (f : Flags) : Flags := if b then f else 0#7
end Flag

/-- The record after flags are ORed in: the address is that of the first bundle that set one (R176). -/
def recordWord (old : Word) (bundle : Word) (f : Flags) : Word :=
  if f = 0#7 then old
  else if old.extractLsb' 0 7 = 0#7 then bundle.extractLsb' 5 50 ++ (0#7 ++ (old.extractLsb' 0 7 ||| f))
  else old ||| f.zeroExtend 64

/-- `Record(slot, flags)` in context c at a bundle address (R176). -/
def State.record (s : State) (c slot : Nat) (bundle : Word) (f : Flags) : State :=
  s.modCtx c fun x =>
    { x with r := { x.r with xrec := fput x.r.xrec slot (recordWord (fget 0#64 x.r.xrec slot) bundle f) } }

/-- `Record` for a slot of the issuing bundle (R176). -/
def State.recordMe (s : State) (slot : Nat) (f : Flags) : State := s.record s.cur slot s.me.pc f

/-- The summary register `xsum` (R176). -/
def Regs.xsum (r : Regs) : Word :=
  let f (n : Nat) : Flags := (fget 0#64 r.xrec n).extractLsb' 0 7
  let any := f 0 ||| f 1 ||| f 2 ||| f 3 ||| f 4 ||| f 5
  let has (n : Nat) : BitVec 1 := if f n = 0#7 then 0#1 else 1#1
  0#50 ++ (has 5 ++ has 4 ++ has 3 ++ has 2 ++ has 1 ++ has 0) ++ 0#1 ++ any

end Sys2Proof.Machine
end

