-- ==== Sys2Proof/Machine/Space.lean ====
section
/-!
DEFINITION. Address spaces (chapters 1 and 2): the physical map and ownership, page walks, the TLBs, the
check of an access at issue, homes, and the line that memory holds.
-/

namespace Sys2Proof.Machine

/-- The ranges of the physical map (R16). -/
inductive Region
  | hbm | cxl (port : Nat) | host | peer (d : Nat) | reserved | registers
  deriving DecidableEq, Repr

/-- The range that holds a physical address (R16). -/
def region (pa : Nat) : Region :=
  if pa < 0x00C000000000 then .hbm
  else if pa < 0x010000000000 then .reserved
  else if pa < 0x090000000000 then .cxl ((pa - 0x010000000000) / 0x020000000000)
  else if pa < 0x1000000000000 then .reserved
  else if pa < 0x2000000000000 then .host
  else if pa < 0x3000000000000 then .peer ((pa - 0x2000000000000) / 0x040000000000)
  else if pa < 0xF000000000000 then .reserved
  else .registers

/-- Size of a granule of the ownership map (R17). -/
def granuleSize : Nat := 0x20000000

/-- The ownership-map entry of a granule (R17). -/
def State.granule (s : State) (n : Nat) : BitVec 8 := fget 0x1F#8 s.ms.owners n

/-- The owner in an ownership-map or grant-map entry: none while zeroing is pending or where it is
unassigned (R17, R18). -/
def ownerOf (e : BitVec 8) : Option Nat :=
  let o := (e.extractLsb' 0 5).toNat
  if e.getLsbD 5 || o = 0x1F then none else some o

/-- The owner of a physical range, where it lies wholly in one granule or descriptor (R17, R18). -/
def State.owner (s : State) (pa len : Nat) : Option Nat :=
  match region pa with
  | .hbm | .cxl _ =>
    if pa / granuleSize = (pa + len - 1) / granuleSize then ownerOf (s.granule (pa / granuleSize)) else none
  | .host | .peer _ =>
    match s.ms.windows.find? (fun w => decide (w.base ≤ pa ∧ pa + len ≤ w.base + w.length)) with
    | some w => if w.zp || w.owner = 0x1F then none else some w.owner
    | none => none
  | _ => none

/-- Where a port's part of the CXL range begins (R16). -/
def cxlBase (port : Nat) : Nat := 0x010000000000 + port * 0x020000000000

/-- A physical address can be read and written: it lies in the decoder range of a CXL port's device, or a peer is
there (R58, R59, R341). -/
def State.backed (s : State) (pa : Nat) : Bool :=
  match region pa with
  | .hbm | .host => true
  | .cxl p => match ffind s.pf.cxl p with
    | some n => decide (pa - cxlBase p < n)
    | none => false
  | .peer d => s.pf.peers.contains d && fget 0 s.pf.peerDomains d = s.pf.domain
  | _ => false

/-- Firmware is told of an access to memory that is not there; one to a peer that is absent makes an audit record that
names the peer (R59, R341). -/
def State.tellAbsent (s : State) (who pa va : Nat) : State :=
  let s := s.notice 7 who 3 va
  match region pa with
  | .peer d => s.audit 8 0xFF 0xFF [BitVec.ofNat 64 d]
  | _ => s

/-- A physical line is poisoned (R57). -/
def State.poisoned (s : State) (pa : Nat) : Bool := s.ms.poison.contains (pa / 256)

/-- Home Quarter of a line (R50, R52). -/
def homeQuarter (pa : Nat) : Nat :=
  match region pa with
  | .hbm => pa / 0x3000000000
  | .cxl p => p
  | _ => (pa / 2 ^ 8 % 4) ^^^ (pa / 2 ^ 16 % 4)

/-- Home slice of a line, 0–255 (R50, R52). -/
def homeSlice (pa : Nat) : Nat :=
  let o := match region pa with
    | .hbm => pa % 0x3000000000
    | .cxl p => pa - cxlBase p
    | _ => pa
  let f (n : Nat) : Nat := o / 2 ^ n % 64
  homeQuarter pa * 64 + (f 8 ^^^ f 14 ^^^ f 20 ^^^ f 26 ^^^ f 32 ^^^ f 38)

/-! ## Walks -/

/-- The outcome of a walk (R14). -/
inductive WalkResult
  | ok (t : Tlb) (entry : Nat)
  | fault (reason : Nat)
  | violation
  deriving DecidableEq, Repr

/-- A table entry as the walker reads it: a violation, an uncorrectable error, or its bits (R12, R18). -/
inductive EntryRead
  | violation | error | bits (e : BitVec 64)
  deriving DecidableEq, Repr

/-- Read the table entry at an address in tenant space t (R12, R18, R25). DESIGN CHOICE (log entry 43): an entry in memory that
is not there ends the walk as an uncorrectable error does. -/
def State.readEntry (s : State) (t pa : Nat) : EntryRead :=
  match s.owner pa 8 with
  | some o =>
    if o = t || o = 0x10 then
      if s.poisoned pa || !s.backed pa then .error else .bits (BitVec.ofNat 64 (mnat s.mem pa 8))
    else .violation
  | none => .violation

/-- Bits that must be zero in every entry: [15:9] and [59:52] (R13). -/
def entryReserved (e : BitVec 64) : Bool := e.extractLsb' 9 7 != 0#7 || e.extractLsb' 52 8 != 0#8

/-- Physical base in an entry (R13). -/
def entryBase (e : BitVec 64) : Nat := (e.extractLsb' 16 36).toNat * 2 ^ 16

/-- A non-leaf entry's bits [8:2] are reserved (R13). -/
def pointerMalformed (e : BitVec 64) : Bool := entryReserved e || e.extractLsb' 2 7 != 0#7

/-- The end of a walk at a leaf (R14, R16, R18). -/
def State.leaf (s : State) (t va : Nat) (big : Bool) (e : BitVec 64) (entry : Nat) : WalkResult :=
  let base := entryBase e
  let size := if big then granuleSize else 0x10000
  if entryReserved e || (big && base % granuleSize != 0) then .fault 5
  else match region base with
    | .reserved | .registers => .fault 0x0A
    | _ =>
      if s.owner base size = some t then
        .ok { tenant := t, page := if big then va / granuleSize else va / 0x10000, big := big, base := base,
              perms := e.extractLsb' 0 9, dirty := e.getLsbD 7 } entry
      else .violation

/-- A page walk in tenant space t: an address of 55 bits has no translation above them (R9, R10, R14). -/
def State.walk (s : State) (t va : Nat) : WalkResult :=
  if 2 ^ 55 ≤ va then .fault 1
  else match fget none s.ms.xlbase t with
  | none => .fault 2
  | some root =>
    match s.readEntry t (root + 8 * (va / 2 ^ 42 % 8192)) with
    | .violation => .violation
    | .error => .fault 0x0B
    | .bits e1 =>
      if !e1.getLsbD 0 then .fault 2
      else if e1.getLsbD 1 || pointerMalformed e1 then .fault 5
      else
        let a2 := entryBase e1 + 8 * (va / 2 ^ 29 % 8192)
        match s.readEntry t a2 with
        | .violation => .violation
        | .error => .fault 0x0B
        | .bits e2 =>
          if !e2.getLsbD 0 then .fault 3
          else if e2.getLsbD 1 then s.leaf t va true e2 a2
          else if pointerMalformed e2 then .fault 5
          else
            let a3 := entryBase e2 + 8 * (va / 2 ^ 16 % 8192)
            match s.readEntry t a3 with
            | .violation => .violation
            | .error => .fault 0x0B
            | .bits e3 =>
              if !e3.getLsbD 0 then .fault 4
              else if !e3.getLsbD 1 then .fault 5
              else s.leaf t va false e3 a3

/-- The walker's atomic OR of one byte of a leaf: AC at a fill, DT where a write needs it (R15). -/
def State.markLeaf (s : State) (entry : Nat) (dirty : Bool) : State :=
  { s with mem := mput s.mem entry (mget s.mem entry ||| (if dirty then 0xC0#8 else 0x40#8)) }

/-! ## TLBs -/

/-- A translation of a virtual address in a tenant space. -/
def Tlb.covers (e : Tlb) (t va : Nat) : Bool :=
  e.tenant = t && (if e.big then e.page = va / granuleSize else e.page = va / 0x10000)

/-- The translation a TLB gives: with both sizes held it is a free choice which (R20, R24). -/
def tlbFind (l : List Tlb) (t va free : Nat) : Option Tlb :=
  let small := l.find? (fun e => e.covers t va && !e.big)
  let big := l.find? (fun e => e.covers t va && e.big)
  match small, big with
  | some a, some b => if Config.freeBool free then some a else some b
  | some a, none => some a
  | none, b => b

/-- Look up the core's L1 TLB, then its Quarter's (R20). -/
def State.tlbLookup (s : State) (core t va : Nat) : Option Tlb :=
  match tlbFind (s.core core).tlb t va (s.tick + va) with
  | some e => some e
  | none => tlbFind (s.quarter (quarterOf core)).tlb t va (s.tick + va)

/-- Put a translation first, replacing what it repeats; an old one goes when the TLB is full (R20). -/
def tlbFill (l : List Tlb) (cap : Nat) (e : Tlb) : List Tlb :=
  (e :: l.filter (fun x => !(x.tenant = e.tenant && x.big = e.big && x.page = e.page))).take cap

/-- Fill a core's L1 TLB and its Quarter's last-level TLB (R20). -/
def State.fillTlb (s : State) (core : Nat) (e : Tlb) : State :=
  (s.modCore core fun k => { k with tlb := tlbFill k.tlb Config.l1TlbEntries e }).modQuarter (quarterOf core) fun q =>
    { q with tlb := tlbFill q.tlb Config.llTlbEntries e }

/-- Physical address under a translation (R10). -/
def Tlb.pa (e : Tlb) (va : Nat) : Nat := e.base + (if e.big then va % granuleSize else va % 0x10000)

/-- The permissions an access needs (R26). -/
structure Need where
  rd : Bool := false
  wr : Bool := false
  ex : Bool := false
  at' : Bool := false
  deriving DecidableEq, Repr

/-- The first missing permission's reason, in the order RD, WR, AT; EX for a fetch (R25, R26). -/
def permFault (perms : BitVec 9) (n : Need) : Option Nat :=
  if n.rd && !perms.getLsbD 2 then some 6
  else if n.wr && !perms.getLsbD 3 then some 7
  else if n.ex && !perms.getLsbD 4 then some 8
  else if n.at' && !perms.getLsbD 5 then some 9
  else none

/-- The outcome of an access's check at issue (R25–R27). -/
inductive Check
  | ok (pa : Nat) (nb : Bool)
  | miss
  | fault (code reason : Nat)
  deriving DecidableEq, Repr

/-- What a walk that is waited for refused, or that it is still to be asked for (R21). -/
def walkOutcome (failed : List (Nat × Nat × Nat)) (a : Nat) : Check :=
  match failed.find? (fun f => f.1 = a / 0x10000) with
  | some f => .fault f.2.1 f.2.2
  | none => .miss

/-- Check a virtual address against the translation that its TLBs hold, with the refusals of walks that it waited
for: a write through a translation whose DT is clear walks (R9, R15, R20, R21, R25, R26). -/
def checkHeld (held : Option Tlb) (failed : List (Nat × Nat × Nat)) (va : Word) (n : Need) : Check :=
  let a := va.toNat
  if 2 ^ 55 ≤ a then .fault 3 1
  else match held with
    | some e =>
      match permFault e.perms n with
      | some r => .fault 3 r
      | none => if n.wr && !e.dirty then walkOutcome failed a else .ok (e.pa a) (e.perms.getLsbD 8)
    | none => walkOutcome failed a

/-- Check a virtual address of tenant space t from a core: its slots, drays and fetch (R20). -/
def State.check (s : State) (core t : Nat) (failed : List (Nat × Nat × Nat)) (va : Word) (n : Need) : Check :=
  checkHeld (s.tlbLookup core t va.toNat) failed va n

/-- Check a virtual address of tenant space t from a Quarter's collective engine, which looks up the last-level TLB
directly (R20). -/
def State.checkQuarter (s : State) (quarter t : Nat) (failed : List (Nat × Nat × Nat)) (va : Word) (n : Need) : Check :=
  checkHeld (tlbFind (s.quarter quarter).tlb t va.toNat (s.tick + va.toNat)) failed va n

/-- Translate for the device's own access on behalf of a context, a ring access of the Manifest (R120): a miss
walks and fills at once, where the walker can (`State.mayTranslate`; assumption log, 31). -/
def State.translateNow (s : State) (core t : Nat) (va : Word) (n : Need) : Check × State :=
  match s.check core t [] va n with
  | .miss =>
    match s.walk t va.toNat with
    | .violation => (.fault 4 0, s)
    | .fault r => (.fault 3 r, s)
    | .ok e entry =>
      match permFault e.perms n with
      | some r => (.fault 3 r, (s.markLeaf entry false).fillTlb core e)
      | none =>
        let e := { e with dirty := e.dirty || n.wr, perms := e.perms }
        (.ok (e.pa va.toNat) (e.perms.getLsbD 8), (s.markLeaf entry n.wr).fillTlb core e)
  | r => (r, s)

/-- A Quarter's walker can walk a page of a tenant space at once: fewer than 64 walks run, and none of that page (R21). -/
def Quarter.mayWalk (q : Quarter) (t va : Nat) : Bool :=
  decide (q.walks.length < Config.walkLimit) && !q.walks.any fun w => w.tenant = t && w.page = va / 0x10000

/-- The device can translate now for its own access: its TLBs hold the page, or the walker can walk it (R20, R21). -/
def State.mayTranslate (s : State) (core t : Nat) (va : Word) (n : Need) : Bool :=
  match s.check core t [] va n with
  | .miss => (s.quarter (quarterOf core)).mayWalk t va.toNat
  | _ => true

/-- Ask a Quarter's walker for a page: a miss already being walked is joined (R21). -/
def State.askWalkOf (s : State) (quarter t : Nat) (va : Word) (write : Bool) : State :=
  let w : Walk := { tenant := t, page := va.toNat / 0x10000, write := write }
  s.modQuarter quarter fun q =>
    if q.walks.any (fun x => x.tenant = w.tenant && x.page = w.page) then q else { q with walks := q.walks ++ [w] }

/-- A miss of a core goes to its own Quarter's walker (R20). -/
def State.askWalk (s : State) (core t : Nat) (va : Word) (write : Bool) : State := s.askWalkOf (quarterOf core) t va write

/-- Drop the near-buffer copy of a line in a Quarter (R55). -/
def State.dropNear (s : State) (quarter pa : Nat) : State :=
  s.modMs fun m => { m with near := m.near.filter (fun l => !(l.quarter = quarter && l.line = pa / 256)) }

/-- Read bytes of one page of a tenant's virtual range as firmware or the front end does, or the code and detail with
which the walk failed (R18, R25). -/
def State.vreadPage (s : State) (t va n : Nat) : Except (Nat × Nat) (List Byte) :=
  match s.walk t va with
  | .ok e _ => .ok (mread s.mem (e.pa va) n)
  | .fault r => .error (3, r)
  | .violation => .error (4, 0)

/-- Read bytes of a tenant's virtual range, of at most a page (R11). -/
def State.vreadE (s : State) (t va n : Nat) : Except (Nat × Nat) (List Byte) :=
  let k := min n (0x10000 - va % 0x10000)
  match s.vreadPage t va k with
  | .error f => .error f
  | .ok a =>
    if k = n then .ok a
    else match s.vreadPage t (va + k) (n - k) with
      | .error f => .error f
      | .ok b => .ok (a ++ b)

/-- A little-endian field of bytes that were read. -/
def field (b : List Byte) (off n : Nat) : Nat := ofBytes ((b.drop off).take n)

/-- The bytes that were read. -/
def readBytes {ε : Type} : Except ε (List Byte) → Option (List Byte)
  | .ok b => some b
  | .error _ => none

/-- Read bytes of a tenant's virtual range: none where it does not translate. -/
def State.vread (s : State) (t va n : Nat) : Option (List Byte) := readBytes (s.vreadE t va n)

/-- Read a range that may cross pages, in chunks of at most 16 bytes aligned to their size. -/
def State.vreadLong (s : State) (t va : Nat) : (chunks : Nat) → Option (List Byte)
  | 0 => some []
  | n + 1 =>
    match s.vread t va 16, s.vreadLong t (va + 16) n with
    | some a, some b => some (a ++ b)
    | _, _ => none

/-- Bytes of memory as the device reads them for itself: a hardware error where they are poisoned or not there (R57, R59;
assumption log, 31). -/
def State.deviceBytes (s : State) (pa n : Nat) : Except (Nat × Nat) (List Byte) :=
  if !s.backed pa then .error (0x14, 3) else if s.poisoned pa then .error (0x14, 2) else .ok (mread s.mem pa n)

/-- Read bytes at a context's ring for the device, through the TLBs of its core (R20, R120). -/
def State.readVia (s : State) (core t : Nat) (need : Need) (va : Word) (n : Nat) : Except (Nat × Nat) (List Byte) :=
  match (s.translateNow core t va need).1 with
  | .ok pa _ => s.deviceBytes pa n
  | .fault code reason => .error (code, reason)
  | .miss => .error (3, 2)

/-- Read bytes of a tenant's virtual range for the device, with the permissions that it needs there, or the code and
detail with which that fails (R18, R25, R120). -/
def State.readWith (s : State) (t : Nat) (need : Need) (va n : Nat) : Except (Nat × Nat) (List Byte) :=
  match s.walk t va with
  | .ok e _ =>
    match permFault e.perms need with
    | some r => .error (3, r)
    | none => s.deviceBytes (e.pa va) n
  | .fault r => .error (3, r)
  | .violation => .error (4, 0)

end Sys2Proof.Machine
end

