-- ==== Sys2Proof/Machine/Operands.lean ====
section
/-!
DEFINITION. Operand forms: bay fields and their rotation (R161, R162), windows (R157, R158), operands of the
vector slots (R217, R257), scratchpad addresses and the checks of R303, and the gate that every slot
instruction passes before it takes effect: refused at decode, held in whole turns, or issued.
-/

namespace Sys2Proof.Machine

/-- Slot index of a vector slot (R208). -/
def vslot : VSlot → Nat | .v0 => 1 | .v1 => 2

/-- Slot index of a copy slot (R208). -/
def cslot : CSlot → Nat | .c0 => 4 | .c1 => 5

/-! ## The gate -/

/-- What stands before an instruction: a decode refusal found in context state, a cause that holds the
bundle, or nothing. -/
inductive Gate
  | go
  | wait (w : Wait)
  | refuse (reason : Nat)
  deriving DecidableEq, Repr

/-- The bundle cannot issue now; its cause is noted (R156, R168). -/
def State.stall (s : State) (w : Wait) : State :=
  s.modMe fun c => { c with iss := { c.iss with cause := some w } }

/-- An instruction under its gate: a refusal raises illegal bundle and commits nothing, a wait leaves the
bundle to be offered again, and otherwise the effect happens (R156, R226, R228). -/
def gated (slot : Nat) (g : Gate) (effect : State → State) (s : State) : Host.Outcome State Fault Refusal :=
  match g with
  | .go => .next (effect s)
  | .wait w => .next (s.stall w)
  | .refuse r => .next (s.illegal slot r)

/-- The first gate of two that is not `go`. -/
def Gate.and (a b : Gate) : Gate := match a with | .go => b | g => g

/-- A refusal when a condition holds. -/
def refuseIf (bad : Bool) (reason : Nat) : Gate := if bad then .refuse reason else .go

/-- A wait when a condition holds. -/
def waitIf (w : Wait) (b : Bool) : Gate := if b then .wait w else .go

/-! ## Faults of a slot -/

/-- A precise fault of a slot: code, detail and the address that its rule names, if it names one (R172). -/
structure SFault where
  code : Nat
  detail : Nat := 0
  addr : Option Word := none
  deriving DecidableEq, Repr

/-- The first fault of two checks. -/
def firstFault (a b : Option SFault) : Option SFault := match a with | some f => some f | none => b

/-- A fault when a condition holds. -/
def faultIf (bad : Bool) (f : SFault) : Option SFault := if bad then some f else none

/-- Either the slot's fault is raised, or its effect happens. -/
def State.orFault (s : State) (slot : Nat) (f : Option SFault) (k : State → State) : State :=
  match f with
  | some f => s.raise f.code f.detail slot f.addr
  | none => k s

/-! ## Bays -/

/-- The innermost active loop: the highest active level (R236). -/
def Regs.innermost (r : Regs) : Option Nat := [3, 2, 1, 0].find? fun l => (r.loopLevel l).active

/-- The bay a field names: rotating fields follow the innermost active loop (R162). -/
def Regs.bayOf (r : Regs) (f : BitVec 6) : Nat :=
  let b := (f.extractLsb' 0 5).toNat
  if f.getLsbD 5 then
    match r.innermost with
    | some l =>
      let lv := r.loopLevel l
      (b + 32 - (lv.i.toNat * lv.sigma.toNat) % 32) % 32
    | none => b
  else b

/-- Bay b lies between lo and lo + span at phase p (R157). -/
def inWindow (lo span b p : Nat) : Bool := decide ((b + 32 - lo + p) % 32 ≤ span)

/-- The read window of a slot: S 24–31 and 0–7, V0 0–15, V1 16–31, M 8–15, C 8–23 (R157). -/
def readWindow (slot b p : Nat) : Bool :=
  match slot with
  | 0 => inWindow 24 15 b p
  | 1 => inWindow 0 15 b p
  | 2 => inWindow 16 15 b p
  | 3 => inWindow 8 7 b p
  | _ => inWindow 8 15 b p

/-- The write window of a slot: S 8–15, V0 16–23, V1 0–7, M and C 24–31 (R157). -/
def writeWindow (slot b p : Nat) : Bool :=
  match slot with
  | 0 => inWindow 8 7 b p
  | 1 => inWindow 16 7 b p
  | 2 => inWindow 0 7 b p
  | _ => inWindow 24 7 b p

/-- The window fault of a bay field (R158). -/
def windowFault (s : State) (f : BitVec 6) (dest second : Bool) : SFault :=
  { code := 1, detail := f.toNat + (if dest then 64 else 0) + (if second then 128 else 0), addr := s.me.pc }

/-- Check a bay field read at issue (R158). -/
def State.readBayCheck (s : State) (slot : Nat) (f : BitVec 6) : Option SFault :=
  faultIf (!readWindow slot (s.rd.bayOf f) (s.phase s.cur)) (windowFault s f false false)

/-- Check a destination bay that a landing reaches lat cycles later (R158). -/
def State.landCheck (s : State) (slot : Nat) (f : BitVec 6) (lat : Nat) : Option SFault :=
  faultIf (!writeWindow slot (s.rd.bayOf f) (s.phase s.cur + lat)) (windowFault s f true false)

/-- All bits of a bay. -/
def allBits : Bay := BitVec.allOnes 1024

/-- A result lands (R159): value, bits written, mask, and whether the prior mask stays (R92). -/
def State.land (s : State) (slot : Nat) (f : BitVec 6) (lat : Nat) (value bits : Bay) (taint : Mask) (unite : Bool) :
    State :=
  s.later lat slot (.land (s.rd.bayOf f) value bits taint unite)

/-! ## Load-data queues -/

/-- The entries of a queue that a pop could take now (R310). -/
def present (q : List QEntry) : Nat := (q.takeWhile (·.filled)).length

/-- A context's queue. -/
def Ctx.queue (c : Ctx) (second : Bool) : List QEntry := if second then c.q1 else c.q0

/-- Replace a context's queue. -/
def Ctx.setQueue (c : Ctx) (second : Bool) (q : List QEntry) : Ctx := if second then { c with q1 := q } else { c with q0 := q }

/-- The fault of popping an entry: poison or a mixed-size overlap (R57, R83, R181). -/
def popFault (e : QEntry) : Option SFault :=
  match e.overlap with
  | some a => some { code := 0x0D, addr := a }
  | none => if e.poison = 0 then none else some { code := 0x14, detail := e.poison }

/-- The oldest entry of a queue, or an empty one. -/
def oldest (q : List QEntry) : QEntry := q.head?.getD { acc := 0 }

/-! ## Vector operands -/

/-- A vector operand as read: its value and mask (R257). -/
structure VOperand where
  value : Bay := 0
  mask : Mask := 0
  deriving DecidableEq, Repr

/-- Repeat the low w bits of a word over a bay. -/
def broadcastBits (w : Nat) (v : Nat) : Bay :=
  BitVec.ofNat 1024 ((List.range (1024 / w)).foldl (fun acc k => acc + v % 2 ^ w * 2 ^ (w * k)) 0)

/-- The number of an anchor (R166). -/
def anchorNo (slot input entry : Nat) : Nat := (slot - 1) * 12 + input * 4 + entry

/-- Read an operand of input `input` in its mode, w bits to an element (R217, R257). The state given has
the pops made so far; the registers are those at issue. -/
def State.readOperand (s : State) (slot input : Nat) (f : BitVec 6) (mode : BitVec 2) (w : Nat) : VOperand :=
  match mode.toNat with
  | 0 => { value := s.rd.bay (s.rd.bayOf f), mask := s.rd.btaint (s.rd.bayOf f) }
  | 1 =>
    let n := anchorNo slot input (f.extractLsb' 0 2).toNat
    { value := fget 0#1024 s.rd.a n, mask := fget 0#9 s.rd.aT n }
  | 2 =>
    let e := oldest (s.me.queue (f.getLsbD 0))
    { value := e.data, mask := e.mask }
  | _ =>
    let r := f.extractLsb' 0 5
    { value := broadcastBits w (s.rd.sreg r).toNat, mask := s.rd.staint r }

/-- The fault of reading an operand: window or a bad queue entry (R158, R57). -/
def State.operandFault (s : State) (slot : Nat) (f : BitVec 6) (mode : BitVec 2) : Option SFault :=
  match mode.toNat with
  | 0 => s.readBayCheck slot f
  | 2 => popFault (oldest (s.me.queue (f.getLsbD 0)))
  | _ => none

/-- Remove the entry that an operand in queue mode takes (R211). -/
def State.popOperand (s : State) (f : BitVec 6) (mode : BitVec 2) : State :=
  if mode = 2#2 then s.modMe fun c => c.setQueue (f.getLsbD 0) (c.queue (f.getLsbD 0)).tail else s

/-- Write an anchor of the issuing context (R166, R273). -/
def State.setAnchor (s : State) (n : Nat) (v : VOperand) : State :=
  s.modRegs fun r => { r with a := fput r.a n v.value, aT := fput r.aT n v.mask }

/-! ## Scratchpad -/

/-- Bytes of the scratchpad (R30). -/
def scratchSize : Nat := 0x300000

/-- Bank of a scratchpad address (R30). -/
def bankOf (a : Nat) : Nat := a / 0x10000

/-- A context owns a bank of its core (R31). -/
def CoreState.owns (k : CoreState) (c bank : Nat) : Bool := fget 0 k.bankOwner bank = c + 1

/-- The issuing context owns a bank as far as its slots check: changes that earlier bundles made count from
the bundle after them (R151, R309). -/
def State.holdsBank (s : State) (bank : Nat) : Bool :=
  (s.me.pend.filter fun p => decide (p.due < s.me.iss.kappa + 2)).foldl (fun held p => match p.act with
    | .bankAcq m => held || m.getLsbD bank
    | .bankRel m => held && !m.getLsbD bank
    | _ => held) (s.myCore.owns s.cur bank)

/-- A bank is still being zeroed (R32). -/
def State.zeroing (s : State) (core bank : Nat) : Bool := decide (s.cycle < fget 0 (s.core core).bankZero bank)

/-- Size of a bay-form access: 32, 64 or 128 bytes, or 8 (R302). -/
def accessSize (w : BitVec 2) : Nat := match w.toNat with | 0 => 8 | 1 => 32 | 2 => 64 | _ => 128

/-- s[base] + sext(imm8)·scale (R301). -/
def State.cmAddr (s : State) (base : BitVec 5) (imm : BitVec 8) (scale : Nat) : Word :=
  s.rd.sreg base + (sext64 imm * BitVec.ofNat 64 scale)

/-- The scratchpad state of a range: out of the scratchpad or in a bank not owned (R30, R31). -/
def State.bankFault (s : State) (addr : Word) (size : Nat) : Option SFault :=
  let a := addr.toNat
  faultIf (decide (scratchSize < a + size) ||
    !(s.holdsBank (bankOf a) && s.holdsBank (bankOf (a + size - 1)))) { code := 9, addr := addr }

/-- The context is in deterministic mode (R109). -/
def State.det (s : State) : Bool := (s.launch s.me.launch).det

/-- A range lies outside an engine's read or write set in deterministic mode (R114, R116). -/
def State.spanFault (s : State) (engine : Nat) (addr : Word) (size : Nat) (write : Bool) : Option SFault :=
  let set := fget 0#48 (if write then s.rd.spanW else s.rd.spanR) engine
  faultIf (s.det && !(set.getLsbD (bankOf addr.toNat) && set.getLsbD (bankOf (addr.toNat + size - 1))))
    { code := 0x0B, addr := addr }

/-- Units of 16 bytes that a range touches. -/
def unitsOf (a size : Nat) : List Nat := (List.range ((a + size - 1) / 16 + 1 - a / 16)).map (· + a / 16)

/-- A scratchpad range includes a poisoned unit (R181). -/
def CoreState.spPoisoned (k : CoreState) (a size : Nat) : Bool := (unitsOf a size).any k.spPoison.contains

/-- Poison of the units that a write covers wholly is cleared (R181). -/
def clearUnits (l : List Nat) (a size : Nat) : List Nat :=
  l.filter fun u => !(decide (a ≤ u * 16) && decide (u * 16 + 16 ≤ a + size))

/-- Checks 4, 5, 6 and 8 of R303 for one run of scratchpad bytes. -/
def State.spFault (s : State) (engine : Nat) (addr : Word) (size align : Nat) (write : Bool) : Option SFault :=
  firstFault (faultIf (addr.toNat % align != 0) { code := 5, addr := addr })
    (firstFault (s.bankFault addr size)
      (firstFault (s.spanFault engine addr size write)
        (faultIf (!write && s.myCore.spPoisoned addr.toNat size) { code := 0x14, detail := 4 })))

/-- A named token is busy (R177, R303). -/
def State.tokenFault (s : State) (tk : BitVec 4) : Option SFault :=
  faultIf (tk.ult 8#4 && (fget {} s.me.tokens tk.toNat).st = 1) { code := 0x0E, detail := 1 }

/-- A token becomes busy at issue (R177, R304). -/
def State.busy (s : State) (tk owner : Nat) (rel : Bool) (scope : Nat) : State :=
  s.modMe fun c => { c with tokens := fput c.tokens tk { st := 1, owner := owner, rel := rel, scope := scope } }

/-- A token completes (R177). -/
def State.tokenDone (s : State) (c tk status : Nat) : State :=
  s.modCtx c fun x =>
    let t : Token := fget {} x.tokens tk
    { x with tokens := fput x.tokens tk { t with st := 2, status := status, stamp := s.tick } }

/-- A token completes in error with its engine-fault record (R28, R177). -/
def State.tokenError (s : State) (c tk : Nat) (e : EngineFault) : State :=
  s.modCtx c fun x =>
    let t : Token := fget {} x.tokens tk
    { x with tokens := fput x.tokens tk { t with st := 3, err := e, stamp := s.tick } }

end Sys2Proof.Machine
end

