-- ==== Sys2Proof/Machine/Manifest.lean ====
section
/-!
DEFINITION. The Manifest (R120–R128, R333, R334): taking an index and a record at issue, matching in replay,
writing a record when its operation performs, SCHED records and the head word.
-/

namespace Sys2Proof.Machine

/-- The launch of a context records, or replays. -/
def State.recording (s : State) (c : Nat) : Bool := (s.launch (s.ctx c).launch).recording
def State.replaying (s : State) (c : Nat) : Bool := (s.launch (s.ctx c).launch).replay

/-- Virtual address of the record with an index (R120). -/
def Manifest.slotVa (m : Manifest) (index : Nat) : Word := m.base + BitVec.ofNat 64 (32 * (index % 2 ^ m.k))

/-- The access that the ring and the control pair need (R120). -/
def ringNeed : Need := { rd := true, wr := true }

/-- Virtual address of the tail word, which the consumer writes (R120). -/
def Manifest.tailVa (m : Manifest) : Word := m.ctl + 8

/-- The tail word as it is read, or the code and detail with which the read fails (R120). -/
def State.tailRead (s : State) (c : Nat) : Except (Nat × Nat) (List Byte) :=
  s.readVia (coreOf c) (s.ctx c).tenant ringNeed (s.ctx c).man.tailVa 8

/-- The tail word; none where it cannot be read. -/
def State.tail (s : State) (c : Nat) : Option Nat := (readBytes (s.tailRead c)).map ofBytes

/-- The ring cannot take `n` further records (R123). A failed tail read fills nothing: the operation
itself faults (R120). -/
def State.ringFull (s : State) (c n : Nat) : Bool :=
  let m := (s.ctx c).man
  match s.tail c with
  | some t => decide (t + 2 ^ m.k ≤ m.next + n - 1)
  | none => false

/-- The 32 bytes of a record (R121). -/
def recordBytes (r : Rec) (order : Nat) (value : Word) : List Byte :=
  toBytes 8 (r.type + r.slot * 2 ^ 8 + r.sub * 2 ^ 11 + (if r.batched then 2 ^ 14 else 0) + r.index % 2 ^ 16 * 2 ^ 16 +
    r.bundles % 2 ^ 32 * 2 ^ 32) ++ toBytes 8 r.place.toNat ++ toBytes 8 order ++ toBytes 8 value.toNat

/-- Firmware's one warning when the index just taken, minus the tail, first reaches three quarters of the ring, repeated
only after it has dropped below: the index before it, minus the tail as it is now, lies below (R123). -/
def State.ringWarning (s : State) (c : Nat) : State :=
  let m := (s.ctx c).man
  match s.tail c with
  | some t =>
    let level := t + 3 * 2 ^ (m.k - 2)
    let high := decide (level < m.next)
    let again := decide (m.next ≤ level + 1)
    let s := s.modCtx c fun x => { x with man := { x.man with warned := high } }
    if high && (!m.warned || again) then s.notice 3 c 0 m.base.toNat else s
  | none => s

/-- The record of a batched operation is known, with the interval exponent of its launch (R126). -/
def State.noteExponent (s : State) (r : Rec) (bytes : List Byte) (ie : Nat) : State :=
  if r.batched && !s.ms.recordedIe.contains (bytes, ie) then s.modMs fun m => { m with recordedIe := (bytes, ie) :: m.recordedIe }
  else s

/-- A write of the device to a ring: to memory that is not there it is discarded as a store's is (R59, R341), and the
near-buffer copy of the core's Quarter goes (R55). -/
def State.ringWrite (s : State) (c pa : Nat) (va : Word) (bytes : List Byte) : State :=
  if s.backed pa then { s with mem := mwrite s.mem pa bytes }.dropNear (quarterOf (coreOf c)) pa
  else (s.modQuarter (homeQuarter pa) fun q => { q with discards := q.discards + 1 }).tellAbsent c pa va.toNat

/-- A record is written to the ring: when the ring page fails, the context stops at its next recorded operation instead (R120,
R123). DESIGN CHOICE (log entry 31): such a record is never written later, and its index stays unwritten, so that the head
does not pass it. -/
def State.writeRecord (s : State) (c : Nat) (r : Rec) (order : Nat) (value : Word) : State :=
  let x := s.ctx c
  let va := x.man.slotVa r.index
  match s.translateNow (coreOf c) x.tenant va ringNeed with
  | (.ok pa _, s) =>
    let ie := (s.launch x.launch).ie
    let bytes := recordBytes r order value
    ((s.ringWrite c pa va bytes).noteExponent r bytes ie).modCtx c fun x =>
      { x with man := { x.man with unwritten := x.man.unwritten.filter (· != r.index) } }
  | (.fault code reason, s) =>
    (s.modCtx c fun x => { x with man := { x.man with err := some { code := code, detail := reason, addr := va } } }).notice
      4 c code va.toNat
  | (.miss, s) => s

/-- The lowest index not yet written (R123). -/
def Manifest.lowest (m : Manifest) : Nat := m.unwritten.foldl min m.next

/-- Take the next index in record mode: a ring access that failed, or the tail read that fails now, is the operation's
fault (R120, R123). -/
def State.takeIndex (s : State) (r : Rec) : Except SFault Rec × State :=
  let m := s.me.man
  match m.err with
  | some e => (.error { code := e.code, detail := e.detail, addr := e.addr }, s)
  | none =>
    match s.tailRead s.cur with
    | .error f => (.error { code := f.1, detail := f.2, addr := m.tailVa }, s)
    | .ok _ =>
      let r := { r with index := m.next }
      let s := s.modMe fun x => { x with man := { x.man with next := m.next + 1, unwritten := x.man.unwritten ++ [m.next] } }
      (.ok r, (s.translateNow (coreOf s.cur) s.me.tenant m.tailVa ringNeed).2.ringWarning s.cur)

/-- The recorded bytes with an index, as replay reads them (R124): a fault where the ring page fails. -/
def State.readRecord (s : State) (c index : Nat) : Except SFault (List Byte) :=
  let va := (s.ctx c).man.slotVa index
  match s.readVia (coreOf c) (s.ctx c).tenant ringNeed va 32 with
  | .ok b => .ok b
  | .error f => .error { code := f.1, detail := f.2, addr := va }

/-- The first index from one on whose record is not SCHED or INTERVAL, as far as `fuel` records on (R124, R333). -/
def skipSched (read : Nat → Option (List Byte)) : (fuel : Nat) → (index : Nat) → Nat
  | 0, index => index
  | n + 1, index =>
    match read index with
    | some b => if ofBytes (b.take 1) = 8 || ofBytes (b.take 1) = 0x0B then skipSched read n (index + 1) else index
    | none => index

/-- The index that the next recording instruction of a Manifest takes in replay (R333). -/
def Manifest.replayAt (m : Manifest) (read : Nat → Option (List Byte)) : Nat := skipSched read (m.head - m.next) m.next

/-- The index that the next recording instruction takes in replay (R333). -/
def State.replayIndex (s : State) (c : Nat) : Nat := (s.ctx c).man.replayAt fun i => readBytes (s.readRecord c i)

/-- The ring page of an index can be translated now (R21, R120). -/
def State.slotReady (s : State) (c index : Nat) : Bool :=
  s.mayTranslate (coreOf c) (s.ctx c).tenant ((s.ctx c).man.slotVa index) ringNeed

/-- The ring accesses of the next recording slot can be translated now (R21, R120). -/
def State.ringReady (s : State) (c : Nat) : Bool :=
  let x := s.ctx c
  (!s.recording c || (s.mayTranslate (coreOf c) x.tenant x.man.tailVa ringNeed && s.slotReady c x.man.next)) &&
    (!s.replaying c || (s.slotReady c x.man.next && s.slotReady c (s.replayIndex c)))

/-- The record that an operation makes, if it makes one now, can be written (R21, R123). -/
def State.recordReady (s : State) (c : Nat) (r : Option Rec) : Bool :=
  match r with
  | some r => r.order.isSome || s.slotReady c r.index
  | none => true

/-- A SCHED record of a launch's team, if it makes one, can be written from a Quarter (R21, R123). -/
def State.schedReady (s : State) (l quarter : Nat) : Bool :=
  !(s.launch l).recording ||
    (decide ((s.quarter quarter).walks.length < Config.walkLimit) &&
      !(s.quarter quarter).walks.any fun w => w.tenant = (s.launch l).tenant)

/-- The gate of a slot that records: its ring's pages, and room in the ring (R21, R123). -/
def State.recordGate (s : State) (records : Bool) : Gate :=
  (waitIf .walk (records && !s.ringReady s.cur)).and (waitIf .manifest (records && s.recording s.cur && s.ringFull s.cur 1))

/-- An INTERVAL record for an interval up to n stands among `fuel` records from an index on (R124). -/
def intervalAhead (read : Nat → Option (List Byte)) (n : Nat) : (fuel index : Nat) → Bool
  | 0, _ => false
  | k + 1, index =>
    (match read index with
      | some b => decide (ofBytes (b.take 1) = 0x0B) && decide (field b 16 8 ≤ n)
      | none => false) || intervalAhead read n k (index + 1)

/-- A Manifest's ring holds an INTERVAL record for an interval up to n that has not been passed (R124). -/
def Manifest.holds (m : Manifest) (read : Nat → Option (List Byte)) (n : Nat) : Bool :=
  intervalAhead read n (m.head - m.replayAt read) (m.replayAt read)

/-- A team's Manifest from its entry of the table, or the failure of its read (R18, R25, R134, R139). -/
def State.manifestOf (s : State) (l : Launch) (t : Nat) : Manifest :=
  if !(l.recording || l.replay) then {}
  else
    let va := l.manifests + BitVec.ofNat 64 (32 * t)
    match s.vreadE l.tenant va.toNat 32 with
    | .ok b => { base := BitVec.ofNat 64 (field b 0 8), k := field b 8 1, ctl := BitVec.ofNat 64 (field b 16 8)
                 head := field b 24 8 }
    | .error f => { err := some { code := f.1, detail := f.2, addr := va } }

/-- A batched record was made under another interval exponent: as the device knows it of the records that it made, and a
free value of a record that it did not make (R126; assumption log, 31). -/
def State.madeOtherwise (s : State) (b : List Byte) (ie : Nat) : Bool :=
  let l := s.ms.recordedIe.filter fun e => e.1 = b
  if l.isEmpty then Config.otherExponent b ie else l.all fun e => e.2 != ie

/-- The value of a record is an operand, which replay compares (R334). -/
def valueCompared (type sub : Nat) : Bool :=
  match type with
  | 4 => false
  | 5 => sub != 0
  | 6 => false
  | _ => true

/-- Match an operation with its recorded one (R124, R125): the divergence, or the record with its order. -/
def matchRecord (b : List Byte) (r : Rec) : Except Nat Rec :=
  let w0 := ofBytes (b.take 8)
  let place := ofBytes ((b.drop 8).take 8)
  let order := ofBytes ((b.drop 16).take 8)
  let value := ofBytes ((b.drop 24).take 8)
  if w0 % 256 != r.type || w0 / 2 ^ 11 % 8 != r.sub || (w0 / 2 ^ 14 % 2 = 1) != r.batched then .error 1
  else if place != r.place.toNat then .error 2
  else if valueCompared r.type r.sub && value != r.value.toNat then .error 3
  else .ok { r with order := some order, gen := value }

/-- Take the next index in replay, matched: a ring access that failed is the operation's fault, and a batched record made under
another interval exponent differs (R18, R120, R124–R126, R333). -/
def State.takeReplay (s : State) (r : Rec) : Except SFault Rec × State :=
  let c := s.cur
  let index := s.replayIndex c
  let diverge (reason : Nat) : Except SFault Rec × State :=
    (.error { code := 0x0C, detail := reason, addr := BitVec.ofNat 64 index }, s)
  match s.me.man.err with
  | some e => (.error { code := e.code, detail := e.detail, addr := e.addr }, s)
  | none =>
    if s.me.man.head ≤ index then diverge 4
    else match s.readRecord c index with
      | .error f => (.error f, s)
      | .ok b =>
        match matchRecord b { r with index := index } with
        | .error reason => diverge reason
        | .ok r =>
          if r.batched && s.madeOtherwise b (s.launch s.me.launch).ie then diverge 1
          else
            let s := (s.translateNow (coreOf c) s.me.tenant (s.me.man.slotVa index) ringNeed).2
            (.ok r, s.modMe fun x => { x with man := { x.man with next := index + 1 } })

/-- A recording slot takes its record at issue: none outside record and replay modes (R123, R124). -/
def State.takeRecord (s : State) (type slot sub : Nat) (batched : Bool) (place value : Word) :
    Except SFault (Option Rec) × State :=
  let r : Rec := { index := 0, type := type, slot := slot, sub := sub, bundles := s.me.bundles, place := place,
                   value := value, batched := batched }
  if s.recording s.cur then
    match s.takeIndex r with
    | (.ok r, s) => (.ok (some r), s)
    | (.error f, s) => (.error f, s)
  else if s.replaying s.cur then
    match s.takeReplay r with
    | (.ok r, s) => (.ok (some r), s)
    | (.error f, s) => (.error f, s)
  else (.ok none, s)

/-- An operation that replay holds at its home (R124). -/
def LsuItem.replayed : LsuItem → Bool
  | .access a => a.rcd.any fun r => r.order.isSome
  | _ => false

/-- A replayed `xcoll` of a context that is held for its group sequence (R124, R125). -/
def DrayCmd.heldFor (y : DrayCmd) (c : Nat) : Bool := y.owner = c && y.kind = 2 && y.rcd.any (·.order.isSome)

/-- A collective operation that a dray's command takes part in runs. -/
def State.inRun (s : State) (core d : Nat) : Bool := s.pf.groups.any fun g => g.2.run.any fun r => r.parts.contains (core, d)

/-- A dray without the held `xcoll`s of a context; one whose operation runs is held no more. -/
def Dray.without (d : Dray) (c : Nat) (runs : Bool) : Dray :=
  let mine (y : DrayCmd) : Bool := y.heldFor c && y.ending.isNone
  let shadow := d.shadow.filter fun y => !mine y
  if !runs && d.running.any mine then { d with running := shadow, shadow := none } else { d with shadow := shadow }

/-- The list without its replayed operations, and what no longer depends on them (R125). -/
def withdrawn (l : List LsuItem) : List LsuItem :=
  let gone : List Nat := (l.filter LsuItem.replayed).filterMap fun i => match i with | .access a => some a.id | _ => none
  (l.filter fun i => !i.replayed).map fun i => match i with
    | .access a => .access { a with deps := a.deps.filter fun n => !gone.contains n }
    | i => i

/-- Replayed operations still held are withdrawn: they never perform, and their tokens and queue entries
go with the context (R125). -/
def State.withdraw (s : State) (c : Nat) : State :=
  (s.modCtx c fun x => { x with lsu := withdrawn x.lsu }).modCore (coreOf c) fun k =>
    { k with drays := k.drays.map fun d => (d.1, d.2.without c (s.inRun (coreOf c) d.1)) }

/-- What a slot that records does: the effect with its record, or the fault and nothing. A ring access that failed is
made anew when the slot is (R29, R120, R123, R125). -/
def State.withRecord (s : State) (type slot sub : Nat) (batched : Bool) (place value : Word)
    (k : Option Rec → State → State) : State :=
  match s.takeRecord type slot sub batched place value with
  | (.ok r, s') => k r s'
  | (.error f, _) =>
    let s := if f.code = 0x0C then s.withdraw s.cur else s.modMe fun x => { x with man := { x.man with err := none } }
    s.raise f.code f.detail slot f.addr

/-- An operation performed with a line order, an arrival position or a group sequence: its record is
written in record mode (R122, R123). -/
def State.performed (s : State) (c : Nat) (r : Option Rec) (order : Nat) (value : Word) : State :=
  match r with
  | some r => if r.order.isSome then s else s.writeRecord c r order value
  | none => s

/-- A SCHED record (R122, R123): dropped on a full ring or a failing ring page. -/
def State.sched (s : State) (c event : Nat) : State :=
  if !s.recording c then s
  else
    let x := s.ctx c
    let drop (s : State) : State :=
      (s.modCtx c fun x => { x with man := { x.man with dropped := x.man.dropped + 1 } }).modTeam x.launch x.team
        fun t => { t with droppedSched := true }
    if s.ringFull c 1 then drop s
    else
      match s.translateNow (coreOf c) x.tenant (x.man.slotVa x.man.next) ringNeed with
      | (.ok _ _, s) =>
        let r : Rec := { index := x.man.next, type := 8, slot := 0, sub := event, bundles := x.bundles,
                         place := BitVec.ofNat 64 event, value := 0 }
        let s := s.modCtx c fun x => { x with man := { x.man with next := x.man.next + 1, dropped := 0 } }
        (s.writeRecord c r s.tick (BitVec.ofNat 64 (c + x.man.dropped * 2 ^ 32))).ringWarning c
      | (.fault code reason, s) =>
        let e : EngineFault := { code := code, detail := reason, addr := x.man.slotVa x.man.next }
        drop ((s.modCtx c fun x => { x with man := { x.man with err := some e } }).notice 4 c code e.addr.toNat)
      | (.miss, s) => drop s

/-- The first unmatched record that is not SCHED or INTERVAL when `done` issues in replay (R125). -/
def State.replayLeft (s : State) : Option Nat :=
  let i := s.replayIndex s.cur
  if s.replaying s.cur && decide (i < s.me.man.head) then some i else none

end Sys2Proof.Machine
end

