-- ==== Sys2Proof/Machine/Numbers.lean ====
section
/-!
DEFINITION. Number formats and exact arithmetic (chapter 9). A floating operand is decoded to a sign, an
integer and a power of two; every operation is exact, and its result is rounded once. A value that is not
dyadic is given by enough leading bits and a sticky mark.
-/

namespace Sys2Proof.Machine

/-- The floating formats of R192. -/
inductive FFmt | f32 | bf16 | f16 | e4m3 | e5m2 | e2m1
  deriving DecidableEq, Repr

namespace FFmt
/-- Width in bits (R192). -/
def width : FFmt → Nat | f32 => 32 | bf16 => 16 | f16 => 16 | e4m3 => 8 | e5m2 => 8 | e2m1 => 4
/-- Fraction bits (R192). -/
def mb : FFmt → Nat | f32 => 23 | bf16 => 7 | f16 => 10 | e4m3 => 3 | e5m2 => 2 | e2m1 => 1
/-- Exponent bits (R192). -/
def eb : FFmt → Nat | f32 => 8 | bf16 => 8 | f16 => 5 | e4m3 => 4 | e5m2 => 5 | e2m1 => 2
/-- Bias (R192). -/
def bias : FFmt → Int | f32 => 127 | bf16 => 127 | f16 => 15 | e4m3 => 7 | e5m2 => 15 | e2m1 => 1
/-- The encoding of the largest finite value (R192). -/
def maxFinite : FFmt → Nat
  | f32 => 0x7F7FFFFF | bf16 => 0x7F7F | f16 => 0x7BFF | e4m3 => 0x7E | e5m2 => 0x7B | e2m1 => 0x7
/-- The default NaN; E2M1 has none, and a NaN becomes 0 there (R192, R199). -/
def nan : FFmt → Nat
  | f32 => 0x7FC00000 | bf16 => 0x7FC0 | f16 => 0x7E00 | e4m3 => 0x7F | e5m2 => 0x7E | e2m1 => 0
/-- Formats that have infinities (R192). -/
def hasInf : FFmt → Bool | e4m3 => false | e2m1 => false | _ => true
/-- Formats that daz and ftz govern (R198). -/
def flushed : FFmt → Bool | f32 => true | bf16 => true | f16 => true | _ => false
/-- The sign bit's place. -/
def signBit (f : FFmt) : Nat := f.width - 1
end FFmt

/-- A decoded floating value: NaN, an infinity, or ±m·2^e. -/
inductive FV
  | nan
  | inf (neg : Bool)
  | num (neg : Bool) (m : Nat) (e : Int)
  deriving DecidableEq, Repr

namespace FV
def zero (neg : Bool) : FV := .num neg 0 0
def isNan : FV → Bool | .nan => true | _ => false
def isInf : FV → Bool | .inf _ => true | _ => false
def isZero : FV → Bool | .num _ 0 _ => true | _ => false
def sign : FV → Bool | .nan => false | .inf n => n | .num n _ _ => n
def negate : FV → FV | .nan => .nan | .inf n => .inf !n | .num n m e => .num (!n) m e
end FV

/-- Decode an encoding; daz reads a subnormal of the wide formats as a zero of its sign (R192, R198). -/
def decodeF (f : FFmt) (daz : Bool) (bits : Nat) : FV :=
  let neg := bits / 2 ^ f.signBit % 2 = 1
  let e := bits / 2 ^ f.mb % 2 ^ f.eb
  let fr := bits % 2 ^ f.mb
  if f.hasInf && e = 2 ^ f.eb - 1 then (if fr = 0 then .inf neg else .nan)
  else if f = .e4m3 && e = 15 && fr = 7 then .nan
  else if e = 0 then
    if daz && f.flushed then .zero neg else .num neg fr (1 - f.bias - (f.mb : Int))
  else .num neg (2 ^ f.mb + fr) ((e : Int) - f.bias - (f.mb : Int))

/-- Rounding modes of R196: 0 RNE, 1 RTZ, 2 RDN, 3 RUP. -/
abbrev RM := BitVec 2

/-- Bits in a natural number. -/
def bitLen (n : Nat) : Nat := if n = 0 then 0 else n.log2 + 1

/-- m·2^e, with an inexact rest above it when sticky, as a multiple of 2^q: the integer part and
whether anything was left, rounded in a mode for a sign (R196). -/
def quantize (rm : RM) (neg : Bool) (m : Nat) (e : Int) (sticky : Bool) (q : Int) : Nat × Bool :=
  if q ≤ e then
    let v := m * 2 ^ (e - q).toNat
    if sticky then (if rm = 3#2 && !neg || rm = 2#2 && neg then (v + 1, true) else (v, true)) else (v, false)
  else
    let sh := (q - e).toNat
    let v := m / 2 ^ sh
    let rest := m % 2 ^ sh
    let half := 2 ^ (sh - 1)
    let inexact := rest != 0 || sticky
    let up := match rm.toNat with
      | 0 => decide (half < rest) || (rest = half && (sticky || v % 2 = 1))
      | 1 => false
      | 2 => neg && inexact
      | _ => !neg && inexact
    (if up then v + 1 else v, inexact)

/-- The exponent of the smallest normal value of a format. -/
def FFmt.emin (f : FFmt) : Int := 1 - f.bias

/-- The largest finite magnitude of a format as an integer multiple of 2^maxExp. -/
def FFmt.maxMag (f : FFmt) : Nat × Int :=
  (2 ^ f.mb + f.maxFinite % 2 ^ f.mb, ((f.maxFinite / 2 ^ f.mb : Nat) : Int) - f.bias - (f.mb : Int))

/-- a·2^x is above b·2^y. -/
def magGt (a : Nat) (x : Int) (b : Nat) (y : Int) : Bool :=
  if y ≤ x then decide (b < a * 2 ^ (x - y).toNat) else decide (b * 2 ^ (y - x).toNat < a)

/-- An overflowing result: by mode, or the largest finite value where the format has no infinity (R197). -/
def overflowBits (f : FFmt) (rm : RM) (neg : Bool) : Nat :=
  let s := if neg then 2 ^ f.signBit else 0
  let inf := (2 ^ f.eb - 1) * 2 ^ f.mb
  if !f.hasInf then s + f.maxFinite
  else match rm.toNat with
    | 0 => s + inf
    | 1 => s + f.maxFinite
    | 2 => if neg then s + inf else s + f.maxFinite
    | _ => if neg then s + f.maxFinite else s + inf

/-- Round a non-zero finite value once, check it against the format, and encode it (R196–R199). -/
def roundMag (f : FFmt) (rm : RM) (ftz neg : Bool) (m : Nat) (e : Int) (sticky : Bool) : Nat × Flags :=
  let s := if neg then 2 ^ f.signBit else 0
  let p := f.mb + 1
  let q := e + (bitLen m : Int) - p
  let (r, ix) := quantize rm neg m e sticky q
  let (r, q) := if r = 2 ^ p then (2 ^ (p - 1), q + 1) else (r, q)
  let mm := f.maxMag
  if magGt r q mm.1 mm.2 then (overflowBits f rm neg, Flag.ovf ||| Flag.nx)
  else if q + (p : Int) - 1 < f.emin then
    if ftz && f.flushed then (s, Flag.uf ||| Flag.nx)
    else
      let (r, ix) := quantize rm neg m e sticky (f.emin - (f.mb : Int))
      (s + r, if ix then Flag.uf ||| Flag.nx else Flag.none)
  else
    (s + (q + (p : Int) - 1 + f.bias).toNat * 2 ^ f.mb + (r - 2 ^ f.mb), Flag.when' ix Flag.nx)

/-- Deliver a value in a format (R195, R197, R199): NaN and infinities as the table of R199 gives. -/
def deliver (f : FFmt) (rm : RM) (ftz : Bool) (v : FV) (sticky : Bool := false) : Nat × Flags :=
  match v with
  | .nan => (f.nan, Flag.when' (f = .e2m1) Flag.nv)
  | .inf neg =>
    let s := if neg then 2 ^ f.signBit else 0
    match f with
    | .e4m3 => (f.nan, Flag.nv)
    | .e2m1 => (s + f.maxFinite, Flag.nv)
    | _ => (s + (2 ^ f.eb - 1) * 2 ^ f.mb, Flag.none)
  | .num neg m e =>
    if m = 0 then (if neg then 2 ^ f.signBit else 0, Flag.none) else roundMag f rm ftz neg m e sticky

/-! ## Exact operations -/

/-- The signed integer of a finite value at exponent x, where x ≤ e. -/
def signedAt (neg : Bool) (m : Nat) (e x : Int) : Int :=
  let v : Int := (m * 2 ^ (e - x).toNat : Nat)
  if neg then -v else v

/-- A value from a signed integer and an exponent, with the sign an exact zero takes (R204). -/
def ofSigned (n : Int) (e : Int) (zeroNeg : Bool) : FV :=
  if n = 0 then .zero zeroNeg else .num (decide (n < 0)) n.natAbs e

/-- Exact sum, with the sign of an exact zero under a mode, and the invalid flag (R195, R204, R262). -/
def addV (rm : RM) (a b : FV) : FV × Flags :=
  match a, b with
  | .nan, _ => (.nan, Flag.none)
  | _, .nan => (.nan, Flag.none)
  | .inf n, .inf k => if n = k then (.inf n, Flag.none) else (.nan, Flag.nv)
  | .inf n, _ => (.inf n, Flag.none)
  | _, .inf k => (.inf k, Flag.none)
  | .num n x e, .num k y g =>
    if x = 0 && y = 0 then (.zero (if n = k then n else rm = 2#2), Flag.none)
    else
      let lo := min e g
      (ofSigned (signedAt n x e lo + signedAt k y g lo) lo (rm = 2#2), Flag.none)

/-- Exact product, and the invalid flag of 0·∞ (R262). -/
def mulV (a b : FV) : FV × Flags :=
  match a, b with
  | .nan, _ => (.nan, Flag.none)
  | _, .nan => (.nan, Flag.none)
  | .inf n, v => if v.isZero then (.nan, Flag.nv) else (.inf (n != v.sign), Flag.none)
  | v, .inf n => if v.isZero then (.nan, Flag.nv) else (.inf (n != v.sign), Flag.none)
  | .num n x e, .num k y g => (.num (n != k) (x * y) (e + g), Flag.none)

/-- Exact a·b + c (R261, R262): a NaN operand raises nothing. -/
def fmaV (rm : RM) (a b c : FV) : FV × Flags :=
  if a.isNan || b.isNan || c.isNan then (.nan, Flag.none)
  else
    let (p, f) := mulV a b
    if f = Flag.none then addV rm p c else (.nan, f)

/-- a < b in the order with −0 below +0, for values that are not NaN (R106, R262, R285). -/
def ltV (a b : FV) : Bool :=
  match a, b with
  | .nan, _ => false
  | _, .nan => false
  | .inf n, .inf k => n && !k
  | .inf n, _ => n
  | _, .inf k => !k
  | .num n x e, .num k y g =>
    if x = 0 && y = 0 then n && !k
    else
      let lo := min e g
      decide (signedAt n x e lo < signedAt k y g lo)

/-- a = b as numbers, −0 equal to +0; false with a NaN (R262). -/
def eqV (a b : FV) : Bool :=
  match a, b with
  | .inf n, .inf k => n = k
  | .num n x e, .num k y g =>
    let lo := min e g
    signedAt n x e lo = signedAt k y g lo
  | _, _ => false

/-- min under R262: one NaN gives the other operand. -/
def minV (a b : FV) : FV :=
  match a, b with
  | .nan, v => v
  | v, .nan => v
  | _, _ => if ltV b a then b else a

/-- max under R262. -/
def maxV (a b : FV) : FV :=
  match a, b with
  | .nan, v => v
  | v, .nan => v
  | _, _ => if ltV a b then b else a

/-! ## Integers -/

/-- Two's complement value of the low w bits. -/
def intOf (w n : Nat) : Int := if n / 2 ^ (w - 1) % 2 = 1 then ((n % 2 ^ w : Nat) : Int) - 2 ^ w else ((n % 2 ^ w : Nat) : Int)

/-- The low w bits of an integer. -/
def bitsOf (w : Nat) (n : Int) : Nat := (n % 2 ^ w).toNat

/-- Clip to the signed range of w bits; of when it clips (R200). -/
def clip (w : Nat) (n : Int) : Int × Flags :=
  if n < -(2 ^ (w - 1)) then (-(2 ^ (w - 1)), Flag.ovf)
  else if n > 2 ^ (w - 1) - 1 then (2 ^ (w - 1) - 1, Flag.ovf)
  else (n, Flag.none)

/-- An exact integer result wrapped, or clipped when sat is set (R200, R263). -/
def intResult (sat : Bool) (w : Nat) (n : Int) : Nat × Flags :=
  if sat then (bitsOf w (clip w n).1, (clip w n).2) else (bitsOf w n, Flag.none)

/-- A floating value converted to a w-bit integer (R200). -/
def floatToInt (w : Nat) (rm : RM) (v : FV) : Nat × Flags :=
  match v with
  | .nan => (0, Flag.nv)
  | .inf neg => (if neg then 2 ^ (w - 1) else 2 ^ (w - 1) - 1, Flag.nv)
  | .num neg m e =>
    if decide (e > 200) && m != 0 then (if neg then 2 ^ (w - 1) else 2 ^ (w - 1) - 1, Flag.nv)
    else
      let (r, ix) := quantize rm neg m e false 0
      let n : Int := if neg then -(r : Int) else r
      let (c, f) := clip w n
      if f = Flag.none then (bitsOf w c, Flag.when' ix Flag.nx) else (bitsOf w c, Flag.nv)

/-- An integer as a value. -/
def intToFV (n : Int) : FV := ofSigned n 0 false

/-! ## Special functions (R205, R206, R270) -/

/-- The largest number of at most `bits` bits that satisfies a downward-closed test. -/
def searchUp (test : Nat → Bool) : (bits : Nat) → Nat → Nat
  | 0, acc => acc
  | k + 1, acc => if test (acc + 2 ^ k) then searchUp test k (acc + 2 ^ k) else searchUp test k acc

/-- Integer square root, and whether anything is left. -/
def isqrt (n : Nat) : Nat × Bool :=
  let r := searchUp (fun x => decide (x * x ≤ n)) ((bitLen n + 1) / 2 + 1) 0
  (r, r * r != n)

/-- √(m·2^e) as leading bits, an exponent and a sticky mark. -/
def sqrtMag (m : Nat) (e : Int) : Nat × Int × Bool :=
  let (m, e) := if e % 2 = 0 then (m, e) else (2 * m, e - 1)
  let (r, st) := isqrt (m * 2 ^ 80)
  (r, (e - 80) / 2, st)

/-- 1/(m·2^e). -/
def rcpMag (m : Nat) (e : Int) : Nat × Int × Bool :=
  let k := bitLen m + 64
  (2 ^ k / m, -(k : Int) - e, 2 ^ k % m != 0)

/-- 1/√(m·2^e). -/
def rsqMag (m : Nat) (e : Int) : Nat × Int × Bool :=
  let (m, e) := if e % 2 = 0 then (m, e) else (2 * m, e - 1)
  let k := bitLen m + 64
  let r := searchUp (fun x => decide (x * x * m ≤ 2 ^ (2 * k))) (k + 1) 0
  (r, -(k : Int) - e / 2, r * r * m != 2 ^ (2 * k))

/-- Significant bits of the approximations (R205). -/
def approxBits : FFmt → Nat | .f32 => 12 | .f16 => 11 | .bf16 => 8 | f => f.mb + 1

/-- An approximation's single RNE rounding to p bits or to the subnormal spacing; of on overflow, uf
where a tiny or zero delivery differs from the exact value, never nx (R205, R270). -/
def approxRound (f : FFmt) (ftz neg : Bool) (m : Nat) (e : Int) (sticky : Bool) : Nat × Flags :=
  let s := if neg then 2 ^ f.signBit else 0
  let p := approxBits f
  let qn := e + (bitLen m : Int) - p
  let qs := f.emin - (f.mb : Int)
  let q := if qn < qs then qs else qn
  let (r, ix) := quantize 0#2 neg m e sticky q
  let mm := f.maxMag
  if magGt r q mm.1 mm.2 then (s + (2 ^ f.eb - 1) * 2 ^ f.mb, Flag.ovf)
  else if r = 0 then (s, Flag.uf)
  else if q + (bitLen r : Int) - 1 < f.emin then
    if ftz then (s, Flag.uf)
    else (s + r * 2 ^ (q - qs).toNat, Flag.when' ix Flag.uf)
  else
    let l := bitLen r
    let fr := if l ≤ f.mb + 1 then r * 2 ^ (f.mb + 1 - l) else r / 2 ^ (l - f.mb - 1)
    (s + (q + (l : Int) - 1 + f.bias).toNat * 2 ^ f.mb + (fr - 2 ^ f.mb), Flag.none)

/-- Fraction bits of the fixed-point evaluation of the transcendental functions. -/
def fx : Nat := 160

/-- ln 2 with 200 fraction bits. -/
def ln2Fix : Nat := 1113844574712631719546256151097547306333272293549090750737802

/-- log2 e with 200 fraction bits. -/
def log2eFix : Nat := 2318321547468254865173387471183990171487108758923299108729110

/-- Σ t^k/k! from a term on: `term` is t^(k−1)/(k−1)!. -/
def expSeries (t : Nat) : (n : Nat) → (k term acc : Nat) → Nat
  | 0, _, _, acc => acc
  | n + 1, k, term, acc =>
    let term := term * t / 2 ^ fx / k
    expSeries t n (k + 1) term (acc + term)

/-- 2^f for a fraction f with fx bits: a number in [1, 2) with fx bits. -/
def exp2Frac (f : Nat) : Nat :=
  let t := f * ln2Fix / 2 ^ 200
  expSeries t 45 1 (2 ^ fx) (2 ^ fx)

/-- 2^(n·2^−fx) for a signed fixed-point n: leading bits and exponent. -/
def exp2Fix (n : Int) : Nat × Int :=
  let i := n / 2 ^ fx
  let f := (n % 2 ^ fx).toNat
  (exp2Frac f, i - (fx : Int))

/-- ±m·2^e in fixed point with fx fraction bits, magnitudes above 2^12 held at 2^12. -/
def toFix (neg : Bool) (m : Nat) (e : Int) : Int :=
  let v : Int :=
    if (12 : Int) < e + (bitLen m : Int) then 2 ^ (fx + 12)
    else if 0 ≤ e + (fx : Int) then ((m * 2 ^ (e + (fx : Int)).toNat : Nat) : Int)
    else ((m / 2 ^ (-(e + (fx : Int))).toNat : Nat) : Int)
  if neg then -v else v

/-- Bits of log2 of a fixed-point number in [1, 2). -/
def log2Bits : (n : Nat) → (x acc : Nat) → Nat
  | 0, _, acc => acc
  | n + 1, x, acc =>
    let y := x * x / 2 ^ fx
    if 2 ^ (fx + 1) ≤ y then log2Bits n (y / 2) (2 * acc + 1) else log2Bits n y (2 * acc)

/-- Whether m is a power of two. -/
def isPow2 (m : Nat) : Bool := m != 0 && 2 ^ m.log2 = m

/-- exp2 of a finite value (R270). -/
def exp2V (f : FFmt) (ftz neg : Bool) (m : Nat) (e : Int) : Nat × Flags :=
  if m = 0 then deliver f 0#2 false (.num false 1 0)
  else
    let n := toFix neg m e
    if n % 2 ^ fx = 0 && decide (0 ≤ e + (fx : Int)) then
      approxRound f ftz false 1 (n / 2 ^ fx) false
    else
      let (r, x) := exp2Fix n
      approxRound f ftz false r x true

/-- log2 of a positive finite value (R270). -/
def log2V (f : FFmt) (ftz : Bool) (m : Nat) (e : Int) : Nat × Flags :=
  let l := m.log2
  let i : Int := e + l
  if isPow2 m then
    if i = 0 then (0, Flag.none) else approxRound f ftz (decide (i < 0)) i.natAbs 0 false
  else
    let x := m * 2 ^ fx / 2 ^ l
    let fr := log2Bits 130 x 0
    let n : Int := i * 2 ^ 130 + fr
    if 0 ≤ n then approxRound f ftz false n.toNat (-130) true
    else
      -- the exact value lies just above n: its magnitude just below |n|
      approxRound f ftz true (n.natAbs * 2 - 1) (-131) true

/-- tanh of a finite non-zero value (R270). -/
def tanhV (f : FFmt) (ftz neg : Bool) (m : Nat) (e : Int) : Nat × Flags :=
  if e + (bitLen m : Int) < -40 then approxRound f ftz neg (m * 2 ^ 60 - 1) (e - 60) true
  else if (12 : Int) ≤ e + (bitLen m : Int) then approxRound f ftz neg (2 ^ 200 - 1) (-200) true
  else
    let (r, x) := exp2Fix (toFix false m (e + 1) * log2eFix / 2 ^ 200)
    -- E = r·2^x ≥ 1: (E − 1)/(E + 1)
    let big := if 0 ≤ x then r * 2 ^ x.toNat * 2 ^ fx else r * 2 ^ (x + (fx : Int)).toNat
    approxRound f ftz neg ((big - 2 ^ fx) * 2 ^ 200 / (big + 2 ^ fx)) (-200) true

/-- sigm of a finite non-zero value (R270). -/
def sigmV (f : FFmt) (ftz neg : Bool) (m : Nat) (e : Int) : Nat × Flags :=
  if (12 : Int) ≤ e + (bitLen m : Int) then
    if neg then approxRound f ftz false 1 (-4000) true else approxRound f ftz false (2 ^ 200 - 1) (-200) true
  else if e + (bitLen m : Int) < -100 then
    -- 1/2 plus or minus a quarter of x
    if neg then approxRound f ftz false (2 ^ 200 - 1) (-201) true else approxRound f ftz false (2 ^ 200) (-201) true
  else
    let (r, x) := exp2Fix (-(toFix false m e * log2eFix / 2 ^ 200))
    -- E = r·2^x ≤ 1 stands for e^(−|x|): 1/(1 + E), or E/(1 + E) for a negative argument
    let k := (-x).toNat
    let den := 2 ^ k + r
    if neg then approxRound f ftz false (r * 2 ^ 200 / den) (-200) true
    else approxRound f ftz false (2 ^ (k + 200) / den) (-200) true

end Sys2Proof.Machine
end

