-- ==== Sys2Proof/Machine/Scalar.lean ====
section
/-!
DEFINITION. The scalar slot (chapter 11, with R99, R100, R115): one meaning for each S instruction over the
shared forms of R229–R233, and the rules for tokens, barriers, tables and system registers.
-/

namespace Sys2Proof.Machine

/-- The decode rules that an instruction's own fields must meet, with the reason R226 gives. -/
def staticGate (i : Instr) : Gate :=
  if i.wellFormed then .go
  else
    match Decode.encode i with
    | some w =>
      match Decode.decodeSlot w.slot w.cls w.bits with
      | .ok _ => .refuse 2
      | .error r => .refuse r
    | none => .refuse 1

/-! ## Shared forms -/

/-- Change only the mask of a register that a guard kept from being written (R229). -/
def State.taintS (s : State) (d : BitVec 5) (t : Mask) : State :=
  if d = 0#5 then s else s.modRegs fun r => { r with sT := fput r.sT d.toNat t }

/-- Change only the mask of a predicate that a guard kept from being written (R229). -/
def State.taintP (s : State) (d : BitVec 5) (t : Mask) : State :=
  if d = 0#5 then s else s.modRegs fun r => { r with pT := fput r.pT d.toNat t }

/-- The write of an SR form to a register under its guard (R229). -/
def State.guardedS (s : State) (d g : BitVec 5) (v : Word) (t : Mask) : State :=
  let r := s.rd
  let t := t ||| r.ptaint g ||| (if g = 0#5 then 0#9 else r.staint d)
  if (r.preg g).getLsbD 0 then s.writeS d v t else s.taintS d t

/-- The write of an SR form to a predicate under its guard (R229, R232, R233). -/
def State.guardedP (s : State) (d g : BitVec 5) (v : Pred) (t : Mask) : State :=
  let r := s.rd
  let t := t ||| r.ptaint g ||| (if g = 0#5 then 0#9 else r.ptaint d)
  if (r.preg g).getLsbD 0 then s.writeP d v t else s.taintP d t

/-- A two-source SR form (R230). -/
def srForm (i : Instr) (d a b g : BitVec 5) (f : Word → Word → Word) (s : State) : Host.Outcome State Fault Refusal :=
  gated 0 (staticGate i) (fun s =>
    s.guardedS d g (f (s.rd.sreg a) (s.rd.sreg b)) (s.rd.staint a ||| s.rd.staint b)) s

/-- A one-source SR form (R230). -/
def srForm1 (i : Instr) (d a g : BitVec 5) (f : Word → Word) (s : State) : Host.Outcome State Fault Refusal :=
  gated 0 (staticGate i) (fun s => s.guardedS d g (f (s.rd.sreg a)) (s.rd.staint a)) s

/-- A division form: its flags are recorded only when the result is written (R207, R229). -/
def divForm (i : Instr) (d a b g : BitVec 5) (f : Word → Word → Word × Flags) (s : State) :
    Host.Outcome State Fault Refusal :=
  gated 0 (staticGate i) (fun s =>
    let x := f (s.rd.sreg a) (s.rd.sreg b)
    let t := s.guardedS d g x.1 (s.rd.staint a ||| s.rd.staint b)
    if (s.rd.preg g).getLsbD 0 then t.recordMe 0 x.2 else t) s

/-- An SI form (R231). -/
def siForm (i : Instr) (d a : BitVec 5) (f : Word → Word) (s : State) : Host.Outcome State Fault Refusal :=
  gated 0 (staticGate i) (fun s => s.writeS d (f (s.rd.sreg a)) (s.rd.staint a)) s

/-- All ones where a relation holds (R232). -/
def verdict (b : Bool) : Pred := if b then 0xFFFFFFFF#32 else 0#32

/-- An SR compare (R232). -/
def cmpForm (i : Instr) (d a b g : BitVec 5) (f : Word → Word → Bool) (s : State) : Host.Outcome State Fault Refusal :=
  gated 0 (staticGate i) (fun s =>
    s.guardedP d g (verdict (f (s.rd.sreg a) (s.rd.sreg b))) (s.rd.staint a ||| s.rd.staint b)) s

/-- An SI compare (R232). -/
def cmpiForm (i : Instr) (d a : BitVec 5) (imm : BitVec 15) (f : Word → Word → Bool) (s : State) :
    Host.Outcome State Fault Refusal :=
  gated 0 (staticGate i) (fun s => s.writeP d (verdict (f (s.rd.sreg a) (sext64 imm))) (s.rd.staint a)) s

/-- A two-source predicate form (R233). -/
def predForm (i : Instr) (d a b g : BitVec 5) (f : Pred → Pred → Pred) (s : State) : Host.Outcome State Fault Refusal :=
  gated 0 (staticGate i) (fun s =>
    s.guardedP d g (f (s.rd.preg a) (s.rd.preg b)) (s.rd.ptaint a ||| s.rd.ptaint b)) s

/-! ## Values -/

/-- Bits [127:64] of a signed product (R230). -/
def mulHigh (a b : Word) : Word := BitVec.ofInt 64 (a.toInt * b.toInt / 2 ^ 64)

/-- Bits [127:64] of an unsigned product (R230). -/
def mulHighU (a b : Word) : Word := BitVec.ofNat 64 (a.toNat * b.toNat / 2 ^ 64)

/-- Signed division truncated toward zero: quotient, remainder and the flags of `div` (R207). -/
def divSigned (a b : Word) : Word × Word × Flags :=
  if b = 0#64 then (0#64, a, Flag.dz)
  else if a = 0x8000000000000000#64 && b = 0xFFFFFFFFFFFFFFFF#64 then (a, 0#64, Flag.ovf)
  else (BitVec.ofInt 64 (a.toInt.tdiv b.toInt), BitVec.ofInt 64 (a.toInt.tmod b.toInt), Flag.none)

/-- Unsigned division (R207). -/
def divUnsigned (a b : Word) : Word × Word × Flags :=
  if b = 0#64 then (0#64, a, Flag.dz)
  else (BitVec.ofNat 64 (a.toNat / b.toNat), BitVec.ofNat 64 (a.toNat % b.toNat), Flag.none)

/-- Leading zeros; 64 of 0 (R230). -/
def leadingZeros (a : Word) : Word := BitVec.ofNat 64 (64 - bitLen a.toNat)

/-- Trailing zeros among the bits from position i on. -/
def trailingFrom (a : Word) : (fuel i : Nat) → Nat
  | 0, i => i
  | n + 1, i => if a.getLsbD i then i else trailingFrom a n (i + 1)

/-- Trailing zeros; 64 of 0 (R230). -/
def trailingZeros (a : Word) : Word := BitVec.ofNat 64 (trailingFrom a 64 0)

/-- Number of one bits (R230). -/
def popCount (a : Word) : Word :=
  BitVec.ofNat 64 ((List.range 64).foldl (fun n i => if a.getLsbD i then n + 1 else n) 0)

/-! ## Arithmetic and logic -/

def execNop (s : State) : Host.Outcome State Fault Refusal := gated 0 (staticGate .nop) id s
def execAdd (d a b g : BitVec 5) (s : State) := srForm (.add d a b g) d a b g (· + ·) s
def execSub (d a b g : BitVec 5) (s : State) := srForm (.sub d a b g) d a b g (· - ·) s
def execMul (d a b g : BitVec 5) (s : State) := srForm (.mul d a b g) d a b g (· * ·) s
def execMulh (d a b g : BitVec 5) (s : State) := srForm (.mulh d a b g) d a b g mulHigh s
def execMulhu (d a b g : BitVec 5) (s : State) := srForm (.mulhu d a b g) d a b g mulHighU s
def execDiv (d a b g : BitVec 5) (s : State) :=
  divForm (.div d a b g) d a b g (fun x y => ((divSigned x y).1, (divSigned x y).2.2)) s
def execDivu (d a b g : BitVec 5) (s : State) :=
  divForm (.divu d a b g) d a b g (fun x y => ((divUnsigned x y).1, (divUnsigned x y).2.2)) s
/-- `rem` sets no flag in the overflow case of `div` (R207). -/
def execRem (d a b g : BitVec 5) (s : State) :=
  divForm (.rem d a b g) d a b g (fun x y => ((divSigned x y).2.1, (divSigned x y).2.2 &&& Flag.dz)) s
def execRemu (d a b g : BitVec 5) (s : State) :=
  divForm (.remu d a b g) d a b g (fun x y => ((divUnsigned x y).2.1, (divUnsigned x y).2.2)) s
def execAnd (d a b g : BitVec 5) (s : State) := srForm (.and d a b g) d a b g (· &&& ·) s
def execOr (d a b g : BitVec 5) (s : State) := srForm (.or d a b g) d a b g (· ||| ·) s
def execXor (d a b g : BitVec 5) (s : State) := srForm (.xor d a b g) d a b g (· ^^^ ·) s
def execShl (d a b g : BitVec 5) (s : State) := srForm (.shl d a b g) d a b g (fun x y => x <<< (y.toNat % 64)) s
def execShr (d a b g : BitVec 5) (s : State) := srForm (.shr d a b g) d a b g (fun x y => x >>> (y.toNat % 64)) s
def execSra (d a b g : BitVec 5) (s : State) := srForm (.sra d a b g) d a b g (fun x y => x.sshiftRight (y.toNat % 64)) s
def execMin (d a b g : BitVec 5) (s : State) := srForm (.min d a b g) d a b g (fun x y => if y.slt x then y else x) s
def execMinu (d a b g : BitVec 5) (s : State) := srForm (.minu d a b g) d a b g (fun x y => if y.ult x then y else x) s
def execMax (d a b g : BitVec 5) (s : State) := srForm (.max d a b g) d a b g (fun x y => if x.slt y then y else x) s
def execMaxu (d a b g : BitVec 5) (s : State) := srForm (.maxu d a b g) d a b g (fun x y => if x.ult y then y else x) s

/-- `sel`: the selecting predicate is a source of the mask (R91, R230). -/
def execSel (d a b g f : BitVec 5) (s : State) : Host.Outcome State Fault Refusal :=
  gated 0 (staticGate (.sel d a b g f)) (fun s =>
    s.guardedS d g (if (s.rd.preg f).getLsbD 0 then s.rd.sreg a else s.rd.sreg b)
      (s.rd.staint a ||| s.rd.staint b ||| s.rd.ptaint f)) s

def execClz (d a g : BitVec 5) (s : State) := srForm1 (.clz d a g) d a g leadingZeros s
def execCtz (d a g : BitVec 5) (s : State) := srForm1 (.ctz d a g) d a g trailingZeros s
def execPopc (d a g : BitVec 5) (s : State) := srForm1 (.popc d a g) d a g popCount s
def execAddi (d a : BitVec 5) (imm : BitVec 15) (s : State) := siForm (.addi d a imm) d a (· + sext64 imm) s
def execAndi (d a : BitVec 5) (imm : BitVec 15) (s : State) := siForm (.andi d a imm) d a (· &&& sext64 imm) s
def execOri (d a : BitVec 5) (imm : BitVec 15) (s : State) := siForm (.ori d a imm) d a (· ||| sext64 imm) s
def execXori (d a : BitVec 5) (imm : BitVec 15) (s : State) := siForm (.xori d a imm) d a (· ^^^ sext64 imm) s
def execShli (d a : BitVec 5) (imm : BitVec 6) (s : State) := siForm (.shli d a imm) d a (· <<< imm.toNat) s
def execShri (d a : BitVec 5) (imm : BitVec 6) (s : State) := siForm (.shri d a imm) d a (· >>> imm.toNat) s
def execSrai (d a : BitVec 5) (imm : BitVec 6) (s : State) := siForm (.srai d a imm) d a (·.sshiftRight imm.toNat) s
/-- `lim`: no source, an empty mask (R231). -/
def execLim (d : BitVec 5) (imm : BitVec 15) (s : State) : Host.Outcome State Fault Refusal :=
  gated 0 (staticGate (.lim d imm)) (fun s => s.writeS d (sext64 imm) 0#9) s
def execLims (d a : BitVec 5) (imm : BitVec 15) (s : State) := siForm (.lims d a imm) d a (fun x => (x <<< 15) ||| zext64 imm) s

/-! ## Compares and predicates -/

def execCmpEq (d a b g : BitVec 5) (s : State) := cmpForm (.cmpEq d a b g) d a b g (fun x y => x == y) s
def execCmpNe (d a b g : BitVec 5) (s : State) := cmpForm (.cmpNe d a b g) d a b g (fun x y => x != y) s
def execCmpLt (d a b g : BitVec 5) (s : State) := cmpForm (.cmpLt d a b g) d a b g (fun x y => x.slt y) s
def execCmpLtu (d a b g : BitVec 5) (s : State) := cmpForm (.cmpLtu d a b g) d a b g (fun x y => x.ult y) s
def execCmpLe (d a b g : BitVec 5) (s : State) := cmpForm (.cmpLe d a b g) d a b g (fun x y => x.sle y) s
def execCmpLeu (d a b g : BitVec 5) (s : State) := cmpForm (.cmpLeu d a b g) d a b g (fun x y => x.ule y) s
def execCmpiEq (d a : BitVec 5) (imm : BitVec 15) (s : State) := cmpiForm (.cmpiEq d a imm) d a imm (fun x y => x == y) s
def execCmpiLt (d a : BitVec 5) (imm : BitVec 15) (s : State) := cmpiForm (.cmpiLt d a imm) d a imm (fun x y => x.slt y) s
def execCmpiLtu (d a : BitVec 5) (imm : BitVec 15) (s : State) := cmpiForm (.cmpiLtu d a imm) d a imm (fun x y => x.ult y) s
def execPand (d a b g : BitVec 5) (s : State) := predForm (.pand d a b g) d a b g (· &&& ·) s
def execPor (d a b g : BitVec 5) (s : State) := predForm (.por d a b g) d a b g (· ||| ·) s
def execPxor (d a b g : BitVec 5) (s : State) := predForm (.pxor d a b g) d a b g (· ^^^ ·) s
def execPandn (d a b g : BitVec 5) (s : State) := predForm (.pandn d a b g) d a b g (fun x y => x &&& ~~~y) s
def execPnot (d a g : BitVec 5) (s : State) : Host.Outcome State Fault Refusal :=
  gated 0 (staticGate (.pnot d a g)) (fun s => s.guardedP d g (~~~(s.rd.preg a)) (s.rd.ptaint a)) s
def execPget (d a g : BitVec 5) (s : State) : Host.Outcome State Fault Refusal :=
  gated 0 (staticGate (.pget d a g)) (fun s => s.guardedS d g (zext64 (s.rd.preg a)) (s.rd.ptaint a)) s
def execPset (d a g : BitVec 5) (s : State) : Host.Outcome State Fault Refusal :=
  gated 0 (staticGate (.pset d a g)) (fun s => s.guardedP d g ((s.rd.sreg a).extractLsb' 0 32) (s.rd.staint a)) s

/-! ## Transfers -/

/-- The control taint collects a mask (R93). -/
def State.addCtl (s : State) (t : Mask) : State := s.modRegs fun r => { r with ctl := r.ctl ||| t }

/-- The next bundle is at a target, after a pad (R164). -/
def State.jumpTo (s : State) (t : Word) (pad : Nat) : State := s.modMe fun c => { c with jump := some (t, pad) }

/-- Target of a branch: this bundle's address + 32·sext(disp) (R234). -/
def branchTarget (pc : Word) (disp : BitVec 15) : Word := pc + sext64 disp * 32#64

/-- A conditional branch (R234). -/
def branchForm (i : Instr) (g pad : BitVec 5) (disp : BitVec 15) (on : Bool) (s : State) :
    Host.Outcome State Fault Refusal :=
  gated 0 (staticGate i) (fun s =>
    let t := s.addCtl (s.rd.ptaint g)
    if (s.rd.preg g).getLsbD 0 = on then t.jumpTo (branchTarget s.me.pc disp) pad.toNat else t) s

def execBr (g pad : BitVec 5) (disp : BitVec 15) (s : State) := branchForm (.br g pad disp) g pad disp true s
def execBrn (g pad : BitVec 5) (disp : BitVec 15) (s : State) := branchForm (.brn g pad disp) g pad disp false s

/-- `call`: s31 holds the address after the bundle (R234). -/
def execCall (pad : BitVec 5) (disp : BitVec 15) (s : State) : Host.Outcome State Fault Refusal :=
  gated 0 (staticGate (.call pad disp)) (fun s =>
    (s.writeS 31#5 (s.me.pc + 32#64) 0#9).jumpTo (branchTarget s.me.pc disp) pad.toNat) s

/-- `jmp` and `ret`: a target that is no bundle address faults and nothing commits (R235). -/
def jumpForm (i : Instr) (a pad : BitVec 5) (s : State) : Host.Outcome State Fault Refusal :=
  gated 0 (staticGate i) (fun s =>
    let t := s.rd.sreg a
    if t.extractLsb' 0 5 != 0#5 then s.raise 5 0 0 t
    else (s.addCtl (s.rd.staint a)).jumpTo t pad.toNat) s

def execJmp (a pad : BitVec 5) (s : State) := jumpForm (.jmp a pad) a pad s
def execRet (pad : BitVec 5) (s : State) := jumpForm (.ret pad) 31#5 pad s

/-! ## Loops -/

/-- `loop` may not open this level here (R236). -/
def loopRefused (s : State) (level : BitVec 2) (len : BitVec 8) : Bool :=
  let l := level.toNat
  let r := s.rd
  let bodyEnd := s.me.pc + 32#64 * zext64 len
  (List.range 4).any (fun n => if n < l then !(r.loopLevel n).active else (r.loopLevel n).active) ||
    (l != 0 && (r.loopLevel (l - 1)).stop.ult bodyEnd)

/-- `loop` (R236). -/
def execLoop (level : BitVec 2) (len : BitVec 8) (a sigma : BitVec 5) (fl : Bool) (s : State) :
    Host.Outcome State Fault Refusal :=
  gated 0 ((staticGate (.loop level len a sigma fl)).and (refuseIf (loopRefused s level len) 9)) (fun s =>
    let n := (s.rd.sreg a).extractLsb' 0 32
    let s := s.addCtl (s.rd.staint a)
    let pc := s.me.pc
    if n = 0#32 then s.jumpTo (pc + 32#64 * (zext64 len + 1#64)) 0
    else s.modRegs fun r =>
      let lv : Loop := { active := true, i := 0, n := n, sigma := sigma, len := len, start := pc + 32#64,
                         stop := pc + 32#64 * zext64 len, fl := fl }
      { r with loops := fput r.loops level.toNat lv }) s

/-- `lbrk` leaves the innermost loop when its predicate holds (R238). -/
def execLbrk (a pad : BitVec 5) (s : State) : Host.Outcome State Fault Refusal :=
  gated 0 ((staticGate (.lbrk a pad)).and (refuseIf s.rd.innermost.isNone 9)) (fun s =>
    let t := s.addCtl (s.rd.ptaint a)
    match s.rd.innermost with
    | some l =>
      if (s.rd.preg a).getLsbD 0 then
        let lv := s.rd.loopLevel l
        (t.modRegs fun r => { r with loops := fput r.loops l { lv with active := false } }).jumpTo (lv.stop + 32#64) pad.toNat
      else t
    | none => t) s

/-- `lidx` (R239). -/
def execLidx (d : BitVec 5) (level : BitVec 2) (s : State) : Host.Outcome State Fault Refusal :=
  gated 0 (staticGate (.lidx d level)) (fun s =>
    let lv := s.rd.loopLevel level.toNat
    s.writeS d (if lv.active then zext64 lv.i else 0#64) 0#9) s

/-! ## Fences that have nothing left to hold (R74) -/

/-- A load, `atomr` or `cas`, which takes a tag (R88, R89). -/
def AccKind.tagged : AccKind → Bool
  | .load _ => true
  | .atomic _ _ _ r => r
  | .cas _ _ _ => true
  | _ => false

/-- An access whose performing other accesses wait for: any but an arrival at a barrier. -/
def Access.global (a : Access) : Bool := match a.kind with | .arrive _ _ _ => false | _ => true

/-- At scope 5, an access that precedes number n and has performed is not far done (R74, R75). -/
def farHolds (far : List Nat) (scope n : Nat) : Bool := scope = 5 && far.any fun id => decide (id < n)

/-- Drop the fences that hold nothing more, and give later loads the bound of each `acq` that is over: `stamp` is the
largest perform stamp of a load, `atomr` or `cas`, and `far` the accesses that are not far done (R74, R75). -/
def retireList (stamp : Nat) (far : List Nat) : List LsuItem → (accs : List Access) → (floor : Nat) → List LsuItem × Nat
  | [], _, f => ([], f)
  | .access a :: l, accs, f =>
    let r := retireList stamp far l (if a.global then a :: accs else accs) f
    (.access { a with bound := max a.bound f } :: r.1, r.2)
  | .acq id sc :: l, accs, f =>
    if accs.any (·.kind.tagged) then
      let r := retireList stamp far l accs f
      (.acq id sc :: r.1, r.2)
    else retireList stamp far l accs (max f stamp)
  | .rel id sc :: l, accs, f =>
    if accs.isEmpty && !farHolds far sc id then retireList stamp far l accs f
    else
      let r := retireList stamp far l accs f
      (.rel id sc :: r.1, r.2)
  | .fenceC id m :: l, accs, f =>
    if accs.any fun a => m.getLsbD a.cls then
      let r := retireList stamp far l accs f
      (.fenceC id m :: r.1, r.2)
    else retireList stamp far l accs f

/-- The load-store unit without the fences that are over (R74). -/
def Ctx.retire (c : Ctx) : Ctx :=
  let r := retireList c.loadStamp c.far c.lsu [] 0
  { c with lsu := r.1, nearFloor := max c.nearFloor r.2 }

/-! ## Tokens and barriers -/

/-- The tokens of a mask that satisfy a test. -/
def Ctx.tokensIn (c : Ctx) (mask : BitVec 8) (p : Token → Bool) : BitVec 8 :=
  (List.range 8).foldl (fun m n => if mask.getLsbD n && p (fget {} c.tokens n) then m ||| (1#8 <<< n) else m) 0#8

/-- `wait` can complete (R241). -/
def waitReady (s : State) (mask : BitVec 8) (all : Bool) : Bool :=
  let ready := s.me.tokensIn mask (fun t => t.st != 1)
  if all then ready == mask else mask == 0#8 || ready != 0#8

/-- The oldest mixed-size overlap that waits to be raised at an ordering point (R83). -/
def State.overlapFault (s : State) : Option SFault := s.me.overlap.head?.map fun a => { code := 0x0D, addr := a }

/-- Raise the mixed-size overlap that waits, or go on (R83). -/
def State.atOrderingPoint (s : State) (slot : Nat) (k : State → State) : State :=
  match s.overlapFault with
  | some f => (s.modMe fun c => { c with overlap := c.overlap.tail }).raise f.code f.detail slot f.addr
  | none => k s

/-- What a `wait` waits for: a command of the context's drays, or accesses alone (R78, R241). -/
def State.tokenWait (s : State) (mask : BitVec 8) : Wait :=
  if s.myCore.drays.any fun d => (d.2.running.toList ++ d.2.shadow.toList).any fun y => y.owner = s.cur && mask.getLsbD y.token
  then .command else .token

/-- `wait` (R177, R241): the lowest token in error is delivered and made idle; otherwise every token of the
completing set becomes idle, and one whose command had rel set orders later loads (R79). DESIGN CHOICE (log entry 23): a
mixed-size overlap that waits is raised first, before a token in error is delivered (R83). -/
def execWait (d : BitVec 5) (mask : BitVec 8) (all : Bool) (s : State) : Host.Outcome State Fault Refusal :=
  gated 0 ((staticGate (.wait d mask all)).and (waitIf (s.tokenWait mask) (!waitReady s mask all))) (fun s =>
    s.atOrderingPoint 0 fun s =>
      let c := s.me
      let set := if all then mask else c.tokensIn mask (fun t => t.st != 1)
      match (List.range 8).find? (fun n => set.getLsbD n && (fget {} c.tokens n).st = 3) with
      | some n =>
        let e := (fget {} c.tokens n).err
        let s := s.modMe fun x => { x with tokens := fput x.tokens n {} }
        s.stopWith s.cur (engineFaultWord 0x0E 2 0 e n) e.addr 0 c.skip
      | none =>
        let done := c.tokensIn set (fun t => t.st = 2)
        let abort := c.tokensIn set (fun t => t.st = 2 && t.status = 1)
        let cancelled := c.tokensIn set (fun t => t.st = 2 && t.status = 2)
        let floor := (List.range 8).foldl (fun m n =>
          let t : Token := fget {} c.tokens n
          if set.getLsbD n && t.st = 2 && t.rel then max m t.stamp else m) c.nearFloor
        let s := s.modMe fun x =>
          { x with nearFloor := floor
                   tokens := (List.range 8).foldl (fun m n => if set.getLsbD n then fput m n {} else m) x.tokens }
        s.writeS d (0#40 ++ cancelled ++ abort ++ done) 0#9) s

/-- The instance of a barrier that a core reaches: identifiers 0–15 on each core, 16–47 in each Plaza,
48–63 in each Quarter (R242). -/
def barrierKey (launch core id : Nat) : Nat :=
  let place := if id < 16 then core else if id < 48 then 256 + plazaOf core else 512 + quarterOf core
  (launch * 1024 + place) * 64 + id

/-- Add an item to the load-store unit in program order (R66, R74). -/
def State.lsuAdd (s : State) (f : Nat → LsuItem) : State :=
  s.modMe fun c => { c with lsu := c.lsu ++ [f c.seq], seq := c.seq + 1 }

/-- Accesses that count towards the limit of 64 (R71, R77). -/
def LsuItem.counts : LsuItem → Bool
  | .access a => !(match a.kind with | .arrive _ _ _ => a.slot = 3 | _ => false)
  | _ => false

/-- The number of accesses issued and not performed (R71). -/
def Ctx.outstanding (c : Ctx) : Nat := (c.lsu.filter LsuItem.counts).length

/-- An arrival of the context at a barrier identifier still waits in the load-store unit (R77, R242). -/
def Ctx.arriving (c : Ctx) (id : Nat) : Bool :=
  c.lsu.any fun i => match i with
    | .access a => (match a.kind with | .arrive n _ _ => n = id && a.slot != 3 | _ => false)
    | _ => false

/-- `bara`: the arrival waits in the load-store unit behind its implied `rel` (R77, R242). -/
def execBara (a : BitVec 5) (id : BitVec 6) (scope : BitVec 3) (s : State) : Host.Outcome State Fault Refusal :=
  gated 0 (((staticGate (.bara a id scope)).and (waitIf .accessLimit (decide (64 ≤ s.me.outstanding)))).and (s.recordGate true))
    (fun s =>
    s.withRecord 4 0 scope.toNat false (zext64 id) 0#64 fun r s =>
      let need := max ((s.rd.sreg a).extractLsb' 0 16).toNat 1
      let s := s.lsuAdd fun n => .rel n scope.toNat
      s.lsuAdd fun n => .access { id := n, slot := 0, cls := 0, kind := .arrive id.toNat need scope.toNat, va := 0, pa := 0,
                                  scope := scope.toNat, rcd := r, issueTick := s.tick, issueCycle := s.cycle, bundle := s.me.pc }) s

/-- The generation recorded by the context's last arrival at an identifier is complete (R243). -/
def barrierOver (s : State) (c id : Nat) : Bool :=
  let x := s.ctx c
  let b : BarRecord := fget {} x.bars id
  !x.arriving id &&
    (!b.arrived || b.complete || decide (b.gen < (fget {} s.ms.barriers (barrierKey x.launch (coreOf c) id)).gen))

/-- `barw` waits for the recorded generation, then acts as an `acq` (R77, R243). -/
def execBarw (id : BitVec 6) (s : State) : Host.Outcome State Fault Refusal :=
  gated 0 ((staticGate (.barw id)).and (waitIf .barrier (!barrierOver s s.cur id.toNat))) (fun s =>
    let b : BarRecord := fget {} s.me.bars id.toNat
    if b.arrived then
      let i : Barrier := fget {} s.ms.barriers (barrierKey s.me.launch (coreOf s.cur) id.toNat)
      ((s.modMe fun c => { c with nearFloor := max c.nearFloor (max i.stamp b.stamp) }).lsuAdd fun n => .acq n b.scope).modMe Ctx.retire
    else s) s

/-! ## Spans and taint -/

/-- Read and write sets of a running command that another engine's declaration must not meet (R115). -/
def State.runningSpans (s : State) (eng : Nat) : List (BitVec 48 × BitVec 48) :=
  let k := s.myCore
  let mine (o : Nat) : Bool := o = s.cur
  let matrix :=
    (k.cmds.filter (fun m => mine m.owner)).map (fun m => (m.spanR, m.spanW)) ++
    ([fget none k.gathers 0, fget none k.gathers 1, fget none k.loads 0, fget none k.loads 1].filterMap id |>.filter
      (fun f => mine f.owner)).map (fun f => (f.spanR, f.spanW))
  let dray (n : Nat) : List (BitVec 48 × BitVec 48) :=
    let d : Dray := fget {} k.drays n
    ((d.running.toList ++ d.shadow.toList).filter (fun c => mine c.owner)).map fun c => (c.spanR, c.spanW)
  (if eng = 1 then [] else matrix) ++ (if eng = 2 then [] else dray 0) ++ (if eng = 3 then [] else dray 1)

/-- The lowest bank of a mask. -/
def lowestBank (m : BitVec 48) : Word := BitVec.ofNat 64 ((List.range 48).find? (fun n => m.getLsbD n) |>.getD 0)

/-- The overlap of a declared pair of sets with another pair: detail 1 for the write set, 2 for the read
set (R115). -/
def spanOverlap (r w fr fw : BitVec 48) : Option SFault :=
  if w &&& (fr ||| fw) != 0#48 then some { code := 0x0A, detail := 1, addr := lowestBank (w &&& (fr ||| fw)) }
  else if r &&& fw != 0#48 then some { code := 0x0A, detail := 2, addr := lowestBank (r &&& fw) }
  else none

/-- `span` (R115). -/
def execSpan (d a : BitVec 5) (eng : BitVec 3) (opn : Bool) (s : State) : Host.Outcome State Fault Refusal :=
  gated 0 (staticGate (.span d a eng opn)) (fun s =>
    if !s.det then s
    else
      let vr := s.rd.sreg d
      let vw := s.rd.sreg a
      if vr.extractLsb' 48 16 != 0#16 || vw.extractLsb' 48 16 != 0#16 then s.raise 0x0A 3 0 0#64
      else
        let e := eng.toNat
        let oldR (n : Nat) : BitVec 48 := if opn then 0#48 else fget 0#48 s.rd.spanR n
        let oldW (n : Nat) : BitVec 48 := if opn then 0#48 else fget 0#48 s.rd.spanW n
        let r := vr.extractLsb' 0 48
        let w := vw.extractLsb' 0 48
        let others := ([0, 1, 2, 3].filter (· != e)).map (fun n => (oldR n, oldW n)) ++ s.runningSpans e
        match others.findSome? (fun o => spanOverlap r w o.1 o.2) with
        | some f => s.raise f.code f.detail 0 f.addr
        | none =>
          s.modRegs fun x =>
            { x with spanR := fput (if opn then [] else x.spanR) e r, spanW := fput (if opn then [] else x.spanW) e w }) s

/-- `tclr` (R99). -/
def execTclr (a : BitVec 5) (kind : BitVec 3) (mask : BitVec 9) (s : State) : Host.Outcome State Fault Refusal :=
  gated 0 (staticGate (.tclr a kind mask)) (fun s =>
    if kind = 0#3 then s.taintS a (s.rd.staint a &&& ~~~mask)
    else if kind = 1#3 then s.taintP a (s.rd.ptaint a &&& ~~~mask)
    else s.modRegs fun r => { r with ctl := s.rd.ctl &&& ~~~mask }) s

/-- A member of the ALL set has not performed (R89). -/
def Ctx.allPending (c : Ctx) : Bool :=
  match c.allTop with
  | none => false
  | some top => c.lsu.any fun i => match i with
    | .access a => decide (a.id ≤ top) && a.kind.tagged
    | _ => false

/-- The set of live tags (R100). -/
def Ctx.liveTags (c : Ctx) : Mask :=
  (List.range 8).foldl (fun m n => if (fget {} c.tags n : Tag).st = 1 then m ||| (1#9 <<< n) else m) 0#9 |||
    (if c.allPending then 0x100#9 else 0#9)

/-- `tmask` (R100). -/
def execTmask (d a : BitVec 5) (kind : BitVec 3) (rot : Bool) (s : State) : Host.Outcome State Fault Refusal :=
  gated 0 (staticGate (.tmask d a kind rot)) (fun s =>
    let v : Mask := match kind.toNat with
      | 0 => s.rd.staint a
      | 1 => s.rd.ptaint a
      | 2 => s.rd.ctl
      | 3 => s.rd.btaint (s.rd.bayOf (Decode.bit rot ++ a))
      | _ => s.me.liveTags
    s.writeS d (zext64 v) 0#9) s

/-! ## Mode, system registers and tables -/

/-- `slack` (R246). -/
def execSlack (n : BitVec 8) (s : State) : Host.Outcome State Fault Refusal :=
  gated 0 (staticGate (.slack n)) (fun s => s.modRegs fun r => { r with slack := n }) s

/-- `yield` gives up the issue width at the next bundle (R169, R254). -/
def execYield (s : State) : Host.Outcome State Fault Refusal :=
  gated 0 (staticGate .yield) (fun s => s.modMe fun c => { c with iss := { c.iss with yielding := true } }) s

/-- The number of the current interval of a launch (R109). -/
def State.interval (s : State) (l : Launch) : Nat := (s.tick - l.t0.getD 0) / 2 ^ l.ie

/-- `detm` (R109). -/
def State.detm (s : State) : Word :=
  let l := s.launch s.me.launch
  let low := (if l.det then 1 else 0) + (if l.recording then 2 else 0) + (if l.replay then 4 else 0)
  if l.det then BitVec.ofNat 64 (low + l.ie % 32 * 2 ^ 8 + s.interval l % 2 ^ 32 * 2 ^ 32) else BitVec.ofNat 64 low

/-- A context has matrix work that is not complete (R278, R297). -/
def CoreState.matrixBusy (k : CoreState) (c : Nat) : Bool :=
  k.cmds.any (fun m => m.owner = c) ||
  [fget none k.gathers 0, fget none k.gathers 1, fget none k.loads 0, fget none k.loads 1].any fun f =>
    f.any fun (x : Fill) => x.owner = c

/-- `lease` (R278). -/
def State.leaseWord (s : State) : Word :=
  let k := s.myCore
  let held := k.lease = some s.cur
  let other := k.lease.isSome && !held
  BitVec.ofNat 64 ((if held then 1 else 0) + (if k.matrixBusy s.cur then 2 else 0) +
    (k.cmds.filter (fun m => m.start.isNone)).length % 4 * 4 + (if other then 16 else 0) +
    (match k.lease with | some h => h % 4 * 32 | none => 0) + k.scales.length * 256)

/-- `q0n` and `q1n` (R310). -/
def queueWord (q : List QEntry) : Word := BitVec.ofNat 64 (present q + q.length * 256)

/-- A system register as it stands at issue (R225, R244). -/
def State.sysReg (s : State) (n : BitVec 5) : Word :=
  let r := s.rd
  let c := s.me
  match n.toNat with
  | 0 => BitVec.ofNat 64 (s.phase s.cur)
  | 1 => BitVec.ofNat 64 (s.cur % 4 + s.myCore.logical.getD 0 * 4)
  | 2 => BitVec.ofNat 64 c.tenant
  | 3 => zext64 r.fpctl
  | 4 => r.xsum
  | 5 => fget 0#64 r.xrec 0
  | 6 => fget 0#64 r.xrec 1
  | 7 => fget 0#64 r.xrec 2
  | 8 => fget 0#64 r.xrec 3
  | 9 => fget 0#64 r.xrec 4
  | 10 => fget 0#64 r.xrec 5
  | 11 => s.detm
  | 12 => r.lpc
  | 13 => s.leaseWord
  | 14 => BitVec.ofNat 64 c.man.next
  | 15 => BitVec.ofNat 64 c.man.mstall
  | 16 => queueWord c.q0
  | 17 => queueWord c.q1
  | 18 => zext64 r.slack
  | 19 => BitVec.ofNat 64 c.cwbase
  | 20 => BitVec.ofNat 64 c.cwlim
  | 21 => BitVec.ofNat 64 c.accbase
  | 22 => BitVec.ofNat 64 c.acclim
  | 23 => BitVec.ofNat 64 c.slotres ||| (zext64 c.donemask <<< 3)
  | 24 => c.fault
  | _ => c.faddr

/-- `getsr` (R244). -/
def execGetsr (d n : BitVec 5) (s : State) : Host.Outcome State Fault Refusal :=
  gated 0 (staticGate (.getsr d n)) (fun s => s.writeS d (s.sysReg n) 0#9) s

/-- An exception record with its reserved bits zero (R6, R176). -/
def recordBits (v : Word) : Word := v &&& 0xFFFFFFFFFFFFC07F#64

/-- Write a system register (R244). -/
def State.setSysReg (s : State) (n : BitVec 5) (v : Word) : State :=
  s.modRegs fun r =>
    match n.toNat with
    | 3 => { r with fpctl := v.extractLsb' 0 5 }
    | 12 => { r with lpc := v &&& 0x007FFFFFFFFFFFFC#64 }
    | 18 => { r with slack := v.extractLsb' 0 8 }
    | n => { r with xrec := fput r.xrec (n - 5) (recordBits v) }

/-- `setsr`: register 2 is a permission violation (R8, R244). -/
def execSetsr (a n : BitVec 5) (s : State) : Host.Outcome State Fault Refusal :=
  gated 0 (staticGate (.setsr a n)) (fun s =>
    if n = 2#5 then s.raise 4 0 0 none else s.setSysReg n (s.rd.sreg a)) s

/-- `trap` and `brkpt` commit, and then the context stops: `slotres` 1, donemask with bit S (R174, R252). -/
def stopForm (i : Instr) (fcode : Nat) (code : BitVec 8) (s : State) : Host.Outcome State Fault Refusal :=
  gated 0 (staticGate i) (fun s =>
    s.stopWith s.cur (faultWord fcode code.toNat 0) s.me.pc 1 (1#6 ||| s.me.skip)) s

def execTrap (code : BitVec 8) (s : State) := stopForm (.trap code) 0x10 code s
def execBrkpt (code : BitVec 8) (s : State) := stopForm (.brkpt code) 0x0F code s

/-- `done` ends the team's program: every loop is dropped and no later bundle issues (R253). -/
def execDone (s : State) : Host.Outcome State Fault Refusal :=
  gated 0 (staticGate .done) (fun s =>
    s.atOrderingPoint 0 fun s =>
      match s.replayLeft with
      | some i => (s.withdraw s.cur).raise 0x0C 5 0 (BitVec.ofNat 64 i)
      | none => s.modMe fun c => { c with r := { c.r with loops := [] }, iss := { c.iss with done := true } }) s

/-- `mark` (R251): its record is written at once in record mode and matched in replay. -/
def execMark (a : BitVec 5) (s : State) : Host.Outcome State Fault Refusal :=
  gated 0 ((staticGate (.mark a)).and (s.recordGate true)) (fun s =>
    s.withRecord 9 0 0 false 0#64 (s.rd.sreg a) fun r t => t.performed t.cur r 0 (s.rd.sreg a)) s

/-- `rdtime` (R250). -/
def execRdtime (d : BitVec 5) (s : State) : Host.Outcome State Fault Refusal :=
  gated 0 (staticGate (.rdtime d)) (fun s => s.writeS d (BitVec.ofNat 64 s.tick) 0#9) s

/-- The fixed operator entries (R284). -/
def fixedOp (n : Nat) : BitVec 64 :=
  match n with
  | 0 => 0x8000000000000900#64
  | 1 => 0x0000000000000100#64
  | 2 => 0x7F8000007F800111#64
  | 3 => 0xFF800000FF800121#64
  | 4 => 0x0000000000000120#64
  | 5 => 0x7F8000007F800113#64
  | 6 => 0x0000000000000134#64
  | _ => 0x0000000000000144#64

/-- An entry of the operator table (R283). -/
def Regs.opEntry (r : Regs) (n : Nat) : BitVec 64 := if n < 8 then fixedOp n else fget 0#64 r.opt n

/-- `tblw` (R247). -/
def execTblw (a : BitVec 5) (table : BitVec 4) (index : BitVec 9) (s : State) : Host.Outcome State Fault Refusal :=
  gated 0 (staticGate (.tblw a table index)) (fun s =>
    let v := s.rd.sreg a
    s.modRegs fun r =>
      if table = 0#4 then { r with fmt := fput r.fmt index.toNat (v.extractLsb' 0 32) }
      else { r with opt := fput r.opt index.toNat v }) s

/-- A format entry as it is read: bits [31:14] are reserved (R6, R280). -/
def formatBits (v : BitVec 32) : BitVec 32 := v &&& 0x00003FFF#32

/-- An operator entry as it is read: bits [15:12] are reserved (R6, R283). -/
def operatorBits (v : BitVec 64) : BitVec 64 := v &&& 0xFFFFFFFFFFFF0FFF#64

/-- `tblr`: a reserved field reads zero, whatever `tblw` wrote there (R6, R247). -/
def execTblr (d : BitVec 5) (table : BitVec 4) (index : BitVec 9) (s : State) : Host.Outcome State Fault Refusal :=
  gated 0 (staticGate (.tblr d table index)) (fun s =>
    s.writeS d (if table = 0#4 then zext64 (formatBits (fget 0#32 s.rd.fmt index.toNat)) else operatorBits (s.rd.opEntry index.toNat)) 0#9) s

/-! ## Queues and bay lanes -/

/-- `qpop` (R248): a poisoned entry stays where it is. -/
def execQpop (d : BitVec 5) (q : Bool) (word : BitVec 4) (s : State) : Host.Outcome State Fault Refusal :=
  gated 0 ((staticGate (.qpop d q word)).and (waitIf .queueEmpty (present (s.me.queue q) = 0))) (fun s =>
    let e := oldest (s.me.queue q)
    s.orFault 0 (popFault e) fun s =>
      (s.modMe fun c => c.setQueue q (c.queue q).tail).writeS d (e.data.extractLsb' (64 * word.toNat) 64) e.mask) s

/-- Bits of a lane access by its size code (R249). -/
def laneBits (size : BitVec 2) : Nat := match size.toNat with | 0 => 32 | 1 => 64 | 2 => 16 | _ => 8

/-- `xget` (R249). -/
def execXget (d : BitVec 5) (bay : BitVec 6) (lane : BitVec 5) (size : BitVec 2) (s : State) :
    Host.Outcome State Fault Refusal :=
  gated 0 (staticGate (.xget d bay lane size)) (fun s =>
    s.orFault 0 (s.readBayCheck 0 bay) fun s =>
      let b := s.rd.bayOf bay
      let v := (s.rd.bay b).extractLsb' (32 * lane.toNat) 64
      s.writeS d (BitVec.ofNat 64 (v.toNat % 2 ^ laneBits size)) (s.rd.btaint b)) s

/-- `xput` lands in the named bits at issue + 2, and the bay's mask gains the register's (R92, R249). -/
def execXput (r : BitVec 5) (bay : BitVec 6) (lane : BitVec 5) (size : BitVec 2) (s : State) :
    Host.Outcome State Fault Refusal :=
  gated 0 (staticGate (.xput r bay lane size)) (fun s =>
    s.orFault 0 (s.landCheck 0 bay 2) fun s =>
      let n := laneBits size
      let place (v : Nat) : Bay := BitVec.ofNat 1024 (v % 2 ^ n * 2 ^ (32 * lane.toNat))
      s.land 0 bay 2 (place (s.rd.sreg r).toNat) (place (2 ^ n - 1)) (s.rd.staint r) true) s

end Sys2Proof.Machine
end

