-- ==== Sys2Proof/Machine/Fetch.lean ====
section
/-!
DEFINITION. Instruction and literal fetch (R27, R62–R64, R139): the line buffer, the L1I, the Plaza level and
memory, and the arrival of a missing line.
-/

namespace Sys2Proof.Machine

/-- A tenant's 128-byte line, as the L1I names it. -/
def lineKey (tenant va : Nat) : Nat := tenant * 2 ^ 64 + va / 128

/-- The same line in a Plaza's level. -/
def plazaKey (core tenant va : Nat) : Nat := lineKey tenant va * 32 + plazaOf core

/-- What a context finds when it needs a fetched line. -/
inductive Fetched
  | ok (line : List Byte)
  | miss
  | fault (code detail : Nat)
  deriving DecidableEq, Repr

/-- The line that holds a virtual address, in the line buffer or the L1I (R62, R64). -/
def State.fetched (s : State) (c : Nat) (va : Word) : Fetched :=
  let x := s.ctx c
  let a := va.toNat
  if 2 ^ 55 ≤ a then .fault 3 1
  else
    match (match x.line with
      | some (n, l) => if n = a / 128 then some l else none
      | none => none) with
    | some l => .ok l
    | none =>
      match ffind (s.core (coreOf c)).l1i (lineKey x.tenant a) with
      | some l => .ok l.2
      | none =>
        match x.walkFail.find? (fun f => f.1 = a / 0x10000) with
        | some f => .fault f.2.1 f.2.2
        | none => .miss

/-- The 256 bits of a bundle in its line. -/
def bundleOf (line : List Byte) (va : Word) : BitVec 256 := BitVec.ofNat 256 (ofBytes ((line.drop (va.toNat % 128)).take 32))

/-- A 32-bit word of the literal stream in its line (R286). -/
def literalOf (line : List Byte) (va : Word) : BitVec 32 := BitVec.ofNat 32 (ofBytes ((line.drop (va.toNat % 128)).take 4))

/-- The first address whose line a context lacks: its next bundle, or the word at `lpc`. -/
def State.fetchNeed (s : State) (c : Nat) : Option Word :=
  match s.fetched c (s.ctx c).pc with
  | .miss => some (s.ctx c).pc
  | _ =>
    match s.fetched c (s.ctx c).r.lpc with
    | .miss => some (s.ctx c).r.lpc
    | _ => none

/-- Of some 32-byte bundle the units left of a write, given with its first and last, are a part only. -/
def partLeft (first last : Nat) (left : List Nat) : Bool :=
  left.any fun u => (List.range (last + 1 - first)).any fun i => (first + i) / 2 = u / 2 && !left.contains (first + i)

/-- A write that performs in units of 16 bytes, an access's or an engine's, has written some bundle of a line in part only
(R63, R81). -/
def State.halfWritten (s : State) (pa n : Nat) : Bool :=
  let meets (a m : Nat) : Bool := decide (a < pa + n) && decide (pa < a + m)
  (s.ctxs.any fun e => e.2.lsu.any fun i => match i with
    | .access a => a.writes && !a.unitsDone.isEmpty && meets a.pa a.size && partLeft (a.pa / 16) (a.pa / 16 + a.size / 16 - 1)
        (((List.range (a.size / 16)).filter fun u => !a.unitsDone.contains u).map (a.pa / 16 + ·))
    | _ => false) ||
  s.ms.sent.any fun x => meets x.pa x.size && partLeft (x.pa / 16) ((x.pa + x.size - 1) / 16) (x.left.map fun u => (x.pa + u.1) / 16)

/-- A missing line arrives, from the Plaza's level or from memory, or its fetch fails, or its page is asked of the
walker (R21, R27, R62–R64). A line that a write has left in the middle of a bundle is read when the bundle is whole (R63). -/
def State.fillLine (s : State) (c : Nat) (va : Word) : State :=
  let x := s.ctx c
  let core := coreOf c
  let failed (code detail : Nat) (s : State) : State :=
    s.modCtx c fun y => { y with walkFail := (va.toNat / 0x10000, code, detail) :: y.walkFail, iss := { y.iss with cause := none } }
  let put (l : Nat × List Byte) : State :=
    let s := s.modCore core fun k => { k with l1i := fput k.l1i (lineKey x.tenant va.toNat) l }
    let s := s.modMs fun m => { m with plaza := fput m.plaza (plazaKey core x.tenant va.toNat) l }
    s.modCtx c fun y => { y with line := some (va.toNat / 128, l.2), iss := { y.iss with cause := none } }
  match s.check core x.tenant x.walkFail va { ex := true } with
  | .ok pa _ =>
    match (ffind s.ms.plaza (plazaKey core x.tenant va.toNat)).filter fun l => l.1 = pa / 128 with
    | some l => put l
    | none =>
      if !s.backed pa then failed 0x14 3 (s.tellAbsent c pa va.toNat)
      else if s.poisoned pa then failed 0x14 2 s
      else if s.halfWritten (pa / 128 * 128) 128 then s
      else put (pa / 128, mread s.mem (pa / 128 * 128) 128)
  | .fault code reason => failed code reason s
  | .miss => (s.askWalk core x.tenant va false).modCtx c fun y => { y with asked := some (va.toNat / 0x10000) }

/-- FETCH_FILL (R64): a context that waits for a line receives it, and is offered again at its phase. -/
def execFetchFill (c : Nat) (s : State) : Host.Outcome State Fault Refusal :=
  match s.fetchNeed c with
  | some va => if (s.ctx c).iss.cause = some .fetch then .next (s.fillLine c va) else .next s
  | none => .next s

end Sys2Proof.Machine
end

