-- ==== Sys2Proof/Machine/VectorOps.lean ====
section
/-!
DEFINITION. The cascade's arithmetic (R218–R221, R256–R270): control words and their legality, and what each
stage operation computes on the elements of a lane set.
-/

namespace Sys2Proof.Machine

/-- The types that a stage computes in (R259). -/
inductive VT | f32 | bf16 | f16 | i32 | i16 | i8 | e4m3 | e5m2 | i64 | raw
  deriving DecidableEq, Repr

namespace VT
/-- Element width in bits. -/
def width : VT → Nat
  | f32 => 32 | bf16 => 16 | f16 => 16 | i32 => 32 | i16 => 16 | i8 => 8 | e4m3 => 8 | e5m2 => 8 | i64 => 64 | raw => 32
/-- The floating format of a type. -/
def fmt : VT → Option FFmt
  | f32 => some .f32 | bf16 => some .bf16 | f16 => some .f16 | e4m3 => some .e4m3 | e5m2 => some .e5m2 | _ => none
def isInt : VT → Bool | i32 => true | i16 => true | i8 => true | i64 => true | _ => false
def isWide : VT → Bool | f32 => true | bf16 => true | f16 => true | _ => false
end VT

/-- A stage word's fields (R218). -/
structure Stage where
  op : Nat
  sa : Nat
  sb : Nat
  sc : Nat
  deriving DecidableEq, Repr

/-- A control word's fields (R218). -/
structure CWord where
  bits : BitVec 256
  width : Nat
  group : Nat
  zm : Bool
  et : VT
  fp8 : VT
  rm : RM
  sat : Bool
  st1 : Stage
  st2 : Stage
  st3 : Stage
  osel : Nat
  pwe : Bool
  pidx : BitVec 5
  perm : Nat
  k0 : Nat
  k1 : Nat
  gs : Nat
  deriving DecidableEq, Repr

/-- The stage word at a bit of a control word. -/
def stageAt (w : BitVec 256) (n : Nat) : Stage where
  op := (w.extractLsb' n 7).toNat
  sa := (w.extractLsb' (n + 7) 3).toNat
  sb := (w.extractLsb' (n + 10) 3).toNat
  sc := (w.extractLsb' (n + 13) 3).toNat

/-- Split a control word into its fields (R218). -/
def splitWord (w : BitVec 256) : CWord :=
  let fp8 : VT := if w.getLsbD 8 then .e5m2 else .e4m3
  { bits := w
    width := (w.extractLsb' 0 2).toNat
    group := (w.extractLsb' 2 2).toNat
    zm := w.getLsbD 4
    et := match (w.extractLsb' 5 3).toNat with
      | 0 => .f32 | 1 => .bf16 | 2 => .f16 | 3 => .i32 | 4 => .i16 | 5 => .i8 | 6 => fp8 | _ => .i64
    fp8 := fp8
    rm := w.extractLsb' 9 2
    sat := w.getLsbD 11
    st1 := stageAt w 16
    st2 := stageAt w 48
    st3 := stageAt w 80
    osel := (w.extractLsb' 112 2).toNat
    pwe := w.getLsbD 114
    pidx := w.extractLsb' 115 5
    perm := (w.extractLsb' 120 8).toNat
    k0 := (w.extractLsb' 128 32).toNat
    k1 := (w.extractLsb' 160 32).toNat
    gs := (w.extractLsb' 192 4).toNat }

namespace CWord
/-- Width in bits, W (R256). -/
def bitsWide (w : CWord) : Nat := 256 * 2 ^ w.width
/-- First lane of the set (R256). -/
def firstLane (w : CWord) : Nat := 8 * w.group
/-- Lanes of the set. -/
def lanes (w : CWord) : Nat := 8 * 2 ^ w.width
end CWord

/-- A stage word that is all zero stands for `pass` of X (R220). -/
def Stage.isZero (s : Stage) : Bool := s.op = 0 && s.sa = 0 && s.sb = 0 && s.sc = 0

/-- How many of sa, sb, sc an operation reads (R260); 9 for a reserved code. -/
def opReads (op perm : Nat) : Nat :=
  match op with
  | 0x00 => 1 | 0x01 => 2 | 0x02 => 2 | 0x03 => 2 | 0x04 => 3 | 0x05 => 3 | 0x06 => 2 | 0x07 => 2 | 0x08 => 1 | 0x09 => 1
  | 0x0A => 2 | 0x0B => 2 | 0x0C => 2 | 0x0D => 2 | 0x0E => 2 | 0x0F => 2
  | 0x10 => 2 | 0x11 => 2 | 0x12 => 2 | 0x13 => 3 | 0x14 => 3 | 0x15 => 2 | 0x16 => 2
  | 0x20 => 2 | 0x21 => 2 | 0x22 => 2 | 0x23 => 2 | 0x24 => 2 | 0x25 => 2 | 0x26 => 2 | 0x27 => 3 | 0x28 => 2 | 0x29 => 2
  | 0x30 => if perm / 64 = 0 then 1 else 2
  | 0x31 => 1 | 0x32 => 2 | 0x33 => 1 | 0x34 => 1 | 0x35 => 1 | 0x36 => 1 | 0x37 => 1
  | 0x40 => 1 | 0x41 => 1 | 0x42 => 2 | 0x43 => 2 | 0x44 => 1 | 0x45 => 1 | 0x46 => 1 | 0x47 => 1 | 0x48 => 1
  | _ => 9

/-- An operation is allowed in a stage (R221). -/
def opStage (op stage : Nat) : Bool :=
  if op = 3 || op = 4 || op = 5 then stage = 1
  else if op / 16 = 2 || op / 16 = 3 then stage = 2
  else if op / 16 = 4 then stage = 3
  else true

/-- sb is a selector, read as bits whatever its type (R259). -/
def opSelector (op : Nat) : Bool := (decide (0x20 ≤ op) && decide (op ≤ 0x29)) || op = 0x32

/-- An operation is defined for a source type (R260). -/
def opDefined (op : Nat) (t : VT) : Bool :=
  match op with
  | 0x00 => true
  | 0x0A => true | 0x0B => true | 0x0C => true | 0x0D => true | 0x0E => true | 0x0F => true | 0x13 => true
  | 0x15 => t.isInt | 0x16 => t.isInt
  | 0x26 => t.isWide
  | 0x27 => true
  | 0x28 => t = .i64 || t = .i32 || t = .i16
  | 0x29 => t = .i8 || t = .i16 || t = .i32
  | 0x30 => true | 0x31 => true | 0x32 => true
  | n => if decide (0x40 ≤ n) then t.isWide else t != .raw

/-- The type of an operation's result (R259). -/
def opResult (op : Nat) (t fp8 : VT) : VT :=
  match op with
  | 0x20 => .f32 | 0x21 => .bf16 | 0x22 => .f16 | 0x23 => .i32 | 0x24 => fp8 | 0x25 => .raw | 0x26 => .raw | 0x27 => .f32
  | 0x28 => (match t with | .i64 => .i32 | .i32 => .i16 | _ => .i8)
  | 0x29 => (match t with | .i8 => .i16 | .i16 => .i32 | _ => .i64)
  | _ => t

/-- The type of a source code (R259). -/
def srcType (et t1 t2 : VT) (code : Nat) : VT := if code = 3 then t1 else if code = 4 then t2 else et

/-- The result type of a stage, from the types before it. -/
def Stage.type (s : Stage) (w : CWord) (t1 t2 : VT) : VT := opResult s.op (srcType w.et t1 t2 s.sa) w.fp8

/-- Types of T1, T2, T3. -/
def CWord.types (w : CWord) : VT × VT × VT :=
  let t1 := w.st1.type w w.et w.et
  let t2 := w.st2.type w t1 t1
  (t1, t2, w.st3.type w t1 t2)

/-- A stage word is legal in its place (R220, R221, R259, R260, R266–R268). -/
def Stage.legal (s : Stage) (n : Nat) (w : CWord) (t1 t2 : VT) : Bool :=
  let reads := opReads s.op w.perm
  let ty := srcType w.et t1 t2
  reads != 9 && opStage s.op n &&
  -- sources a stage may name
  [s.sa, s.sb, s.sc].all (fun c => if n = 1 then c != 3 && c != 4 else if n = 2 then c != 4 else true) &&
  -- sources the operation does not read are zero
  (decide (2 ≤ reads) || s.sb = 0) && (decide (3 ≤ reads) || s.sc = 0) &&
  opDefined s.op (ty s.sa) &&
  (s.op = 0x27 ||
    ((reads = 1 || opSelector s.op || ty s.sb = ty s.sa) && (decide (reads < 3) || ty s.sc = ty s.sa))) &&
  (if s.op = 0x26 then decide (32 ≤ w.bitsWide / (ty s.sa).width) else true) &&
  (if s.op = 0x27 then w.width = 2 else true) &&
  (if s.op = 0x30 then (w.perm / 64 = 0 || ((w.perm / 64 = 1 || w.perm / 64 = 2) && w.perm / 2 % 32 = 0)) else true) &&
  (if s.op = 0x31 then w.perm / 64 = 0 else true)

/-- Bits of a control word that must be zero (R218). -/
def CWord.reserved (w : CWord) : Bool :=
  w.bits.extractLsb' 12 4 != 0#4 || w.bits.extractLsb' 32 16 != 0#16 || w.bits.extractLsb' 64 16 != 0#16 ||
  w.bits.extractLsb' 96 16 != 0#16 || w.bits.extractLsb' 196 60 != 0#60

/-- A control word is legal (R220). -/
def CWord.legal (w : CWord) : Bool :=
  let t := w.types
  let ops := [w.st1.op, w.st2.op, w.st3.op]
  !w.reserved && w.width != 3 &&
  (match w.width with | 0 => true | 1 => w.group % 2 = 0 | _ => w.group = 0) &&
  (if w.pwe then w.pidx != 0#5 && w.pidx.ult 24#5 else w.pidx = 0#5) &&
  w.st1.legal 1 w w.et w.et && w.st2.legal 2 w t.1 t.1 && w.st3.legal 3 w t.1 t.2.1 &&
  (if w.osel = 2 then w.st2.isZero && w.st3.isZero else if w.osel = 1 then w.st3.isZero else true) &&
  (w.perm = 0 || ops.any (fun o => o = 0x30 || o = 0x31)) &&
  (w.gs = 0 || ops.any (fun o => decide (0x32 ≤ o) && decide (o ≤ 0x37))) &&
  decide (2 ^ w.gs ≤ w.bitsWide / w.et.width)

/-- A stage that the word uses: those after the one osel delivers are not run (R220). -/
def CWord.uses (w : CWord) (n : Nat) : Bool :=
  if w.osel = 2 then n = 1 else if w.osel = 1 then decide (n ≤ 2) else true

/-- Source codes that a stage reads. -/
def Stage.sources (s : Stage) (perm : Nat) : List Nat := [s.sa, s.sb, s.sc].take (opReads s.op perm)

/-- Input 0, 1, 2 (X, Y, Z) is read by the word (R255). -/
def CWord.reads (w : CWord) (input : Nat) : Bool :=
  [(1, w.st1), (2, w.st2), (3, w.st3)].any fun x => w.uses x.1 && (x.2.sources w.perm).contains input

/-! ## Elements -/

/-- The elements of a value of W bits. -/
def elems (W w : Nat) (v : Nat) : List Nat := (List.range (W / w)).map fun i => v / 2 ^ (w * i) % 2 ^ w

/-- Put elements of w bits together, the first lowest. -/
def packElems (w : Nat) : List Nat → Nat
  | [] => 0
  | x :: xs => x % 2 ^ w + 2 ^ w * packElems w xs

/-- The modes of an operation: rounding, flushing, saturation (R196, R198, R200). -/
structure Modes where
  rm : RM
  daz : Bool
  ftz : Bool
  sat : Bool
  deriving DecidableEq, Repr

/-- Deliver an exact result with the flags that made it. -/
def finish (f : FFmt) (m : Modes) (r : FV × Flags) : Nat × Flags :=
  let d := deliver f m.rm m.ftz r.1
  (d.1, r.2 ||| d.2)

/-- A floating element-wise operation (R261, R262). -/
def floatElem (f : FFmt) (m : Modes) (op a b c : Nat) : Nat × Flags :=
  let d (x : Nat) : FV := decodeF f m.daz x
  let flip (x : Nat) : Nat := x ^^^ 2 ^ f.signBit
  let ones := 2 ^ f.width - 1
  match op with
  | 0x01 => finish f m (addV m.rm (d a) (d b))
  | 0x02 => finish f m (addV m.rm (d a) (d b).negate)
  | 0x03 => finish f m (mulV (d a) (d b))
  | 0x04 => finish f m (fmaV m.rm (d a) (d b) (d c))
  | 0x05 => finish f m (fmaV m.rm (d a) (d b) (d c).negate)
  | 0x06 => finish f m (minV (d a) (d b), Flag.none)
  | 0x07 => finish f m (maxV (d a) (d b), Flag.none)
  | 0x08 => (if (decodeF f false a).isNan then f.nan else a % 2 ^ f.signBit, Flag.none)
  | 0x09 => (if (decodeF f false a).isNan then f.nan else flip a, Flag.none)
  | 0x10 => (if eqV (d a) (d b) then ones else 0, Flag.none)
  | 0x11 => (if ltV (d a) (d b) && !eqV (d a) (d b) then ones else 0, Flag.none)
  | 0x12 => (if ltV (d a) (d b) || eqV (d a) (d b) then ones else 0, Flag.none)
  | _ => finish f m (minV (maxV (d a) (d b)) (d c), Flag.none)

/-- An integer element-wise operation (R261, R263). -/
def intElem (w : Nat) (m : Modes) (op a b c : Nat) : Nat × Flags :=
  let i (x : Nat) : Int := intOf w x
  let ones := 2 ^ w - 1
  match op with
  | 0x01 => intResult m.sat w (i a + i b)
  | 0x02 => intResult m.sat w (i a - i b)
  | 0x03 => intResult m.sat w (i a * i b)
  | 0x04 => intResult m.sat w (i a * i b + i c)
  | 0x05 => intResult m.sat w (i a * i b - i c)
  | 0x06 => (if i b < i a then b else a, Flag.none)
  | 0x07 => (if i a < i b then b else a, Flag.none)
  | 0x08 => intResult m.sat w (i a).natAbs
  | 0x09 => intResult m.sat w (-(i a))
  | 0x10 => (if a = b then ones else 0, Flag.none)
  | 0x11 => (if i a < i b then ones else 0, Flag.none)
  | 0x12 => (if i a ≤ i b then ones else 0, Flag.none)
  | 0x15 => (if b < a then b else a, Flag.none)
  | 0x16 => (if a < b then b else a, Flag.none)
  | _ =>
    let x := if i a < i b then b else a
    (if i c < i x then c else x, Flag.none)

/-- An element-wise operation in a type (R261–R263). -/
def elemOp (t : VT) (m : Modes) (op a b c : Nat) : Nat × Flags :=
  let w := t.width
  match op with
  | 0x00 => (a, Flag.none)
  | 0x0A => (a &&& b, Flag.none)
  | 0x0B => (a ||| b, Flag.none)
  | 0x0C => (a ^^^ b, Flag.none)
  | 0x0D => (if w ≤ b then 0 else a * 2 ^ b % 2 ^ w, Flag.none)
  | 0x0E => (if w ≤ b then 0 else a / 2 ^ b, Flag.none)
  | 0x0F => (bitsOf w (intOf w a / 2 ^ (if w ≤ b then w else b)), Flag.none)
  | 0x13 => (if a != 0 then b else c, Flag.none)
  | _ =>
    match t.fmt with
    | some f => floatElem f m op a b c
    | none => intElem w m op a b c

/-- Convert an element between types (R199, R200, R264). DESIGN CHOICE (log entry 22): under ftz a subnormal of BF16 that is widened
to FP32 is flushed, as the row of tiny results has it, with uf and nx. -/
def convertElem (src dst : VT) (m : Modes) (a : Nat) : Nat × Flags :=
  match src.fmt, dst.fmt with
  | some f, some g => deliver g m.rm m.ftz (decodeF f m.daz a)
  | some f, none => floatToInt dst.width m.rm (decodeF f m.daz a)
  | none, some g => deliver g m.rm m.ftz (intToFV (intOf src.width a))
  | none, none => intResult m.sat dst.width (intOf src.width a)

/-- Convert to FP4 (R199, R264). -/
def convertFp4 (src : VT) (m : Modes) (a : Nat) : Nat × Flags :=
  match src.fmt with
  | some f => deliver .e2m1 m.rm false (decodeF f m.daz a)
  | none => deliver .e2m1 m.rm false (intToFV (intOf src.width a))

/-- OR the flags of the elements that count. -/
def countedFlags (counts : Nat → Bool) (l : List (Nat × Flags)) : Flags :=
  (l.foldl (fun (acc : Flags × Nat) x => (if counts acc.2 then acc.1 ||| x.2 else acc.1, acc.2 + 1)) (0#7, 0)).1

/-- Narrow or widen by parts (R264, R265): ws source bits, wd result bits, part p. The flags are those of
the source elements that count. -/
def byParts (W ws wd p : Nat) (counts : Nat → Bool) (conv : Nat → Nat × Flags) (a : Nat) : Nat × Flags :=
  let m := W / ws
  if wd < ws then
    let p := p % (ws / wd)
    let r := (elems W ws a).map conv
    (packElems wd (r.map (·.1)) * 2 ^ (p * m * wd), countedFlags counts r)
  else if ws < wd then
    let n := W / wd
    let p := p % (wd / ws)
    let r := (((elems W ws a).drop (p * n)).take n).map conv
    (packElems wd (r.map (·.1)), countedFlags (fun i => counts (p * n + i)) r)
  else
    let r := (elems W ws a).map conv
    (packElems wd (r.map (·.1)), countedFlags counts r)

/-! ## MX quantisation (R201, R266, R267) -/

/-- Width of an MX target's elements by its code (R266). -/
def mxWidth (code : Nat) : Nat := match code with | 0 => 4 | 1 => 8 | 2 => 8 | 3 => 4 | 4 => 6 | _ => 8

/-- The floating format of an MX code, none for the integer ones. -/
def mxFmt (code : Nat) : Option FFmt := match code with | 0 => some .e2m1 | 1 => some .e4m3 | 2 => some .e5m2 | _ => none

/-- Implied scale's exponent of an MX integer format (R193). -/
def mxImplied (code : Nat) : Int := match code with | 3 => -2 | 4 => -4 | _ => -6

/-- Quantise one finite element to a format at block exponent x (R201): clipping delivers the extreme. -/
def quantElem (code : Nat) (rm : RM) (x : Int) (v : FV) : Nat × Flags :=
  match v with
  | .num neg m e =>
    match mxFmt code with
    | some f =>
      if m = 0 then (if neg then 2 ^ f.signBit else 0, Flag.none)
      else
        let r := roundMag f rm false neg m (e - x) false
        if r.2 &&& Flag.ovf != 0#7 then ((if neg then 2 ^ f.signBit else 0) + f.maxFinite, Flag.ovf ||| Flag.nx) else r
    | none =>
      let w := mxWidth code
      let (n, ix) := quantize rm neg m (e - x - mxImplied code) false 0
      let i : Int := if neg then -(n : Int) else n
      let (c, f) := clip w i
      (bitsOf w c, if f = Flag.none then Flag.when' ix Flag.nx else Flag.ovf ||| Flag.nx)
  | _ => (0, Flag.none)

/-- Exponent of the leading bit of a finite non-zero magnitude. -/
def leadExp (v : FV) : Option Int := match v with | .num _ m e => if m = 0 then none else some (e + m.log2) | _ => none

/-- Quantise a block of 32 elements: its scale, its elements and flags (R201). -/
def quantBlock (code : Nat) (rm : RM) (l : List FV) : Nat × List Nat × Flags :=
  if l.any (fun v => v.isNan || v.isInf) then (0xFF, l.map (fun _ => 0), Flag.nv)
  else
    let lead := l.foldl (fun (acc : Option Int) v => match acc, leadExp v with
      | none, y => y
      | some a, some b => some (max a b)
      | some a, none => some a) none
    match lead with
    | none => (0, l.map (fun _ => 0), Flag.none)
    | some top =>
      let emax : Int := match code with | 0 => 2 | 1 => 8 | 2 => 15 | _ => 0
      let x := max (-127) (min 127 (top - emax))
      let r := l.map (quantElem code rm x)
      ((x + 127).toNat, r.map (·.1), r.foldl (fun f y => f ||| y.2) 0#7)

/-- Split a list into blocks of 32. -/
def blocks {α : Type} : (n : Nat) → List α → List (List α)
  | 0, _ => []
  | n + 1, l => l.take 32 :: blocks n (l.drop 32)

/-- The value of an MX or narrow element before its block scale (R192, R193). -/
def mxValue (code : Nat) (bits : Nat) : FV :=
  match mxFmt code with
  | some f => decodeF f false bits
  | none => ofSigned (intOf (mxWidth code) bits) (mxImplied code) false

/-- Multiply a value by 2^k. -/
def scaleV (v : FV) (k : Int) : FV := match v with | .num n m e => .num n m (e + k) | v => v

/-! ## Trees and scans (R268, R269) -/

/-- One level of the fixed tree: pairs are combined, a last odd one is carried up. -/
def treeLevel (f : Nat → Nat → Nat × Flags) : List Nat → List Nat × Flags
  | a :: b :: rest =>
    let (x, g) := f a b
    let (r, h) := treeLevel f rest
    (x :: r, g ||| h)
  | l => (l, 0#7)

/-- Combine until one value is left. -/
def treeReduce (f : Nat → Nat → Nat × Flags) : (fuel : Nat) → List Nat → Flags → Nat × Flags
  | 0, l, g => (l.headD 0, g)
  | n + 1, l, g =>
    match l with
    | [x] => (x, g)
    | l =>
      let (r, h) := treeLevel f l
      treeReduce f n r (g ||| h)

/-- The running combination of a list. -/
def scanList (f : Nat → Nat → Nat × Flags) (s : Nat) (g : Flags) : List Nat → List Nat × Flags
  | [] => ([], g)
  | x :: xs =>
    let (v, h) := f s x
    let (r, g') := scanList f v (g ||| h) xs
    (v :: r, g')

/-- Cut a list into groups of G. -/
def groupsOf {α : Type} (G : Nat) : (n : Nat) → List α → List (List α)
  | 0, _ => []
  | n + 1, l => l.take G :: groupsOf G n (l.drop G)

/-! ## Special functions (R270) -/

/-- A special function of one element (R205, R270). -/
def specialElem (f : FFmt) (m : Modes) (op a : Nat) : Nat × Flags :=
  let v := decodeF f m.daz a
  let ex (x : FV) : Nat := (deliver f 0#2 false x).1
  let one : FV := .num false 1 0
  match v with
  | .nan => (f.nan, Flag.none)
  | .inf neg =>
    match op with
    | 0x40 => (ex (.zero neg), Flag.none)
    | 0x41 => if neg then (f.nan, Flag.nv) else (0, Flag.none)
    | 0x44 => (if neg then 0 else ex (.inf false), Flag.none)
    | 0x45 => if neg then (f.nan, Flag.nv) else (ex (.inf false), Flag.none)
    | 0x46 => (ex (.num neg 1 0), Flag.none)
    | 0x47 => (if neg then 0 else ex one, Flag.none)
    | _ => if neg then (f.nan, Flag.nv) else (ex (.inf false), Flag.none)
  | .num neg x e =>
    if x = 0 then
      match op with
      | 0x40 => (ex (.inf neg), Flag.dz)
      | 0x41 => (ex (.inf neg), Flag.dz)
      | 0x44 => (ex one, Flag.none)
      | 0x45 => (ex (.inf true), Flag.dz)
      | 0x46 => (ex (.zero neg), Flag.none)
      | 0x47 => (ex (.num false 1 (-1)), Flag.none)
      | _ => (ex (.zero neg), Flag.none)
    else
      match op with
      | 0x40 => let r := rcpMag x e; approxRound f m.ftz neg r.1 r.2.1 r.2.2
      | 0x41 => if neg then (f.nan, Flag.nv) else let r := rsqMag x e; approxRound f m.ftz false r.1 r.2.1 r.2.2
      | 0x44 => exp2V f m.ftz neg x e
      | 0x45 => if neg then (f.nan, Flag.nv) else log2V f m.ftz x e
      | 0x46 => tanhV f m.ftz neg x e
      | 0x47 => sigmV f m.ftz neg x e
      | _ =>
        if neg then (f.nan, Flag.nv)
        else let r := sqrtMag x e; deliver f m.rm m.ftz (.num false r.1 r.2.1) r.2.2

/-- `rcp.f` and `rsq.f` (R206): x is sa, e is sb. -/
def refineElem (f : FFmt) (m : Modes) (sqrt : Bool) (a b : Nat) : Nat × Flags :=
  let x := decodeF f m.daz a
  let e := decodeF f m.daz b
  let special (v : FV) : Bool := v.isNan || v.isInf || v.isZero
  if special x || special e then (if e.isNan then f.nan else if e.isZero then (deliver f 0#2 false e).1 else b, Flag.none)
  else
    let p := (mulV x e).1
    let p := if sqrt then (mulV p e).1 else p
    let t := (addV m.rm (.num false 1 0) p.negate).1
    let c := scaleV (mulV e t).1 (if sqrt then -1 else 0)
    finish f m (addV m.rm e c)

/-! ## A stage -/

/-- The lane that holds bit b of a value, counted from the first lane of the set. -/
def laneOf (first b : Nat) : Nat := first + b / 32

/-- A stage's result on W bits, with the flags that count under the guard (R255, R261–R270, R275). -/
def runStage (w : CWord) (m : Modes) (guard : Pred) (s : Stage) (t : VT) (a b c : Nat) : Nat × Flags :=
  let W := w.bitsWide
  let ew := t.width
  let n := W / ew
  let counts (i : Nat) : Bool := guard.getLsbD (laneOf w.firstLane (ew * i))
  let la := elems W ew a
  let lb := elems W ew b
  let lc := elems W ew c
  let each (r : List (Nat × Flags)) : Nat × Flags := (packElems ew (r.map (·.1)), countedFlags counts r)
  let G := 2 ^ w.gs
  let grouped (f : List Nat → List Nat × Flags) : Nat × Flags :=
    let r := (groupsOf G (n / G) la).map f
    let fl := (r.foldl (fun (acc : Flags × Nat) x =>
      (if (List.range G).any (fun i => counts (acc.2 * G + i)) then acc.1 ||| x.2 else acc.1, acc.2 + 1)) (0#7, 0)).1
    (packElems ew (r.flatMap (·.1)), fl)
  let op2 (o : Nat) (x y : Nat) : Nat × Flags := elemOp t m o x y 0
  let reduce (o : Nat) : Nat × Flags := grouped fun l =>
    let (v, f) := treeReduce (op2 o) 8 l 0#7
    (l.map fun _ => v, f)
  let scan (o : Nat) : Nat × Flags := grouped fun l =>
    match l with
    | [] => ([], 0#7)
    | x :: xs => let (r, f) := scanList (op2 o) x 0#7 xs; (x :: r, f)
  match s.op with
  | 0x20 => byParts W ew 32 (b % 4) counts (convertElem t .f32 m) a
  | 0x21 => byParts W ew 16 (b % 4) counts (convertElem t .bf16 m) a
  | 0x22 => byParts W ew 16 (b % 4) counts (convertElem t .f16 m) a
  | 0x23 => byParts W ew 32 (b % 4) counts (convertElem t .i32 m) a
  | 0x24 => byParts W ew 8 (b % 4) counts (convertElem t w.fp8 m) a
  | 0x25 => byParts W ew 4 (b % 4) counts (convertFp4 t m) a
  | 0x26 =>
    let code := b % 16
    if 5 < code then (0, if guard.toNat / 2 ^ w.firstLane % 2 ^ w.lanes = 0 then Flag.none else Flag.nv)
    else
      match t.fmt with
      | none => (0, Flag.none)
      | some f =>
        let q := (blocks (n / 32) la).map fun l => quantBlock code m.rm (l.map (decodeF f m.daz))
        let fl := (q.foldl (fun (acc : Flags × Nat) x =>
          (if (List.range 32).any (fun i => counts (acc.2 * 32 + i)) then acc.1 ||| x.2.2 else acc.1, acc.2 + 1)) (0#7, 0)).1
        if b / 16 % 2 = 1 then (packElems 8 (q.map (·.1)), fl)
        else (packElems (mxWidth code) (q.flatMap (·.2.1)), fl)
  | 0x27 =>
    let code := b % 16
    let base (i : Nat) : Nat := mxWidth code * (b / 16 % 16 % (1024 / (32 * mxWidth code)) * 32 + i)
    let lane (i : Nat) : Bool := guard.getLsbD (laneOf 0 (base i))
    if 5 < code then
      (packElems 32 (List.replicate 32 FFmt.f32.nan), if guard = 0#32 then Flag.none else Flag.nv)
    else
      let q := b / 16 % 16 % (1024 / (32 * mxWidth code))
      let scale := c / 2 ^ (8 * q) % 256
      let r := (List.range 32).map fun i =>
        let v := mxValue code (a / 2 ^ base i % 2 ^ mxWidth code)
        if scale = 0xFF || v.isNan then (FFmt.f32.nan, Flag.none)
        else deliver .f32 m.rm m.ftz (scaleV v ((scale : Int) - 127))
      (packElems 32 (r.map (·.1)), countedFlags lane r)
  | 0x28 => byParts W ew (ew / 2) (b % 4) counts (fun x => intResult m.sat (ew / 2) (intOf ew x)) a
  | 0x29 => byParts W ew (ew * 2) (b % 4) counts (fun x => (bitsOf (ew * 2) (intOf ew x), Flag.none)) a
  | 0x30 =>
    let pick (l : List Nat) (i : Nat) : Nat := l.getD i 0
    let q := w.perm % 64
    let r := match w.perm / 64 with
      | 0 => (List.range n).map fun i => pick la (i ^^^ (q &&& (n - 1)))
      | 1 =>
        let h := w.perm % 2 * (n / 2)
        (List.range n).map fun i => if i % 2 = 0 then pick la (i / 2 + h) else pick lb (i / 2 + h)
      | _ =>
        (List.range n).map fun i =>
          if i < n / 2 then pick la (2 * i + w.perm % 2) else pick lb (2 * (i - n / 2) + w.perm % 2)
    (packElems ew r, Flag.none)
  | 0x31 => (packElems ew ((List.range n).map fun i => la.getD ((i + n - w.perm % 64 % n) % n) 0), Flag.none)
  | 0x32 => grouped fun l => (l.map fun _ => l.getD (b % 2 ^ ew % G) 0, 0#7)
  | 0x33 => reduce 0x01
  | 0x34 => reduce 0x06
  | 0x35 => reduce 0x07
  | 0x36 => scan 0x01
  | 0x37 => scan 0x03
  | 0x42 => match t.fmt with
    | some f => each ((la.zip lb).map fun x => refineElem f m false x.1 x.2)
    | none => (a, Flag.none)
  | 0x43 => match t.fmt with
    | some f => each ((la.zip lb).map fun x => refineElem f m true x.1 x.2)
    | none => (a, Flag.none)
  | op =>
    if 0x40 ≤ op then
      match t.fmt with
      | some f => each (la.map (specialElem f m op))
      | none => (a, Flag.none)
    else each ((la.zip (lb.zip lc)).map fun x => elemOp t m op x.1 x.2.1 x.2.2)

/-- A constant over a lane set: every lane, or its sign extension in every i64 element (R257). -/
def constant (w : CWord) (t : VT) (k : Nat) : Nat :=
  if t = .i64 then packElems 64 (List.replicate (w.bitsWide / 64) (bitsOf 64 (intOf 32 k)))
  else packElems 32 (List.replicate w.lanes k)

/-- What a cascade computes from its inputs on the lane set: T1, T2, T3 and the flags (R255, R259). -/
def runCascade (w : CWord) (m : Modes) (guard : Pred) (x y z : Nat) : Nat × Nat × Nat × Flags :=
  let t := w.types
  let src (t1 t2 code : Nat) : Nat :=
    match code with
    | 0 => x | 1 => y | 2 => z | 3 => t1 | 4 => t2
    | 5 => constant w w.et w.k0
    | 6 => constant w w.et w.k1
    | _ => 0
  let go (s : Stage) (t1 t2 : Nat) (v1 v2 : VT) : Nat × Flags :=
    runStage w m guard s (srcType w.et v1 v2 s.sa) (src t1 t2 s.sa) (src t1 t2 s.sb) (src t1 t2 s.sc)
  let (r1, f1) := go w.st1 0 0 w.et w.et
  let (r2, f2) := if w.uses 2 then go w.st2 r1 0 t.1 t.1 else (0, 0#7)
  let (r3, f3) := if w.uses 3 then go w.st3 r1 r2 t.1 t.2.1 else (0, 0#7)
  (r1, r2, r3, f1 ||| f2 ||| f3)

end Sys2Proof.Machine
end

