-- ==== Sys2Proof/Machine/MatrixOps.lean ====
section
/-!
DEFINITION. The matrix engine's arithmetic (R202–R204, R276–R285, R295): formats, the operator and format tables,
one accumulator element, and the conversion of a drained row.
-/

namespace Sys2Proof.Machine

/-! ## Formats (R276, R280) -/

/-- Element width of a format code (R280). -/
def fmtWidth (f : Nat) : Nat :=
  match f with
  | 0 => 4 | 1 => 8 | 2 => 8 | 3 => 4 | 4 => 6 | 5 => 8 | 6 => 16 | 7 => 8 | 8 => 16 | 11 => 1 | _ => 32

/-- K for a number of cell rows (R276). -/
def fmtK (f cells : Nat) : Nat :=
  match f with
  | 0 => cells * 16 | 1 => cells * 4 | 2 => cells * 4 | 3 => cells * 4 | 4 => cells * 3 / 2 | 11 => cells * 16 | _ => cells

/-- Bytes of an A row in a latch, Lmax (R276). -/
def fmtRowBytes (f : Nat) : Nat :=
  match f with
  | 0 => 768 | 1 => 384 | 2 => 384 | 3 => 192 | 4 => 108 | 5 => 96 | 7 => 96 | _ => 192

/-- A code that names an operand format (R280). -/
def operandFormat (f : Nat) : Bool := decide (f ≤ 8) || f = 11

/-- The fields of a format entry (R280). -/
def fmtA (e : BitVec 32) : Nat := (e.extractLsb' 0 4).toNat
def fmtB (e : BitVec 32) : Nat := (e.extractLsb' 4 4).toNat
def fmtC (e : BitVec 32) : Nat := (e.extractLsb' 8 4).toNat
def fmtAs (e : BitVec 32) : Bool := e.getLsbD 12
def fmtBs (e : BitVec 32) : Bool := e.getLsbD 13

/-- Blocks of 32 in K (R202). -/
def blocksOf (k : Nat) : Nat := (k + 31) / 32

/-! ## Operator entries (R283–R285) -/

/-- How an entry combines and reduces (R283, R285). -/
inductive Pair
  /-- (+,×) with FP32 accumulation. -/
  | real
  /-- (+,×) with INT32 accumulation. -/
  | int
  /-- Another numeric pair in the INT16 or the BF16 domain. -/
  | dom
  /-- A bitwise pair. -/
  | bits
  deriving DecidableEq, Repr

/-- The fields of an operator entry (R283). -/
structure OpEntry where
  combine : Nat
  reduce : Nat
  nanp : Bool
  sat : Bool
  fix : Bool
  identity : BitVec 32
  fixed : Bool
  deriving DecidableEq, Repr

/-- Read an operator entry's fields: n is its number, 0–15. -/
def opFields (n : Nat) (e : BitVec 64) : OpEntry where
  combine := (e.extractLsb' 0 4).toNat
  reduce := (e.extractLsb' 4 4).toNat
  nanp := e.getLsbD 9
  sat := e.getLsbD 10
  fix := e.getLsbD 11
  identity := e.extractLsb' 32 32
  fixed := decide (n < 8)

/-- The refusal of an operator entry by itself (R283). -/
def opRefusal (e : BitVec 64) : Option Nat :=
  let c := (e.extractLsb' 0 4).toNat
  let r := (e.extractLsb' 4 4).toNat
  if 6 < c || 5 < r then some 2
  else if e.extractLsb' 12 4 != 0#4 then some 3
  else if (decide (c ≤ 3)) != (decide (r ≤ 2)) then some 9
  else none

/-- The pair an entry makes with formats a and accumulate format c, none where it does not take them (R281,
R283, R285). -/
def OpEntry.pair (o : OpEntry) (a c : Nat) : Option Pair :=
  if o.combine ≤ 3 && o.reduce ≤ 2 then
    if o.combine = 0 && o.reduce = 0 then
      if c = 9 && (decide (a ≤ 6)) then some .real
      else if c = 10 && (a = 3 || a = 4 || a = 5 || a = 7 || a = 8) then some .int
      else none
    else if (a = 8 && c = 10) || (a = 6 && c = 9) then some .dom
    else none
  else if a = 11 && c = 10 then some .bits
  else none

/-- Entry 0 takes only real, entry 1 only integer operands (R285). -/
def pairTaken (n : Nat) (p : Pair) : Bool := if n = 0 then p = .real else if n = 1 then p = .int else true

/-- The refusal of a format entry with an operator entry (R280, R281, R283). -/
def fmtRefusal (n : Nat) (o : OpEntry) (e : BitVec 32) : Option Nat :=
  let a := fmtA e
  let b := fmtB e
  let c := fmtC e
  if 12 ≤ a || 12 ≤ b || 12 ≤ c then some 2
  else if e.extractLsb' 14 18 != 0#18 then some 3
  else if a != b && !((a = 1 || a = 2) && (b = 1 || b = 2)) then some 9
  else
    match o.pair a c with
    | none => some 9
    | some p =>
      if !pairTaken n p then some 9
      else if (fmtAs e || fmtBs e) && !(p = .real && (decide (a ≤ 5))) then some 9
      else none

/-- The identity an operation starts from in mode 01 (R284, R285): INT16 infinities for the fixed entries. -/
def OpEntry.start (o : OpEntry) (p : Pair) (c : Nat) : BitVec 32 :=
  if p = .dom && c = 10 && o.fixed then
    match o.combine, o.reduce with
    | 1, 1 => 0x00007FFF#32
    | 1, 2 => 0xFFFF8000#32
    | 0, _ => 0#32
    | _, _ => 0x00007FFF#32
  else o.identity

/-! ## Elements -/

/-- The numeric value of an operand element (R192, R193, R202): integers raw under an integer accumulate
format. -/
def elemValue (f : Nat) (raw : Bool) (bits : Nat) : FV :=
  match f with
  | 0 => decodeF .e2m1 false bits
  | 1 => decodeF .e4m3 false bits
  | 2 => decodeF .e5m2 false bits
  | 3 => ofSigned (intOf 4 bits) (if raw then 0 else -2) false
  | 4 => ofSigned (intOf 6 bits) (if raw then 0 else -4) false
  | 5 => ofSigned (intOf 8 bits) (if raw then 0 else -6) false
  | 6 => decodeF .bf16 false bits
  | f => ofSigned (intOf (fmtWidth f) bits) 0 false

/-- Element k of packed bytes read as one number (R194). -/
def elemAt (w v k : Nat) : Nat := v / 2 ^ (w * k) % 2 ^ w

/-- The first n elements of packed bytes. -/
def elemList (w v n : Nat) : List Nat := (List.range n).map (elemAt w v)

/-- What an operation on one element needs. -/
structure MCtx where
  pair : Pair
  op : OpEntry
  af : Nat
  bf : Nat
  cf : Nat
  deriving DecidableEq, Repr

/-- FP32 sum of two patterns, rounded RNE (R202). -/
def addF32 (c : Nat) (s : FV) : Nat × Flags :=
  let r := addV 0#2 (decodeF .f32 false c) s
  let d := deliver .f32 0#2 false r.1
  (d.1, r.2 ||| d.2)

/-- One block of a real product: scales as exponents, none where unscaled (R202, R203). -/
def realBlock (x : MCtx) (a b : List Nat) (scale : Int) (nan : Bool) (c : Nat) : Nat × Flags :=
  let leaves := (a.zip b).map fun p =>
    let r := mulV (elemValue x.af false p.1) (elemValue x.bf false p.2)
    (scaleV r.1 scale, r.2)
  let nv := leaves.foldl (fun f l => f ||| l.2) 0#7
  let isNan := nan || leaves.any (fun l => l.1.isNan)
  let pos := leaves.any (fun l => l.1 = .inf false)
  let neg := leaves.any (fun l => l.1 = .inf true)
  let sum : FV :=
    if isNan || (pos && neg) then .nan
    else if pos then .inf false
    else if neg then .inf true
    else (leaves.foldl (fun (acc : FV) l => (addV 0#2 acc l.1).1) (FV.zero true))
  let nv := nv ||| Flag.when' (pos && neg) Flag.nv
  let d := deliver .f32 0#2 false sum
  let r := addF32 c (decodeF .f32 false d.1)
  (r.1, nv ||| d.2 ||| r.2)

/-- Real accumulation over the blocks of K (R202). `sa` and `sb` are the block scales, empty where
unscaled; no A elements stand for a padding row. -/
def realElem (x : MCtx) (sa sb : List Nat) : (a b : List (List Nat)) → (kb c : Nat) → Flags → Nat × Flags
  | _, [], _, c, f => (c, f)
  | as, b :: bs, kb, c, f =>
    let one (l : List Nat) : Int × Bool :=
      match l[kb]? with
      | some e => ((e : Int) - 127, e = 0xFF)
      | none => (0, false)
    let p := one sa
    let q := one sb
    let r := match as with
      | a :: _ => realBlock x a b (p.1 + q.1) (p.2 || q.2) c
      | [] => realBlock x [] b 0 false c
    realElem x sa sb as.tail bs (kb + 1) r.1 (f ||| r.2)

/-- An exact integer brought into 32 bits: wrapped, or clipped with of (R202, R285). -/
def intAcc (sat : Bool) (n : Int) : Int × Flags :=
  if sat then clip 32 n else (intOf 32 (bitsOf 32 n), Flag.none)

/-- Integer accumulation in blocks (R202). -/
def intElemM (x : MCtx) : (a b : List (List Nat)) → (c : Int) → Flags → Int × Flags
  | a :: as, b :: bs, c, f =>
    let s := (a.zip b).foldl (fun (acc : Int) p => acc + intOf (fmtWidth x.af) p.1 * intOf (fmtWidth x.bf) p.2) 0
    let r := intAcc x.op.sat (c + s)
    intElemM x as bs r.1 (f ||| r.2)
  | _, _, c, f => (c, f)

/-- A combine of exact integers. -/
def combineInt (op : Nat) (a b : Int) : Int :=
  match op with
  | 0 => a * b
  | 1 => a + b
  | 2 => min a b
  | _ => max a b

/-- An INT16 leaf of a pair that reduces by min or max (R285). -/
def leaf16 (combine reduce : Nat) (a b : Int) : Int × Flags :=
  let inf (n : Int) : Bool := n = 32767 || n = -32768
  if combine = 1 && (inf a || inf b) then
    if inf a && inf b && a != b then (if reduce = 1 then 32767 else -32768, Flag.nv)
    else (if inf a then a else b, Flag.none)
  else
    let r := clip 16 (combineInt combine a b)
    (r.1, r.2 ||| Flag.when' (combine = 0 && reduce != 0 && (decide (a < 0) || decide (b < 0))) Flag.dm)

/-- The INT16 domain (R285). -/
def dom16 (x : MCtx) (a b : List Nat) (c : Nat) : Nat × Flags :=
  let v := intOf 32 c
  let pairs := (a.zip b).map fun p => (intOf 16 p.1, intOf 16 p.2)
  if x.op.reduce = 0 then
    let r := pairs.foldl (fun (acc : Int × Flags) p =>
      let r := intAcc x.op.sat (acc.1 + combineInt x.op.combine p.1 p.2)
      (r.1, acc.2 ||| r.2)) (v, 0#7)
    (bitsOf 32 r.1, r.2)
  else
    let r := pairs.foldl (fun (acc : Int × Flags) p =>
      let l := leaf16 x.op.combine x.op.reduce p.1 p.2
      (if x.op.reduce = 1 then min acc.1 l.1 else max acc.1 l.1, acc.2 ||| l.2)) (clip 16 v)
    (bitsOf 32 r.1, r.2)

/-- A BF16 leaf: exact, rounded once to FP32 (R285). -/
def leafBf (combine reduce : Nat) (a b : FV) : FV × Flags :=
  let neg (v : FV) : Bool := v.sign && !v.isZero
  let r : FV × Flags :=
    if a.isNan || b.isNan then (.nan, Flag.none)
    else
      match combine with
      | 0 => mulV a b
      | 1 =>
        if reduce != 0 && a.isInf && b.isInf && a.sign != b.sign then (.inf (decide (reduce = 2)), Flag.nv)
        else addV 0#2 a b
      | 2 => (minV a b, Flag.none)
      | _ => (maxV a b, Flag.none)
  let d := deliver .f32 0#2 false r.1
  (decodeF .f32 false d.1, r.2 ||| d.2 ||| Flag.when' (combine = 0 && reduce = 2 && (neg a || neg b)) Flag.dm)

/-- The BF16 domain (R285): with nanp clear a NaN makes the element the default NaN. -/
def domBf (x : MCtx) (a b : List Nat) (c : Nat) : Nat × Flags :=
  let leaves := (a.zip b).map fun p => leafBf x.op.combine x.op.reduce (decodeF .bf16 false p.1) (decodeF .bf16 false p.2)
  let fl := leaves.foldl (fun f l => f ||| l.2) 0#7
  let v := decodeF .f32 false c
  if x.op.reduce = 0 then
    leaves.foldl (fun (acc : Nat × Flags) l =>
      let r := addF32 acc.1 l.1
      (r.1, acc.2 ||| r.2)) ((deliver .f32 0#2 false v).1, fl)
  else if !x.op.nanp && (v.isNan || leaves.any (fun l => l.1.isNan)) then (FFmt.f32.nan, fl)
  else
    let pick (p q : FV) : FV := if x.op.reduce = 1 then minV p q else maxV p q
    let r := (leaves.filter fun l => !l.1.isNan).foldl (fun (acc : FV) l => pick acc l.1) v
    ((deliver .f32 0#2 false r).1, fl)

/-- The bit format (R285). -/
def bitElem (x : MCtx) (a b : List Nat) (c : Nat) : Nat :=
  (a.zip b).foldl (fun acc p =>
    let l := match x.op.combine with | 4 => p.1 &&& p.2 | 5 => p.1 ||| p.2 | _ => p.1 ^^^ p.2
    match x.op.reduce with | 3 => acc ||| l | 4 => acc ^^^ l | _ => acc &&& l) (c % 2)

/-- One accumulator element (R202, R285, R291). `a` is none for a padding row; c is the value it starts
from. -/
def mElem (x : MCtx) (init : Bool) (a : Option (List Nat)) (b : List Nat) (sa sb : List Nat) (c : Nat) : Nat × Flags :=
  let n := blocksOf b.length
  let r : Nat × Flags := match x.pair with
    | .real => realElem x sa sb (match a with | some l => blocks n l | none => []) (blocks n b) 0 c 0#7
    | .int =>
      match a with
      | some l => let r := intElemM x (blocks n l) (blocks n b) (intOf 32 c) 0#7; (bitsOf 32 r.1, r.2)
      | none => (c, 0#7)
    | .dom => if x.cf = 10 then dom16 x (a.getD []) b c else domBf x (a.getD []) b c
    | .bits => (bitElem x (a.getD []) b c, 0#7)
  if init && x.op.fix && (a.isNone || b.isEmpty) then (0, r.2) else r

/-- Element j of an accumulator row. -/
def rowElem (row : BitVec 4096) (j : Nat) : Nat := (row.extractLsb' (32 * j) 32).toNat

/-- An accumulator row from its elements. -/
def rowOf (l : List Nat) : BitVec 4096 := BitVec.ofNat 4096 (packElems 32 l)

/-- A whole row of an `mmul`: columns from n on are not touched (R291). -/
def mRow (x : MCtx) (init : Bool) (ident : BitVec 32) (a : Option (List Nat)) (cols : List (List Nat × List Nat))
    (sa : List Nat) (row : BitVec 4096) : BitVec 4096 × Flags :=
  let r := (List.range 128).map fun j =>
    match cols[j]? with
    | some (b, sb) => mElem x init a b sa sb (if init then ident.toNat else rowElem row j)
    | none => (rowElem row j, 0#7)
  (rowOf (r.map (·.1)), r.foldl (fun f e => f ||| e.2) 0#7)

/-! ## Drains (R295) -/

/-- Width of an output format (R288). -/
def outWidth (o : Nat) : Nat := fmtWidth o

/-- Convert one element of a drained row (R199, R200, R295). -/
def convertOut (o : Nat) (rm : RM) (w : Nat) : Nat × Flags :=
  let float (f : FFmt) : Nat × Flags := deliver f rm false (decodeF .f32 false w)
  match o with
  | 9 => float .f32
  | 6 => float .bf16
  | 1 => float .e4m3
  | 2 => float .e5m2
  | 0 => float .e2m1
  | 10 => (w % 2 ^ 32, Flag.none)
  | 8 => intResult true 16 (intOf 32 w)
  | 7 => intResult true 8 (intOf 32 w)
  | _ => (w % 2, Flag.none)

/-- A drained row: its packed number and its flags; `n` columns (R194, R295, R296). -/
def drainRow (o : Nat) (rm : RM) (row : BitVec 4096) (n : Nat) : Nat × Flags :=
  let r := (List.range n).map fun j => convertOut o rm (rowElem row j)
  (packElems (outWidth o) (r.map (·.1)), r.foldl (fun f e => f ||| e.2) 0#7)

end Sys2Proof.Machine
end

