-- ==== Sys2Proof/Machine/Vector.lean ====
section
/-!
DEFINITION. The vector slots (chapter 12, R101, R216–R220): the cascade under a control word and the four
direct forms.
-/

namespace Sys2Proof.Machine

/-- The gate of an instruction whose fields are also checked against the context's state: the offence at
the lowest bit decides (R226, R227). -/
def slotGate (i : Instr) (ctx : List Decode.Offence) : Gate :=
  match Decode.firstOffence ctx with
  | none => staticGate i
  | some o =>
    match Decode.encode i with
    | some w =>
      match Decode.firstOffence ((Decode.readSlot w.slot w.cls w.bits).2 ++ ctx) with
      | some p => .refuse p.2
      | none => .refuse o.2
    | none => .refuse o.2

/-! ## The control word and the inputs -/

/-- An entry of the control-word table as a context's bundle at κ finds it: an `ldcw` has written it from its issue + 3
on (R211, R307). -/
def Ctx.cwEntry (x : Ctx) (table : FMap (BitVec 256)) (e : Nat) : BitVec 256 :=
  x.pend.foldl (fun w p => match p.act with
    | .wordWrite n v => if n = e && decide (p.due ≤ x.iss.kappa) then v else w
    | _ => w) (fget 0#256 table e)

/-- The control word that a vector slot names: none beyond the partition (R216, R258). -/
def State.cword (s : State) (cwi : BitVec 9) : Option CWord :=
  if s.me.cwlim - s.me.cwbase ≤ cwi.toNat then none
  else some (splitWord (s.me.cwEntry s.myCore.cwt (s.me.cwbase + cwi.toNat)))

/-- One input of a vector slot: its number, field, mode and capture bit (R216). -/
structure VInput where
  no : Nat
  field : BitVec 6
  mode : BitVec 2
  capture : Bool
  deriving DecidableEq, Repr

/-- The inputs X, Y, Z of a slot (R216). -/
def VFields.inputs (f : VFields) : List VInput :=
  [{ no := 0, field := f.x, mode := f.xm, capture := f.cx }, { no := 1, field := f.y, mode := f.ym, capture := f.cy },
   { no := 2, field := f.z, mode := f.zm, capture := f.cz }]

/-- The inputs that a word reads, in the order X, Y, Z (R255). -/
def VFields.used (f : VFields) (w : CWord) : List VInput := (VFields.inputs f).filter fun i => w.reads i.no

/-- Offences of a cascade found in the control word (R216, R217, R220, R226). -/
def State.cascadeOffences (s : State) (f : VFields) : List Decode.Offence :=
  match s.cword f.cwi with
  | none => []
  | some w =>
    if !w.legal then [(0, 7)]
    else
      Decode.off (w.osel = 3 && f.dst != 0#6) 9 3 ++
        ((VFields.inputs f).filter (fun i => !w.reads i.no)).flatMap fun i =>
          Decode.zeroOff i.field (15 + 6 * i.no) ++ Decode.zeroOff i.mode (33 + 2 * i.no) ++
            Decode.off i.capture (45 + i.no) 3

/-- Lanes of the pool that a slot takes (R212). -/
def State.poolShare (s : State) (i : Instr) : Nat :=
  match i with
  | .vectorCascade _ f => match s.cword f.cwi with
    | some w => w.bitsWide
    | none => 0
  | .vmov _ _ _ _ _ _ => 1024
  | .anc _ _ _ _ => 1024
  | .vzero _ _ _ => 1024
  | _ => 0

/-- Entries that a list of inputs pops from a queue (R211). -/
def popsOf (l : List VInput) (q : Bool) : Nat := (l.filter fun i => i.mode = 2#2 && i.field.getLsbD 0 = q).length

/-- The wait of a slot for the entries it pops (R156, R211). -/
def State.popGate (s : State) (l : List VInput) : Gate :=
  waitIf .queueEmpty (decide (present s.me.q0 < popsOf l false) || decide (present s.me.q1 < popsOf l true))

/-- The first window fault of a destination and inputs, in field order (R158). -/
def State.vectorWindows (s : State) (slot : Nat) (dst : Option (BitVec 6)) (l : List VInput) : Option SFault :=
  l.foldl (fun acc i => firstFault acc (if i.mode = 0#2 then s.readBayCheck slot i.field else none))
    (dst.bind fun d => s.landCheck slot d 6)

/-- Read inputs in order, popping as they are read: the first bad entry is a fault (R57, R83, R211). -/
def State.readInputs (slot w : Nat) : List VInput → State → Except SFault (List (VInput × VOperand) × State)
  | [], s => .ok ([], s)
  | i :: l, s =>
    match (if i.mode = 2#2 then popFault (oldest (s.me.queue (i.field.getLsbD 0))) else none) with
    | some f => .error f
    | none =>
      let v := s.readOperand slot i.no i.field i.mode w
      match State.readInputs slot w l (s.popOperand i.field i.mode) with
      | .error f => .error f
      | .ok r => .ok ((i, v) :: r.1, r.2)

/-- Captured operands go into entry 3 of their inputs' files (R273). -/
def State.captured (s : State) (slot : Nat) (l : List (VInput × VOperand)) : State :=
  l.foldl (fun s x => if x.1.capture then s.setAnchor (anchorNo slot x.1.no 3) x.2 else s) s

/-! ## Lanes -/

/-- The bits of the lanes that a test selects. -/
def lanesWhere (p : Nat → Bool) : Bay :=
  BitVec.ofNat 1024 ((List.range 32).foldl (fun acc l => if p l then acc + (2 ^ 32 - 1) * 2 ^ (32 * l) else acc) 0)

/-- A lane belongs to the word's set (R256). -/
def CWord.hasLane (w : CWord) (l : Nat) : Bool := decide (w.firstLane ≤ l) && decide (l < w.firstLane + w.lanes)

/-- The guard bit that governs a lane: for i64 the even lane's governs both (R271). -/
def guardBit (g : Pred) (t : VT) (l : Nat) : Bool := g.getLsbD (if t = .i64 then l / 2 * 2 else l)

/-- The lane set's part of an operand, from bit 0. -/
def CWord.part (w : CWord) (v : Bay) : Nat := v.toNat / 2 ^ (32 * w.firstLane) % 2 ^ w.bitsWide

/-- A result placed in the word's lanes. -/
def CWord.place (w : CWord) (v : Nat) : Bay := BitVec.ofNat 1024 (v * 2 ^ (32 * w.firstLane))

/-- The predicate bits of a result: bit 0 of each lane, of the even lane for i64 (R272). -/
def predBits (v : Bay) (t : VT) : Pred :=
  BitVec.ofNat 32 ((List.range 32).foldl (fun acc l =>
    if v.getLsbD (32 * (if t = .i64 then l / 2 * 2 else l)) then acc + 2 ^ l else acc) 0)

/-- The predicate bits whose lanes a test selects. -/
def predWhere (p : Nat → Bool) : Pred :=
  BitVec.ofNat 32 ((List.range 32).foldl (fun acc l => if p l then acc + 2 ^ l else acc) 0)

/-! ## The cascade -/

/-- The modes a word computes in (R196, R198, R200). -/
def State.modesOf (s : State) (w : CWord) : Modes :=
  { rm := w.rm, daz := s.rd.fpctl.getLsbD 2, ftz := s.rd.fpctl.getLsbD 3, sat := w.sat }

/-- What a cascade writes once its operands are read: flags at issue, the landing and the predicate six
cycles later (R255, R271, R272, R275). -/
def State.cascadeWrite (s : State) (slot : Nat) (f : VFields) (w : CWord) (ops : List (VInput × VOperand)) : State :=
  let operand (n : Nat) : VOperand := ((ops.find? fun x => x.1.no = n).map (·.2)).getD {}
  let guard := s.rd.preg f.guard
  let taint := ops.foldl (fun m x => m ||| x.2.mask) (s.rd.ptaint f.guard)
  let r := runCascade w (s.modesOf w) guard (w.part (operand 0).value) (w.part (operand 1).value) (w.part (operand 2).value)
  let (t1, t2, t3, flags) := r
  let (res, ty) := match w.osel with
    | 1 => (t2, w.types.2.1)
    | 2 => (t1, w.types.1)
    | _ => (t3, w.types.2.2)
  let value := w.place res
  let on (l : Nat) : Bool := w.hasLane l && guardBit guard ty l
  let partial' := w.width != 2 || (f.guard != 0#5 && !w.zm)
  let zeroed (l : Nat) : Bool := w.hasLane l && w.zm
  let s := if f.nx || (w.osel = 3 && !w.pwe) then s else s.recordMe slot flags
  let s := if w.osel = 3 then s
    else s.land slot f.dst 6 (value &&& lanesWhere on) (lanesWhere fun l => on l || zeroed l) taint partial'
  if w.pwe then
    s.later 6 slot (.predWrite w.pidx.toNat (predBits value ty &&& predWhere on)
      (predWhere fun l => on l || zeroed l) taint partial')
  else s

/-- A cascade (R255). -/
def execVectorCascade (u : VSlot) (f : VFields) (s : State) : Host.Outcome State Fault Refusal :=
  let slot := vslot u
  match s.cword f.cwi with
  | none =>
    gated slot (staticGate (.vectorCascade u f)) (fun s => s.raise 8 0 slot (zext64 f.cwi)) s
  | some w =>
    let used := VFields.used f w
    gated slot ((slotGate (.vectorCascade u f) (s.cascadeOffences f)).and (s.popGate used)) (fun s =>
      s.orFault slot (s.vectorWindows slot (if w.osel = 3 then none else some f.dst) used) fun s =>
        match State.readInputs slot w.et.width used s with
        | .error e => s.raise e.code e.detail slot e.addr
        | .ok (ops, t) => (t.captured slot ops).cascadeWrite slot f w ops) s

/-! ## Direct forms (R219, R274) -/

/-- A direct form with one operand. -/
def directForm (i : Instr) (slot : Nat) (dst : Option (BitVec 6)) (x : VInput) (k : VOperand → State → State) (s : State) :
    Host.Outcome State Fault Refusal :=
  gated slot ((staticGate i).and (s.popGate [x])) (fun s =>
    s.orFault slot (s.vectorWindows slot dst [x]) fun s =>
      match State.readInputs slot 32 [x] s with
      | .error e => s.raise e.code e.detail slot e.addr
      | .ok (ops, t) => k (((ops.head?).map (·.2)).getD {}) (t.captured slot ops)) s

/-- A landing of a direct form under its guard, keeping masked lanes (R92, R274). -/
def State.landGuarded (s : State) (slot : Nat) (dst : BitVec 6) (guard : BitVec 5) (v : Bay) (t : Mask) : State :=
  let bits := lanesWhere fun l => (s.rd.preg guard).getLsbD l
  s.land slot dst 6 (v &&& bits) bits (t ||| s.rd.ptaint guard) (guard != 0#5)

/-- `vmov` (R274). -/
def execVmov (u : VSlot) (dst x : BitVec 6) (xm : BitVec 2) (guard : BitVec 5) (cx : Bool) (s : State) :
    Host.Outcome State Fault Refusal :=
  directForm (.vmov u dst x xm guard cx) (vslot u) (some dst) { no := 0, field := x, mode := xm, capture := cx }
    (fun v s => s.landGuarded (vslot u) dst guard v.value v.mask) s

/-- `anc` writes an anchor at issue (R274). -/
def execAnc (u : VSlot) (dst : BitVec 4) (x : BitVec 6) (xm : BitVec 2) (s : State) : Host.Outcome State Fault Refusal :=
  directForm (.anc u dst x xm) (vslot u) none { no := 0, field := x, mode := xm, capture := false }
    (fun v s => s.setAnchor (anchorNo (vslot u) (dst.extractLsb' 2 2).toNat (dst.extractLsb' 0 2).toNat) v) s

/-- `vzero` (R274). -/
def execVzero (u : VSlot) (dst : BitVec 6) (guard : BitVec 5) (s : State) : Host.Outcome State Fault Refusal :=
  gated (vslot u) (staticGate (.vzero u dst guard)) (fun s =>
    s.orFault (vslot u) (s.landCheck (vslot u) dst 6) fun s => s.landGuarded (vslot u) dst guard 0#1024 0#9) s

/-- `vtclr` empties a bay's mask at issue + 6 (R101). -/
def execVtclr (u : VSlot) (dst : BitVec 6) (s : State) : Host.Outcome State Fault Refusal :=
  gated (vslot u) (staticGate (.vtclr u dst)) (fun s =>
    s.later 6 (vslot u) (.untaint (s.rd.bayOf dst))) s

end Sys2Proof.Machine
end

