-- ==== Sys2Proof/Machine/Engine.lean ====
section
/-!
DEFINITION. The matrix engine's shared rules (R45, R277–R279, R287–R294, R299, R357): the lease, engine time, the
Porter and the loader, the first possible start of a command, the slew level and its reservations, and the
accumulator's rows.
-/

namespace Sys2Proof.Machine

/-! ## The lease (R277) -/

/-- The engine's state as a new holder finds it: zeroed, with its poison marks cleared (R277). -/
def CoreState.scrubbed (k : CoreState) : CoreState :=
  { k with lat := [], bbuf := [], gathers := [], loads := [], scales := [], scalePoison := false, lastBundle := none, idleAt := [] }

/-- The lease passes: the latches, the B buffers and the scale queue are zeroed, in 96 cycles (R277). -/
def State.passLease (s : State) (core : Nat) : State :=
  s.modCore core fun k => { k.scrubbed with lease := none, scrubEnd := s.cycle + Config.scrubCycles }

/-- A context asks for the lease at issue: free, it is granted (R277). -/
def State.takeLease (s : State) : State :=
  s.modCore (coreOf s.cur) fun k => if k.lease.isNone then { k with lease := some s.cur } else k

/-- Another context holds the lease: the bundle waits (R277). -/
def State.leaseGate (s : State) : Gate :=
  waitIf .lease (match s.myCore.lease with | some h => h != s.cur | none => false)

/-- The lease holder is resident and not stopped: engine time advances (R279). -/
def State.engineRuns (s : State) (core : Nat) : Bool :=
  let k := s.core core
  !k.frozen && (match k.lease with | some h => (s.ctx h).st = .resident | none => false)

/-! ## Rows of scratchpad, and the Porter's and the loader's reads (R45) -/

/-- The 128-byte rows of a byte range, each by its bank. -/
def rowBanks (a n : Nat) : List Nat :=
  if n = 0 then [] else (List.range ((a + n - 1) / 128 + 1 - a / 128)).map fun i => bankOf ((a / 128 + i) * 128)

/-- The banks of a byte range. -/
def rangeBanks (a n : Nat) : List Nat :=
  if n = 0 then [] else (List.range (bankOf (a + n - 1) + 1 - bankOf a)).map (· + bankOf a)

/-- The banks of a list as a mask (R114). -/
def bankMask (l : List Nat) : BitVec 48 := l.foldl (fun m b => m ||| (1#48 <<< b)) 0#48

/-- Serve up to n rows of a list in one cycle, one row to a bank: the rows left, and the banks used. -/
def takeRows : (l : List Nat) → (n : Nat) → (used : List Nat) → List Nat × List Nat
  | [], _, used => ([], used)
  | b :: l, n, used =>
    if n = 0 then (b :: l, used)
    else if used.contains b then
      let r := takeRows l n used
      (b :: r.1, r.2)
    else takeRows l (n - 1) (b :: used)

/-- Cycles that rows take with the banks free: 1 KiB a cycle (R289, R290). -/
def rowRounds : (fuel : Nat) → List Nat → Nat
  | 0, _ => 0
  | _, [] => 0
  | n + 1, l => 1 + rowRounds n (takeRows l 8 []).1

/-- A command is an `mmul` that names a latch, or a B buffer. -/
def MCmd.names (m : MCmd) (latch : Bool) (which : Bool) : Bool :=
  match m.kind with
  | .mmul f _ _ _ => if latch then f.lt = which else f.bb = which
  | _ => false

/-- A command is a gang's lead: it starts no earlier than its issue planned, with its shares (R299, R357). -/
def MCmd.gangs (m : MCmd) : Bool :=
  match m.kind with
  | .mmul f _ _ _ => f.gang != 0#3 && m.lead.isNone
  | _ => false

/-- Cycles a command occupies the engine (R293). -/
def MCmd.occ (m : MCmd) : Nat :=
  match m.kind with
  | .mmul f _ _ _ => f.m.toNat
  | .mzero _ n _ => n
  | .mdrain _ n _ _ _ _ => n
  | .mdrainb _ _ _ _ => 1

/-- A command is an `mmul`. -/
def MCmd.isMmul (m : MCmd) : Bool := match m.kind with | .mmul _ _ _ _ => true | _ => false

/-- κ of a context as the engine's scratchpad reads count it: engine-wait idle counts (R78, R297; log 20). -/
def Ctx.engineK (c : Ctx) : Nat := c.iss.kappa + c.iss.idle

/-- A gather or a load may read: its issuer's κ has reached issue + 3, and every earlier `mmul` that names
the latch or buffer has streamed its last row (R289, R290, R297). -/
def State.fillMayBegin (s : State) (k : CoreState) (f : Fill) (latch which : Bool) : Bool :=
  decide (f.issueK + 3 ≤ (s.ctx f.owner).engineK) && decide (k.scrubEnd ≤ s.cycle) &&
    k.cmds.all fun m => !(m.names latch which && decide (m.id < f.after)) ||
      (match m.start with | some t => decide (t + m.occ ≤ k.et) | none => false)

/-- The pending gather, or load, that its unit serves: the oldest. -/
def oldestFill (a b : Option Fill) : Option (Bool × Fill) :=
  match a, b with
  | some x, some y => if x.seq < y.seq then some (false, x) else some (true, y)
  | some x, none => some (false, x)
  | none, some y => some (true, y)
  | none, none => none

/-- A unit's fills: the Porter's gathers, or the loader's loads. -/
def CoreState.fills (k : CoreState) (latch : Bool) : Option Fill × Option Fill :=
  if latch then (fget none k.gathers 0, fget none k.gathers 1) else (fget none k.loads 0, fget none k.loads 1)

/-- Replace one fill of a unit. -/
def CoreState.setFill (k : CoreState) (latch which : Bool) (f : Option Fill) : CoreState :=
  let n := if which then 1 else 0
  if latch then { k with gathers := fput k.gathers n f } else { k with loads := fput k.loads n f }

/-- Banks that drains write in this engine time (R45). -/
def CoreState.drainBanks (k : CoreState) : List Nat :=
  k.cmds.flatMap fun m =>
    match m.kind, m.start with
    | .mdrain _ n addr ofmt _ _, some t =>
      if t + 4 ≤ k.et && decide (k.et < t + 4 + n) then rangeBanks (addr + (k.et - t - 4) * (16 * outWidth ofmt)) (16 * outWidth ofmt)
      else []
    | _, _ => []

/-- One unit's reads in one cycle. -/
def State.unitReads (s : State) (k : CoreState) (latch : Bool) (used : List Nat) : CoreState × List Nat :=
  let reading (f : Option Fill) : Option Fill := f.filter fun x => !x.rows.isEmpty
  let p := k.fills latch
  match oldestFill (reading p.1) (reading p.2) with
  | some (which, f) =>
    if s.fillMayBegin k f latch which then
      let r := takeRows f.rows 8 used
      (k.setFill latch which (some { f with rows := r.1 }), r.2)
    else (k, used)
  | none => (k, used)

/-- Banks whose engine port has served a dray in this cycle (R42, R45). -/
def State.draysServed (s : State) (k : CoreState) : List Nat := (k.port.filter fun e => e.2.1 = s.cycle).map (·.1)

/-- One cycle of the Porter and the loader, the oldest request first, after the drains: the core after it, and the banks
whose ports have been used (R45). -/
def State.porterUse (s : State) (core : Nat) : CoreState × List Nat :=
  let k := s.core core
  if k.frozen then (k, [])
  else
    let used := if s.engineRuns core then k.drainBanks else []
    let g := oldestFill (k.fills true).1 (k.fills true).2
    let l := oldestFill (k.fills false).1 (k.fills false).2
    let porterFirst := match g, l with
      | some x, some y => decide (x.2.seq < y.2.seq)
      | _, _ => true
    let r := s.unitReads k porterFirst (used ++ s.draysServed k)
    s.unitReads r.1 (!porterFirst) r.2

/-- That cycle passes for a core whose Porter or loader has something to read. -/
def State.porterTick (s : State) (core : Nat) : State :=
  let k := s.core core
  if (k.gathers.isEmpty && k.loads.isEmpty) || k.frozen then s else s.setCore core (s.porterUse core).1

/-- A fill that a command issued after it waits for (R293). -/
def CoreState.fillPending (k : CoreState) (latch which : Bool) (id : Nat) : Bool :=
  (if which then (k.fills latch).2 else (k.fills latch).1).any fun f => decide (f.after ≤ id)

/-! ## Levels and starts (R293, R357) -/

/-- The governor's level at an engine time after the last real row: it falls in three steps (R357). -/
def levelAfter (rowsEnd t : Nat) : Nat := if rowsEnd = 0 then 0 else if t - rowsEnd < 12 then 3 - (t - rowsEnd) / 4 else 0

/-- The governor's level at an engine time: filler rows before a gang's common start keep it (R299, R357). -/
def CoreState.levelAt (k : CoreState) (t : Nat) : Nat :=
  if k.rowsEnd = 0 then 0
  else if t < k.rowsEnd then
    if t < k.rampFrom then k.rampLevel
    else if t < k.rampFrom + 4 * (3 - k.rampLevel) then k.rampLevel + 1 + (t - k.rampFrom) / 4
    else 4
  else levelAfter k.rowsEnd t

/-- Cycles that a ramp from a level adds: the g of R293 (R357). -/
def rampAdds (level : Nat) : Nat := match level with | 0 => 6 | 1 => 3 | 2 => 1 | _ => 0

/-- Scales a command needs (R287). -/
def MCmd.need (m : MCmd) : Nat :=
  match m.kind with
  | .mmul f _ e _ => if fmtAs e then f.m.toNat * blocksOf m.buf.k else 0
  | _ => 0

/-- A command has taken its scales. -/
def MCmd.taken (m : MCmd) : Bool := m.scales.length = m.need

/-- Scales that earlier-issued commands have claimed and not yet taken (R287). -/
def claimed (l : List MCmd) : Nat := (l.filter fun m => !m.taken).foldl (fun n m => n + m.need) 0

/-- Scales of a context's `sclq` in flight, and the last κ at which they enter (R287, R308). -/
def Ctx.scalesInFlight (c : Ctx) : Nat × Nat :=
  c.pend.foldl (fun acc p => match p.act with
    | .scalePush _ n => (acc.1 + n, max acc.2 p.due)
    | _ => acc) (0, 0)

/-- A delay that no slack covers. -/
def never : Nat := 2 ^ 20

/-- Cycles until the queue holds the scales that a command needs, of those in flight too, which is never where those in flight
are not enough. With none in flight the command faults, and waits for nothing (R287, R293). -/
def Ctx.scalesIn (c : Ctx) (held need : Nat) : Nat :=
  if need ≤ held || c.scalesInFlight.1 = 0 then 0
  else if need ≤ held + c.scalesInFlight.1 then c.scalesInFlight.2 - c.engineK
  else never

/-- Cycles until a unit's fill of a latch or buffer can be assured: nothing pending is 0 (R293). The count takes
no unplanned idle of the owner, every row of a drain in flight as a cycle lost, and the other unit's older
reads in full. -/
def State.fillEta (s : State) (k : CoreState) (streamEnd id : Nat) (latch which : Bool) : Nat :=
  let p := k.fills latch
  let own := if which then p.2 else p.1
  match own.filter (fun f => decide (f.after ≤ id)) with
  | none => 0
  | some f =>
    let rounds (x : Fill) : Nat := rowRounds (x.rows.length + 1) x.rows
    let begins (x : Fill) (w : Bool) : Nat :=
      max (max (x.issueK + 3 - (s.ctx x.owner).engineK) (k.scrubEnd - s.cycle))
        ((k.cmds.filter fun m => m.names latch w && decide (m.id < x.after)).foldl (fun n m =>
          max n ((match m.start with | some t => t + m.occ | none => streamEnd) - k.et)) 0)
    let other := if which then p.1 else p.2
    let first : Nat := match other with
      | some x => if x.seq < f.seq then begins x (!which) + rounds x else 0
      | none => 0
    let q := k.fills (!latch)
    let rival : Nat := [q.1, q.2].foldl (fun n (x : Option Fill) => match x with
      | some x => if x.seq < f.seq && x.rows.any f.rows.contains then n + rounds x else n
      | none => n) 0
    let drains := k.cmds.foldl (fun n m => match m.kind with | .mdrain _ r _ _ _ _ => n + r - m.done | _ => n) 0
    max (begins f which) first + rounds f + rival + (if f.rows.isEmpty then 0 else drains)

/-- Where the queue of commands stands for the next one: the end of the last occupancy and of the last real
row, in engine time. -/
structure Ahead where
  free : Nat
  rowsEnd : Nat
  deriving DecidableEq, Repr

/-- A command of a gang, its lead's or a share, which all start together (R299). -/
def MCmd.common (m : MCmd) : Bool := m.gangs || m.lead.isSome

/-- The first possible start of a command behind `a`, and its g: of a gang's commands as they were planned together (R293, R299,
R357). `ready` is the engine time at which its operands can be assured. -/
def firstStart (a : Ahead) (m : MCmd) (ready : Nat) : Nat × Nat :=
  let f := max (max a.free ready) m.issue
  if m.isMmul then
    let f := if levelAfter a.rowsEnd f = 0 || m.common then max f m.earliest else f
    (f, if m.common then m.g else rampAdds (levelAfter a.rowsEnd f))
  else (f, 0)

/-- Cycles until the B buffer that feeds a command can be assured: its own core's, or another's as it stands (R293, R299). -/
def State.feedEta (s : State) (k : CoreState) (streamEnd : Nat) (m : MCmd) (bb : Bool) : Nat :=
  match m.feed with
  | some n =>
    let b := s.core n
    s.fillEta b b.et b.cmdSeq false bb
  | none => s.fillEta k streamEnd m.id false bb

/-- The engine time at which a command's operands can be assured; a command that asks for more scales than the queue holds
faults, and waits for none (R287, R293). -/
def State.readyAt (s : State) (k : CoreState) (a : Ahead) (before : List MCmd) (m : MCmd) : Nat :=
  let scrub := k.et + (k.scrubEnd - s.cycle)
  match m.kind with
  | .mmul f _ _ _ =>
    let latch := s.fillEta k a.free m.id true f.lt
    let fills := if m.lead.isSome then latch else max latch (s.feedEta k a.free m f.bb)
    let scales := if Config.scaleQueueEntries < m.need then 0
      else (s.ctx m.owner).scalesIn k.scales.length (m.need + claimed before)
    max scrub (k.et + max fills scales)
  | _ => scrub

/-- The commands already issued, each at its start or its first possible start (R293). -/
def State.ahead (s : State) (k : CoreState) : List MCmd → List MCmd → Ahead → Ahead
  | _, [], a => a
  | before, m :: l, a =>
    let next : Ahead := match m.start with
      | some t => { free := max a.free (t + m.occ), rowsEnd := if m.isMmul then t + m.occ else a.rowsEnd }
      | none =>
        let r := firstStart a m (s.readyAt k a before m)
        { free := r.1 + r.2 + m.occ, rowsEnd := if m.isMmul then r.1 + r.2 + m.occ else a.rowsEnd }
    s.ahead k (before ++ [m]) l next

/-- The queue of a core as a new command finds it. -/
def State.queueEnd (s : State) (k : CoreState) : Ahead := s.ahead k [] k.cmds { free := k.et, rowsEnd := k.rowsEnd }

/-- A ramp from level 0 may begin in a cycle: at most two engines of a Plaza in any 4 consecutive cycles
(R357). -/
def rampFree (l : List Nat) (c : Nat) : Bool :=
  [0, 1, 2, 3].all fun i => decide ((l.filter fun r => decide (c + i ≤ r + 3) && decide (r ≤ c + i)).length ≤ 1)

/-- A part of a planned `mmul`: its core, its place in the Caravan, the cycles from now to its first possible start, its
engine's time, and when the last real row before it ends. -/
structure Part where
  core : Nat
  pos : Nat
  first : Nat
  et : Nat
  rowsEnd : Nat
  deriving DecidableEq, Repr

/-- The cycle, from now, at which a part begins when the lead's first possible start is f (R299). -/
def Part.begins (p : Part) (f : Nat) : Nat := f + 32 * p.pos

/-- The level at which a part then begins (R357). -/
def Part.level (p : Part) (f : Nat) : Nat := levelAfter p.rowsEnd (p.et + p.begins f)

/-- The g that all parts take (R299). -/
def partsG (l : List Part) (f : Nat) : Nat := l.foldl (fun n p => max n (rampAdds (p.level f))) 0

/-- The parts that ramp from level 0: their ramps begin as they do, since then g is theirs (R299, R357). -/
def partsFrom0 (l : List Part) (f : Nat) : List Part := l.filter fun p => p.level f = 0

/-- The least first start of the lead, from f on, at which every ramp from level 0 finds a free slot (R357). -/
def rampSearch (now : Nat) (taken : List Nat) (l : List Part) : (fuel : Nat) → (f : Nat) → Nat
  | 0, f => f
  | n + 1, f =>
    if (partsFrom0 l f).all (fun p => rampFree taken (now + p.begins f)) then f else rampSearch now taken l n (f + 1)

/-- The ramp slots of a Plaza, but for one command's own. -/
def State.otherRamps (s : State) (core cmd : Nat) : List Nat :=
  ((fget [] s.ms.ramps (plazaOf core)).filter fun r => !(r.core = core && r.cmd = cmd)).map (·.at')

/-- A command's ramp from level 0 may begin in a cycle: the one reserved for it, or one that the Plaza's limit leaves free
(R357). -/
def State.rampMay (s : State) (core cmd c : Nat) : Bool :=
  (fget [] s.ms.ramps (plazaOf core)).contains { at' := c, core := core, cmd := cmd } || rampFree (s.otherRamps core cmd) c

/-- A command's ramp slot is the one given; those of the past are over (R357). -/
def State.reserveRamp (s : State) (r : RampSlot) : State :=
  s.modMs fun m =>
    let p := plazaOf r.core
    { m with ramps := fput m.ramps p (((fget [] m.ramps p).filter fun x =>
        decide (s.cycle ≤ x.at' + 3) && !(x.core = r.core && x.cmd = r.cmd)) ++ [r]) }

/-! ## Caravans (R140, R299) -/

/-- The context at position p of the Caravan of a context: members have consecutive identifiers (R138, R140). -/
def State.memberAt (s : State) (c p : Nat) : Option Nat :=
  let x := s.ctx c
  let t := x.team - x.cpos + p
  let d := ((s.launch x.launch).team t).ctx
  let y := s.ctx d
  if decide (p < x.csize) && y.launch = x.launch && y.team = t && y.cpos = p && y.csize = x.csize && y.st != .free then some d
  else none

/-- The context of the lead of a context's Caravan; the context itself where it stands nowhere (R140). -/
def State.leadOf (s : State) (c : Nat) : Nat := (s.memberAt c 0).getD c

/-- A context's core has failed and its team has not moved yet (R179, R183). -/
def State.stranded (s : State) (c : Nat) : Bool := (s.ctx c).st = .frozen || (s.core (coreOf c)).frozen

/-- The members of a ganged `mmul` at positions 0 to g. -/
def State.gang (s : State) (lead g : Nat) : List (Nat × Nat) :=
  (List.range (g + 1)).filterMap fun p => (if p = 0 then some lead else s.memberAt lead p).map fun c => (p, c)

/-! ## Accumulator rows (R277, R294) -/

/-- A row as a read of this engine time sees it: before the writes of this cycle (R294). -/
def CoreState.accRead (k : CoreState) (row : Nat) : BitVec 4096 :=
  match ffind k.accWas row with
  | some (_, old) => old
  | none => fget 0#4096 k.acc row

/-- A write of a row by command id: the later-issued command's is kept (R294). -/
def CoreState.accWrite (k : CoreState) (id row : Nat) (v : BitVec 4096) (poison : Option Bool) : CoreState :=
  let old := k.accRead row
  let later := match ffind k.accWas row with
    | some (w, _) => decide (id < w)
    | none => false
  if later then k
  else
    { k with acc := fput k.acc row v, accWas := fput k.accWas row (id, old)
             accPoison := match poison with
               | some true => row :: k.accPoison.filter (· != row)
               | some false => k.accPoison.filter (· != row)
               | none => k.accPoison }

/-- Change a matrix command of a core. -/
def CoreState.modCmd (k : CoreState) (id : Nat) (f : MCmd → MCmd) : CoreState :=
  { k with cmds := k.cmds.map fun m => if m.id = id then f m else m }

/-- A matrix command of a core. -/
def CoreState.cmd (k : CoreState) (id : Nat) : Option MCmd := k.cmds.find? fun m => m.id = id

/-- The B buffer that feeds a command is still to be loaded: its own core's, its lead's, or another's as it stands (R293,
R299). -/
def State.feedPending (s : State) (k : CoreState) (m : MCmd) (bb : Bool) : Bool :=
  match m.feed with
  | some n =>
    let b := s.core n
    b.fillPending false bb (match m.lead with | some l => l.2 | none => b.cmdSeq)
  | none => k.fillPending false bb m.id

/-! ## MCLASS (R352) -/

/-- The class of a core cycle and the command it is charged to; none is charged to the last command that
completed. A command computes from the beginning of its own engine's ramp, and a share waits for the B buffer of its lead
(R299). -/
def State.mclass (s : State) (core : Nat) : Nat × Option Nat :=
  let k := s.core core
  match k.cmds.find? (fun m => m.isMmul && (match m.start with
      | some t => decide (t ≤ k.et + m.ramp) && decide (k.et < t + m.occ)
      | none => false)) with
  | some m => (0, some m.id)
  | none =>
    match k.cmds.find? (fun m => m.start.isNone) with
    | none => (4, none)
    | some n =>
      if k.cmds.any (fun m => !m.isMmul && (match m.kind, m.start with
          | .mzero _ _ _, _ => false
          | _, some t => decide (k.et < t + m.occ)
          | _, none => false)) then (3, some n.id)
      else match n.kind with
        | .mmul f _ _ _ =>
          if s.feedPending k n f.bb then (1, some n.id)
          else if k.fillPending true f.lt n.id || decide (k.scales.length < n.need) then (2, some n.id)
          else (4, none)
        | _ => (4, none)

/-- One core cycle of a core's engine: the class is counted, and engine time advances (R279, R352). -/
def State.engineTick (s : State) (core : Nat) : State :=
  if !s.engineRuns core then s
  else
    let k := s.core core
    let c := s.mclass core
    let k := match c.2, k.lastBundle with
      | some id, _ => k.modCmd id fun m => { m with classes := fput m.classes c.1 (fget 0 m.classes c.1 + 1) }
      | none, some b => { k with idleAt := fput k.idleAt b.toNat (fget 0 k.idleAt b.toNat + 1) }
      | none, none => k
    s.setCore core { k with et := k.et + 1, accWas := [] }

end Sys2Proof.Machine
end

