-- ==== Sys2Proof/Machine/Matrix.lean ====
section
/-!
DEFINITION. The matrix slot (R222, R277, R286–R300): one meaning for each of its nine forms.
-/

namespace Sys2Proof.Machine

/-! ## Decode checks against context state (R222, R226, R281, R283, R288–R291, R299) -/

/-- Rows R to R + m − 1 leave the context's partition (R288). -/
def Ctx.rowsOff (c : Ctx) (row : BitVec 9) (m bit : Nat) : List Decode.Offence :=
  Decode.off (decide (c.acclim - c.accbase < row.toNat + m)) bit 9

/-- The format entry an `mmul` uses (R282). -/
def Regs.fmtIndex (r : Regs) (fmt : BitVec 5) : Nat :=
  if fmt.getLsbD 4 then
    ((r.loopLevel (fmt.extractLsb' 0 2).toNat).i.toNat + 4 * (fmt.extractLsb' 2 2).toNat) % 16
  else (fmt.extractLsb' 0 4).toNat

/-- A loop-indexed entry needs its level active with its format link set (R222, R282). -/
def Regs.fmtLinked (r : Regs) (fmt : BitVec 5) : Bool :=
  !fmt.getLsbD 4 || (let l := r.loopLevel (fmt.extractLsb' 0 2).toNat; l.active && l.fl)

/-- The annihilator's bits above the operand width must be zero (R283). -/
def annihilatorBad (e : BitVec 64) (a : Nat) : Bool := decide (2 ^ fmtWidth a ≤ (e.extractLsb' 16 16).toNat)

/-- An optional reason as an offence at a bit. -/
def reasonOff (bit : Nat) : Option Nat → List Decode.Offence
  | some r => [(bit, r)]
  | none => []

/-- The checks of an `mmul` on one member: registers r, context c, its core's k, and the lead's core kb, which
holds the B buffer (R281, R283, R288, R291, R299). -/
def mmulChecks (r : Regs) (c : Ctx) (k kb : CoreState) (f : MmulFields) : List Decode.Offence :=
  let op := r.opEntry f.opx.toNat
  let o := opFields f.opx.toNat op
  let e : BitVec 32 := fget 0#32 r.fmt (r.fmtIndex f.fmt)
  let lat : Latch := fget {} k.lat (if f.lt then 1 else 0)
  let buf : BBuf := fget {} kb.bbuf (if f.bb then 1 else 0)
  reasonOff 5 (match opRefusal op with
    | some x => some x
    | none => if annihilatorBad op (fmtA e) && !o.fixed then some 3 else none) ++
  Decode.off (!r.fmtLinked f.fmt) 9 9 ++
  (if (opRefusal op).isSome then [] else reasonOff 9 (fmtRefusal f.opx.toNat o e)) ++
  Decode.off (!lat.gathered || lat.af != fmtA e) 14 9 ++
  Decode.off (!buf.loaded || buf.bf != fmtB e) 15 9 ++
  c.rowsOff f.row f.m.toNat 16 ++
  Decode.off (decide (lat.m < f.m.toNat)) 25 9

/-- A ganged `mmul` is the lead's single issue for its Caravan, and in every other member's bundle a copy of it (R140,
R299). -/
def Ctx.isCopy (c : Ctx) (f : MmulFields) : Bool := f.gang != 0#3 && c.cpos != 0 && !c.redo

/-- A member's copy stands for a share that its lead has issued (R299). -/
def Ctx.hasShare (c : Ctx) (f : MmulFields) : Bool := decide (c.cpos ≤ f.gang.toNat)

/-- The members a gang field names are not all in a Caravan that this context leads (R222). -/
def Ctx.gangBad (c : Ctx) (f : MmulFields) : Bool :=
  f.gang != 0#3 && !c.redo && (c.csize = 0 || decide (c.csize ≤ f.gang.toNat))

/-- Offences of a matrix instruction found in context state. -/
def State.matrixOffences (s : State) (i : Instr) : List Decode.Offence :=
  let r := s.rd
  let c := s.me
  let k := s.myCore
  match i with
  | .mmul f =>
    if c.isCopy f then []
    else
      let lead := if c.redo then s.core (coreOf (s.leadOf s.cur)) else k
      mmulChecks r c k lead f ++ Decode.off (c.gangBad f) 35 9 ++
        (if f.gang != 0#3 && !c.redo && !c.gangBad f then
          (s.gang s.cur f.gang.toNat).flatMap fun m =>
            if m.2 = s.cur then [] else mmulChecks (s.ctx m.2).r (s.ctx m.2) (s.core (coreOf m.2)) k f
        else [])
  | .mwld _ _ kk _ fmt =>
    let b := fmtB (fget 0#32 r.fmt fmt.toNat)
    Decode.off (b = 4 && kk.getLsbD 0) 11 9 ++
      Decode.off (decide (12 ≤ b)) 25 2 ++ Decode.off (b = 9 || b = 10) 25 9
  | .mgath _ _ _ _ fmt =>
    let a := fmtA (fget 0#32 r.fmt fmt.toNat)
    Decode.off (decide (12 ≤ a)) 24 2 ++ Decode.off (a = 9 || a = 10) 24 9
  | .mdrain row m _ _ _ => c.rowsOff row m.toNat 5
  | .mdrainb row _ _ => c.rowsOff row 1 5
  | .mzero row m opx => c.rowsOff row m.toNat 5 ++ reasonOff 21 (opRefusal (r.opEntry opx.toNat))
  | _ => []

/-! ## Issue checks on scratchpad ranges (R298) -/

/-- A range lies outside the scratchpad or in banks not owned (R30, R31). -/
def State.rangeBank (s : State) (l : List (Nat × Nat)) : Option SFault :=
  (l.find? fun r => decide (0 < r.2) &&
    (decide (scratchSize < r.1 + r.2) || (rangeBanks r.1 r.2).any fun b => !s.holdsBank b)).map
    fun r => { code := 9, addr := BitVec.ofNat 64 r.1 }

/-- A range lies outside an engine's set in deterministic mode (R116). -/
def State.rangeSpan (s : State) (engine : Nat) (write : Bool) (l : List (Nat × Nat)) : Option SFault :=
  let set := fget 0#48 (if write then s.rd.spanW else s.rd.spanR) engine
  if !s.det then none
  else (l.find? fun r => (rangeBanks r.1 r.2).any fun b => !set.getLsbD b).map
    fun r => { code := 0x0B, addr := BitVec.ofNat 64 r.1 }

/-- A range holds a poisoned unit (R181). -/
def State.rangePoison (s : State) (l : List (Nat × Nat)) : Option SFault :=
  faultIf (l.any fun r => decide (0 < r.2) && s.myCore.spPoisoned r.1 r.2) { code := 0x14, detail := 4 }

/-- A bank that the instruction will reach is still being zeroed (R45). -/
def State.zeroGate (s : State) (l : List (Nat × Nat)) : Gate :=
  waitIf .zeroing (l.any fun r => (rangeBanks r.1 r.2).any fun b => s.holdsBank b && s.zeroing (coreOf s.cur) b)

/-- Alignment (R298). -/
def alignFault (a : Word) (n : Nat) : Option SFault := faultIf (a.toNat % n != 0) { code := 5, addr := a }

/-- The read and write sets under which the matrix engine runs a command (R114). -/
def State.matrixSpans (s : State) : BitVec 48 × BitVec 48 := (fget 0#48 s.rd.spanR 1, fget 0#48 s.rd.spanW 1)

/-! ## Issue of a command (R293) -/

/-- A new command of a context, for the bundle that issues. -/
def State.newCmd (s : State) (owner : Nat) (kind : MKind) : MCmd :=
  let c := s.ctx owner
  let k := s.core (coreOf owner)
  { id := k.cmdSeq, owner := owner, kind := kind, accbase := c.accbase, issue := k.et, issueK := c.iss.kappa,
    bundle := s.me.pc, slack := c.r.slack.toNat, tenant := c.tenant, phase := s.phase owner }

/-- Commands that wait in the elastic buffer. -/
def CoreState.waiting (k : CoreState) : Nat := (k.cmds.filter fun m => m.start.isNone).length

/-- A command other than `mmul` may issue: a place in the elastic buffer, and a delay within slack (R293). -/
def State.cmdGate (s : State) (m : MCmd) : Gate :=
  let k := s.myCore
  let a := s.queueEnd k
  let f := firstStart a m (s.readyAt k a k.cmds m)
  s.leaseGate.and (waitIf .matrix (decide (2 ≤ k.waiting) || decide (m.slack < f.1 - k.et)))

/-- The command enters the queue. -/
def State.addCmd (s : State) (m : MCmd) : State :=
  s.modCore (coreOf m.owner) fun k => { k with cmds := k.cmds ++ [m], cmdSeq := k.cmdSeq + 1 }

/-! ## The forms -/

/-- `mnop` (R297). -/
def execMnop (s : State) : Host.Outcome State Fault Refusal := gated 3 (staticGate .mnop) id s

/-- Element i of an index pair (R289). -/
def indexAt (lo hi : Bay) (i : Nat) : Nat :=
  if i < 64 then (lo.extractLsb' (16 * i) 16).toNat else (hi.extractLsb' (16 * (i - 64)) 16).toNat

/-- The index rows of an `mgath`, none for padding (R289). -/
def State.gatherRows (s : State) (ix : BitVec 6) (m : Nat) : List (Option Nat) :=
  let b := s.rd.bayOf ix
  (List.range m).map fun i =>
    let v := indexAt (s.rd.bay b) (s.rd.bay ((b + 1) % 32)) i
    if v = 0xFFFF then none else some v

/-- The byte ranges a gather reads (R289). -/
def gatherRanges (base bytes : Nat) (rows : List (Option Nat)) : List (Nat × Nat) :=
  rows.filterMap fun r => r.map fun n => (base + 128 * n, bytes)

/-- `mgath` (R289). Where both index bays lie outside the window, the first is reported (R158; assumption log, 40). -/
def execMgath (lt : Bool) (ix : BitVec 6) (base : BitVec 5) (m : BitVec 7) (fmt : BitVec 4) (s : State) :
    Host.Outcome State Fault Refusal :=
  let i := Instr.mgath lt ix base m fmt
  let e : BitVec 32 := fget 0#32 s.rd.fmt fmt.toNat
  let n := if lt then 1 else 0
  let rows := s.gatherRows ix m.toNat
  let a := s.rd.sreg base
  let ranges := gatherRanges a.toNat (fmtRowBytes (fmtA e)) rows
  gated 3 ((((slotGate i (s.matrixOffences i)).and s.leaseGate).and
      (waitIf .gather (fget none s.myCore.gathers n).isSome)).and (s.zeroGate ranges)) (fun s =>
    let second := faultIf (decide (64 < m.toNat) && !readWindow 3 ((s.rd.bayOf ix + 1) % 32) (s.phase s.cur))
      (windowFault s ix false true)
    s.orFault 3 (firstFault (s.readBayCheck 3 ix) (firstFault second (firstFault (alignFault a 32)
        (firstFault (s.rangeBank ranges) (firstFault (s.rangeSpan 1 false ranges) (s.rangePoison ranges)))))) fun s =>
      let s := s.takeLease
      let (spanR, spanW) := s.matrixSpans
      s.modCore (coreOf s.cur) fun k =>
        let f : Fill := { owner := s.cur, issueK := s.me.iss.kappa, idx := rows, base := a.toNat, k := 0, n := m.toNat,
                          fmt := fmtA e, scaled := fmtAs e, after := k.cmdSeq, seq := k.fillSeq, spanR := spanR, spanW := spanW,
                          rows := ranges.flatMap fun r => rowBanks r.1 r.2 }
        let l : Latch := fget {} k.lat n
        { k with lat := fput k.lat n { l with gathered := true, af := fmtA e, scaled := fmtAs e, m := m.toNat }
                 gathers := fput k.gathers n (some f), fillSeq := k.fillSeq + 1 }) s

/-- Bytes of a B column and its stride (R290). -/
def columnBytes (fmt k : Nat) : Nat := (k * fmtWidth fmt + 7) / 8
def columnStride (fmt k : Nat) : Nat := (columnBytes fmt k + 31) / 32 * 32

/-- Columns that the field n names (R290). -/
def columnsOf (n : BitVec 7) : Nat := if n = 0#7 then 128 else n.toNat

/-- The byte ranges an `mwld` reads: its columns, then with bs its scales (R290). -/
def weightRanges (addr fmt k n : Nat) (scaled : Bool) : List (Nat × Nat) :=
  (List.range n).map (fun j => (addr + j * columnStride fmt k, columnBytes fmt k)) ++
    (if scaled then [(addr + n * columnStride fmt k, n * blocksOf k)] else [])

/-- `mwld` (R290). -/
def execMwld (bb : Bool) (sa : BitVec 5) (k n : BitVec 7) (fmt : BitVec 4) (s : State) : Host.Outcome State Fault Refusal :=
  let i := Instr.mwld bb sa k n fmt
  let e : BitVec 32 := fget 0#32 s.rd.fmt fmt.toNat
  let b := if bb then 1 else 0
  let kk := fmtK (fmtB e) k.toNat
  let a := s.rd.sreg sa
  let ranges := weightRanges a.toNat (fmtB e) kk (columnsOf n) (fmtBs e)
  gated 3 ((((slotGate i (s.matrixOffences i)).and s.leaseGate).and
      (waitIf .gather (fget none s.myCore.loads b).isSome)).and (s.zeroGate ranges)) (fun s =>
    s.orFault 3 (firstFault (alignFault a 32) (firstFault (s.rangeBank ranges)
        (firstFault (s.rangeSpan 1 false ranges) (s.rangePoison ranges)))) fun s =>
      let s := s.takeLease
      let (spanR, spanW) := s.matrixSpans
      let total := (columnsOf n) * columnStride (fmtB e) kk + (if fmtBs e then columnsOf n * blocksOf kk else 0)
      s.modCore (coreOf s.cur) fun c =>
        let f : Fill := { owner := s.cur, issueK := s.me.iss.kappa, base := a.toNat, k := kk, n := columnsOf n, fmt := fmtB e,
                          scaled := fmtBs e, after := c.cmdSeq, seq := c.fillSeq, spanR := spanR, spanW := spanW,
                          rows := rowBanks a.toNat total }
        let l : BBuf := fget {} c.bbuf b
        { c with bbuf := fput c.bbuf b { l with loaded := true, bf := fmtB e, k := kk, n := columnsOf n, scaled := fmtBs e }
                 loads := fput c.loads b (some f), fillSeq := c.fillSeq + 1 }) s

/-- The command of an `mmul` for one member, with the K and N that the lead's buffer records (R291, R299). -/
def State.mmulCmd (s : State) (f : MmulFields) (owner lead : Nat) (lit : Option (BitVec 32)) : MCmd :=
  let r := if owner = s.cur then s.rd else (s.ctx owner).r
  let buf : BBuf := fget {} (s.core (coreOf lead)).bbuf (if f.bb then 1 else 0)
  let m := s.newCmd owner (.mmul f (r.opEntry f.opx.toNat) (fget 0#32 r.fmt (r.fmtIndex f.fmt)) lit)
  { m with slack := s.rd.slack.toNat, buf := { k := buf.k, n := buf.n, bf := buf.bf }
           feed := if coreOf lead = coreOf owner then none else some (coreOf lead)
           spanR := fget 0#48 r.spanR 1, spanW := fget 0#48 r.spanW 1 }

/-- The members an `mmul` runs on, with their positions: itself alone, or the gang (R299). -/
def State.mmulMembers (s : State) (f : MmulFields) : List (Nat × Nat) :=
  if f.gang = 0#3 || s.me.redo then [(0, s.cur)] else s.gang s.cur f.gang.toNat

/-- The context whose core holds the B buffer: the lead of a gang (R299). -/
def State.mmulLead (s : State) (f : MmulFields) : Nat := if f.gang != 0#3 && s.me.redo then s.leadOf s.cur else s.cur

/-- The planned parts of an `mmul` (R293, R299, R357). -/
def State.mmulParts (s : State) (f : MmulFields) : List Part :=
  (s.mmulMembers f).map fun x =>
    let k := s.core (coreOf x.2)
    let m := s.mmulCmd f x.2 (s.mmulLead f) none
    let m := if x.1 = 0 then m else { m with lead := some (coreOf s.cur, 0) }
    let a := s.queueEnd k
    let r := firstStart a m (s.readyAt k a k.cmds m)
    { core := coreOf x.2, pos := x.1, first := r.1 - k.et, et := k.et, rowsEnd := a.rowsEnd }

/-- Cycles from now to the first start that the ramp slots allow (R357), and the parts. -/
def State.mmulPlan (s : State) (f : MmulFields) : Nat × List Part :=
  let l := s.mmulParts f
  let least := l.foldl (fun n p => max n (p.first - 32 * p.pos)) 0
  let taken := (fget [] s.ms.ramps (plazaOf (coreOf s.cur))).map (·.at')
  (rampSearch s.cycle taken l 1024 least, l)

/-- Scales a member still lacks, with none in flight (R287). -/
def State.scaleShort (s : State) (m : MCmd) : Bool :=
  let k := s.core (coreOf m.owner)
  decide (k.scales.length < m.need + claimed k.cmds) && (s.ctx m.owner).scalesInFlight.1 = 0

/-- The gate of an `mmul` beyond decode: every member's lease, elastic buffer, scales and delay, and no member whose
core has failed (R183, R277, R287, R293, R299). -/
def State.mmulGate (s : State) (f : MmulFields) : Gate :=
  let plan := s.mmulPlan f
  let ready (x : Nat × Nat) : Bool :=
    let k := s.core (coreOf x.2)
    decide (k.waiting < 2) && !s.stranded x.2 && !s.stranded (s.mmulLead f) && (x.1 = 0 || (k.lease = some x.2 && !s.scaleShort (s.mmulCmd f x.2 (s.mmulLead f) none)))
  s.leaseGate.and (waitIf .matrix (!(s.mmulMembers f).all ready || decide (s.rd.slack.toNat < plan.1)))

/-- The literal word of an `mmul` with sp (R286). -/
def State.literal (s : State) (f : MmulFields) : Fetched := if f.sp then s.fetched s.cur s.rd.lpc else .ok []

/-- The fault of a literal word that cannot be fetched; of a line that is poisoned or not there, the detail is that of the
hardware error (R27, R286; assumption log, 40). -/
def State.literalFault (s : State) (f : MmulFields) : Option SFault :=
  match s.literal f with
  | .fault c d => some { code := if c = 4 then 4 else 0x15, detail := d, addr := s.rd.lpc }
  | _ => none

/-- Scale-queue imbalance of an `mmul` (R287). -/
def State.scaleFault (s : State) (m : MCmd) : Option SFault :=
  if Config.scaleQueueEntries < m.need then some { code := 6, detail := 2 }
  else faultIf (s.scaleShort m) { code := 6, detail := 1 }

/-- A command that has issued is still to clear a row: an `mzero`, or an `mmul` with `.init` (R181, R291, R292). -/
def MCmd.clears (m : MCmd) (row : Nat) : Bool :=
  let covers (first n : Nat) : Bool := decide (m.accbase + first + m.done ≤ row) && decide (row < m.accbase + first + n)
  match m.kind with
  | .mmul f _ _ _ => f.mode = 1#2 && covers f.row.toNat f.m.toNat
  | .mzero r n _ => covers r n
  | _ => false

/-- A row is poisoned, and no command ahead clears it before it is read (R181). -/
def CoreState.rowPoisoned (k : CoreState) (row : Nat) : Bool :=
  k.accPoison.contains row && !k.cmds.any fun m => m.clears row

/-- A latch or a buffer is poisoned, and no fill ahead replaces what it holds before it is read (R181). -/
def CoreState.unitPoisoned (k : CoreState) (latch which : Bool) : Bool :=
  let n := if which then 1 else 0
  (if latch then (fget {} k.lat n : Latch).poisoned else (fget {} k.bbuf n : BBuf).poisoned) &&
    !k.fillPending latch which k.cmdSeq

/-- Poisoned state that an `mmul` reads, of a member's share in the member's own copy of the bundle; what is cleared before the
command reads it counts no more (R181, R299). -/
def State.mmulPoison (s : State) (f : MmulFields) : Option SFault :=
  let k := s.myCore
  let lead := if s.me.isCopy f then s.leadOf s.cur else s.mmulLead f
  let rows := (List.range f.m.toNat).map (· + s.me.accbase + f.row.toNat)
  faultIf (k.unitPoisoned true f.lt || (s.core (coreOf lead)).unitPoisoned false f.bb || (f.mode = 0#2 && rows.any k.rowPoisoned) ||
    (fmtAs (fget 0#32 s.rd.fmt (s.rd.fmtIndex f.fmt)) && k.scalePoison)) { code := 0x14, detail := 4 }

/-- The commands of an `mmul` enter their members' engines, and its ramp slots are reserved (R293, R299, R357). -/
def State.mmulIssue (s : State) (f : MmulFields) (rcd : Option Rec) (lit : Option (BitVec 32)) : State :=
  let plan := s.mmulPlan f
  let leadId := s.myCore.cmdSeq
  let lead := s.mmulLead f
  let s := (partsFrom0 plan.2 plan.1).foldl (fun s p =>
    s.reserveRamp { at' := s.cycle + p.begins plan.1, core := p.core, cmd := (s.core p.core).cmdSeq }) s
  (s.mmulMembers f).foldl (fun t x =>
    let m := { t.mmulCmd f x.2 lead lit with g := partsG plan.2 plan.1 }
    let begins := (t.core (coreOf x.2)).et + plan.1 + 32 * x.1
    let from0 := (partsFrom0 plan.2 plan.1).any fun p => p.pos = x.1
    if x.1 = 0 then t.addCmd { m with rcd := rcd, earliest := if from0 || m.gangs then begins else 0 }
    else t.addCmd { m with lead := some (coreOf s.cur, leadId), pos := x.1, earliest := begins }) s

/-- A member's copy of a ganged `mmul` takes its share's Manifest index, if it has one, and advances its `lpc` (R299,
R300). -/
def State.mmulCopy (s : State) (f : MmulFields) : State :=
  let advance (s : State) : State := if f.sp then s.modRegs fun r => { r with lpc := s.rd.lpc + 4#64 } else s
  if f.cbar = 0#6 || !s.me.hasShare f then advance s
  else
    s.withRecord 4 3 0 false (zext64 f.cbar) 0#64 fun r s =>
      let id := (s.myCore.cmds.filter fun m => m.owner = s.cur && m.lead.isSome && m.rcd.isNone).foldl (fun n m => max n m.id) 0
      advance (s.modCore (coreOf s.cur) fun k => k.modCmd id fun m => { m with rcd := r })

/-- `mmul` (R286, R291, R299, R300). -/
def execMmul (f : MmulFields) (s : State) : Host.Outcome State Fault Refusal :=
  let i := Instr.mmul f
  let record := s.recordGate (f.cbar != 0#6)
  if s.me.isCopy f then
    gated 3 ((staticGate i).and (if s.me.hasShare f then record else .go)) (fun s =>
      s.orFault 3 (if s.me.hasShare f then s.mmulPoison f else none) fun s => s.mmulCopy f) s
  else
    gated 3 ((((slotGate i (s.matrixOffences i)).and (waitIf .fetch (s.literal f = .miss))).and record).and (s.mmulGate f))
      (fun s =>
      let m := s.mmulCmd f s.cur (s.mmulLead f) none
      s.orFault 3 (firstFault (s.literalFault f) (firstFault (s.scaleFault m) (s.mmulPoison f))) fun s =>
        let lit := match s.literal f with
          | .ok l => if f.sp then some (literalOf l s.rd.lpc) else none
          | _ => none
        let go (r : Option Rec) (s : State) : State :=
          let s := if f.sp then s.modRegs fun x => { x with lpc := s.rd.lpc + 4#64 } else s
          (s.takeLease).mmulIssue f r lit
        if f.cbar = 0#6 then go none s
        else s.withRecord 4 3 0 false (zext64 f.cbar) 0#64 go) s

/-- `mzero` (R292). -/
def execMzero (row : BitVec 9) (m : BitVec 7) (opx : BitVec 4) (s : State) : Host.Outcome State Fault Refusal :=
  let i := Instr.mzero row m opx
  let c := s.newCmd s.cur (.mzero row.toNat m.toNat ((s.rd.opEntry opx.toNat).extractLsb' 32 32))
  let c := { c with slack := s.rd.slack.toNat }
  gated 3 ((slotGate i (s.matrixOffences i)).and (s.cmdGate c)) (fun s => s.takeLease.addCmd c) s

/-- Bytes of a drained row (R295). -/
def drainBytes (ofmt : Nat) : Nat := 16 * outWidth ofmt

/-- Poisoned accumulator rows that nothing ahead clears (R181, R295). -/
def State.rowPoison (s : State) (row m : Nat) : Option SFault :=
  faultIf ((List.range m).any fun i => s.myCore.rowPoisoned (s.me.accbase + row + i)) { code := 0x14, detail := 4 }

/-- `mdrain` (R295). -/
def execMdrain (row : BitVec 9) (m : BitVec 7) (sa : BitVec 5) (ofmt : BitVec 4) (clr : Bool) (s : State) :
    Host.Outcome State Fault Refusal :=
  let i := Instr.mdrain row m sa ofmt clr
  let a := s.rd.sreg sa
  let ranges := [(a.toNat, m.toNat * drainBytes ofmt.toNat)]
  let c := s.newCmd s.cur (.mdrain row.toNat m.toNat a.toNat ofmt.toNat clr (s.rd.fpctl.extractLsb' 0 2))
  let c := { c with slack := s.rd.slack.toNat, spanR := s.matrixSpans.1, spanW := s.matrixSpans.2 }
  gated 3 (((slotGate i (s.matrixOffences i)).and (s.zeroGate ranges)).and (s.cmdGate c)) (fun s =>
    s.orFault 3 (firstFault (alignFault a 16) (firstFault (s.rangeBank ranges)
        (firstFault (s.rangeSpan 1 true ranges) (s.rowPoison row.toNat m.toNat)))) fun s =>
      s.takeLease.addCmd c) s

/-- `mdrainb` (R296). -/
def execMdrainb (row : BitVec 9) (dst : BitVec 6) (ofmt : BitVec 4) (s : State) : Host.Outcome State Fault Refusal :=
  let i := Instr.mdrainb row dst ofmt
  let c := s.newCmd s.cur (.mdrainb row.toNat (s.rd.bayOf dst) ofmt.toNat (s.rd.fpctl.extractLsb' 0 2))
  let c := { c with slack := s.rd.slack.toNat }
  gated 3 ((slotGate i (s.matrixOffences i)).and (s.cmdGate c)) (fun s =>
    s.orFault 3 (firstFault (s.landCheck 3 dst 8) (s.rowPoison row.toNat 1)) fun s => s.takeLease.addCmd c) s

/-- Every matrix command of the context is complete (R297). -/
def State.matrixGate (s : State) : Gate := waitIf .matrix (s.myCore.matrixBusy s.cur)

/-- `mwait` (R297). -/
def execMwait (s : State) : Host.Outcome State Fault Refusal :=
  gated 3 ((staticGate .mwait).and s.matrixGate) id s

/-- `mrel` (R277, R287, R297). -/
def execMrel (s : State) : Host.Outcome State Fault Refusal :=
  gated 3 ((staticGate .mrel).and (if s.myCore.lease = some s.cur then s.matrixGate else .go)) (fun s =>
    if s.myCore.lease = some s.cur then
      s.orFault 3 (faultIf (!s.myCore.scales.isEmpty) { code := 6, detail := 3 }) fun s => s.passLease (coreOf s.cur)
    else s) s

end Sys2Proof.Machine
end

