-- ==== Sys2Proof/Machine/Global.lean ====
section
/-!
DEFINITION. Global accesses at issue (R66–R77, R88–R97, R301–R304, R310–R315, R321): loads, stores, atomics,
fences and ticket operations enter the load-store unit, with their tags, dependence sets, queue entries and
Manifest records.
-/

namespace Sys2Proof.Machine

/-! ## Dependence (R88–R95) -/

/-- The control taint as a source: only while control tainting is on (R93, R94). -/
def State.ctaint (s : State) : Mask := if s.rd.fpctl.getLsbD 4 then s.rd.ctl else 0#9

/-- The accesses of the context's load-store unit, in program order. -/
def Ctx.accesses (c : Ctx) : List Access :=
  c.lsu.filterMap fun i => match i with
    | .access a => some a
    | _ => none

/-- The dependence set of a mask, and the bound it gives so far (R89, R95). -/
def Ctx.dependence (c : Ctx) (u : Mask) : List Nat × Nat :=
  let tags := (List.range 8).foldl (fun (acc : List Nat × Nat) n =>
    let t : Tag := fget {} c.tags n
    if !u.getLsbD n then acc
    else if t.st = 1 then (t.holder :: acc.1, acc.2)
    else if t.st = 2 then (acc.1, max acc.2 t.stamp)
    else acc) ([], 0)
  match u.getLsbD 8, c.allTop with
  | true, some top =>
    (tags.1 ++ (c.accesses.filter fun a => decide (a.id ≤ top) && a.kind.tagged).map (·.id), max tags.2 c.allStamp)
  | _, _ => tags

/-- The tag an access takes: the lowest idle one, else the performed one with the smallest stamp, else ALL, here
8 (R88). -/
def Ctx.pickTag (c : Ctx) : Nat :=
  let tag (n : Nat) : Tag := fget {} c.tags n
  match (List.range 8).find? fun n => (tag n).st = 0 with
  | some n => n
  | none =>
    ((List.range 8).foldl (fun (acc : Option Nat) n =>
      if (tag n).st = 2 then
        match acc with
        | some m => if (tag n).stamp < (tag m).stamp then some n else acc
        | none => some n
      else acc) none).getD 8

/-- The mask of a tag (R90). -/
def tagMask (n : Nat) : Mask := 1#9 <<< n

/-- An access takes a tag (R88, R89). -/
def Ctx.takeTag (c : Ctx) (n id : Nat) : Ctx :=
  if n = 8 then { c with allTop := some id, allStamp := c.loadStamp }
  else { c with tags := fput c.tags n { st := 1, holder := id } }

/-! ## Issue of an access -/

/-- The queue that a copy slot feeds (R310). -/
def feedsQ1 (slot : Nat) : Bool := slot = 5

/-- An access enters the load-store unit: its tag, its dependence set and its queue entry (R88, R95, R310). -/
def State.issueAccess (s : State) (a : Access) (u : Mask) : State :=
  s.modMe fun c =>
    let d := c.dependence u
    let tag := if a.kind.tagged then some c.pickTag else none
    let a := { a with id := c.seq, deps := d.1, bound := max d.2 c.nearFloor, dependent := u != 0#9, tag := tag,
                      issueTick := s.tick, issueCycle := s.cycle, bundle := c.pc }
    let c := { c with lsu := c.lsu ++ [.access a], seq := c.seq + 1 }
    match tag with
    | some n =>
      let q := feedsQ1 a.slot
      (c.takeTag n a.id).setQueue q (c.queue q ++ [{ acc := a.id, mask := tagMask n }])
    | none => c

/-- The gate of a global access: the 64-access limit, a free queue entry, room in the Manifest ring (R71, R123,
R310). -/
def State.accessGate (s : State) (i : Instr) (slot : Nat) (kind : AccKind) (records : Bool) : Gate :=
  (((staticGate i).and (waitIf .accessLimit (decide (Config.accessLimit ≤ s.me.outstanding)))).and
    (waitIf .queueFull (kind.tagged && decide (Config.queueEntries ≤ (s.me.queue (feedsQ1 slot)).length)))).and
    (s.recordGate records)

/-- What a global access is, beside its kind. -/
structure GAccess where
  slot : Nat
  cls : BitVec 4 := 0#4
  tk : BitVec 4 := 8#4
  addr : Word
  align : Nat
  need : Need
  kind : AccKind
  /-- The union of the masks of its sources, the control taint apart (R94). -/
  taint : Mask
  /-- A window fault of its data bay. -/
  window : Option SFault := none
  acq : Bool := false
  rel : Bool := false
  scope : Nat := 0
  /-- The Manifest record: type, sub, value (R122). -/
  record : Option (Nat × Nat × Word) := none
  /-- A batched add of deterministic mode (R110). -/
  batched : Bool := false
  /-- An ordering point of the mixed-size check: an atomic with rel set (R83). -/
  point : Bool := false
  /-- It acts as if a `rel` of scope 4 stood before it (R77). -/
  afterRel : Bool := false

/-- The issue of a checked access, with its record (R123, R124). -/
def State.enqueue (s : State) (g : GAccess) (pa : Nat) (nb : Bool) (r : Option Rec) : State :=
  let tk := if g.tk.ult 8#4 then some g.tk.toNat else none
  let interval := if g.batched then
      match r.bind (·.order) with
      | some n => some n
      | none => some (s.interval (s.launch s.me.launch))
    else none
  let s := if g.tk.ult 8#4 then s.busy g.tk.toNat 0 false 0 else s
  let s := if g.afterRel then s.lsuAdd fun n => .rel n 4 else s
  s.issueAccess { id := 0, slot := g.slot, cls := g.cls.toNat, kind := g.kind, va := g.addr, pa := pa, nb := nb, token := tk,
                  acq := g.acq, rel := g.rel, scope := g.scope, rcd := r, interval := interval } (g.taint ||| s.ctaint)

/-- A global access: its gate, the checks of R303 in their order, its record and its issue. -/
def globalForm (i : Instr) (g : GAccess) (s : State) : Host.Outcome State Fault Refusal :=
  gated g.slot (s.accessGate i g.slot g.kind g.record.isSome) (fun s =>
    let body (s : State) : State :=
      s.orFault g.slot (firstFault g.window (firstFault (s.tokenFault g.tk) (alignFault g.addr g.align))) fun s =>
        let core := coreOf s.cur
        match s.check core s.me.tenant s.me.walkFail g.addr g.need with
        | .fault code reason => s.raise code reason g.slot g.addr
        | .miss =>
          ((s.askWalk core s.me.tenant g.addr g.need.wr).modMe fun x => { x with asked := some (g.addr.toNat / 0x10000) }).stall .walk
        | .ok pa nb =>
          match g.record with
          | some (type, sub, value) => s.withRecord type g.slot sub g.batched g.addr value fun r s => s.enqueue g pa nb r
          | none => s.enqueue g pa nb none
    if g.point then s.atOrderingPoint g.slot body else body s) s

/-! ## Loads, stores, prefetch -/

/-- `ldq` (R311). -/
def execLdq (c : CSlot) (cls tk : BitVec 4) (imm : BitVec 8) (base v : BitVec 5) (s : State) : Host.Outcome State Fault Refusal :=
  globalForm (.ldq c cls tk imm base v)
    { slot := cslot c, cls := cls, tk := tk, addr := s.rd.sreg base + s.rd.sreg v + sext64 imm * 8#64, align := 8
      need := { rd := true }, kind := .load 8, taint := s.rd.staint base ||| s.rd.staint v } s

/-- `ldqv` (R311). -/
def execLdqv (c : CSlot) (cls tk : BitVec 4) (w : BitVec 2) (imm : BitVec 8) (base : BitVec 5) (s : State) :
    Host.Outcome State Fault Refusal :=
  let n := accessSize w
  globalForm (.ldqv c cls tk w imm base)
    { slot := cslot c, cls := cls, tk := tk, addr := s.cmAddr base imm n, align := n, need := { rd := true }, kind := .load n
      taint := s.rd.staint base } s

/-- `stq` (R312). -/
def execStq (c : CSlot) (cls tk : BitVec 4) (imm : BitVec 8) (base v : BitVec 5) (s : State) : Host.Outcome State Fault Refusal :=
  globalForm (.stq c cls tk imm base v)
    { slot := cslot c, cls := cls, tk := tk, addr := s.cmAddr base imm 8, align := 8, need := { wr := true }
      kind := .store (toBytes 8 (s.rd.sreg v).toNat), taint := s.rd.staint base ||| s.rd.staint v } s

/-- `stqv` (R312). -/
def execStqv (c : CSlot) (cls tk : BitVec 4) (w : BitVec 2) (imm : BitVec 8) (base : BitVec 5) (v : BitVec 6) (s : State) :
    Host.Outcome State Fault Refusal :=
  let n := accessSize w
  let b := s.rd.bayOf v
  globalForm (.stqv c cls tk w imm base v)
    { slot := cslot c, cls := cls, tk := tk, addr := s.cmAddr base imm n, align := n, need := { wr := true }
      kind := .store (toBytes n (s.rd.bay b).toNat), taint := s.rd.staint base ||| s.rd.btaint b
      window := s.readBayCheck (cslot c) v } s

/-- `pref` is a hint: no program outcome depends on it (R26, R313). -/
def execPref (c : CSlot) (imm : BitVec 8) (base : BitVec 5) (s : State) : Host.Outcome State Fault Refusal :=
  gated (cslot c) (staticGate (.pref c imm base)) id s

/-! ## Atomics -/

/-- Bytes of an atomic's size code (R314). -/
def atomSize (size : BitVec 2) : Nat := match size.toNat with | 0 => 4 | 1 => 8 | _ => 16

/-- The low n bytes of a register. -/
def lowBytes (v : Word) (n : Nat) : Word := BitVec.ofNat 64 (v.toNat % 2 ^ (8 * n))

/-- `atom` and `atomr` (R104, R110, R314). -/
def atomForm (i : Instr) (c : CSlot) (cls tk : BitVec 4) (scope : BitVec 3) (rel acq : Bool) (size : BitVec 2) (aop : BitVec 4)
    (base v : BitVec 5) (returns : Bool) (s : State) : Host.Outcome State Fault Refusal :=
  let n := atomSize size
  let x := lowBytes (s.rd.sreg v) n
  globalForm i
    { slot := cslot c, cls := cls, tk := tk, addr := s.rd.sreg base, align := n
      need := { rd := returns, wr := true, at' := true }, kind := .atomic aop.toNat n x returns
      taint := s.rd.staint base ||| s.rd.staint v, acq := acq, rel := rel, scope := scope.toNat
      record := some (if returns then 1 else 2, 0, x), batched := s.det && aop.ult 2#4, point := rel } s

def execAtom (c : CSlot) (cls tk : BitVec 4) (scope : BitVec 3) (rel acq : Bool) (size : BitVec 2) (aop : BitVec 4)
    (base v : BitVec 5) (s : State) : Host.Outcome State Fault Refusal :=
  atomForm (.atom c cls tk scope rel acq size aop base v) c cls tk scope rel acq size aop base v false s

def execAtomr (c : CSlot) (cls tk : BitVec 4) (scope : BitVec 3) (rel acq : Bool) (size : BitVec 2) (aop : BitVec 4)
    (base v : BitVec 5) (s : State) : Host.Outcome State Fault Refusal :=
  atomForm (.atomr c cls tk scope rel acq size aop base v) c cls tk scope rel acq size aop base v true s

/-- The registers of a `cas`: compare and new values, and their masks (R314). -/
def Regs.casOperands (r : Regs) (v : BitVec 5) (n : Nat) : Nat × Nat × Mask :=
  let x (i : Nat) : Nat := (r.sreg (v + BitVec.ofNat 5 i)).toNat
  let t (i : Nat) : Mask := r.staint (v + BitVec.ofNat 5 i)
  if n = 16 then (x 0 + x 1 * 2 ^ 64, x 2 + x 3 * 2 ^ 64, t 0 ||| t 1 ||| t 2 ||| t 3)
  else (x 0 % 2 ^ (8 * n), x 1 % 2 ^ (8 * n), t 0 ||| t 1)

/-- `cas` (R107, R314). -/
def execCas (c : CSlot) (cls tk : BitVec 4) (scope : BitVec 3) (rel acq : Bool) (size : BitVec 2) (base v : BitVec 5) (s : State) :
    Host.Outcome State Fault Refusal :=
  let n := atomSize size
  let o := s.rd.casOperands v n
  globalForm (.cas c cls tk scope rel acq size base v)
    { slot := cslot c, cls := cls, tk := tk, addr := s.rd.sreg base, align := n, need := { rd := true, wr := true, at' := true }
      kind := .cas n o.1 o.2.1, taint := s.rd.staint base ||| o.2.2, acq := acq, rel := rel, scope := scope.toNat
      record := some (3, 0, BitVec.ofNat 64 o.2.1), point := rel } s

/-- `atomv` (R107, R110, R315). -/
def execAtomv (c : CSlot) (cls tk : BitVec 4) (et : BitVec 2) (aop : BitVec 4) (base : BitVec 5) (v : BitVec 6) (s : State) :
    Host.Outcome State Fault Refusal :=
  let b := s.rd.bayOf v
  let x := s.rd.bay b
  globalForm (.atomv c cls tk et aop base v)
    { slot := cslot c, cls := cls, tk := tk, addr := s.rd.sreg base, align := 128, need := { wr := true, at' := true }
      kind := .row aop.toNat et.toNat x, taint := s.rd.staint base ||| s.rd.btaint b, window := s.readBayCheck (cslot c) v
      record := some (2, 1, x.extractLsb' 0 64), batched := s.det && aop.ult 2#4 } s

/-! ## Fences (R73, R74) -/

/-- `fence.c` (R74). -/
def execFenceC (c : CSlot) (mask : BitVec 16) (s : State) : Host.Outcome State Fault Refusal :=
  gated (cslot c) (staticGate (.fenceC c mask)) (fun s => (s.lsuAdd fun n => .fenceC n mask).modMe Ctx.retire) s

/-- `acq` (R74). -/
def execAcq (c : CSlot) (scope : BitVec 3) (s : State) : Host.Outcome State Fault Refusal :=
  gated (cslot c) (staticGate (.acq c scope)) (fun s => (s.lsuAdd fun n => .acq n scope.toNat).modMe Ctx.retire) s

/-- `rel` (R74, R83). -/
def execRel (c : CSlot) (scope : BitVec 3) (s : State) : Host.Outcome State Fault Refusal :=
  gated (cslot c) (staticGate (.rel c scope)) (fun s => s.atOrderingPoint (cslot c) fun s =>
    (s.lsuAdd fun n => .rel n scope.toNat).modMe Ctx.retire) s

/-- An access was issued by the bundle that issues now. -/
def State.fromThisBundle (s : State) (a : Access) : Bool := a.issueCycle = s.cycle && a.bundle = s.me.pc

/-- `fence.s` waits for every earlier access, and at scope 5 until each is far done; an access of the same bundle in C0
holds the next bundle instead (R74, R75). -/
def execFenceS (c : CSlot) (scope : BitVec 3) (s : State) : Host.Outcome State Fault Refusal :=
  let earlier := s.me.accesses.filter fun a => a.global && !s.fromThisBundle a
  gated (cslot c) ((staticGate (.fenceS c scope)).and (waitIf .fenceS (!earlier.isEmpty || (scope = 5#3 && !s.me.far.isEmpty)))) (fun s =>
    s.atOrderingPoint (cslot c) fun s =>
      if c = .c1 && s.me.accesses.any (fun a => a.slot = 4 && s.fromThisBundle a) then
        s.modMe fun x => { x with fenceWait := some x.seq, fenceFar := scope = 5#3 }
      else s) s

/-! ## Tickets (R321) -/

/-- A ticket form: `op` 0 reserve, 1 post, 2 take, 3 free. The first and the third return a slot number and act as if an
`acq` followed them; the others act as if a `rel` came before them (R77, R321). -/
def ticketForm (i : Instr) (c : CSlot) (cls : BitVec 4) (op : Nat) (base v : BitVec 5) (s : State) :
    Host.Outcome State Fault Refusal :=
  let reads := op = 1 || op = 3
  let x := if reads then s.rd.sreg v else 0#64
  let g : GAccess :=
    { slot := cslot c, cls := cls, addr := s.rd.sreg base, align := 64, need := { rd := true, wr := true, at' := true }
      kind := .ticket op x v.toNat, taint := s.rd.staint base ||| (if reads then s.rd.staint v else 0#9)
      acq := !reads, rel := reads, afterRel := reads, scope := 4
      record := some (if op = 2 then (6, 0, 0#64) else (5, if op = 3 then 2 else op, x)) }
  match globalForm i g s with
  | .next t =>
    if !reads && t.me.seq = s.me.seq + 1 then .next (t.modMe fun y => { y with ticketWait := y.ticketWait ++ [s.me.seq] }) else .next t
  | r => r

def execTkres (c : CSlot) (cls : BitVec 4) (base v : BitVec 5) (s : State) : Host.Outcome State Fault Refusal :=
  ticketForm (.tkres c cls base v) c cls 0 base v s

def execTkpost (c : CSlot) (cls : BitVec 4) (base v : BitVec 5) (s : State) : Host.Outcome State Fault Refusal :=
  ticketForm (.tkpost c cls base v) c cls 1 base v s

def execTktake (c : CSlot) (cls : BitVec 4) (base v : BitVec 5) (s : State) : Host.Outcome State Fault Refusal :=
  ticketForm (.tktake c cls base v) c cls 2 base v s

def execTkfree (c : CSlot) (cls : BitVec 4) (base v : BitVec 5) (s : State) : Host.Outcome State Fault Refusal :=
  ticketForm (.tkfree c cls base v) c cls 3 base v s

end Sys2Proof.Machine
end

