-- ==== Sys2Proof/Machine/Home.lean ====
section
/-!
DEFINITION. What happens at the home slices (R50–R61, R67–R83, R95–R97, R104–R112, R122–R125, R147, R242, R321,
R354): accesses perform in the order their context's rules allow, one at a time.
-/

namespace Sys2Proof.Machine

/-! ## Which access may perform (R70, R71, R74, R76, R77, R95, R111) -/

/-- Two batched adds of one interval need no order but the batch's (R111). -/
def batchMates (a b : Access) : Bool := a.interval.isSome && a.interval = b.interval

/-- An earlier access b itself holds access a: class order, the flags of atomics and tickets (R70, R76, R77). Two batched
adds of one interval need nothing of it (R111). -/
def Access.heldBy (a b : Access) : Bool :=
  b.global && !batchMates a b && ((a.global && (a.cls = b.cls || a.cls = 15 || b.cls = 15)) || b.acq || a.rel)

/-- An earlier part of the list holds access a, through accesses or fences; `far` are the accesses that are not far done
(R74, R75, R111). -/
def Access.held (a : Access) (far : List Nat) : List LsuItem → (accs : List Access) → Bool
  | [], _ => false
  | .access b :: l, accs => a.heldBy b || a.held far l (if b.global then b :: accs else accs)
  | .fenceC _ m :: l, accs =>
    (a.global && m.getLsbD a.cls && accs.any fun b => m.getLsbD b.cls && !batchMates a b) || a.held far l accs
  | .rel id sc :: l, accs => (a.writes && (accs.any (fun b => !batchMates a b) || farHolds far sc id)) || a.held far l accs
  | .acq _ _ :: l, accs => accs.any (fun b => b.kind.tagged && !batchMates a b) || a.held far l accs

/-- The items before an access. -/
def itemsBefore (id : Nat) : List LsuItem → List LsuItem
  | [] => []
  | .access a :: l => if a.id = id then [] else .access a :: itemsBefore id l
  | i :: l => i :: itemsBefore id l

/-- An issued access of a context. -/
def Ctx.access (c : Ctx) (id : Nat) : Option Access := c.accesses.find? fun a => a.id = id

/-- The context's rules let an access perform. An engine's arrival waits for nothing there (R300). -/
def Ctx.mayPerform (c : Ctx) (a : Access) : Bool :=
  (!a.global && a.slot = 3) ||
    (a.deps.isEmpty && !a.inBatch && !(a.rel && farHolds c.far a.scope a.id) && !a.held c.far (itemsBefore a.id c.lsu) [])

/-- The line of an address, as its launch's line orders are kept (R122). -/
def orderKey (launch pa : Nat) : Nat := launch * 2 ^ 44 + pa / 256

/-- A replayed operation's line order has come (R124). -/
def State.lineTurn (s : State) (launch : Nat) (a : Access) : Bool :=
  match a.rcd.bind (·.order) with
  | some n => a.interval.isSome || n = fget 0 s.ms.lineOrders (orderKey launch a.pa)
  | none => true

/-- A physical address lies in the host or a peer window: its home on this device only orders and forwards (R52, R75). -/
def farWindow (pa : Nat) : Bool := match region pa with | .host | .peer _ => true | _ => false

/-- An atomic to the host window, or the batches of an interval's close, that have read there and not yet written keep this
device's other accesses from the window (R60); `self` is the access that asks, if a copy slot issued it. -/
def State.hostHeld (s : State) (self : Option (Nat × Nat)) (pa : Nat) : Bool :=
  region pa = .host &&
    ((match s.ms.hostRmw with
      | some r => !(self == some (r.ctx, r.id)) && ((s.ctx r.ctx).access r.id).isSome
      | none => false) ||
    match s.ms.hostBatch with
      | some b => !(s.launch b.1).ended
      | none => false)

/-- The access with a number may perform now; one that makes its record then does when the record can be written (R21, R123). -/
def State.performable (s : State) (c id : Nat) : Option Access :=
  let x := s.ctx c
  match x.access id with
  | some a =>
    if x.mayPerform a && s.lineTurn x.launch a && !s.hostHeld (some (c, id)) a.pa && (a.interval.isSome || s.recordReady c a.rcd) then
      some a
    else none
  | none => none

/-- The hold of a replayed operation at its home begins (R124, R125). -/
def State.markHeld (s : State) (c id : Nat) : State :=
  s.modCtx c fun x =>
    { x with lsu := x.lsu.map fun i => match i with
        | .access a => if a.id = id && a.heldSince.isNone then .access { a with heldSince := some s.tick } else i
        | _ => i }

/-! ## After an access has performed -/

/-- Change an access of a list. -/
def modAccess (id : Nat) (f : Access → Access) (l : List LsuItem) : List LsuItem :=
  l.map fun i => match i with
    | .access a => if a.id = id then .access (f a) else i
    | _ => i

/-- The list without an access; later accesses no longer depend on it, and an acquiring one bounds the loads after
it (R76, R77, R95). -/
def dropAccess (id stamp : Nat) (acq : Bool) : List LsuItem → (past : Bool) → List LsuItem
  | [], _ => []
  | .access a :: l, past =>
    if a.id = id then dropAccess id stamp acq l true
    else
      let dep := a.deps.contains id
      .access { a with deps := a.deps.filter (· != id)
                       bound := if dep || (past && acq) then max a.bound stamp else a.bound } :: dropAccess id stamp acq l past
  | i :: l, past => i :: dropAccess id stamp acq l past

/-- An access has performed at a moment: it leaves the load-store unit, and its tag, the dependence sets and the
acquire bounds take its stamp; in a far window it is not far done yet (R67, R75, R88, R89, R95). -/
def Ctx.performed (c : Ctx) (a : Access) (stamp : Nat) : Ctx :=
  let t := a.kind.tagged
  let c := { c with lsu := dropAccess a.id stamp a.acq c.lsu false
                    far := if a.global && farWindow a.pa then c.far ++ [a.id] else c.far
                    tags := c.tags.map fun (e : Nat × Tag) => if e.2.st = 1 && e.2.holder = a.id then (e.1, { e.2 with st := 2, stamp := stamp }) else e
                    nearFloor := if a.acq then max c.nearFloor stamp else c.nearFloor
                    loadStamp := if t then max c.loadStamp stamp else c.loadStamp
                    allStamp := if t && (match c.allTop with | some n => decide (a.id ≤ n) | none => false) then
                        max c.allStamp stamp
                      else c.allStamp }
  c.retire

/-- The key of a line in a context's record of what its classes have seen (R68). -/
def seenKey (cls pa : Nat) : Nat := cls * 2 ^ 60 + pa / 256

/-- A class of the context has read or written a line as it stood at a stamp and a place in the order of fills; what is too old
for a near buffer to hold is forgotten (R54, R68). -/
def Ctx.saw (c : Ctx) (a : Access) (at' : Nat × Nat) (now : Nat) : Ctx :=
  match region a.pa with
  | .hbm | .cxl _ =>
    if a.global then
      let old := fget (0, 0) c.seen (seenKey a.cls a.pa)
      { c with seen := fput (c.seen.filter fun e => decide (now < e.2.1 + Config.nearBufferAge)) (seenKey a.cls a.pa)
                         (max at'.1 old.1, max at'.2 old.2) }
    else c
  | _ => c

/-- The present moment: its stamp, and the place of the next fill (R68). -/
def State.moment (s : State) : Nat × Nat := (s.tick, s.ms.fillSeq)

/-- An access of context c has performed now, on its line as it stood at a moment. -/
def State.finishAt (s : State) (c : Nat) (a : Access) (at' : Nat × Nat) : State :=
  s.modCtx c fun x => (x.performed a s.tick).saw a at' s.tick

/-- An access of context c has performed now. -/
def State.finish (s : State) (c : Nat) (a : Access) : State := s.finishAt c a s.moment

/-- FarDone: the host link or the peer has answered (R75). -/
def State.farDone (s : State) (c id : Nat) : State :=
  s.modCtx c fun x => ({ x with far := x.far.filter (· != id) }).retire

/-- The token of an access is done (R304). -/
def State.accessDone (s : State) (c : Nat) (a : Access) : State :=
  match a.token with
  | some t => s.tokenDone c t 0
  | none => s

/-- Fill the queue entry of an access (R310). -/
def fillEntry (id : Nat) (f : QEntry → QEntry) (q : List QEntry) : List QEntry :=
  q.map fun e => if e.acc = id then f { e with filled := true } else e

/-- An access's data enters its queue entry (R72, R310). -/
def State.deliver (s : State) (c : Nat) (a : Access) (f : QEntry → QEntry) : State :=
  s.modCtx c fun x => { x with q0 := fillEntry a.id f x.q0, q1 := fillEntry a.id f x.q1 }

/-- Bytes as a queue entry holds them. -/
def entryData (l : List Byte) : Bay := BitVec.ofNat 1024 (ofBytes l)

/-- Where a home access fails: the detail of hardware error, 3 for memory that is not there, 2 for a poisoned line
(R57, R59). -/
def State.homeError (s : State) (pa : Nat) : Option Nat :=
  if !s.backed pa then some 3 else if s.poisoned pa then some 2 else none

/-- A discard at the home: it is counted, firmware is told, and the token completes in error (R57, R59, R304). -/
def State.discard (s : State) (c : Nat) (a : Access) (detail : Nat) : State :=
  let s := s.modQuarter (homeQuarter a.pa) fun q => { q with discards := q.discards + 1 }
  let s := if detail = 3 then s.tellAbsent c a.pa a.va.toNat else s.notice 7 c detail a.va.toNat
  match a.token with
  | some t => s.tokenError c t { engid := 5, code := 0x14, detail := detail, addr := a.va }
  | none => s

/-! ## Writes at a home -/

/-- Who made a write (R354, R355). -/
inductive Writer
  | access (c slot : Nat) (va : Word)
  | engine (c engid cmd : Nat) (va : Word)
  | outside (engid : Nat)
  deriving DecidableEq, Repr

/-- Byte i of a watchpoint's unit meets its condition (R354). -/
def Watchpoint.byteMeets (w : Watchpoint) (before after : Byte) (i : Nat) : Bool :=
  if w.mode = 1 then
    after &&& w.mask.extractLsb' (8 * i) 8 == w.value.extractLsb' (8 * i) 8 &&& w.mask.extractLsb' (8 * i) 8
  else before != after

/-- A write of n bytes at pa matches a watchpoint (R354). -/
def Watchpoint.hit (w : Watchpoint) (tenant pa n : Nat) (before after : Memory) : Bool :=
  let at' (i : Nat) : Nat := w.unit * 16 + i
  let masked := (List.range 16).filter fun i => w.bytes.getLsbD i
  (w.mode = 1 || w.mode = 2) && w.tenant = tenant && masked.any (fun i => decide (pa ≤ at' i) && decide (at' i < pa + n)) &&
    (if w.mode = 1 then masked.all else masked.any) fun i => w.byteMeets (mget before (at' i)) (mget after (at' i)) i

/-- Report one match (R355). -/
def State.reportMatch (s : State) (w : Writer) (n : Nat) : State :=
  match w with
  | .access c slot va => s.modCtx c fun x => { x with doom := x.doom ++ [(0x11, n, slot, va)] }
  | .engine c engid cmd va =>
    s.modCtx c fun x =>
      { x with reports := x.reports ++ [{ code := 0x11, detail := n, engid := engid, addr := va, bundles := x.bundles, cmd := cmd }] }
  | .outside engid => s.notice 6 engid n 0

/-- Bytes written at a home by tenant: memory, then the watchpoints of the line's Quarter (R51, R354). -/
def State.homeWrite (s : State) (w : Writer) (tenant pa : Nat) (bytes : List Byte) : State :=
  let after := mwrite s.mem pa bytes
  let q := s.quarter (homeQuarter pa)
  let hits := [0, 1, 2, 3].filter fun n => (fget {} q.watch n : Watchpoint).hit tenant pa bytes.length s.mem after
  hits.foldl (fun s n => s.reportMatch w n) { s with mem := after }

/-- A page of a launch's output regions has been written (R117). -/
def State.markDirty (s : State) (l va pa : Nat) : State :=
  let x := s.launch l
  if x.det && x.regions.any (fun r => decide (r.1 ≤ va) && decide (va < r.1 + r.2)) then
    match region pa with
    | .host | .peer _ => s.modLaunch l fun x =>
        if x.dirty.contains (va / 0x10000) then x else { x with dirty := va / 0x10000 :: x.dirty, undigested := x.undigested + 1 }
    | _ => s.modLaunch l fun x => if x.dirty.contains (va / 0x10000) then x else { x with dirty := va / 0x10000 :: x.dirty }
  else s

/-- A write of a core goes to its home: before it leaves for another Quarter, the near-buffer copy of its own goes
(R55). -/
def State.leave (s : State) (c : Nat) (a : Access) : State :=
  let q := quarterOf (coreOf c)
  if homeQuarter a.pa = q then s else s.dropNear q a.pa

/-- A core's write of bytes at its home, at an offset of its range (R51, R117, R354). -/
def State.accessWrite (s : State) (c : Nat) (a : Access) (off : Nat) (bytes : List Byte) : State :=
  let x := s.ctx c
  (s.homeWrite (.access c a.slot a.va) x.tenant (a.pa + off) bytes).markDirty x.launch a.va.toNat a.pa

/-! ## The mixed-size check (R83) -/

/-- The check fires on an access: its range, master and class against the last write to the line. -/
def State.overlapFires (s : State) (tenant pa size master cls : Nat) : Bool :=
  s.ms.ovl.contains tenant &&
    match s.ms.lastWrites.find? fun w => w.line = pa / 256 with
    | some w => decide (pa < w.lo + w.size) && decide (w.lo < pa + size) && w.size != size &&
        (w.master != master || w.cls != cls) && decide (s.tick < w.tick + Config.overlapWindow)
    | none => false

/-- Note the last write to a line. -/
def State.noteWrite (s : State) (tenant pa size master cls : Nat) : State :=
  if s.ms.ovl.contains tenant then
    s.modMs fun m =>
      { m with lastWrites := { line := pa / 256, lo := pa, size := size, master := master, cls := cls, tick := s.tick } ::
                 m.lastWrites.filter fun w => w.line != pa / 256 }
  else s

/-- The check at an access's home. -/
def State.accessOverlaps (s : State) (c : Nat) (a : Access) : Bool := s.overlapFires (s.ctx c).tenant a.pa a.size c a.cls

/-- An access that the check refuses: it does not perform, and the fault waits for the pop or the next ordering point (R83).
DESIGN CHOICE (log entry 23): it takes no line order and makes no record, and the register of a ticket operation keeps its
value. -/
def State.refuseOverlap (s : State) (c : Nat) (a : Access) : State :=
  let s := if a.kind.tagged then s.deliver c a fun e => { e with overlap := some a.va }
    else s.modCtx c fun x => { x with overlap := x.overlap ++ [a.va] }
  (s.finish c a).accessDone c a

/-! ## Mixed sizes (R82) -/

/-- Two ranges share a byte. -/
def meets (pa n qa m : Nat) : Bool := decide (pa < qa + m) && decide (qa < pa + n)

/-- The byte that a plain store leaves at an address, where it covers it. -/
def Access.byteAt (a : Access) (x : Nat) : Option Byte :=
  match a.kind with
  | .store l => if a.pa ≤ x then l[x - a.pa]? else none
  | _ => none

/-- An issued access is ordered after nothing that performs now in another place: nothing holds it, or none of the accesses
before it reads, so that no other context can have told its own of what performs (R82; assumption log, 23). -/
def Ctx.unordered (c : Ctx) (b : Access) : Bool :=
  c.mayPerform b || (itemsBefore b.id c.lsu).all fun i => match i with
    | .access a => match a.kind with
      | .store _ => true
      | .atomic _ _ _ returns => !returns
      | .row _ _ _ => true
      | _ => false
    | _ => true

/-- Issued accesses that overlap a range in another size and are not ordered with what acts on it: one of the two
writes, and neither comes first (R82). `self` is the access that acts, if a copy slot issued it; a later one of its own
context counts where nothing holds it. -/
def State.rivals (s : State) (self : Option (Nat × Nat)) (pa n size : Nat) (writes : Bool) : List (Nat × Access) :=
  s.ctxs.flatMap fun e => (e.2.accesses.filter fun b =>
    b.global && !b.inBatch && !(self == some (e.1, b.id)) && b.size != size && (writes || b.writes) && meets pa n b.pa b.size &&
      (if self.any fun x => x.1 = e.1 then e.2.mayPerform b else e.2.unordered b)).map fun b => (e.1, b)

/-- What an overlap in mixed sizes may leave or show at an address beside the byte that stands there: bytes noted
while the access waited, and those of the rivals' stores (R82). -/
def mixBytes (noted : List (Nat × Byte)) (rivals : List (Nat × Access)) (x : Nat) : List Byte :=
  (noted.filter fun e => e.1 = x).map (·.2) ++ rivals.filterMap fun r => r.2.byteAt x

/-- One of a byte and the others, freely chosen; the byte itself where there are no others. -/
def pickByte (seed : Nat) (b : Byte) (l : List Byte) : Byte :=
  if l.isEmpty then b else (b :: l).getD ((Config.freeWord seed).toNat % (l.length + 1)) b

/-- The bytes that a read of a range returns: each byte of an overlap in mixed sizes is a free choice among its
earlier value and those written to it (R82). -/
def State.mixRead (s : State) (noted : List (Nat × Byte)) (rivals : List (Nat × Access)) (pa n : Nat) : List Byte :=
  (List.range n).map fun i => pickByte (s.fresh + i) (mget s.mem (pa + i)) (mixBytes noted rivals (pa + i))

/-- The bytes that a write of a range leaves (R82): its own but where others overlap it. -/
def State.mixWrite (s : State) (noted : List (Nat × Byte)) (rivals : List (Nat × Access)) (pa : Nat) (bytes : List Byte) :
    List Byte :=
  (bytes.zip (List.range bytes.length)).map fun e =>
    let x := pa + e.2
    pickByte (s.fresh + e.2) e.1 (if (noted.any fun m => m.1 = x) || rivals.any (fun r => meets x 1 r.2.pa r.2.size)
      then mget s.mem x :: mixBytes noted rivals x else [])

/-- Bytes of engines' writes on their way that overlap a range in another size, by address (R82). -/
def State.sentOver (s : State) (self : Option Nat) (pa n size : Nat) : List (Nat × Byte) :=
  (s.ms.sent.filter fun x => x.size != size && !(self == some x.id)).flatMap fun x => x.left.flatMap fun u =>
    (u.2.zip (List.range u.2.length)).filterMap fun e =>
      if meets (x.pa + u.1 + e.2) 1 pa n then some (x.pa + u.1 + e.2, e.1) else none

/-- The bytes that a write of n bytes at pa displaced and left, of those that lie in a range (R82). -/
def sharedBytes (before after : Memory) (pa n lo m : Nat) : List (Nat × Byte) :=
  ((List.range n).filter fun i => meets (pa + i) 1 lo m).flatMap fun i =>
    [(pa + i, mget before (pa + i)), (pa + i, mget after (pa + i))]

/-- A command notes those bytes of the source lines that it is reading (R82). -/
def DrayCmd.noteMixed (c : DrayCmd) (before after : Memory) (pa n size : Nat) : DrayCmd :=
  { c with mixed := c.mixed ++ c.held.flatMap fun h => if h.size = size then [] else sharedBytes before after pa n (h.pa + h.lo) h.size }

/-- Rivals, engines' writes on their way and engines' reads note the bytes that a write of an access of a size displaced and
left, of those that they share with it (R82). -/
def State.noteMixed (s : State) (before : Memory) (rivals : List (Nat × Access)) (pa n size : Nat) : State :=
  let s := s.modMs fun m => { m with sent := m.sent.map fun x =>
    if x.size = size then x else { x with mixed := x.mixed ++ sharedBytes before s.mem pa n x.pa x.size } }
  let s := { s with cores := s.cores.map fun (e : Nat × CoreState) => (e.1, { e.2 with drays := e.2.drays.map fun (d : Nat × Dray) =>
    (d.1, { d.2 with running := d.2.running.map fun c => c.noteMixed before s.mem pa n size }) }) }
  rivals.foldl (fun s r => s.modCtx r.1 fun x =>
    { x with lsu := modAccess r.2.id (fun b => { b with mixed := b.mixed ++ sharedBytes before s.mem pa n b.pa b.size }) x.lsu }) s

/-- Free values that were used go by, if any were (R82). -/
def State.mixOver (s : State) (noted : List (Nat × Byte)) (rivals : List (Nat × Access)) (n : Nat) : State :=
  if noted.isEmpty && rivals.isEmpty then s else { s with fresh := s.fresh + n }

/-- Rivals of an access of a copy slot on part of its range. -/
def State.accessRivals (s : State) (c : Nat) (a : Access) (off n : Nat) (writes : Bool) : List (Nat × Access) :=
  s.rivals (some (c, a.id)) (a.pa + off) n a.size writes

/-- No access that waits overlaps this one in another size, and none has (R82). -/
def State.unmixed (s : State) (c : Nat) (a : Access) : Bool :=
  a.mixed.isEmpty && (s.accessRivals c a 0 a.size a.writes).isEmpty && s.ms.sent.isEmpty

/-- The bytes that an overlap in mixed sizes has given or may give to an access (R82). -/
def State.noted (s : State) (a : Access) (off n : Nat) : List (Nat × Byte) := a.mixed ++ s.sentOver none (a.pa + off) n a.size

/-- An access reads part of its range at its home (R51, R82). -/
def State.homeRead (s : State) (c : Nat) (a : Access) (off n : Nat) (writes : Bool) : List Byte × State :=
  let r := s.accessRivals c a off n writes
  let m := s.noted a off n
  (s.mixRead m r (a.pa + off) n, s.mixOver m r n)

/-- An access writes part of its range at its home (R51, R82). -/
def State.homeStore (s : State) (c : Nat) (a : Access) (off : Nat) (bytes : List Byte) : State :=
  let r := s.accessRivals c a off bytes.length true
  let m := s.noted a off bytes.length
  let b := s.mixWrite m r (a.pa + off) bytes
  ((s.accessWrite c a off b).noteMixed s.mem r (a.pa + off) bytes.length a.size).mixOver m r bytes.length

/-! ## Wide accesses (R81, R107) -/

/-- The 16-byte units of an access that is atomic only unit by unit: 1 or 0 of any other (R81, R107). -/
def Access.units (a : Access) : Nat :=
  match a.kind with
  | .load n => n / 16
  | .store b => b.length / 16
  | .row _ _ _ => 8
  | _ => 1

/-- Its units perform at moments of their own (R81). -/
def Access.wide (a : Access) : Bool := decide (1 < a.units)

/-- The units that have not performed. -/
def Access.unitsLeft (a : Access) : List Nat := (List.range a.units).filter fun u => !a.unitsDone.contains u

/-- The unit that performs next: a free choice (R81). -/
def State.nextUnit (s : State) (a : Access) : Nat :=
  a.unitsLeft.getD ((Config.freeWord s.fresh).toNat % a.unitsLeft.length) 0

/-- A unit has performed: the access goes on, or it was the last and the access is over. -/
def State.unitOver (s : State) (c : Nat) (a : Access) (u : Nat) (last : State → State) : State :=
  let s := { s with fresh := s.fresh + 1 }
  if a.unitsLeft.length ≤ 1 then last s
  else s.modCtx c fun x => { x with lsu := modAccess a.id (fun b => { b with unitsDone := u :: b.unitsDone }) x.lsu }

/-- A unit of a load's data goes to its place in the queue entry, which fills with the last (R72, R81). -/
def State.deliverUnit (s : State) (c : Nat) (a : Access) (u : Nat) (b : List Byte) : State :=
  let put (q : List QEntry) : List QEntry :=
    q.map fun e => if e.acc = a.id then { e with data := e.data ||| (entryData b <<< (128 * u)) } else e
  s.modCtx c fun x => { x with q0 := put x.q0, q1 := put x.q1 }

/-! ## Line orders and records (R122, R124) -/

/-- An operation of a launch takes its line order, and its record is written (R122, R123). -/
def State.takeOrder (s : State) (c : Nat) (a : Access) (value : Option Word) : State :=
  match a.rcd with
  | none => s
  | some r =>
    let k := orderKey (s.ctx c).launch a.pa
    let n := fget 0 s.ms.lineOrders k
    (s.modMs fun m => { m with lineOrders := fput m.lineOrders k (n + 1) }).performed c a.rcd n (value.getD r.value)

/-! ## Loads (R53–R55, R67, R96) -/

/-- A near-buffer line that a load may use: young, filled at or after the load's bound, and filled no earlier than what an
earlier access of its class has seen of the line (R53, R54, R68, R74, R96). -/
def State.nearHit (s : State) (c : Nat) (a : Access) : Option NearLine :=
  let q := quarterOf (coreOf c)
  let remote := homeQuarter a.pa != q && (match region a.pa with | .hbm | .cxl _ => true | _ => false)
  if a.nb && remote then
    s.ms.near.find? fun l => l.quarter = q && l.line = a.pa / 256 && decide (s.tick < l.stamp + Config.nearBufferAge) &&
      decide (a.bound ≤ l.stamp) && decide ((fget (0, 0) (s.ctx c).seen (seenKey a.cls a.pa)).2 ≤ l.seq)
  else none

/-- Lines of a slice's near buffer that stay when a line comes in: 64 KiB of lines of 256 bytes, and the oldest goes
(R47, R55). -/
def nearKeep (quarter line : Nat) (l : List NearLine) : List NearLine :=
  let mine (x : NearLine) : Bool := x.quarter = quarter && homeSlice (x.line * 256) % 64 = homeSlice (line * 256) % 64
  let last := (l.filter mine).getLast?
  if decide (Config.nearLines ≤ (l.filter mine).length) then l.filter fun x => !(some x == last) else l

/-- A line returned from a remote home enters the Quarter's near buffer (R47, R53). -/
def State.nearFill (s : State) (c : Nat) (a : Access) : State :=
  let q := quarterOf (coreOf c)
  if a.nb && homeQuarter a.pa != q && (match region a.pa with | .hbm | .cxl _ => true | _ => false) then
    let line := a.pa / 256
    (s.dropNear q a.pa).modMs fun m =>
      { m with near := { quarter := q, line := line, bytes := mread s.mem (line * 256) 256, stamp := s.tick, seq := m.fillSeq } ::
                 nearKeep q line m.near
               fillSeq := m.fillSeq + 1 }
  else s

/-- An access fails at its home: of memory that is not there firmware is told (R59). -/
def State.tellUnbacked (s : State) (c : Nat) (a : Access) (detail : Nat) : State :=
  if detail = 3 then s.tellAbsent c a.pa a.va.toNat else s

/-- A load is over with what `f` puts into its queue entry: its line was seen as it stood at a moment (R67, R72, R304). -/
def State.loadOver (s : State) (c : Nat) (a : Access) (at' : Nat × Nat) (f : QEntry → QEntry) : State :=
  ((s.deliver c a f).finishAt c a at').accessDone c a

/-- A load reads at its home: the whole of it, or the next unit of a wide one (R67, R81). -/
def State.loadAtHome (s : State) (c : Nat) (a : Access) : State :=
  if a.wide then
    let u := s.nextUnit a
    let r := s.homeRead c a (16 * u) 16 false
    (r.2.deliverUnit c a u r.1).unitOver c a u fun s => (s.loadOver c a s.moment id).nearFill c a
  else
    let r := s.homeRead c a 0 a.size false
    (r.2.loadOver c a s.moment fun e => { e with data := entryData r.1 }).nearFill c a

/-- GLOBAL_LOAD_PERFORMS: at the near buffer where `near` says so and a usable line is there, else at the home (R53,
R57, R59, R67, R72, R81, R83). -/
def execGlobalLoadPerforms (c id : Nat) (near : Bool) (s : State) : Host.Outcome State Fault Refusal :=
  match s.performable c id with
  | none => .next s
  | some a =>
    match a.kind with
    | .load n =>
      match (if near && a.unitsDone.isEmpty then s.nearHit c a else none) with
      | some l => .next (s.loadOver c a (l.stamp, l.seq) fun e => { e with data := entryData ((l.bytes.drop (a.pa % 256)).take n) })
      | none =>
        if a.unitsDone.isEmpty && s.accessOverlaps c a then .next (s.refuseOverlap c a)
        else
          match s.homeError a.pa with
          | some d => .next ((s.tellUnbacked c a d).loadOver c a s.moment fun e => { e with poison := d })
          | none => .next (s.loadAtHome c a)
    | _ => .next s

/-- NEAR_BUFFER_EXPIRY (R54): a line that has reached its age is absent. -/
def execNearBufferExpiry (quarter line : Nat) (s : State) : Host.Outcome State Fault Refusal :=
  .next (s.modMs fun m => { m with near := m.near.filter fun l =>
    !(l.quarter = quarter && l.line = line && decide (l.stamp + Config.nearBufferAge ≤ s.tick)) })

/-! ## Stores (R55, R57, R59, R67) -/

/-- A store is over. -/
def State.storeOver (s : State) (c : Nat) (a : Access) : State := (s.finish c a).accessDone c a

/-- A store writes at its home: the whole of it, or the next unit of a wide one (R67, R81). -/
def State.storeAtHome (s : State) (c : Nat) (a : Access) (bytes : List Byte) : State :=
  let t := (s.ctx c).tenant
  if a.wide then
    let u := s.nextUnit a
    ((s.homeStore c a (16 * u) ((bytes.drop (16 * u)).take 16)).noteWrite t a.pa a.size c a.cls).unitOver c a u fun s => s.storeOver c a
  else ((s.homeStore c a 0 bytes).noteWrite t a.pa a.size c a.cls).storeOver c a

/-- GLOBAL_STORE_PERFORMS. A poisoned line takes the bytes and stays poisoned. -/
def execGlobalStorePerforms (c id : Nat) (s : State) : Host.Outcome State Fault Refusal :=
  match s.performable c id with
  | none => .next s
  | some a =>
    match a.kind with
    | .store bytes =>
      let s := s.leave c a
      if a.unitsDone.isEmpty && s.accessOverlaps c a then .next (s.refuseOverlap c a)
      else if !s.backed a.pa then .next ((s.finish c a).discard c a 3)
      else .next (s.storeAtHome c a bytes)
    | _ => .next s

/-! ## Atomics (R104–R108) -/

/-- Modes of a floating atomic: nearest even, no flushing (R106). -/
def atomicModes : Modes := { rm := 0#2, daz := false, ftz := false, sat := false }

/-- The new value of an operation on n bytes (R104, R106). -/
def atomicNew (aop n : Nat) (m v : Nat) : Nat :=
  let w := 8 * n
  let i (x : Nat) : Int := intOf w x
  match aop with
  | 0x0 => (m + v) % 2 ^ w
  | 0x1 => (floatElem .f32 atomicModes 0x01 m v 0).1
  | 0x2 => if i v < i m then v else m
  | 0x3 => if v < m then v else m
  | 0x4 => if i m < i v then v else m
  | 0x5 => if m < v then v else m
  | 0x6 => (floatElem .f32 atomicModes 0x06 m v 0).1
  | 0x7 => (floatElem .f32 atomicModes 0x07 m v 0).1
  | 0x8 => m &&& v
  | 0x9 => m ||| v
  | 0xA => m ^^^ v
  | _ => v

/-- Bytes of an element type of `atomv` (R105). -/
def rowElemSize (et : Nat) : Nat := if et = 1 then 8 else 4

/-- Part of a row, as many bits as given, combined element by element (R107, R315). -/
def rowNew (aop et bits : Nat) (old data : Nat) : Nat :=
  let n := rowElemSize et
  packElems (8 * n) (List.zipWith (atomicNew aop n) (elems bits (8 * n) old) (elems bits (8 * n) data))

/-- The bytes an atomic leaves in memory where `old` stood, at an offset of its range (R104, R107). -/
def AccKind.apply (k : AccKind) (off : Nat) (old : List Byte) : List Byte :=
  let m := ofBytes old
  match k with
  | .atomic aop n v _ => toBytes n (atomicNew aop n m v.toNat)
  | .cas n x y => if m = x then toBytes n y else old
  | .row aop et d => toBytes old.length (rowNew aop et (8 * old.length) m (d.toNat / 2 ^ (8 * off)))
  | _ => old

/-- Operations of one access: each element of a row is one (R110). -/
def Access.operations (a : Access) : Nat := match a.kind with | .row _ et _ => 128 / rowElemSize et | _ => 1

/-- Operations of a batched access that are still to be applied. -/
def Access.operationsLeft (a : Access) : Nat := a.operations - a.applied

/-- Batched operations waiting at a home slice (R112). -/
def State.batchedAt (s : State) (slice : Nat) : Nat :=
  s.ctxs.foldl (fun n e =>
    n + ((e.2.accesses.filter fun a => a.inBatch && homeSlice a.pa = slice).map Access.operationsLeft).foldl (· + ·) 0) 0

/-- A batched add reaches its home: its operations join the batch of its interval, or of the first one still open;
those that find the home full join the next one's and are counted (R110, R112). -/
def State.joinBatch (s : State) (c : Nat) (a : Access) (i : Nat) : State :=
  let l := (s.ctx c).launch
  let x := s.launch l
  let room := if x.replay then a.operations else Config.batchLimit - s.batchedAt (homeSlice a.pa)
  let late := a.operations - room
  let first := max i x.closed
  let s := if 0 < late then s.modLaunch l fun y => { y with overflow := y.overflow + late } else s
  s.modCtx c fun y => { y with lsu := modAccess a.id (fun b =>
    { b with inBatch := true, interval := some (if room = 0 then first + 1 else first)
             early := if 0 < late && 0 < room then room else 0 }) y.lsu }

/-- An atomic is over: its order is taken and its record made, and what it returns is delivered (R72, R122, R304). -/
def State.atomicOver (s : State) (c : Nat) (a : Access) (old : List Byte) : State :=
  let s := s.takeOrder c a none
  let s := if a.kind.tagged then s.deliver c a fun e => { e with data := entryData old } else s
  (s.finish c a).accessDone c a

/-- A `cas` whose compare value differs: it writes nothing (R107). -/
def AccKind.fails (k : AccKind) (old : List Byte) : Bool :=
  match k with
  | .cas _ x _ => ofBytes old != x
  | _ => false

/-- An atomic writes where it has read `old`: nothing where a `cas` has failed, though its page counts as written
(R107, R117, R354). -/
def State.atomicWrite (s : State) (c : Nat) (a : Access) (off : Nat) (old : List Byte) : State :=
  let x := s.ctx c
  if a.kind.fails old then s.markDirty x.launch a.va.toNat a.pa
  else (s.homeStore c a off (a.kind.apply off old)).noteWrite x.tenant a.pa a.size c a.cls

/-- The offset and size of what an atomic acts on now: all of it, or the next unit of a row (R107). -/
def State.atomicPart (s : State) (a : Access) : Nat × Nat := if a.wide then (16 * s.nextUnit a, 16) else (0, a.size)

/-- An atomic has acted on a part of its range, where `old` stood (R107). -/
def State.partOver (s : State) (c : Nat) (a : Access) (off : Nat) (old : List Byte) : State :=
  if a.wide then s.unitOver c a (off / 16) fun s => s.atomicOver c a [] else s.atomicOver c a old

/-- An atomic that the host link carries as a PCIe AtomicOp (R60). -/
def AccKind.atomicOp : AccKind → Bool
  | .atomic aop n _ _ => (aop = 0x0 || aop = 0xB) && decide (n ≤ 8)
  | .cas n _ _ => decide (n ≤ 8)
  | _ => false

/-- The home makes an atomic of a read and a later write: to the host window, where no AtomicOp carries it (R60). -/
def State.splitAtHost (s : State) (a : Access) : Bool :=
  region a.pa = .host && !(s.pf.hostAtomics && a.kind.atomicOp)

/-- An atomic reads, and writes at once or, in the host window, later. -/
def State.atomicNow (s : State) (c : Nat) (a : Access) : State :=
  let p := s.atomicPart a
  let r := s.homeRead c a p.1 p.2 true
  if s.splitAtHost a then
    r.2.modMs fun m => { m with hostRmw := some { ctx := c, id := a.id, unit := p.1 / 16, old := r.1 } }
  else (r.2.atomicWrite c a p.1 r.1).partOver c a p.1 r.1

/-- An atomic performs on what stands at its home now, or fails there: one that fails takes its line order and makes its
record too (assumption log, 41). In the host window, where no AtomicOp carries it, it reads first and writes at a later
moment (R57, R59, R60, R104). -/
def State.performAtomic (s : State) (c : Nat) (a : Access) : State :=
  match s.homeError a.pa with
  | some d =>
    let s := s.takeOrder c a none
    if a.kind.tagged then (s.tellUnbacked c a d).loadOver c a s.moment fun e => { e with poison := d }
    else (s.finish c a).discard c a d
  | none =>
    match s.ms.hostRmw with
    | some r =>
      if r.ctx = c && r.id = a.id then
        ((s.modMs fun m => { m with hostRmw := none }).atomicWrite c a (16 * r.unit) r.old).partOver c a (16 * r.unit) r.old
      else s.atomicNow c a
    | none => s.atomicNow c a

/-- An atomic or `cas`. -/
def AccKind.isAtomic : AccKind → Bool
  | .atomic _ _ _ _ => true
  | .cas _ _ _ => true
  | .row _ _ _ => true
  | _ => false

/-- ATOMIC_PERFORMS (R104, R107, R110): a batched add reaches its batch instead. -/
def execAtomicPerforms (c id : Nat) (s : State) : Host.Outcome State Fault Refusal :=
  match s.performable c id with
  | none => .next s
  | some a =>
    if !a.kind.isAtomic then .next s
    else
      let s := s.leave c a
      if a.unitsDone.isEmpty && s.accessOverlaps c a then .next (s.refuseOverlap c a)
      else
        match a.interval with
        | some i => .next (s.joinBatch c a i)
        | none => .next (s.performAtomic c a)

/-! ## Tickets (R147, R321) -/

/-- A ticket descriptor (R147). -/
structure Ticket where
  resv : Nat
  take : Nat
  free : Nat
  lg : Nat
  zero : Bool
  commit : Nat
  deriving DecidableEq, Repr

/-- A descriptor from its 64 bytes. -/
def Ticket.ofBytes (b : List Byte) : Ticket where
  resv := Sys2Proof.ofBytes (b.take 8)
  take := Sys2Proof.ofBytes ((b.drop 8).take 8)
  free := Sys2Proof.ofBytes ((b.drop 16).take 4)
  lg := Sys2Proof.ofBytes ((b.drop 20).take 1)
  zero := Sys2Proof.ofBytes ((b.drop 21).take 11) = 0
  commit := Sys2Proof.ofBytes ((b.drop 32).take 32)

/-- The 64 bytes of a descriptor. -/
def Ticket.toBytes (t : Ticket) : List Byte :=
  Sys2Proof.toBytes 8 (t.resv % 2 ^ 64) ++ Sys2Proof.toBytes 8 (t.take % 2 ^ 64) ++ Sys2Proof.toBytes 4 t.free ++
    Sys2Proof.toBytes 1 t.lg ++ Sys2Proof.toBytes 11 0 ++ Sys2Proof.toBytes 32 t.commit

/-- lg outside 1–8, or reserved bytes not zero (R321). -/
def Ticket.malformed (t : Ticket) : Bool := !(t.zero && decide (1 ≤ t.lg) && decide (t.lg ≤ 8))

/-- A bit of the commit bitmap. -/
def Ticket.committed (t : Ticket) (n : Nat) : Bool := t.commit / 2 ^ n % 2 = 1

/-- Reserve (R147). -/
def Ticket.reserve (t : Ticket) : Ticket × Option Nat :=
  if t.free = 0 then (t, none) else ({ t with resv := t.resv + 1, free := t.free - 1 }, some (t.resv % 2 ^ t.lg))

/-- Post (R147). -/
def Ticket.post (t : Ticket) (slot : Nat) : Ticket :=
  let n := slot % 2 ^ t.lg
  if t.committed n then t else { t with commit := t.commit + 2 ^ n }

/-- Take (R147). -/
def Ticket.takeSlot (t : Ticket) : Ticket × Option Nat :=
  let n := t.take % 2 ^ t.lg
  if t.committed n then ({ t with commit := t.commit - 2 ^ n, take := t.take + 1 }, some n) else (t, none)

/-- Free (R147, R321): it saturates at the number of slots. -/
def Ticket.release (t : Ticket) : Ticket := { t with free := min (t.free + 1) (2 ^ t.lg) }

/-- A ticket operation on a descriptor: what it becomes, and the slot number returned (R321). -/
def Ticket.operate (t : Ticket) (op : Nat) (v : Word) : Ticket × Option Nat :=
  match op with
  | 0 => t.reserve
  | 1 => (t.post v.toNat, some v.toNat)
  | 2 => t.takeSlot
  | _ => (t.release, some v.toNat)

/-- All ones, or a slot number (R321). -/
def slotWord (n : Option Nat) : Word := match n with | some n => BitVec.ofNat 64 n | none => 0xFFFFFFFFFFFFFFFF#64

/-- A ticket operation fails at its home: a fault before the next bundle, or a discard. It takes its line order and makes its
record, all ones where it would have returned a slot number (R321, R334; assumption log, 41). -/
def State.ticketError (s : State) (c : Nat) (a : Access) (returns : Bool) (d : Nat) : State :=
  let s := (s.takeOrder c a (if returns then some (slotWord none) else none)).finish c a
  if returns then
    (s.tellUnbacked c a d).modCtx c fun x => { x with doom := x.doom ++ [(0x14, d, a.slot, a.va)], ticketWait := x.ticketWait.filter (· != a.id) }
  else s.discard c a d

/-- A ticket operation has its result: it takes its order and makes its record, and the result is on its way (R122,
R321). -/
def State.ticketOver (s : State) (c : Nat) (a : Access) (op dest : Nat) (v : Word) (r : Option Nat) : State :=
  let returns := op = 0 || op = 2
  let s := (s.takeOrder c a (some (if returns then slotWord r else v))).finish c a
  if returns then s.modCtx c fun x => { x with ticketDone := x.ticketDone ++ [(a.id, dest, slotWord r)] } else s

/-- TICKET_OP_PERFORMS (R147, R321): one indivisible operation on the descriptor. -/
def execTicketOpPerforms (c id : Nat) (s : State) : Host.Outcome State Fault Refusal :=
  match s.performable c id with
  | none => .next s
  | some a =>
    match a.kind with
    | .ticket op v dest =>
      let s := s.leave c a
      if s.accessOverlaps c a then
        let t := s.refuseOverlap c a
        .next (t.modCtx c fun x => { x with ticketWait := x.ticketWait.filter (· != a.id) })
      else
        match s.homeError a.pa with
        | some d => .next (s.ticketError c a (op = 0 || op = 2) d)
        | none =>
          let d := s.homeRead c a 0 64 true
          let t := Ticket.ofBytes d.1
          let s := d.2
          if t.malformed then
            let s := s.modQuarter (homeQuarter a.pa) fun q => { q with malformed := q.malformed + 1 }
            .next (s.ticketOver c a op dest v none)
          else
            let r := t.operate op v
            let s := if r.1 = t then s.markDirty (s.ctx c).launch a.va.toNat a.pa
              else (s.homeStore c a 0 r.1.toBytes).noteWrite (s.ctx c).tenant a.pa 64 c a.cls
            .next (s.ticketOver c a op dest v r.2)
    | _ => .next s

/-- TICKET_RESULT_RETURN (R321): the slot number is written, with an empty mask. -/
def execTicketResultReturn (c : Nat) (s : State) : Host.Outcome State Fault Refusal :=
  let x := s.ctx c
  match x.ticketDone with
  | [] => .next s
  | (id, d, v) :: l =>
    .next (s.setCtx c { x with ticketDone := l, ticketWait := x.ticketWait.filter (· != id)
                               r := x.r.setS (BitVec.ofNat 5 d) v 0#9 })

/-! ## Barriers (R242, R243, R300) -/

/-- A replayed arrival's generation is current and its position is reached (R124, R334). -/
def arrivalTurn (a : Access) (b : Barrier) : Bool :=
  match a.rcd with
  | some r => match r.order with
    | some n => r.gen = b.gen && n = b.count
    | none => true
  | none => true

/-- Instances whose arrivals are one core's own (R242). -/
def coreLocal (id : Nat) : Bool := decide (id < 16)

/-- An arrival registers at its instance; a context's own arrival, not its engine's, is the one that its `barw` waits
for (R242, R243, R300). -/
def State.arrive (s : State) (c key id need scope : Nat) (own : Bool) : State :=
  let b : Barrier := fget {} s.ms.barriers key
  let total := if b.count = 0 then need else b.need
  let fin' := decide (total ≤ b.count + 1)
  let next : Barrier := if fin' then { gen := b.gen + 1, count := 0, need := 0, stamp := s.tick }
    else { b with count := b.count + 1, need := total }
  let s := s.modMs fun m => { m with barriers := fput m.barriers key next }
  s.modCtx c fun x =>
    let old : BarRecord := fget {} x.bars id
    let counts := if coreLocal id && !fin' then (if old.cgen = b.gen then old.counts else []) ++ [total] else []
    let r := if own then { old with arrived := true, gen := b.gen, scope := scope, complete := false } else old
    { x with bars := fput x.bars id { r with counts := counts, cgen := b.gen } }

/-- BARRIER_ARRIVAL (R77, R242, R300). -/
def execBarrierArrival (c id : Nat) (s : State) : Host.Outcome State Fault Refusal :=
  let x := s.ctx c
  match x.access id with
  | none => .next s
  | some a =>
    match a.kind with
    | .arrive n need scope =>
      let key := barrierKey x.launch (coreOf c) n
      let b : Barrier := fget {} s.ms.barriers key
      if x.mayPerform a && arrivalTurn a b && s.recordReady c a.rcd then
        let t := (s.arrive c key n need scope (a.slot != 3)).performed c a.rcd b.count (BitVec.ofNat 64 b.gen)
        .next (t.finish c a)
      else .next s
    | _ => .next s

end Sys2Proof.Machine
end

