-- ==== Sys2Proof/Machine/Determinism.lean ====
section
/-!
DEFINITION. Deterministic mode and the Manifest's own events (R14, R15, R21, R109–R112, R117–R125): page walks,
interval closes with their batches and digests, the head word, and the replay timeout.
-/

namespace Sys2Proof.Machine

/-- The contexts of a launch, by number. -/
def State.contextsIn (s : State) (l : Nat) : List Nat :=
  (s.ctxs.filter fun e => e.2.st != .free && e.2.launch = l).map (·.1)

/-! ## Walks (R14, R15, R21) -/

/-- A context waits for a walk: of an access, or of a line to fetch (R21, R64). -/
def Ctx.awaitsWalk (x : Ctx) : Bool := x.iss.cause = some .walk || x.iss.cause = some .fetch

/-- Contexts of a Quarter that wait for a walk: those that asked for its page (R21). -/
def State.walkWaiters (s : State) (quarter : Nat) (w : Walk) : List Nat :=
  (s.ctxs.filter fun e => quarterOf (coreOf e.1) = quarter && e.2.tenant = w.tenant && e.2.asked == some w.page && e.2.awaitsWalk).map
    (·.1)

/-- An engine's command waits for the walk of a page (R21). -/
def DrayCmd.awaits (c : DrayCmd) (w : Walk) : Bool := c.tenant = w.tenant && c.asked == some w.page

/-- Change the commands of a Quarter's drays that wait for a walk. -/
def State.modAwaiting (s : State) (quarter : Nat) (w : Walk) (f : DrayCmd → DrayCmd) : State :=
  { s with cores := s.cores.map fun (e : Nat × CoreState) =>
      if quarterOf e.1 = quarter then
        (e.1, { e.2 with drays := e.2.drays.map fun (d : Nat × Dray) =>
          (d.1, { d.2 with running := d.2.running.map fun c => if c.awaits w then f c else c }) })
      else e }

/-- The cores of a Quarter a dray of which waits for a walk: their L1 TLBs are filled; a collective engine has none
(R20). -/
def State.walkCores (s : State) (quarter : Nat) (w : Walk) : List Nat :=
  (s.cores.filter fun e => quarterOf e.1 = quarter &&
    e.2.drays.any fun d => d.2.running.any fun c => c.awaits w && c.kind != 2).map (·.1)

/-- The outcome of a walk reaches those that wait (R21, R27, R28). -/
def State.walkFailed (s : State) (quarter : Nat) (w : Walk) (code reason : Nat) : State :=
  ((s.walkWaiters quarter w).foldl (fun s c => s.modCtx c fun x =>
    { x with asked := none, walkFail := (w.page, code, reason) :: x.walkFail, iss := { x.iss with cause := none } }) s).modAwaiting quarter w
    fun c => { c with asked := none, walkFail := (w.page, code, reason) :: c.walkFail }

/-- A translation fills the TLBs of the Quarter and of the cores that wait (R15, R20). -/
def State.walkFilled (s : State) (quarter : Nat) (w : Walk) (e : Tlb) (entry : Nat) : State :=
  let dirty := w.write && e.perms.getLsbD 3
  let e := { e with dirty := e.dirty || dirty }
  let waiting := s.walkWaiters quarter w
  let cores := waiting.map coreOf ++ s.walkCores quarter w
  let s := (s.markLeaf entry dirty).modQuarter quarter fun q => { q with tlb := tlbFill q.tlb Config.llTlbEntries e }
  let s := cores.foldl (fun s n => s.modCore n fun k => { k with tlb := tlbFill k.tlb Config.l1TlbEntries e }) s
  (waiting.foldl (fun s c => s.modCtx c fun x =>
    { x with asked := none, iss := { x.iss with cause := x.iss.cause.filter (· != .walk) } }) s).modAwaiting quarter w fun c => { c with asked := none }

/-- WALK_COMPLETE (R14, R15, R18, R21): one of the 64 walks that the Quarter's walker runs ends. -/
def execWalkComplete (quarter tenant page : Nat) (s : State) : Host.Outcome State Fault Refusal :=
  let q := s.quarter quarter
  match (q.walks.take Config.walkLimit).find? fun w => w.tenant = tenant && w.page = page with
  | none => .next s
  | some w =>
    let t := s.modQuarter quarter fun q => { q with walks := q.walks.filter (· != w) }
    match s.walk tenant (page * 0x10000) with
    | .ok e entry => .next (t.walkFilled quarter w e entry)
    | .fault r => .next (t.walkFailed quarter w 3 r)
    | .violation => .next (t.walkFailed quarter w 4 0)

/-! ## The page hash tree (R117) -/

/-- One level of the tree from the level below. -/
def hashLevel : List (BitVec 256) → List (BitVec 256)
  | a :: b :: l => shake256 (0x01#8 :: (toBytes 32 a.toNat ++ toBytes 32 b.toNat)) :: hashLevel l
  | l => l

/-- The levels of the tree from the leaves upward. -/
def hashLevels : (fuel : Nat) → List (BitVec 256) → List (List (BitVec 256))
  | 0, l => [l]
  | n + 1, l => if l.length ≤ 1 then [l] else l :: hashLevels n (hashLevel l)

/-- The single entry of the top level; 32 zero bytes with no pages. -/
def hashRoot (l : List (BitVec 256)) : BitVec 256 := (((hashLevels l.length l).getLast?.getD []).head?).getD 0#256

/-- Insert in ascending order. -/
def insertNat (n : Nat) : List Nat → List Nat
  | [] => [n]
  | m :: l => if n ≤ m then n :: m :: l else m :: insertNat n l

/-- The written pages of a launch that are digested, ascending, with their leaves. -/
def State.leaves (s : State) (l : Nat) : List (Nat × BitVec 256) :=
  let x := s.launch l
  ((x.dirty.foldl (fun acc p => insertNat p acc) []).filterMap fun p =>
    match s.walk x.tenant (p * 0x10000) with
    | .ok e _ =>
      let pa := e.pa (p * 0x10000)
      match region pa with
      | .hbm | .cxl _ => some (p * 0x10000, shake256 (0x00#8 :: (toBytes 8 (p * 0x10000) ++ mread s.mem pa 0x10000)))
      | _ => none
    | _ => none)

/-! ## Interval close (R110–R112, R117, R123, R124) -/

/-- A batched operation: its launch, whose number is its place in the admission order, its context, its team and its
access. -/
abbrev BatchOp := (Nat × Nat) × Nat × Access

/-- The context of a batched operation. -/
def opCtx (o : BatchOp) : Nat := o.1.2

/-- The batch order: launch admission order, team, then program order (R110). -/
def batchBefore (a b : BatchOp) : Bool :=
  decide (a.1.1 < b.1.1) || (a.1.1 = b.1.1 && (decide (a.2.1 < b.2.1) || (a.2.1 = b.2.1 && decide (a.2.2.id < b.2.2.id))))

/-- Insert in batch order. -/
def insertBatch (a : BatchOp) : List BatchOp → List BatchOp
  | [] => [a]
  | b :: l => if batchBefore a b then a :: b :: l else b :: insertBatch a l

/-- The batched operations of a launch up to an interval. -/
def State.batchOf (s : State) (l n : Nat) : List BatchOp :=
  (s.contextsIn l).flatMap fun c =>
    let x := s.ctx c
    (x.accesses.filter fun a => a.inBatch && (match a.interval with | some i => decide (i ≤ n) | none => false)).map
      fun a => ((l, c), x.team, a)

/-- The batched operations of launches whose intervals close together, in batch order (R110). -/
def State.batch (s : State) (ls : List Nat) : List BatchOp :=
  (ls.flatMap fun l => s.batchOf l (s.launch l).closed).foldl (fun acc a => insertBatch a acc) []

/-- Batched operations that can reach their homes before the close do (R110). -/
def State.gatherBatch (s : State) (l n : Nat) : State :=
  (s.contextsIn l).foldl (fun s c =>
    (s.ctx c).accesses.foldl (fun s a =>
      match a.interval, (s.ctx c).access a.id with
      | some i, some b =>
        if decide (i ≤ n) && !b.inBatch && b.kind.isAtomic && (s.ctx c).mayPerform b then s.joinBatch c b i else s
      | _, _ => s) s) s

/-- Elements of a batched row that an interval's batch holds: those from `applied` on, and with a split only the first
`early` of them (R112). -/
def Access.batchElems (a : Access) : Nat :=
  if a.applied = 0 && 0 < a.early then a.early else a.operationsLeft

/-- This batch holds the last operations of the access. -/
def Access.lastBatch (a : Access) : Bool := decide (a.operations ≤ a.applied + a.batchElems)

/-- One operation of a batch: whose it is, its naturally aligned address and its size, its code and its operand (R110). -/
structure BatchElem where
  op : BatchOp
  addr : Nat
  size : Nat
  aop : Nat
  v : Nat

/-- The operations of an access that this close applies: of a row only the elements that this batch holds (R110, R112). -/
def batchElemsOf (o : BatchOp) : List BatchElem :=
  let a := o.2.2
  match a.kind with
  | .row aop et d =>
    let w := rowElemSize et
    ((List.range a.batchElems).map (· + a.applied)).map fun i =>
      { op := o, addr := a.pa + w * i, size := w, aop := aop, v := d.toNat / 2 ^ (8 * w * i) % 2 ^ (8 * w) }
  | .atomic aop n v _ => [{ op := o, addr := a.pa, size := n, aop := aop, v := v.toNat }]
  | _ => []

/-- The batches among operations: the addresses and sizes that they name (R110). -/
def batchKeys (l : List BatchElem) : List (Nat × Nat) := (l.map fun e => (e.addr, e.size)).dedup

/-- A batched operation on a line that is bad: it is discarded, or returns poison, and of memory that is not there firmware is
told (R57, R59, R341). -/
def State.batchFails (s : State) (o : BatchOp) : State :=
  let c := opCtx o
  let a := o.2.2
  match s.homeError a.pa with
  | some d => if a.kind.tagged then (s.tellUnbacked c a d).deliver c a fun e => { e with poison := d } else s.discard c a d
  | none => s

/-- The operations of one batch at their turns, from the value that stands there: each that returns takes the value before its
own (R110). -/
def State.batchTurns (s : State) (n : Nat) : (v : Nat) → List BatchElem → Nat × State
  | v, [] => (v, s)
  | v, e :: l =>
    let a := e.op.2.2
    let t := if a.kind.tagged then s.deliver (opCtx e.op) a fun q => { q with data := entryData (toBytes n v) } else s
    t.batchTurns n (atomicNew e.aop n v e.v) l

/-- One batch is applied: its operations act on what stood in memory before the close, and one write leaves the result.
Bytes that it shares with accesses or batches of another size, whose bytes written so far are given, are a free choice among
their earlier values and those written (R82, R110, R111). -/
def State.applyBatch (before : Memory) (l : List BatchElem) (x : State × List (Nat × Byte)) (key : Nat × Nat) :
    State × List (Nat × Byte) :=
  let s := x.1
  let ops := l.filter fun e => e.addr = key.1 && e.size = key.2
  let noted := ops.flatMap (fun e => e.op.2.2.mixed) ++ s.sentOver none key.1 key.2 key.2
  let rivals := s.rivals none key.1 key.2 key.2 true
  let others (a : Nat) : List Byte := (x.2.filter fun e => e.1 = a).map (·.2) ++ mixBytes noted rivals a
  let stood (a : Nat) : Byte := match s.ms.hostBatch with
    | some b => ((b.2.find? fun e => e.1 = a).map (·.2)).getD (mget before a)
    | none => mget before a
  let old := (List.range key.2).map fun i => pickByte (s.fresh + i) (stood (key.1 + i)) (others (key.1 + i))
  let r := s.batchTurns key.2 (ofBytes old) ops
  let new := toBytes key.2 r.1
  let left := new.zipIdx.map fun e =>
    let a := key.1 + e.2
    pickByte (s.fresh + key.2 + e.2) e.1 (if (others a).isEmpty then [] else mget before a :: others a)
  let t := { r.2 with mem := mwrite r.2.mem key.1 left, fresh := s.fresh + 2 * key.2 }
  (t.noteMixed s.mem rivals key.1 key.2 key.2, x.2 ++ new.zipIdx.map fun e => (key.1 + e.2, e.1))

/-- The batches of a close are applied, each independently of the others (R110). -/
def State.applyBatches (s : State) (ops : List BatchOp) : State :=
  let good := ops.filter fun o => (s.homeError o.2.2.pa).isNone
  let l := good.flatMap batchElemsOf
  ((batchKeys l).foldl (fun x key => State.applyBatch s.mem l x key) (ops.foldl State.batchFails s, [])).1

/-- The bytes of the host window that the batches of a close read in one step and write in another, since no AtomicOp carries
them (R60). -/
def State.hostBytes (s : State) (ops : List BatchOp) : List Nat :=
  ((ops.flatMap batchElemsOf).filter fun e =>
    region e.addr = .host && !(s.pf.hostAtomics && e.aop = 0 && decide (e.size ≤ 8))).flatMap fun e => (List.range e.size).map (e.addr + ·)

/-- Those that the close of a launch's interval has still to read. -/
def State.hostUnread (s : State) (l : Nat) (ops : List BatchOp) : List Nat :=
  (s.hostBytes ops).filter fun a => match s.ms.hostBatch with
    | some b => !(b.1 = l && b.2.any fun e => e.1 = a)
    | none => true

/-- They are read (R60). -/
def State.readHost (s : State) (l : Nat) (addrs : List Nat) : State :=
  let had : List (Nat × Byte) := match s.ms.hostBatch with | some b => if b.1 = l then b.2 else [] | none => []
  s.modMs fun m => { m with hostBatch := some (l, had ++ addrs.map fun a => (a, mget s.mem a)) }

/-- Watchpoints that a batched operation matches: its batch is one write of its own bytes, `before` being memory as it
stood (R110, R354). -/
def State.batchHits (s : State) (tenant : Nat) (a : Access) (before : Memory) : List Nat :=
  let after := mwrite before a.pa (mread s.mem a.pa a.size)
  [0, 1, 2, 3].filter fun i =>
    (fget {} (s.quarter (homeQuarter a.pa)).watch i : Watchpoint).hit tenant a.pa a.size before after

/-- The line order of a batched operation of interval n passes, and its record is written (R122). -/
def State.batchRecord (s : State) (l c n : Nat) (a : Access) : State :=
  match a.rcd with
  | some r =>
    let k := orderKey l a.pa
    (s.modMs fun m => { m with lineOrders := fput m.lineOrders k (fget 0 m.lineOrders k + 1) }).performed c a.rcd n r.value
  | none => s

/-- The rest of an operation's performing, once the batch stands in memory: `before` is memory as it was. A row whose
last elements wait for the next interval's batch stays (R55, R110, R112, R122, R354). DESIGN CHOICE (log entry 23): its one
record is made with its last batch, and holds that batch's interval. -/
def State.overBatched (s : State) (before : Memory) (n : Nat) (o : BatchOp) : State :=
  let c := opCtx o
  let a := o.2.2
  let x := s.ctx c
  let bad := (s.homeError a.pa).isSome
  let s := s.leave c a
  let s := if bad then s
    else ((s.batchHits x.tenant a before).foldl (fun s i => s.reportMatch (.access c a.slot a.va) i) s).markDirty x.launch a.va.toNat a.pa
  if a.lastBatch || bad then
    let s := (s.batchRecord x.launch c n a).finish c a
    if bad && !a.kind.tagged then s else s.accessDone c a
  else
    s.modCtx c fun y => { y with lsu := modAccess a.id (fun b =>
      { b with applied := a.applied + a.batchElems, interval := b.interval.map (· + 1) }) y.lsu }

/-- The INTERVAL record of a context that made batched adds in the interval (R122, R123). -/
def State.intervalRecord (s : State) (c n count : Nat) : State :=
  if s.recording c && decide (0 < count) then
    let x := s.ctx c
    let r : Rec := { index := x.man.next, type := 0x0B, slot := 0, sub := 0, bundles := x.bundles, place := 0#64, value := 0#64 }
    let s := s.modCtx c fun x => { x with man := { x.man with next := x.man.next + 1, unwritten := x.man.unwritten ++ [r.index] } }
    (s.writeRecord c r n (BitVec.ofNat 64 count)).ringWarning c
  else s

/-- A context of a replay holds interval n open (R124). -/
def State.holdsInterval (s : State) (c n : Nat) : Bool :=
  !(s.ctx c).isDone && (s.ctx c).man.holds (fun i => readBytes (s.readRecord c i)) n

/-- The Manifest of a team that is on no context: its table entry's before its first installation, and after that the one
in its latest image (R134, R188). -/
def State.absentManifest (s : State) (l t : Nat) : Option Manifest :=
  match ((s.launch l).team t).st with
  | .waiting => some (s.manifestOf (s.launch l) t)
  | .saved => ((s.pf.images.filter fun i => i.ctx.launch = l && i.ctx.team = t).getLast?.filter fun i => !i.ctx.isDone).map
      fun i => i.ctx.man
  | _ => none

/-- A team of a replay that is on no context holds interval n open (R124). -/
def State.absentHolds (s : State) (l n : Nat) : Bool :=
  (List.range (s.launch l).count).any fun t => (s.absentManifest l t).any fun m =>
    m.holds (fun i => readBytes (s.readWith (s.launch l).tenant ringNeed (m.slotVa i).toNat 32)) n

/-- The tick at which the present interval of a launch ends (R109). -/
def Launch.closeTick (x : Launch) : Nat := x.t0.getD 0 + (x.closed + 1) * 2 ^ x.ie

/-- The next interval of a launch has come to its close: at its end by the clock, or in replay when every team has passed
its records (R110, R124). -/
def State.closeDue (s : State) (l : Nat) : Bool :=
  let x := s.launch l
  x.t0.isSome && x.det && !x.ended &&
    if x.replay then ((s.contextsIn l).all fun c => !s.holdsInterval c x.closed) && !s.absentHolds l x.closed
    else decide (x.closeTick ≤ s.tick)

/-- Launches whose intervals the clock has brought to their close. -/
def State.clockedCloses (s : State) : List Nat :=
  (s.launches.map (·.1)).dedup.filter fun l => !(s.launch l).replay && s.closeDue l

/-- The next interval of a launch may close: none that the clock closes earlier is still open (R110). -/
def State.closable (s : State) (l : Nat) : Bool :=
  s.closeDue l && ((s.launch l).replay || s.clockedCloses.all fun k => decide ((s.launch l).closeTick ≤ (s.launch k).closeTick))

/-- The launches whose intervals close together with that of a launch, in admission order: one batch (R110). -/
def State.closesWith (s : State) (l : Nat) : List Nat :=
  if (s.launch l).replay then [l] else s.clockedCloses.filter fun k => (s.launch k).closeTick = (s.launch l).closeTick

/-- The records, the digest and the count of a launch's close, once the batch stands in memory (R117, R122, R123). -/
def State.closeOf (s : State) (ops : List BatchOp) (l : Nat) : State :=
  let n := (s.launch l).closed
  let s := (s.contextsIn l).foldl (fun s c =>
    s.intervalRecord c n ((ops.filter fun o => opCtx o = c).foldl (fun k o => k + o.2.2.batchElems) 0)) s
  let root := hashRoot ((s.leaves l).map (·.2))
  s.modLaunch l fun x => { x with closed := x.closed + 1, roots := x.roots ++ [root] }

/-- The records of a close can be written (R21, R123). -/
def State.closeReady (s : State) (ls : List Nat) (ops : List BatchOp) : Bool :=
  ops.all (fun o => s.recordReady (opCtx o) o.2.2.rcd) &&
    (ls.flatMap s.contextsIn).all fun c => !s.recording c || s.slotReady c (s.ctx c).man.next

/-- INTERVAL_CLOSE (R60, R110, R117, R123): batches that the host window holds are read first, and the close follows in a
later step. -/
def execIntervalClose (launch : Nat) (s : State) : Host.Outcome State Fault Refusal :=
  if !s.closable launch then .next s
  else
    let ls := s.closesWith launch
    let t := ls.foldl (fun s l => s.gatherBatch l (s.launch l).closed) s
    let before := t.mem
    let ops := t.batch ls
    if !t.closeReady ls ops then .next s
    else
      match t.hostUnread launch ops with
      | a :: l => if t.ms.hostBatch.isNone && t.hostHeld none a then .next s else .next (t.readHost launch (a :: l))
      | [] =>
        let t := (t.applyBatches ops).modMs fun m => { m with hostBatch := none }
        let t := ops.foldl (fun s o => s.overBatched before (s.launch o.1.1).closed o) t
        .next (ls.foldl (fun s l => s.closeOf ops l) t)

/-! ## The head word and the replay timeout (R123, R125) -/

/-- MANIFEST_HEAD_WRITE (R123): the lowest index not yet written. -/
def execManifestHeadWrite (c : Nat) (s : State) : Host.Outcome State Fault Refusal :=
  let x := s.ctx c
  let n := x.man.lowest
  if s.recording c && decide (x.man.published < n) && x.st != .free && s.mayTranslate (coreOf c) x.tenant x.man.ctl ringNeed then
    match s.translateNow (coreOf c) x.tenant x.man.ctl ringNeed with
    | (.ok pa _, s) =>
      .next ((s.ringWrite c pa x.man.ctl (toBytes 8 n)).modCtx c fun x => { x with man := { x.man with published := n } })
    | (.fault code reason, s) =>
      .next ((s.modCtx c fun x => { x with man := { x.man with
        published := n, err := some { code := code, detail := reason, addr := x.man.ctl } } }).notice 4 c code x.man.ctl.toNat)
    | (.miss, s) => .next s
  else .next s

/-- Held longer than the replay timeout (R125). -/
def State.heldTooLong (s : State) (since : Option Nat) : Bool :=
  match since with
  | some t => decide (t + s.pf.replayTimeout < s.tick)
  | none => false

/-- The `xcoll`s that a context has issued. -/
def State.xcolls (s : State) (c : Nat) : List DrayCmd :=
  (s.core (coreOf c)).drays.flatMap fun d => (d.2.running.toList ++ d.2.shadow.toList).filter fun y => y.owner = c && y.kind = 2

/-- The oldest operation of a replaying context that has been held too long, by its record index (R125). -/
def State.overdue (s : State) (c : Nat) : Option Nat :=
  if s.replaying c then
    let l := (((s.ctx c).accesses.filter fun a => s.heldTooLong a.heldSince).filterMap fun a => a.rcd.map (·.index)) ++
      (((s.xcolls c).filter fun y => s.heldTooLong y.heldSince).filterMap fun y => y.rcd.map (·.index))
    match l with
    | [] => none
    | i :: l => some (l.foldl min i)
  else none

/-- A replayed `xcoll` whose group has not reached its recorded sequence is held from now on (R124, R125). -/
def State.markColl (s : State) (c : Nat) (y : DrayCmd) : DrayCmd :=
  let waits := match y.rcd.bind (·.order), ffind s.pf.groups (field y.desc 0 4) with
    | some n, some g => n != g.done
    | _, _ => false
  if y.heldFor c && y.started && !y.bad && waits && y.heldSince.isNone then { y with heldSince := some s.tick } else y

/-- So for each of a context's commands. -/
def State.markColls (s : State) (c : Nat) : State :=
  s.modCore (coreOf c) fun k =>
    { k with drays := k.drays.map fun (d : Nat × Dray) => (d.1, { d.2 with running := d.2.running.map (s.markColl c) }) }

/-- Replayed operations that wait for their number are held from now on (R124, R125). -/
def State.markHolds (s : State) : State :=
  s.ctxs.foldl (fun s e =>
    if s.replaying e.1 then
      ((s.ctx e.1).accesses.foldl (fun s a =>
        let x := s.ctx e.1
        let waits := match a.kind with
          | .arrive n _ _ => !arrivalTurn a (fget {} s.ms.barriers (barrierKey x.launch (coreOf e.1) n))
          | _ => a.inBatch || !s.lineTurn x.launch a
        if a.rcd.isSome && waits && (a.inBatch || x.mayPerform a) then s.markHeld e.1 a.id else s) s).markColls e.1
    else s) s

/-- REPLAY_TIMEOUT (R125): divergence with reason 6 at the next bundle boundary, of a context whose core has failed once it has
moved; what is held is withdrawn. -/
def execReplayTimeout (c : Nat) (s : State) : Host.Outcome State Fault Refusal :=
  match s.overdue c with
  | some i =>
    if (s.ctx c).st = .resident || (s.ctx c).st = .saving || (s.ctx c).st = .held then
      .next ((s.withdraw c).stopWith c (faultWord 0x0C 6 0) (BitVec.ofNat 64 i) 0 (s.ctx c).skip)
    else if (s.ctx c).st = .frozen then
      .next ((s.withdraw c).modCtx c fun x => { x with doom := (0x0C, 6, 0, BitVec.ofNat 64 i) :: x.doom })
    else .next s
  | none => .next s

end Sys2Proof.Machine
end

