-- ==== Sys2Proof/Machine/MatrixEvents.lean ====
section
/-!
DEFINITION. The matrix engine's events (R277, R279, R287–R296, R299, R300, R352, R357): each is enabled in the
core cycle that the rules fix and changes nothing in another.
-/

namespace Sys2Proof.Machine

/-! ## Choosing among contexts (R168) -/

/-- Priority class of a context (R134). -/
def State.classOf (s : State) (c : Nat) : Nat := (s.launch (s.ctx c).launch).prio

/-- Cycles until a context's next phase comes round (R168). -/
def State.gapOf (s : State) (c : Nat) : Nat := ((s.ctx c).iss.nextPhase % 32 + 32 - s.phase c) % 32

/-- One context stands before another in the selector's order: class, gap, last issue, number (R168). -/
def State.selectedBefore (s : State) (a b : Nat) : Bool :=
  let last (c : Nat) : Nat := match (s.ctx c).iss.lastIssue with | some n => n + 1 | none => 0
  if s.classOf a != s.classOf b then decide (s.classOf b < s.classOf a)
  else if s.gapOf a != s.gapOf b then decide (s.gapOf a < s.gapOf b)
  else if last a != last b then decide (last a < last b)
  else decide (a < b)

/-- The selector's choice from a list (R168). -/
def State.selectFrom (s : State) (l : List Nat) : Option Nat :=
  l.foldl (fun acc c => match acc with
    | none => some c
    | some b => if s.selectedBefore c b then some c else some b) none

/-- The contexts of a core. -/
def contextsOf (core : Nat) : List Nat := [core * 4, core * 4 + 1, core * 4 + 2, core * 4 + 3]

/-! ## The lease -/

/-- Contexts that wait for the lease of a core. -/
def State.leaseWaiters (s : State) (core : Nat) : List Nat :=
  (contextsOf core).filter fun c => (s.ctx c).st = .resident && (s.ctx c).iss.cause = some .lease

/-- LEASE_GRANT (R277): a free and scrubbed lease goes to a waiting context in the selector's order. -/
def execLeaseGrant (core : Nat) (s : State) : Host.Outcome State Fault Refusal :=
  let k := s.core core
  if k.lease.isNone && decide (k.scrubEnd ≤ s.cycle) && !k.frozen then
    match s.selectFrom (s.leaseWaiters core) with
    | some c => .next ((s.setCore core { k with lease := some c }).modCtx c fun x => { x with iss := { x.iss with cause := none } })
    | none => .next s
  else .next s

/-- LEASE_SCRUB_DONE (R277): the 96 cycles are over. -/
def execLeaseScrubDone (core : Nat) (s : State) : Host.Outcome State Fault Refusal :=
  let k := s.core core
  if k.scrubEnd != 0 && decide (k.scrubEnd ≤ s.cycle) then .next (s.setCore core { k with scrubEnd := 0 }) else .next s

/-! ## Starts -/

/-- The first command of a core that has not started. -/
def CoreState.nextCmd (k : CoreState) : Option MCmd := k.cmds.find? fun m => m.start.isNone

/-- The engine is free, the lease's scrub is done, and the scales are present (R287, R293). -/
def State.engineFree (s : State) (core : Nat) (m : MCmd) : Bool :=
  let k := s.core core
  s.engineRuns core && decide (k.scrubEnd ≤ s.cycle) && decide (m.issue ≤ k.et) && decide (m.need ≤ k.scales.length) &&
    k.cmds.all fun o => match o.start with | some t => decide (t + o.occ ≤ k.et) && o.taken | none => true

/-- The shares of a ganged command, with their cores (R299). -/
def State.shares (s : State) (core id : Nat) : List (Nat × MCmd) :=
  ((List.range 9).map (· + plazaOf core * 9)).flatMap fun n =>
    ((s.core n).cmds.filter fun m => m.lead = some (core, id)).map fun m => (n, m)

/-- The part of a command that starts now on its own core. -/
def State.ownPart (s : State) (core : Nat) : Part :=
  let k := s.core core
  { core := core, pos := 0, first := 0, et := k.et, rowsEnd := k.rowsEnd }

/-- The part of a share whose lead starts now, behind what waits on its own core (R293, R299). -/
def State.sharePart (s : State) (x : Nat × MCmd) : Part :=
  let k := s.core x.1
  let a := s.ahead k [] (k.cmds.filter fun y => decide (y.id < x.2.id)) { free := k.et, rowsEnd := k.rowsEnd }
  { core := x.1, pos := x.2.pos, first := 0, et := k.et, rowsEnd := a.rowsEnd }

/-- The parts that start when a command that is no share starts now, each with its command's number (R299). -/
def State.startParts (s : State) (core : Nat) (m : MCmd) : List (Part × Nat) :=
  (s.ownPart core, m.id) :: (s.shares core m.id).map fun x => (s.sharePart x, x.2.id)

/-- Those of the parts that ramp from level 0. -/
def startsFrom0 (l : List (Part × Nat)) : List (Part × Nat) := l.filter fun x => x.1.level 0 = 0

/-- The command can start in this cycle: a ramp from level 0 begins in its slot, or in a cycle that the Plaza's limit leaves
free (R293, R299, R357). -/
def State.startable (s : State) (core : Nat) (m : MCmd) : Bool :=
  let k := s.core core
  s.engineFree core m &&
    match m.kind with
    | .mmul f _ _ _ =>
      !k.fillPending true f.lt m.id &&
        (match m.lead with
          | some _ =>
            m.startAt != 0 && decide (m.startAt ≤ s.cycle + m.g) && (k.levelAt k.et != 0 || s.rampMay core m.id s.cycle)
          | none =>
            !s.feedPending k m f.bb && ((k.levelAt k.et != 0 && !m.gangs) || decide (m.earliest ≤ k.et)) &&
              (startsFrom0 (s.startParts core m)).all fun x => s.rampMay x.1.core x.2 (s.cycle + x.1.begins 0))
    | _ => true

/-- An `mmul` starts after g cycles of filler rows and ramp, with its operands as they stand (R291, R299, R357). -/
def State.startMmul (s : State) (core : Nat) (m : MCmd) (f : MmulFields) (g : Nat) : State :=
  let k := s.core core
  let level := k.levelAt k.et
  let start := k.et + g
  let b : BBuf := fget {} (s.core (m.feed.getD core)).bbuf (if f.bb then 1 else 0)
  let lat : Latch := fget {} k.lat (if f.lt then 1 else 0)
  s.modCore core fun k =>
    let k := k.modCmd m.id fun x =>
      { x with start := some start, startAt := s.cycle + g, g := g, ramp := rampAdds level, lat := lat
               buf := { b with k := m.buf.k, n := m.buf.n } }
    { k with rampFrom := start - rampAdds level, rampLevel := level, rowsEnd := start + m.occ }

/-- A command starts: a gang's lead fixes g and the start of every share (R291, R293, R299, R357). -/
def State.startCmd (s : State) (core : Nat) (m : MCmd) : State :=
  let k := s.core core
  match m.kind with
  | .mmul f _ _ _ =>
    match m.lead with
    | some _ =>
      let level := k.levelAt k.et
      let s := if level = 0 then s.reserveRamp { at' := s.cycle, core := core, cmd := m.id } else s
      s.startMmul core m f (max (m.startAt - s.cycle) (rampAdds level))
    | none =>
      let parts := s.startParts core m
      let g := partsG (parts.map (·.1)) 0
      let s := (startsFrom0 parts).foldl (fun s x =>
        s.reserveRamp { at' := s.cycle + x.1.begins 0, core := x.1.core, cmd := x.2 }) s
      parts.tail.foldl (fun s x => s.modCore x.1.core fun k => k.modCmd x.2 fun y =>
        { y with startAt := s.cycle + g + 32 * y.pos, g := g, earliest := k.et + 32 * y.pos }) (s.startMmul core m f g)
  | _ => s.modCore core fun k => k.modCmd m.id fun x => { x with start := some k.et, startAt := s.cycle }

/-- A started command that has yet to take its scales at its start (R287). -/
def CoreState.scaleTaker (k : CoreState) : Option MCmd :=
  k.cmds.find? fun m => (match m.start with | some t => decide (t ≤ k.et) | none => false) && !m.taken

/-- MATRIX_COMMAND_START (R293): the next command starts, or one whose ramp is over takes its scales. -/
def execMatrixCommandStart (core : Nat) (s : State) : Host.Outcome State Fault Refusal :=
  let k := s.core core
  match k.scaleTaker with
  | some m =>
    .next (s.setCore core { k.modCmd m.id (fun x => { x with scales := k.scales.take m.need }) with scales := k.scales.drop m.need })
  | none =>
    match k.nextCmd with
    | some m => if s.startable core m then .next (s.startCmd core m) else .next s
    | none => .next s

/-- SLEW_STEP (R357): the engine's level becomes that of the present step. -/
def execSlewStep (core : Nat) (s : State) : Host.Outcome State Fault Refusal :=
  let k := s.core core
  if s.engineRuns core && k.level != k.levelAt k.et then .next (s.setCore core { k with level := k.levelAt k.et }) else .next s

/-! ## Rows -/

/-- Row i of an A operand: none for padding (R289). -/
def Latch.row (l : Latch) (i fmt n : Nat) : Option (List Nat) :=
  match fget (.bytes []) l.rows i with
  | .padding => none
  | .bytes b => some (elemList (fmtWidth fmt) (ofBytes b) n)

/-- The columns of a B operand with their scales (R290). -/
def BBuf.columns (b : BBuf) (fmt : Nat) (scaled : Bool) : List (List Nat × List Nat) :=
  (List.range b.n).map fun j =>
    (elemList (fmtWidth fmt) (ofBytes (fget [] b.cols j)) b.k,
     if scaled then (((fget [] b.scales j).map BitVec.toNat) ++ List.replicate (blocksOf b.k) 0).take (blocksOf b.k) else [])

/-- The arithmetic of a command (R281, R285). -/
def mctxOf (f : MmulFields) (entry : BitVec 64) (fmt : BitVec 32) : MCtx :=
  let o := opFields f.opx.toNat entry
  { pair := (o.pair (fmtA fmt) (fmtC fmt)).getD .bits, op := o, af := fmtA fmt, bf := fmtB fmt, cf := fmtC fmt }

/-- MMUL_ROW_WRITE (R291, R294): row i is read and written at start + 20 + i. A share or command with a poisoned
operand writes zeros and marks the row (R181, R330). -/
def execMmulRowWrite (core id : Nat) (s : State) : Host.Outcome State Fault Refusal :=
  let k := s.core core
  match k.cmd id with
  | none => .next s
  | some m =>
    match m.kind, m.start with
    | .mmul f entry fmt _, some t =>
      if s.engineRuns core && decide (t + 20 + m.done ≤ k.et) && decide (m.done < m.occ) then
        let row := m.accbase + f.row.toNat + m.done
        let init := f.mode = 1#2
        let x := mctxOf f entry fmt
        let nb := blocksOf m.buf.k
        let sa := if fmtAs fmt then ((m.scales.drop (m.done * nb)).take nb).map BitVec.toNat else []
        let bad := m.lat.poisoned || m.buf.poisoned || (match m.badFrom with | some n => decide (n ≤ m.done) | none => false)
        let r := if bad then (0#4096, 0#7)
          else mRow x init (x.op.start x.pair x.cf) (m.lat.row m.done x.af m.buf.k) (m.buf.columns x.bf (fmtBs fmt)) sa (k.accRead row)
        let k := k.accWrite id row r.1 (if bad then some true else if init then some false else none)
        .next (s.setCore core (k.modCmd id fun y => { y with done := y.done + 1, flags := y.flags ||| r.2 }))
      else .next s
    | _, _ => .next s

/-- All 128 columns of a row hold one pattern (R292). -/
def fillRow (v : BitVec 32) : BitVec 4096 := rowOf (List.replicate 128 v.toNat)

/-- MZERO_ROW_WRITE (R292, R294). -/
def execMzeroRowWrite (core id : Nat) (s : State) : Host.Outcome State Fault Refusal :=
  let k := s.core core
  match k.cmd id with
  | none => .next s
  | some m =>
    match m.kind, m.start with
    | .mzero row n v, some t =>
      if s.engineRuns core && decide (t + 2 + m.done ≤ k.et) && decide (m.done < n) then
        let k := k.accWrite id (m.accbase + row + m.done) (fillRow v) (some false)
        .next (s.setCore core (k.modCmd id fun y => { y with done := y.done + 1 }))
      else .next s
    | _, _ => .next s

/-- Bytes written to a core's scratchpad by its engine port, with poison cleared where units are covered
(R181). -/
def CoreState.engineWrite (k : CoreState) (a : Nat) (bytes : List Byte) : CoreState :=
  { k with scratch := mwrite k.scratch a bytes, spPoison := clearUnits k.spPoison a bytes.length }

/-- MDRAIN_ROW (R294, R295): row i is read, converted and written at start + 4 + i; with clr the row is written
with zeros in the cycle after. -/
def execMdrainRow (core id : Nat) (s : State) : Host.Outcome State Fault Refusal :=
  let k := s.core core
  match k.cmd id with
  | none => .next s
  | some m =>
    match m.kind, m.start with
    | .mdrain row n addr ofmt clr rm, some t =>
      if !s.engineRuns core then .next s
      else if clr && decide (m.cleared < m.done) && decide (t + 5 + m.cleared ≤ k.et) then
        let k := k.accWrite id (m.accbase + row + m.cleared) 0#4096 none
        .next (s.setCore core (k.modCmd id fun y => { y with cleared := y.cleared + 1 }))
      else if decide (m.done < n) && decide (t + 4 + m.done ≤ k.et) then
        let r := drainRow ofmt rm (k.accRead (m.accbase + row + m.done)) 128
        let k := k.engineWrite (addr + m.done * drainBytes ofmt) (toBytes (drainBytes ofmt) r.1)
        .next (s.setCore core (k.modCmd id fun y => { y with done := y.done + 1, flags := y.flags ||| r.2 }))
      else .next s
    | _, _ => .next s

/-- The κ in which a delayed `mdrainb` lands: the first from due + d with its bay in the write window
(R167). -/
def drainLanding (m : MCmd) (bay start : Nat) : Nat :=
  let due := m.issueK + 8 + (start - m.issue)
  (List.range 32).map (· + due) |>.find? (fun c => writeWindow 3 bay (m.phase + (c - m.issueK))) |>.getD due

/-- MDRAINB_READ (R294, R296): the row is read at start + 1 and converted as `mdrain` does it; the landing of its first
1024 bits is a pending effect of the issuer. -/
def execMdrainbRead (core id : Nat) (s : State) : Host.Outcome State Fault Refusal :=
  let k := s.core core
  match k.cmd id with
  | none => .next s
  | some m =>
    match m.kind, m.start with
    | .mdrainb row bay ofmt rm, some t =>
      if s.engineRuns core && decide (t + 1 ≤ k.et) && m.done = 0 then
        let r := drainRow ofmt rm (k.accRead (m.accbase + row)) 128
        let x := s.ctx m.owner
        let p : Pending := { due := drainLanding m bay t, slot := 3, seq := x.seq, bundle := m.bundle,
                             act := .land bay (BitVec.ofNat 1024 r.1) allBits 0#9 false }
        let s := s.setCtx m.owner { x with pend := x.pend ++ [p], seq := x.seq + 1 }
        .next (s.setCore core (k.modCmd id fun y =>
          { y with done := 1, flags := y.flags ||| r.2, landSeq := some x.seq }))
      else .next s
    | _, _ => .next s

/-! ## Fills -/

/-- A unit's oldest fill, of the named latch or buffer, has read its last row (R289, R290). -/
def State.fillReady (s : State) (core : Nat) (latch which : Bool) : Option Fill :=
  let k := s.core core
  match oldestFill (k.fills latch).1 (k.fills latch).2 with
  | some (w, f) => if w = which && f.rows.isEmpty && s.fillMayBegin k f latch which && !k.frozen then some f else none
  | none => none

/-- PORTER_GATHER_FILL (R289): the latch's rows arrive. A poisoned unit among them poisons the latch. -/
def execPorterGatherFill (core : Nat) (lt : Bool) (s : State) : Host.Outcome State Fault Refusal :=
  match s.fillReady core true lt with
  | none => .next s
  | some f =>
    let k := s.core core
    let n := if lt then 1 else 0
    let bytes := fmtRowBytes f.fmt
    let rows := (f.idx.foldl (fun (acc : FMap LatchRow × Nat) r =>
      (fput acc.1 acc.2 (match r with | none => .padding | some i => .bytes (mread k.scratch (f.base + 128 * i) bytes)), acc.2 + 1))
      ((fget {} k.lat n : Latch).rows, 0)).1
    let l : Latch := fget {} k.lat n
    let bad := (gatherRanges f.base bytes f.idx).any fun r => k.spPoisoned r.1 r.2
    .next (s.setCore core ({ k with lat := fput k.lat n { l with rows := rows, poisoned := bad } }.setFill true lt none))

/-- WEIGHT_LOAD_FILL (R290): the buffer's columns arrive, and with bs its scales. -/
def execWeightLoadFill (core : Nat) (bb : Bool) (s : State) : Host.Outcome State Fault Refusal :=
  match s.fillReady core false bb with
  | none => .next s
  | some f =>
    let k := s.core core
    let n := if bb then 1 else 0
    let b : BBuf := fget {} k.bbuf n
    let stride := columnStride f.fmt f.k
    let nb := blocksOf f.k
    let cols := (List.range f.n).foldl (fun m j => fput m j (mread k.scratch (f.base + j * stride) (columnBytes f.fmt f.k))) b.cols
    let scales := if f.scaled then
        (List.range f.n).foldl (fun m j => fput m j (mread k.scratch (f.base + f.n * stride + j * nb) nb)) b.scales
      else b.scales
    let bad := (weightRanges f.base f.fmt f.k f.n f.scaled).any fun r => k.spPoisoned r.1 r.2
    .next (s.setCore core ({ k with bbuf := fput k.bbuf n { b with cols := cols, scales := scales, poisoned := bad } }.setFill false bb none))

/-! ## Completion -/

/-- A command's last row is written, and its landing has landed (R291–R297). -/
def State.cmdOver (s : State) (m : MCmd) : Bool :=
  match m.kind with
  | .mmul _ _ _ _ => decide (m.occ ≤ m.done)
  | .mzero _ n _ => decide (n ≤ m.done)
  | .mdrain _ n _ _ clr _ => decide (n ≤ m.done) && (!clr || decide (n ≤ m.cleared))
  | .mdrainb _ _ _ _ =>
    match m.landSeq with
    | some q => !(s.ctx m.owner).pend.any fun p => p.seq = q
    | none => false

/-- The payload of an MCLASS record: its class 4 holds what has been charged to its bundle since that last reported (R352;
assumption log, 28). -/
def mclassPayload (classes : FMap Nat) (idle : Nat) : BitVec 128 :=
  let n (c : Nat) : Nat := min (fget 0 classes c + if c = 4 then idle else 0) (2 ^ 24 - 1)
  BitVec.ofNat 128 (n 0 + n 1 * 2 ^ 24 + n 2 * 2 ^ 48 + n 3 * 2 ^ 72 + n 4 * 2 ^ 96)

/-- The engine's arrival at a completion barrier: an arrival of slot 3 in the owner's load-store unit, which
waits for nothing there (R300). -/
def State.engineArrives (s : State) (m : MCmd) (id : Nat) : State :=
  s.modCtx m.owner fun x =>
    { x with lsu := x.lsu ++ [.access { id := x.seq, slot := 3, cls := 0, kind := .arrive id 2 0, va := 0, pa := 0, rcd := m.rcd,
                                         issueTick := s.tick, issueCycle := s.cycle, bundle := m.bundle }]
             seq := x.seq + 1 }

/-- MATRIX_COMMAND_COMPLETE (R176, R291, R300, R352): flags to `xrec.m` at the command's bundle, the MCLASS record
and the arrival at the completion barrier. -/
def execMatrixCommandComplete (core id : Nat) (s : State) : Host.Outcome State Fault Refusal :=
  let k := s.core core
  match k.cmd id with
  | none => .next s
  | some m =>
    if !s.cmdOver m || k.frozen then .next s
    else
      let s := s.record m.owner 3 m.bundle m.flags
      let s := s.trace core 7 3 (m.owner % 4) m.bundle (mclassPayload m.classes (fget 0 k.idleAt m.bundle.toNat))
      let s := s.setCore core { k with cmds := k.cmds.filter (fun x => x.id != id), idleAt := fdel k.idleAt m.bundle.toNat, lastBundle := some m.bundle }
      match m.kind with
      | .mmul f _ _ _ => .next (if f.cbar = 0#6 then s else s.engineArrives m f.cbar.toNat)
      | _ => .next s

end Sys2Proof.Machine
end

