-- ==== Sys2Proof/Machine/Dray.lean ====
section
/-!
DEFINITION. Drays (R28, R33, R34, R55, R57, R78, R79, R116, R177, R178, R303, R316–R318, R320): locators, the issue
of commands, their lines, completion, failure and cancellation.
-/

namespace Sys2Proof.Machine

/-! ## Locators (R34) -/

/-- Kind of a locator: 0 global virtual, 1 scratchpad, 2 Depot staging, 3 reserved. -/
def locKind (w : Word) : Nat := (w.extractLsb' 62 2).toNat

/-- Address field of a locator. -/
def locAddr (w : Word) : Nat := (w.extractLsb' 0 62).toNat

/-- A locator of kind 3, or with a bit set that must be zero (R34). -/
def locBad (w : Word) : Bool :=
  match locKind w with
  | 0 => decide (2 ^ 55 ≤ locAddr w)
  | 1 => decide (2 ^ 22 ≤ locAddr w)
  | 2 => decide (2 ^ 29 ≤ locAddr w)
  | _ => true

/-- A range in the space of a locator's kind; rows may carry it outside the space (R318). -/
structure Span where
  kind : Nat
  addr : Int
  size : Nat
  deriving DecidableEq, Repr

/-! ## Commands -/

/-- A command's dray engine code for spans (R114). -/
def drayEngine (d : Nat) : Nat := 2 + d

/-- A dray of a core. -/
def CoreState.dray (k : CoreState) (d : Nat) : Dray := fget {} k.drays d

/-- Change a dray. -/
def State.modDray (s : State) (core d : Nat) (f : Dray → Dray) : State :=
  s.modCore core fun k => { k with drays := fput k.drays d (f (k.dray d)) }

/-- Change the running command of a dray. -/
def State.modRunning (s : State) (core d : Nat) (f : DrayCmd → DrayCmd) : State :=
  s.modDray core d fun x => { x with running := x.running.map f }

/-- Bytes of a row's next line: as far as the end of the destination's 256-byte line (R317). -/
def DrayCmd.lineSize (c : DrayCmd) : Nat :=
  let a : Int := (locAddr c.dst : Int) + c.atRow * c.dstride + c.atOff
  min (256 - (a % 256).toNat) (c.rowlen - c.atOff)

/-- Source and destination of the next line (R317, R318). -/
def DrayCmd.lineSrc (c : DrayCmd) : Span :=
  { kind := locKind c.src, addr := (locAddr c.src : Int) + c.atRow * c.sstride + c.atOff, size := c.lineSize }
def DrayCmd.lineDst (c : DrayCmd) : Span :=
  { kind := locKind c.dst, addr := (locAddr c.dst : Int) + c.atRow * c.dstride + c.atOff, size := c.lineSize }

/-- The place after the next line. -/
def DrayCmd.advance (c : DrayCmd) : DrayCmd :=
  let c := { c with got := [], unitsDone := [], held := [], mixed := [], chosen := false }
  if c.rowlen ≤ c.atOff + c.lineSize then { c with atRow := c.atRow + 1, atOff := 0 } else { c with atOff := c.atOff + c.lineSize }

/-- Every line has moved. -/
def DrayCmd.moved (c : DrayCmd) : Bool := decide (c.rows ≤ c.atRow)

/-- Scratchpad banks that a span touches. -/
def Span.banks (p : Span) : List Nat := if p.kind = 1 && decide (0 ≤ p.addr) then rangeBanks p.addr.toNat p.size else []

/-! ## Descriptor rows (R78, R185, R319) -/

/-- The scratchpad as a command's descriptor read at issue + 3 finds it, so far as the context's own accesses go:
those that have issued act first (R43, R78). -/
def State.scratchAhead (s : State) (c : Nat) : Memory :=
  (s.ctx c).pend.foldl (fun m p => match p.act with
    | .spWrite parts => parts.foldl (fun m x => mwrite m x.1 x.2) m
    | _ => m) (s.core (coreOf c)).scratch

/-- A command's descriptor row: as read, or as its owner's accesses will have left it at issue + 3 (R78). -/
def State.rowAhead (s : State) (c : DrayCmd) : List Byte := if c.started then c.desc else mread (s.scratchAhead c.owner) c.row 64

/-- The fields of a collective's descriptor row. -/
structure Coll where
  group : Nat
  op : Nat
  type : Nat
  red : Nat
  flags : Nat
  count : Nat
  src : Word
  dst : Word
  rank : Nat
  size : Nat
  zero : Bool
  deriving DecidableEq, Repr

/-- A descriptor row. -/
def collOf (b : List Byte) : Coll where
  group := field b 0 4
  op := field b 4 1
  type := field b 5 1
  red := field b 6 1
  flags := field b 7 1
  count := field b 8 8
  src := BitVec.ofNat 64 (field b 16 8)
  dst := BitVec.ofNat 64 (field b 24 8)
  rank := field b 32 4
  size := field b 36 4
  zero := field b 40 24 = 0

/-- Bytes of an element. -/
def Coll.elemSize (x : Coll) : Nat := match x.type with | 1 => 2 | 3 => 8 | _ => 4

/-- The operation reduces. -/
def Coll.reduces (x : Coll) : Bool := decide (x.op ≤ 1)

/-- The descriptor is malformed, or its group is not bound to this rank of the tenant (R319). -/
def State.collBad (s : State) (tenant : Nat) (x : Coll) : Bool :=
  decide (3 < x.op) || decide (3 < x.type) || (x.reduces && decide (2 < x.red)) || decide (32 ≤ x.flags) ||
    decide (6 ≤ x.flags / 4) || x.count = 0 || !x.zero || decide (x.size < 2) || decide (4096 < x.size) ||
    decide (x.size ≤ x.rank) || (x.op = 1 && x.count % x.size != 0) ||
    [x.src, x.dst].any (fun w => locBad w || locKind w = 1) ||
    match ffind s.pf.groups x.group with
    | some g => !g.members.contains (x.rank, tenant)
    | none => true

/-- Change a group. -/
def State.modGroup (s : State) (g : Nat) (f : Group → Group) : State :=
  s.modPf fun p => match ffind p.groups g with
    | some x => { p with groups := fput p.groups g (f x) }
    | none => p

/-- The members' ranks of a group, but for one. -/
def Group.others (g : Group) (rank : Option Nat) : List Nat := (g.members.map (·.1)).filter fun r => !(some r == rank)

/-- An abort beat reaches a group: the operation under way ends, and those of ranks named are to complete with COLLABORT (R185). -/
def State.abortGroup (s : State) (group : Nat) (ranks : Group → List Nat) : State :=
  s.modGroup group fun g =>
    { g with done := g.done + 1, aborts := g.aborts ++ ranks g, run := g.run.filter fun r => r.stopped }

/-- A collective command that ends early tells its group, started or not, unless it is malformed: one that has started ends with
the others (R185, R320). -/
def State.leaveGroup (s : State) (c : DrayCmd) : State :=
  let x := collOf (s.rowAhead c)
  if c.kind = 2 && !s.collBad c.tenant x then
    s.abortGroup x.group fun g => (if c.started then [x.rank] else []) ++ g.others (some x.rank)
  else s

/-! ## Issue (R316–R319) -/

/-- A command without its descriptor. -/
def State.newDray (s : State) (slot kind : Nat) (tk scope : BitVec 3) (rel acq : Bool) (u : Mask) : DrayCmd :=
  let c := s.me
  { owner := s.cur, launch := c.launch, team := c.team, tenant := c.tenant, token := tk.toNat, slot := slot, kind := kind,
    issueK := c.iss.kappa, issueSeq := c.seq, acq := acq, rel := rel, scope := scope.toNat,
    deps := (c.dependence (u ||| s.ctaint)).1
    spanR := fget 0#48 s.rd.spanR (drayEngine (slot - 4)), spanW := fget 0#48 s.rd.spanW (drayEngine (slot - 4)) }

/-- A command enters its dray: it runs at once if nothing does, else it takes the shadow place (R316). -/
def State.enterDray (s : State) (c : DrayCmd) : State :=
  let s := s.busy c.token (c.slot - 3) c.rel c.scope
  s.modDray (coreOf s.cur) (c.slot - 4) fun d => if d.running.isNone then { d with running := some c } else { d with shadow := some c }

/-- The shadow place of a slot's dray is full, or the dray accepts nothing (R40, R316). -/
def State.drayFull (s : State) (c : CSlot) : Bool :=
  let d := s.myCore.dray (cslot c - 4)
  d.frozen || (d.running.isSome && d.shadow.isSome)

/-- The tokens of engine commands are always 0–7 (R316). -/
def token4 (tk : BitVec 3) : BitVec 4 := tk.zeroExtend 4

/-- `xcp` is well formed: locators, alignment, length and flags (R317). -/
def xcpBad (src dst len flags : Word) : Bool :=
  locBad src || locBad dst || locAddr src % 16 != 0 || locAddr dst % 16 != 0 || len.extractLsb' 32 32 != 0#32 ||
    len.toNat % 16 != 0 || flags.extractLsb' 1 63 != 0#63 || (flags.getLsbD 0 && src != 0#64)

/-- `xcp` (R317). -/
def execXcp (c : CSlot) (tk scope : BitVec 3) (rel acq : Bool) (base : BitVec 5) (s : State) : Host.Outcome State Fault Refusal :=
  gated (cslot c) ((staticGate (.xcp c tk scope rel acq base)).and (waitIf .shadow (s.drayFull c))) (fun s =>
    s.orFault (cslot c) (s.tokenFault (token4 tk)) fun s =>
      let r (i : Nat) : Word := s.rd.sreg (base + BitVec.ofNat 5 i)
      let t (i : Nat) : Mask := s.rd.staint (base + BitVec.ofNat 5 i)
      let bad := xcpBad (r 0) (r 1) (r 2) (r 3)
      s.enterDray { s.newDray (cslot c) 0 tk scope rel acq (t 0 ||| t 1 ||| t 2 ||| t 3) with
        src := r 0, dst := r 1, len := r 2, flags := r 3, rowlen := (r 2).toNat, rows := if (r 2) = 0#64 then 0 else 1
        zero := (r 3).getLsbD 0, bad := bad }) s

/-- Checks 2, 4 and 5 of R303 on a descriptor row (R316). -/
def State.rowFault (s : State) (tk : BitVec 3) (addr : Word) : Option SFault :=
  firstFault (s.tokenFault (token4 tk)) (firstFault (alignFault addr 64) (s.bankFault addr 64))

/-- `xcp2` (R318). -/
def execXcp2 (c : CSlot) (tk scope : BitVec 3) (rel acq : Bool) (base : BitVec 5) (s : State) : Host.Outcome State Fault Refusal :=
  gated (cslot c) ((staticGate (.xcp2 c tk scope rel acq base)).and (waitIf .shadow (s.drayFull c))) (fun s =>
    let a := s.rd.sreg base
    s.orFault (cslot c) (s.rowFault tk a) fun s =>
      s.enterDray { s.newDray (cslot c) 1 tk scope rel acq (s.rd.staint base) with row := a.toNat }) s

/-- `xcoll` (R122, R319): its record names the group and the element count. -/
def execXcoll (c : CSlot) (tk scope : BitVec 3) (rel acq : Bool) (base : BitVec 5) (s : State) : Host.Outcome State Fault Refusal :=
  gated (cslot c) (((staticGate (.xcoll c tk scope rel acq base)).and (waitIf .shadow (s.drayFull c))).and
      (s.recordGate true)) (fun s =>
    let a := s.rd.sreg base
    s.orFault (cslot c) (s.rowFault tk a) fun s =>
      let b := mread (s.scratchAhead s.cur) a.toNat 64
      s.withRecord 7 (cslot c) 0 false (BitVec.ofNat 64 (field b 0 4)) (BitVec.ofNat 64 (field b 8 8)) fun r s =>
        s.enterDray { s.newDray (cslot c) 2 tk scope rel acq (s.rd.staint base) with row := a.toNat, rcd := r }) s

/-! ## Ends of a command -/

/-- The shadow command becomes the running one (R316). -/
def State.promote (s : State) (core d : Nat) : State :=
  s.modDray core d fun x => { x with running := x.shadow, shadow := none }

/-- The running command of a dray is over: its token is done or in error (R177). -/
def State.endRunning (s : State) (core d : Nat) (c : DrayCmd) (e : DrayEnd) : State :=
  (match e with
    | .done status => s.tokenDone c.owner c.token status
    | .error f => s.tokenError c.owner c.token f).promote core d

/-- The running command of a dray stops: at once where nothing of it has acted, and otherwise between two lines, once those of
its lines have moved that a free choice takes (R28, R178). One that is stopping already goes on so. -/
def State.stopRunning (s : State) (core d : Nat) (c : DrayCmd) (e : DrayEnd) : State :=
  if c.ending.isSome then s
  else if !c.started || c.bad then s.endRunning core d c e
  else s.modRunning core d fun x => { x with ending := some e }

/-- A dray is frozen: its shadow command is cancelled, and the issuing context and its launch are told (R40). -/
def State.freezeDray (s : State) (core d : Nat) (c : DrayCmd) (addr : Word) : State :=
  let s := match (s.core core).dray d |>.shadow with
    | some x => (s.leaveGroup x).tokenDone x.owner x.token 2
    | none => s
  let s := s.modDray core d fun x => { x with shadow := none, frozen := true, blame := c.launch }
  let s := s.modCtx c.owner fun x => { x with reports := { code := 4, engid := d, addr := addr } :: x.reports }
  ((s.audit 2 c.tenant d [addr]).notice 2 c.owner 4 addr.toNat).modLaunch c.launch fun l => { l with killing := true, violated := true }

/-- The running command fails: it stops, its token will complete in error with the engine's record, and a violation freezes the
dray (R28, R34, R40). -/
def State.failDray (s : State) (core d : Nat) (e : EngineFault) : State :=
  match (s.core core).dray d |>.running with
  | none => s
  | some c =>
    if c.ending.isSome then s
    else (if e.code = 4 then s.freezeDray core d c e.addr else s).stopRunning core d c (.error e)

/-! ## Pieces of lines (R28, R31, R33, R45, R48, R57, R59, R81–R83, R116) -/

/-- A staging range is granted to a tenant: within one block of the slice's staging portion (R33). -/
def State.granted (s : State) (tenant : Nat) (p : Span) : Bool :=
  let a := p.addr.toNat
  let off := a % 2 ^ 21
  decide (0 ≤ p.addr) && decide (a < 2 ^ 29) && decide (off + p.size ≤ 0x1C0000) &&
    [off / 0x10000, (off + p.size - 1) / 0x10000].all fun b =>
      ownerOf (fget 0x1F#8 s.ms.grants (a / 2 ^ 21 * 28 + b)) = some tenant

/-- An address as an engine-fault record holds it. -/
def Span.word (p : Span) : Word := BitVec.ofInt 64 p.addr

/-- Who acts: the core and the dray that holds the command, the engine identifier, the issuing context, launch and
tenant, the command's place in program order, its sets, and the refusals of walks that it waited for. -/
structure Engine where
  core : Nat
  dray : Nat
  engid : Nat
  owner : Nat
  launch : Nat
  tenant : Nat
  cmd : Nat
  spanR : BitVec 48
  spanW : BitVec 48
  failed : List (Nat × Nat × Nat)
  deriving DecidableEq, Repr

/-- A dray's command as it acts. -/
def DrayCmd.engine (c : DrayCmd) (core d : Nat) : Engine :=
  { core := core, dray := d, engid := d, owner := c.owner, launch := c.launch, tenant := c.tenant, cmd := c.issueSeq,
    spanR := c.spanR, spanW := c.spanW, failed := c.walkFail }

/-- A number that names an engine as a master (R83). -/
def Engine.master (e : Engine) : Nat := 0x10000 + e.core * 4 + e.engid

/-- What an engine's access comes to: done, to be tried again, or failed. -/
inductive Try (α : Type)
  | ok (a : α)
  | wait
  | fail (f : EngineFault)
  deriving DecidableEq, Repr

/-- The fault of a scratchpad piece (R31, R116, R181). -/
def State.pieceFault (s : State) (e : Engine) (p : Span) (write : Bool) : Option (Nat × Nat) :=
  let k := s.core e.core
  let a := p.addr.toNat
  let set := if write then e.spanW else e.spanR
  if decide (p.addr < 0) || decide (scratchSize < a + p.size) || !((rangeBanks a p.size).all fun b => k.owns e.owner b) then some (9, 0)
  else if (s.launch e.launch).det && !((rangeBanks a p.size).all fun b => set.getLsbD b) then some (0x0B, 0)
  else if !write && k.spPoisoned a p.size then some (0x14, 4)
  else none

/-- An engine-fault record. -/
def Engine.fault (e : Engine) (code detail : Nat) (p : Span) : EngineFault :=
  { engid := e.engid, code := code, detail := detail, addr := p.word }

/-- What an engine's TLBs say of a virtual address: its Quarter's alone for a collective engine (R20). -/
def State.engineCheck (s : State) (e : Engine) (va : Word) (n : Need) : Check :=
  if e.engid = 2 then s.checkQuarter (quarterOf e.core) e.tenant e.failed va n else s.check e.core e.tenant e.failed va n

/-- An engine asks for the walk of a page, and its command waits (R21). -/
def State.askEngine (s : State) (e : Engine) (va : Word) (n : Need) : State :=
  (s.askWalkOf (quarterOf e.core) e.tenant va n.wr).modRunning e.core e.dray fun c => { c with asked := some (va.toNat / 0x10000) }

/-- Translate a piece that lies in one line (R20, R21, R26, R28, R59). -/
def State.enginePa (s : State) (e : Engine) (p : Span) (n : Need) : Try Nat × State :=
  if decide (p.addr < 0) || decide ((2 ^ 55 : Int) ≤ p.addr) then (.fail (e.fault 3 1 p), s)
  else
    match s.engineCheck e p.word n with
    | .ok pa _ => if s.backed pa then (.ok pa, s) else (.fail (e.fault 0x14 3 p), s.tellAbsent e.owner pa p.word.toNat)
    | .fault code reason => (.fail (e.fault code reason p), s)
    | .miss => (.wait, s.askEngine e p.word n)

/-- The part of a span that lies in the 256-byte line of an address. -/
def Span.inLine (p : Span) (a : Int) : Span :=
  let lo := max p.addr (a / 256 * 256)
  { p with addr := lo, size := (min (p.addr + p.size) (a / 256 * 256 + 256) - lo).toNat }

/-- The command that an engine acts for. -/
def State.engineCmd (s : State) (e : Engine) : Option DrayCmd := ((s.core e.core).dray e.dray).running

/-- A unit of a source line is read where the line was translated to: its bytes, with those that overlapping accesses of another
size have left or displaced there (R28, R57, R59, R60, R82). -/
def State.readHeld (s : State) (e : Engine) (p : Span) (h : HeldLine) : Try (List Byte) × State :=
  let pa := h.pa + (p.addr % 256).toNat
  if s.hostHeld none pa then (.wait, s)
  else if !s.backed pa then (.fail (e.fault 0x14 3 p), s.tellAbsent e.owner pa p.word.toNat)
  else if s.poisoned pa then (.fail (e.fault 0x14 2 p), s)
  else
    let r := s.rivals none pa p.size h.size false
    let m := ((s.engineCmd e).map (·.mixed)).getD [] ++ s.sentOver none pa p.size h.size
    (.ok (s.mixRead m r pa p.size), s.mixOver m r p.size)

/-- Read a piece of at most a unit. A line of global memory is translated and compared once, when the first of its pieces is
read; `whole` is the command's span (R11, R28, R31, R33, R57, R65, R81–R83). The detail of a poisoned staging unit is the model's
choice (assumption log, 40). -/
def State.readPiece (s : State) (e : Engine) (p whole : Span) : Try (List Byte) × State :=
  match p.kind with
  | 0 =>
    match ((s.engineCmd e).map (·.held)).getD [] |>.find? fun h => (h.line : Int) = p.addr / 256 with
    | some h => s.readHeld e p h
    | none =>
      match s.enginePa e p { rd := true } with
      | (.fail f, s) => (.fail f, s)
      | (.wait, s) => (.wait, s)
      | (.ok pa, s) =>
        let l := whole.inLine p.addr
        let lo := (l.addr % 256).toNat
        let base := pa - (p.addr % 256).toNat
        if s.hostHeld none pa then (.wait, s)
        else if s.overlapFires e.tenant (base + lo) l.size e.master 0 then (.fail (e.fault 0x0D 0 p), s)
        else
          let h : HeldLine := { line := p.addr.toNat / 256, pa := base, lo := lo, size := l.size, since := s.cycle }
          (s.modRunning e.core e.dray fun c => { c with held := c.held ++ [h] }).readHeld e p h
  | 1 =>
    match s.pieceFault e p false with
    | some f => (.fail (e.fault f.1 f.2 p), s)
    | none => (.ok (mread (s.core e.core).scratch p.addr.toNat p.size), s)
  | _ =>
    if !s.granted e.tenant p then (.fail (e.fault 4 0 p), s)
    else if (unitsOf p.addr.toNat p.size).any s.ms.stagingPoison.contains then (.fail (e.fault 0x14 0 p), s)
    else (.ok (mread s.ms.staging p.addr.toNat p.size), s)

/-- Offsets and sizes of the parts of n bytes at an address that lie in one 16-byte unit each (R81). -/
def unitParts (addr : Int) : (n : Nat) → List (Nat × Nat)
  | n =>
    let first := min (16 - (addr % 16).toNat) n
    (if first = 0 then [] else [(0, first)]) ++
      (List.range ((n - first + 15) / 16)).map fun i => (first + 16 * i, min 16 (n - first - 16 * i))

/-- A global write of at most a line is sent towards its home: the near-buffer copy goes as it leaves (R55, R79). -/
def State.send (s : State) (e : Engine) (p : Span) (pa : Nat) (bytes : List Byte) : State :=
  (s.dropNear (quarterOf e.core) pa).modMs fun m =>
    { m with sentSeq := m.sentSeq + 1
             sent := m.sent ++ [{ id := m.sentSeq, core := e.core, engid := e.engid, owner := e.owner, cmd := e.cmd,
                                  launch := e.launch, tenant := e.tenant, va := p.word, pa := pa, size := p.size,
                                  left := (unitParts p.addr p.size).map fun u => (u.1, (bytes.drop u.1).take u.2) }] }

/-- Write a piece of at most a line: in the scratchpad or staging now, to global memory by sending it (R31, R33, R48,
R79). -/
def State.writePiece (s : State) (e : Engine) (p : Span) (bytes : List Byte) : Try Unit × State :=
  match p.kind with
  | 0 =>
    match s.enginePa e p { wr := true } with
    | (.fail f, s) => (.fail f, s)
    | (.wait, s) => (.wait, s)
    | (.ok pa, s) => (.ok (), s.send e p pa bytes)
  | 1 =>
    match s.pieceFault e p true with
    | some f => (.fail (e.fault f.1 f.2 p), s)
    | none => (.ok (), s.modCore e.core fun k => k.engineWrite p.addr.toNat bytes)
  | _ =>
    if !s.granted e.tenant p then (.fail (e.fault 4 0 p), s)
    else
      (.ok (), s.modMs fun m =>
        { m with staging := mwrite m.staging p.addr.toNat bytes, stagingPoison := clearUnits m.stagingPoison p.addr.toNat p.size })

/-! ## Writes on their way (R57, R67, R79, R81, R82, R354) -/

/-- Change a write on its way. -/
def State.modSent (s : State) (id : Nat) (f : Sent → Sent) : State :=
  s.modMs fun m => { m with sent := m.sent.map fun x => if x.id = id then f x else x }

/-- A write that is over is on its way no more. -/
def State.dropSent (s : State) (id : Nat) : State := s.modMs fun m => { m with sent := m.sent.filter fun x => x.id != id }

/-- A part of a write is over: with the last, one to the host or a peer waits for the answer, and any other is over. -/
def State.sentOff (s : State) (x : Sent) (off : Nat) : State :=
  if x.left.length ≤ 1 then
    if farWindow x.pa then s.modSent x.id fun y => { y with left := [], far := true } else s.dropSent x.id
  else s.modSent x.id fun y => { y with left := y.left.filter fun u => u.1 != off }

/-- FarDone of an engine's write: the host link or the peer has answered (R75). -/
def State.sentFar (s : State) (id : Nat) : State :=
  match s.ms.sent.find? fun x => x.id = id with
  | some x => if x.far && x.left.isEmpty then s.dropSent id else s
  | none => s

/-- A write on its way is a command's. -/
def Sent.isOf (x : Sent) (core engid : Nat) (c : DrayCmd) : Bool :=
  x.core = core && x.engid = engid && x.owner = c.owner && x.cmd = c.issueSeq

/-- Every write of a command has performed, at scope 5 its answers included (R79). -/
def State.sentPerformed (s : State) (core engid : Nat) (c : DrayCmd) : Bool :=
  s.ms.sent.all fun x => !x.isOf core engid c || (x.left.isEmpty && decide (c.scope != 5))

/-- A command's writes hold its token no more: with rel set they have performed, and with the mixed-size check on their homes
have compared them, since one that is refused is the command's error (R79, R83; assumption log, 23). -/
def State.sentOver' (s : State) (core engid : Nat) (c : DrayCmd) : Bool :=
  (!c.rel || s.sentPerformed core engid c) &&
    (!s.ms.ovl.contains c.tenant || s.ms.sent.all fun x => !x.isOf core engid c || x.compared)

/-! ## What holds a command (R79, R95, R355) -/

/-- Earlier global accesses of the issuing context that hold a command with acq set, at scope 5 their answers included
(R79). -/
def State.acqHolds (s : State) (c : DrayCmd) : Bool :=
  c.acq && ((s.ctx c.owner).accesses.any (fun a => a.global && decide (a.id < c.issueSeq)) ||
    farHolds (s.ctx c.owner).far c.scope c.issueSeq)

/-- Accesses of the dependence set that have not performed (R95). -/
def State.depHolds (s : State) (c : DrayCmd) : Bool := (s.ctx c.owner).accesses.any fun a => c.deps.contains a.id

/-- A command's first access waits (R79, R95). DESIGN CHOICE (log entry 23): the earlier commands of an `xcoll`'s engine are those
of its dray, which holds it until they have completed. -/
def State.firstHolds (s : State) (c : DrayCmd) : Bool := s.acqHolds c || s.depHolds c

/-- A watchpoint's match of a command that has moved 16 further lines is still to be delivered (R355). -/
def State.watchHolds (s : State) (engid : Nat) (c : DrayCmd) : Bool :=
  (s.ctx c.owner).reports.any fun r => r.code = 0x11 && r.engid = engid && r.cmd = c.issueSeq && decide (16 ≤ r.lines)

/-! ## The engine port (R42, R45) -/

/-- Rows of 128 bytes that a span touches in the scratchpad. -/
def Span.rows (p : Span) : List Nat :=
  if p.kind = 1 && decide (0 ≤ p.addr) && decide (0 < p.size) then
    (List.range ((p.addr.toNat + p.size - 1) / 128 + 1 - p.addr.toNat / 128)).map (· + p.addr.toNat / 128)
  else []

/-- A unit of 16 bytes of a span. -/
def Span.unit (p : Span) (u : Nat) : Span := { p with addr := p.addr + 16 * u, size := 16 }

/-- Every unit of the line has been read, or nothing is. -/
def DrayCmd.lineRead (c : DrayCmd) : Bool := c.zero || decide (c.lineSize / 16 ≤ c.got.length)

/-- Units of the present line that have still to be read, and to be written. -/
def DrayCmd.unread (c : DrayCmd) : List Nat :=
  if c.zero then [] else (List.range (c.lineSize / 16)).filter fun u => (ffind c.got u).isNone
def DrayCmd.unwritten (c : DrayCmd) : List Nat := (List.range (c.lineSize / 16)).filter fun u => !c.unitsDone.contains u

/-- At this line a command that stops has still to choose whether it moves it (R28, R178). -/
def DrayCmd.choosing (c : DrayCmd) : Bool := c.ending.isSome && c.unitsDone.isEmpty && !c.chosen

/-- A dray's command acts on a line now. -/
def State.transfers (s : State) (core d : Nat) (c : DrayCmd) : Bool :=
  c.started && !c.bad && c.kind != 2 && !c.moved && (!((s.core core).dray d).frozen || c.ending.isSome) && !c.choosing &&
    c.asked.isNone && !s.firstHolds c && !s.watchHolds d c

/-- A dray requests the engine port of a bank in this cycle: for its descriptor row, or for a unit of its line (R45). -/
def State.portWants (s : State) (core d bank : Nat) : Bool :=
  ((s.core core).dray d).running.any fun c =>
    if !c.started then
      c.kind != 0 && decide (c.issueK + 3 ≤ (s.ctx c.owner).engineK) && (rangeBanks c.row 64).contains bank
    else
      s.transfers core d c &&
        if c.lineRead then c.unwritten.any fun u => (c.lineDst.unit u).banks.contains bank
        else c.unread.any fun u => (c.lineSrc.unit u).banks.contains bank

/-- The engine port of a row's bank serves a dray in this cycle of its core: no drain, Porter or loader has it, no other row or
dray has had it, and where both drays ask it serves the one that it did not serve last (R42, R45). -/
def State.portServes (s : State) (core d row : Nat) : Bool :=
  let k := s.core core
  let b := bankOf (row * 128)
  let taken := { k with port := [] }
  s.beats core && !((s.setCore core taken).porterUse core).2.contains b &&
    match ffind k.port b with
    | some (t, r, e) => if t = s.cycle then e = d && r = row else !(e = d && s.portWants core (1 - d) b)
    | none => true

/-- A span's rows are served, and none of its banks is being zeroed (R45). -/
def State.spanServed (s : State) (core d : Nat) (p : Span) : Bool :=
  p.rows.all fun r => s.portServes core d r && !s.zeroing core (bankOf (r * 128))

/-- The engine ports serve a dray's span in this cycle. -/
def State.servePort (s : State) (core d : Nat) (p : Span) : State :=
  s.modCore core fun k => { k with port := p.rows.foldl (fun m r => fput m (bankOf (r * 128)) (s.cycle, r, d)) k.port }

/-! ## Lines (R28, R317, R318) -/

/-- The line's bytes as they have been read. -/
def DrayCmd.lineBytes (c : DrayCmd) : List Byte := if c.zero then List.replicate c.lineSize 0#8 else c.got.flatMap (·.2)

/-- A byte of an engine's space as it stands now, as a source or as a destination: none where the engine may not read it so, or
no TLB holds its page (R18, R26, R31, R33, R116, R181). -/
def State.peekByte (s : State) (e : Engine) (kind : Nat) (a : Int) (write : Bool) : Option Byte :=
  let p : Span := { kind := kind, addr := a, size := 1 }
  match kind with
  | 0 =>
    if decide (a < 0) then none
    else match s.engineCheck e p.word { rd := !write, wr := write } with
      | .ok pa _ => if s.backed pa && !s.poisoned pa then some (mget s.mem pa) else none
      | _ => none
  | 1 => if (s.pieceFault e p write).isNone then some (mget (s.core e.core).scratch a.toNat) else none
  | _ => if s.granted e.tenant p && !s.ms.stagingPoison.contains (a.toNat / 16) then some (mget s.ms.staging a.toNat) else none

/-- An address lies in a command's source range. -/
def DrayCmd.inSource (c : DrayCmd) (a : Int) : Bool :=
  (List.range c.rows).any fun r =>
    let lo := (locAddr c.src : Int) + r * c.sstride
    decide (lo ≤ a) && decide (a < lo + c.rowlen)

/-- A byte that a command leaves where its destination overlaps its source: its earlier value, the byte that was read for
it, or any byte of the source range (R317). -/
def State.overlapByte (s : State) (e : Engine) (c : DrayCmd) (seed : Nat) (a : Int) (b : Byte) : Byte :=
  let n := c.rows * c.rowlen
  let k := (Config.freeWord seed).toNat % (n + 2)
  if k = 0 then (s.peekByte e (locKind c.dst) a true).getD b
  else if k = 1 then b
  else (s.peekByte e (locKind c.src) ((locAddr c.src : Int) + ((k - 2) / c.rowlen : Nat) * c.sstride + ((k - 2) % c.rowlen : Nat)) false).getD b

/-- The bytes that a command writes over a piece of its destination: those it has read, but where its source and its
destination overlap (R317). -/
def State.outBytes (s : State) (e : Engine) (c : DrayCmd) (p : Span) (bytes : List Byte) : List Byte :=
  if c.zero || locKind c.src != locKind c.dst then bytes
  else (bytes.zip (List.range bytes.length)).map fun x =>
    if c.inSource (p.addr + x.2) then s.overlapByte e c (s.fresh + x.2) (p.addr + x.2) x.1 else x.1

/-! ## Start (R78, R316) -/

/-- Parse the descriptor row of `xcp2` (R318). -/
def DrayCmd.parse2 (c : DrayCmd) (b : List Byte) : DrayCmd :=
  let w (o : Nat) : Word := BitVec.ofNat 64 (field b o 8)
  let flags := field b 40 2
  let rowlen := field b 16 4
  let rows := field b 20 4
  let zero := flags % 2 = 1
  let bad := locBad (w 0) || locBad (w 8) || locAddr (w 0) % 16 != 0 || locAddr (w 8) % 16 != 0 || rowlen % 16 != 0 ||
    decide (rowlen < 16) || decide (2 ^ 20 < rowlen) || decide (rows < 1) || decide (2 ^ 20 < rows) ||
    (w 24).toNat % 16 != 0 || (w 32).toNat % 16 != 0 || (zero && w 0 != 0#64) || decide (64 ≤ flags) ||
    decide (6 ≤ flags / 8 % 8) || field b 42 22 != 0
  { c with src := w 0, dst := w 8, rowlen := rowlen, rows := rows, sstride := (w 24).toInt, dstride := (w 32).toInt
           zero := zero, bad := bad, acq := c.acq || flags / 2 % 2 = 1, rel := c.rel || flags / 4 % 2 = 1
           scope := max c.scope (flags / 8 % 8), started := true, desc := b }

/-- Scratchpad banks that a command has still to reach: its descriptor row's, the units left of its present line, and what
follows (R309). -/
def State.banksLeft (s : State) (c : DrayCmd) : List Nat :=
  let row := if c.kind != 0 && !c.started then rangeBanks c.row 64 else []
  let c := if c.kind = 1 && !c.started then c.parse2 (s.rowAhead c) else c
  if c.bad || c.kind = 2 || c.moved then row
  else
    let line := (c.unread.flatMap fun u => (c.lineSrc.unit u).banks) ++ c.unwritten.flatMap fun u => (c.lineDst.unit u).banks
    let n := c.advance
    let rows := (List.range (n.rows - n.atRow)).flatMap fun i =>
      let r := n.atRow + i
      let o := if i = 0 then n.atOff else 0
      (if n.zero then [] else
        ({ kind := locKind n.src, addr := (locAddr n.src : Int) + r * n.sstride + o, size := n.rowlen - o } : Span).banks) ++
      ({ kind := locKind n.dst, addr := (locAddr n.dst : Int) + r * n.dstride + o, size := n.rowlen - o } : Span).banks
    row ++ line ++ rows

/-- A command starts: its descriptor row is read, and it may act from now on (R78, R316). -/
def State.startDray (s : State) (core d : Nat) (c : DrayCmd)
    (parse : State → DrayCmd → List Byte → DrayCmd) : State :=
  if c.kind = 0 then s.modRunning core d fun x => { x with started := true }
  else
    let p : Span := { kind := 1, addr := c.row, size := 64 }
    match s.readPiece (c.engine core d) p p with
    | (.fail f, s) => s.failDray core d f
    | (.wait, s) => s
    | (.ok b, s) =>
      let c := parse s c b
      let s := (s.servePort core d p).modRunning core d fun _ => c
      s.modCtx c.owner fun x =>
        let t : Token := fget {} x.tokens c.token
        { x with tokens := fput x.tokens c.token { t with rel := c.rel, scope := c.scope } }

/-! ## Transfers (R28, R317, R318, R355) -/

/-- A unit of a line freely chosen among those left (R81). -/
def State.pickUnit (s : State) (left : List Nat) : Nat := left.getD ((Config.freeWord s.fresh).toNat % left.length) 0

/-- A line has moved: reports that its command's matches have made count it (R355). -/
def State.lineMoved (s : State) (engid : Nat) (c : DrayCmd) : State :=
  s.modCtx c.owner fun x => { x with reports := x.reports.map fun r =>
    if r.code = 0x11 && r.engid = engid && r.cmd = c.issueSeq then { r with lines := r.lines + 1 } else r }

/-- A line cannot be moved: the command stops, and what may still be moved comes after it (R28). -/
def State.lineFails (s : State) (core d : Nat) (f : EngineFault) : State := (s.failDray core d f).modRunning core d DrayCmd.advance

/-- The next unit of a line is read (R67, R81, R317). -/
def State.readUnit (s : State) (core d : Nat) (c : DrayCmd) : State :=
  let u := s.pickUnit c.unread
  let p := c.lineSrc.unit u
  if !s.spanServed core d p then s
  else
    match s.readPiece (c.engine core d) p c.lineSrc with
    | (.ok b, t) => ({ t with fresh := t.fresh + 1 }.servePort core d p).modRunning core d fun x => { x with got := fput x.got u b }
    | (.wait, t) => t
    | (.fail f, t) => t.lineFails core d f

/-- A line to global memory is sent (R79, R317). -/
def State.sendLine (s : State) (core d : Nat) (c : DrayCmd) : State :=
  let e := c.engine core d
  match s.writePiece e c.lineDst (s.outBytes e c c.lineDst c.lineBytes) with
  | (.ok _, t) => ({ t with fresh := t.fresh + c.lineSize }.lineMoved d c).modRunning core d DrayCmd.advance
  | (.wait, t) => t
  | (.fail f, t) => t.lineFails core d f

/-- The next unit of a line is written to the scratchpad or to staging (R67, R81, R317). -/
def State.writeUnit (s : State) (core d : Nat) (c : DrayCmd) : State :=
  let left := c.unwritten
  let u := s.pickUnit left
  let p := c.lineDst.unit u
  let e := c.engine core d
  if !s.spanServed core d p then s
  else
    match s.writePiece e p (s.outBytes e c p ((c.lineBytes.drop (16 * u)).take 16)) with
    | (.ok _, t) =>
      let t := { t with fresh := t.fresh + 17 }.servePort core d p
      if left.length ≤ 1 then (t.lineMoved d c).modRunning core d DrayCmd.advance
      else t.modRunning core d fun x => { x with unitsDone := u :: x.unitsDone }
    | (.wait, t) => t
    | (.fail f, t) => t.lineFails core d f

/-- Of the lines left of a command that stops none is moved. -/
def State.dropLines (s : State) (core d : Nat) : State := s.modRunning core d fun c => { c.advance with atRow := c.rows }

/-- A command that stops comes to a line: it moves the line, passes over it, or is done with its lines, a free choice (R28,
R178). -/
def State.strayLine (s : State) (core d : Nat) : State :=
  let t := { s with fresh := s.fresh + 1 }
  match (Config.freeWord s.fresh).toNat % 3 with
  | 0 => t.dropLines core d
  | 1 => t.modRunning core d DrayCmd.advance
  | _ => t.modRunning core d fun c => { c with chosen := true }

/-- DRAY_LINE_TRANSFER (R28, R45, R79, R81, R178, R317, R318): the next part of the next line, read or written, the choice of a
command that stops, or the failure of a malformed command at its first line. -/
def execDrayLineTransfer (core d : Nat) (s : State) : Host.Outcome State Fault Refusal :=
  let x := (s.core core).dray d
  match x.running with
  | none => .next s
  | some c =>
    if !c.started || (x.frozen && c.ending.isNone) then .next s
    else if c.bad then
      .next (s.failDray core d { engid := if c.kind = 2 then 2 else d, code := 2, detail := 0, addr := if c.kind = 0 then c.src else BitVec.ofNat 64 c.row })
    else if c.kind = 2 || c.moved then .next s
    else if s.firstHolds c || s.watchHolds d c then
      .next (if c.ending.isSome && c.unitsDone.isEmpty then s.dropLines core d else s)
    else if c.choosing then .next (s.strayLine core d)
    else if !c.lineRead then .next (s.readUnit core d c)
    else if locKind c.dst = 0 then .next (s.sendLine core d c)
    else .next (s.writeUnit core d c)

/-- A collective command that stops takes part in no operation any more, and no beat that ends it is still to act. -/
def State.collGone (s : State) (core d : Nat) (c : DrayCmd) : Bool :=
  let x := collOf c.desc
  c.kind = 2 && c.ending.isSome && !s.inRun core d && (ffind s.pf.groups x.group).all fun g => !g.aborts.contains x.rank

/-- A command's token may complete: its lines have moved, and nothing of what it has sent holds it (R79). -/
def State.mayComplete (s : State) (core d : Nat) (c : DrayCmd) : Bool :=
  c.started && !c.bad && ((c.kind != 2 && c.moved && s.sentOver' core d c) || (s.collGone core d c && s.sentOver' core 2 c))

/-- DRAY_COMMAND_COMPLETE (R28, R79, R177, R178, R304, R316). -/
def execDrayCommandComplete (core d : Nat) (s : State) : Host.Outcome State Fault Refusal :=
  let x := (s.core core).dray d
  match x.running with
  | some c =>
    if s.mayComplete core d c && (!x.frozen || c.ending.isSome) then .next (s.endRunning core d c (c.ending.getD (.done 0)))
    else .next s
  | none => .next s

end Sys2Proof.Machine
end

