-- ==== Sys2Proof/Machine/Collective.lean ====
section
/-!
DEFINITION. The collective engines (R40, R113, R122, R124, R185, R319), cancellation (R178, R320) and the thaw of
an engine (R40, R41).
-/

namespace Sys2Proof.Machine

/-- Parse a command's row: `xcp2` or `xcoll`. -/
def parseRow (s : State) (c : DrayCmd) (b : List Byte) : DrayCmd :=
  if c.kind = 1 then c.parse2 b
  else
    let x := collOf b
    { c with started := true, desc := b, bad := s.collBad c.tenant x, acq := c.acq || x.flags % 2 = 1
             rel := c.rel || x.flags / 2 % 2 = 1, scope := max c.scope (x.flags / 4 % 8) }

/-- DRAY_COMMAND_START (R78, R316): the issuer's κ has reached issue + 3, and the engine port serves the descriptor
row. -/
def execDrayCommandStart (core d : Nat) (s : State) : Host.Outcome State Fault Refusal :=
  let x := (s.core core).dray d
  match x.running with
  | some c =>
    if c.started || x.frozen || decide ((s.ctx c.owner).engineK < c.issueK + 3) ||
        (c.kind != 0 && !s.spanServed core d { kind := 1, addr := c.row, size := 64 }) then .next s
    else .next (s.startDray core d c parseRow)
  | none => .next s

/-! ## Participants -/

/-- A participant: core, dray and command. -/
abbrev Part' := Nat × Nat × DrayCmd

/-- The collective commands of the drays, with the group that each names (R319). -/
def State.collCmds (s : State) : List (Part' × Nat × Bool) :=
  s.cores.flatMap fun e => [0, 1].flatMap fun d =>
    let x := e.2.dray d
    let f (runs : Bool) (c : DrayCmd) : Option (Part' × Nat × Bool) :=
      if c.kind = 2 then some ((e.1, d, c), (collOf (s.rowAhead c)).group, runs && c.started && !c.bad && !x.frozen) else none
    (x.running.toList.filterMap (f true)) ++ (x.shadow.toList.filterMap (f false))

/-- The rank that a command gives. -/
def State.rankAhead (s : State) (c : DrayCmd) : Nat := (collOf (s.rowAhead c)).rank

/-- The commands that wait in a group, one of each member: of the commands of a context for a rank of the group the first that it
issued (R319). -/
def State.participants (s : State) (g : Nat) : List Part' :=
  let l := s.collCmds.filter fun p => p.2.1 = g
  (l.filter fun p => p.2.2 && l.all fun q =>
    !(q.1.2.2.owner = p.1.2.2.owner && s.rankAhead q.1.2.2 = s.rankAhead p.1.2.2 &&
      decide (q.1.2.2.issueSeq < p.1.2.2.issueSeq))).map (·.1)

/-- A participant's rank. -/
def rankOf (p : Part') : Nat := (collOf p.2.2.desc).rank

/-- A group's next operation can be made: every rank of this device has issued it, none stops, no engine is frozen, acquires and
dependences are met, and a replayed operation's turn has come and its record can be written (R21, R79, R95, R124, R319). -/
def State.collReady (s : State) (g : Nat) (x : Group) : Bool :=
  let l := s.participants g
  x.run.isNone && decide (x.members.length ≤ l.length) && !x.members.isEmpty && l.all fun p =>
    !(s.quarter (quarterOf p.1)).collFrozen && !s.firstHolds p.2.2 && !x.aborts.contains (rankOf p) && p.2.2.ending.isNone &&
      match p.2.2.rcd.bind (·.order) with
      | some n => n = x.done
      | none => true

/-- The descriptors of an operation do not agree, or a rank is given twice (R319). -/
def mismatched (l : List Part') : Bool :=
  let x (p : Part') : Coll := collOf p.2.2.desc
  match l with
  | [] => false
  | p :: _ =>
    l.any (fun q => (x q).op != (x p).op || (x q).type != (x p).type || ((x p).reduces && (x q).red != (x p).red) ||
      (x q).count != (x p).count || (x q).size != (x p).size) || !(l.map rankOf).Nodup

/-- The engine that acts for a participant: its Quarter's collective engine (R28). -/
def collEngine (p : Part') : Engine := { p.2.2.engine p.1 p.2.1 with engid := 2, spanR := 0, spanW := 0 }

/-! ## Results (R113, R319) -/

/-- A range in pieces of one 256-byte line. -/
def linesOf (kind : Nat) : (fuel : Nat) → (addr size : Nat) → List Span
  | 0, _, _ => []
  | n + 1, a, size =>
    if size = 0 then []
    else
      let k := min (256 - a % 256) size
      { kind := kind, addr := a, size := k } :: linesOf kind n (a + k) (size - k)

/-- The pieces of a locator's range. -/
def locLines (w : Word) (size : Nat) : List Span := linesOf (locKind w) (size / 256 + 2) (locAddr w) size

/-- The parts of a line that perform at moments of their own (R81). -/
def Span.parts (p : Span) : List Span := (unitParts p.addr p.size).map fun u => { p with addr := p.addr + u.1, size := u.2 }

/-- Bytes of a participant's source and of its destination. -/
def Coll.srcBytes (x : Coll) : Nat := x.count * x.elemSize
def Coll.dstBytes (x : Coll) : Nat :=
  x.elemSize * (match x.op with | 1 => x.count / x.size | 2 => x.count * x.size | _ => x.count)

/-- A participant's piece. -/
def partLine (p : Part') (l : Span) : CollLine := { core := p.1, dray := p.2.1, kind := l.kind, addr := l.addr.toNat, size := l.size }

/-- What a piece covers. -/
def CollLine.span (l : CollLine) : Span := { kind := l.kind, addr := l.addr, size := l.size }

/-- The pieces of a participant's source, each of which is read at one moment (R81). -/
def sourcePieces (p : Part') : List CollLine :=
  let x := collOf p.2.2.desc
  (locLines x.src x.srcBytes).flatMap fun l => l.parts.map (partLine p)

/-- The pieces in which a participant's destination is written: lines that are sent to their homes, or units of staging
(R79, R81). -/
def destPieces (p : Part') : List CollLine :=
  let x := collOf p.2.2.desc
  (locLines x.dst x.dstBytes).flatMap fun l => if l.kind = 0 then [partLine p l] else l.parts.map (partLine p)

/-- Combine two elements (R106, R319). -/
def Coll.combine (x : Coll) (a b : Nat) : Nat :=
  let w := 8 * x.elemSize
  let t : VT := match x.type with | 0 => .f32 | 1 => .bf16 | 2 => .i32 | _ => .i64
  let op := match x.red with | 0 => 0x01 | 1 => 0x06 | _ => 0x07
  (elemOp t atomicModes op a b 0).1 % 2 ^ w

/-- One level of the fixed tree: neighbours combine, and one without a partner is carried up (R113). -/
def treeUp (f : Nat → Nat → Nat) : List Nat → List Nat
  | a :: b :: l => f a b :: treeUp f l
  | l => l

/-- The fixed tree over ranks (R113). -/
def fixedTree (f : Nat → Nat → Nat) : (fuel : Nat) → List Nat → Nat
  | 0, l => l.headD 0
  | n + 1, l => match l with
    | [] => 0
    | [a] => a
    | l => fixedTree f n (treeUp f l)

/-- Take an element out of a list by position. -/
def pluck (l : List Nat) (i : Nat) : Nat × List Nat := (l.getD i 0, l.take i ++ l.drop (i + 1))

/-- A reduction in an order that is not architectural: each step combines two free choices (R113). -/
def freeTree (f : Nat → Nat → Nat) (seed : Nat) : (fuel : Nat) → List Nat → Nat
  | 0, l => l.headD 0
  | n + 1, l =>
    if l.length ≤ 1 then l.headD 0
    else
      let a := pluck l ((Config.freeWord (seed + 2 * n)).toNat % l.length)
      let b := pluck a.2 ((Config.freeWord (seed + 2 * n + 1)).toNat % a.2.length)
      freeTree f seed n (f a.1 b.1 :: b.2)

/-- Source elements by rank: those of this device, and free values for ranks on others, whose data this device does
not hold. -/
def sourceElems (sources : List (Nat × List Nat)) (fresh rank count : Nat) : List Nat :=
  match sources.find? fun x => x.1 = rank with
  | some x => x.2
  | none => (List.range count).map fun e => (Config.freeWord (fresh + rank * count + e)).toNat

/-- The destination elements of a rank (R319). -/
def Coll.result (x : Coll) (det : Bool) (sources : List (Nat × List Nat)) (fresh rank : Nat) : List Nat :=
  let all := (List.range x.size).map fun q => (sourceElems sources fresh q x.count).map (· % 2 ^ (8 * x.elemSize))
  let reduce (e : Nat) : Nat :=
    let l := all.map fun v => v.getD e 0
    if det then fixedTree x.combine x.size l else freeTree x.combine (fresh + x.size * x.count + e * 2 * x.size) x.size l
  match x.op with
  | 0 => (List.range x.count).map reduce
  | 1 => (List.range (x.count / x.size)).map fun e => reduce (rank * (x.count / x.size) + e)
  | 2 => all.flatten
  | _ => all.headD []

/-- Elements as bytes. -/
def elemBytes (n : Nat) (l : List Nat) : List Byte := l.flatMap fun v => toBytes n v

/-- Bytes as elements. -/
def bytesElems (n : Nat) (b : List Byte) : List Nat := (List.range (b.length / n)).map fun i => field b (n * i) n

/-- The line of one participant in which a piece lies. -/
def CollLine.lineOf (l : CollLine) : (Nat × Nat) × Nat × Nat := ((l.core, l.dray), l.kind, l.addr / 256)

/-- Of pieces with their bytes those whose lines a free choice takes: a line is written whole or not at all (R28, R178). -/
def State.chooseLines (s : State) (w : List (CollLine × List Byte)) : List (CollLine × List Byte) × State :=
  let lines := (w.map fun x => x.1.lineOf).dedup
  let kept := (lines.zipIdx.filter fun l => Config.freeBool (s.fresh + l.2)).map (·.1)
  (w.filter fun x => kept.contains x.1.lineOf, { s with fresh := s.fresh + lines.length })

/-- Free values in the pieces of a participant's destination. -/
def freePieces (fresh : Nat) (p : Part') : List (CollLine × List Byte) :=
  (destPieces p).map fun l =>
    (l, (List.range l.size).map fun i => Config.freeByte (fresh + (l.addr - locAddr (collOf p.2.2.desc).dst) + i))

/-- What participants' destinations may get that nothing determines: each line is left, or gets free values (R40, R185). -/
def State.smear (s : State) (l : List Part') : List (CollLine × List Byte) × State :=
  let n := l.foldl (fun n p => n + (collOf p.2.2.desc).dstBytes) 0
  ({ s with fresh := s.fresh + n }).chooseLines (l.flatMap (freePieces s.fresh))

/-- The collective engine of a participant's Quarter is frozen by a violation (R40). -/
def State.freezeColl (s : State) (p : Part') (f : EngineFault) : State :=
  let c := p.2.2
  let s := s.modQuarter (quarterOf p.1) fun q => { q with collFrozen := true, collBlame := c.launch }
  let s := s.modCtx c.owner fun x => { x with reports := { code := 4, engid := 2, addr := f.addr } :: x.reports }
  ((s.audit 2 c.tenant 2 [f.addr]).notice 2 c.owner 4 f.addr.toNat).modLaunch c.launch fun l => { l with killing := true, violated := true }

/-- The participants of an operation that runs. -/
def State.runParts (s : State) (r : CollRun) : List Part' :=
  r.parts.filterMap fun x => ((s.core x.1).dray x.2).running.map fun c => (x.1, x.2, c)

/-- What has been read of a participant's source, its pieces in order; a piece that has not is read as zeros. -/
def CollRun.bytes (r : CollRun) (p : Part') : List Byte :=
  (sourcePieces p).flatMap fun l => ((r.got.find? fun g => g.1 = l).map (·.2)).getD (List.replicate l.size 0#8)

/-- The sources of an operation by rank. -/
def CollRun.sources (r : CollRun) (l : List Part') : List (Nat × List Nat) :=
  l.map fun p => (rankOf p, bytesElems (collOf p.2.2.desc).elemSize (r.bytes p))

/-- Two ranges of locators meet. -/
def locMeets (a : Word) (n : Nat) (b : Word) (m : Nat) : Bool := locKind a = locKind b && meets (locAddr a) n (locAddr b) m

/-- A participant's destination overlaps a source of its tenant, beside that of an allreduce in place: what it leaves is
unpredictable (R317, R319). -/
def overlaid (l : List Part') (p : Part') : Bool :=
  let x := collOf p.2.2.desc
  l.any fun q =>
    let y := collOf q.2.2.desc
    q.2.2.tenant = p.2.2.tenant && locMeets x.dst x.dstBytes y.src y.srcBytes &&
      !(rankOf q = rankOf p && x.op = 0 && x.src = x.dst)

/-- The bytes of the result in a participant's destination (R113, R319). -/
def destBytes (det : Bool) (sources : List (Nat × List Nat)) (fresh : Nat) (p : Part') : List Byte :=
  let x := collOf p.2.2.desc
  elemBytes x.elemSize (x.result det sources fresh (rankOf p))

/-- What a byte of an overlaid destination may be beside the result's: its earlier value, where its engine can reach it, and the
bytes that the operation has read (R317, R319; assumption log, 18). -/
def State.overlaidByte (s : State) (p : Part') (read : List Byte) (seed : Nat) (a : Nat) (b : Byte) : Byte :=
  pickByte seed b ((s.peekByte (collEngine p) (locKind (collOf p.2.2.desc).dst) a true).toList ++ read)

/-- The bytes that a participant's destination gets: the result, but where another overlap than an allreduce in place leaves it
unpredictable (R317, R319). -/
def State.destOut (s : State) (l : List Part') (det : Bool) (r : CollRun) (p : Part') : List Byte :=
  let x := collOf p.2.2.desc
  let b := destBytes det (r.sources l) s.fresh p
  if overlaid l p then b.zipIdx.map fun y => s.overlaidByte p (r.got.flatMap (·.2)) (s.fresh + y.2) (locAddr x.dst + y.2) y.1 else b

/-- Cut bytes into pieces. -/
def cutPieces : List CollLine → List Byte → List (CollLine × List Byte)
  | [], _ => []
  | l :: rest, b => (l, b.take l.size) :: cutPieces rest (b.drop l.size)

/-- What an operation writes, piece by piece. -/
def State.collOut (s : State) (r : CollRun) : List (CollLine × List Byte) :=
  let l := s.runParts r
  let det := l.all fun p => (s.launch p.2.2.launch).det
  l.flatMap fun p => cutPieces (destPieces p) (s.destOut l det r p)

/-- The source elements that an element of a rank's destination is made of, each by its rank (R319). -/
def Coll.needs (x : Coll) (rank i : Nat) : List (Nat × Nat) :=
  match x.op with
  | 0 => (List.range x.size).map fun q => (q, i)
  | 1 => (List.range x.size).map fun q => (q, rank * (x.count / x.size) + i)
  | 2 => [(i / x.count, i % x.count)]
  | _ => [(0, i)]

/-- Every byte of a rank's source element has been read; the sources of ranks elsewhere are their devices' to read. -/
def CollRun.knows (r : CollRun) (l : List Part') (q e : Nat) : Bool :=
  l.all fun p => rankOf p != q ||
    let n := (collOf p.2.2.desc).elemSize
    let a := locAddr (collOf p.2.2.desc).src + n * e
    (sourcePieces p).all fun x => !meets x.addr x.size a n || r.got.any fun g => g.1 = x

/-- Everything that a piece of a destination is made of has been read. -/
def CollRun.determines (r : CollRun) (l : List Part') (p : Part') (x : CollLine) : Bool :=
  let y := collOf p.2.2.desc
  let first := (x.addr - locAddr y.dst) / y.elemSize
  let last := (x.addr - locAddr y.dst + x.size - 1) / y.elemSize
  (List.range (last + 1 - first)).all fun i => (y.needs (rankOf p) (first + i)).all fun n => r.knows l n.1 n.2

/-- The pieces of an operation's results that what it has read determines. -/
def State.determined (s : State) (r : CollRun) : List (CollLine × List Byte) :=
  let l := s.runParts r
  (s.collOut r).filter fun x => l.any fun p => p.1 = x.1.core && p.2.1 = x.1.dray && r.determines l p x.1

/-- Free values that an operation may use. -/
def State.collFresh (s : State) (r : CollRun) : Nat :=
  ((s.runParts r).foldl (fun n p =>
    max n ((collOf p.2.2.desc).count * (collOf p.2.2.desc).size + (collOf p.2.2.desc).dstBytes)) 0) * 4 + 4

/-- The operation that runs in a group is now another state of it. -/
def State.setRun (s : State) (g : Nat) (r : CollRun) : State := s.modGroup g fun y => { y with run := some r }

/-- Each of an operation's participants ends as given, unless it ends in another way already. -/
def State.endParts (s : State) (l : List Part') (e : Part' → DrayEnd) : State :=
  l.foldl (fun s p => s.modRunning p.1 p.2.1 fun c => if c.ending.isSome then c else { c with ending := some (e p) }) s

/-- An operation stops: whether it still reads what it has not read is open, and of its lines those are written that a free
choice takes (R28). -/
def State.stopRun (s : State) (g : Nat) (r : CollRun) : State :=
  let c := s.choose
  let w := match r.writes with
    | some w => let x := c.2.chooseLines w; (some x.1, x.2)
    | none => (none, c.2)
  (w.2.modGroup g fun y => { y with done := y.done + 1 }).setRun g
    { r with reads := if c.1 then r.reads else [], writes := w.1, stopped := true }

/-- A participant's line fails. The first time the operation stops, its token is to complete in error, or after a violation with
COLLABORT, when the destinations are unpredictable, and the others' waits with COLLABORT; an operation that has stopped goes on
without that line. It writes no Manifest record (R28, R40, R185; assumption log, 42). -/
def State.collFail (s : State) (g : Nat) (r : CollRun) (p : Part') (f : EngineFault) : State :=
  let l := s.runParts r
  if r.stopped then s.setRun g r
  else if f.code = 4 then
    let w := (s.freezeColl p f).smear l
    ((w.2.endParts l fun _ => .done 1).modGroup g fun y => { y with done := y.done + 1 }).setRun g
      { r with reads := [], writes := some w.1, stopped := true }
  else
    (s.endParts l fun q => if q.1 = p.1 && q.2.1 = p.2.1 then .error f else .done 1).stopRun g r

/-! ## An operation, piece by piece (R67, R81, R319, R355) -/

/-- A group's next operation begins: its sources are to be read. -/
def State.collBegin (s : State) (g : Nat) : State :=
  let l := s.participants g
  s.modGroup g fun y => { y with run := some { parts := l.map fun p => (p.1, p.2.1), reads := l.flatMap sourcePieces } }

/-- Two pieces lie in one line of one participant. -/
def CollLine.sameLine (x y : CollLine) : Bool := x.core = y.core && x.dray = y.dray && x.kind = y.kind && x.addr / 256 = y.addr / 256

/-- A piece of the first line of a list, freely chosen (R81). -/
def State.pickPiece {α : Type} (s : State) (at' : α → CollLine) (x : α) (l : List α) : α :=
  let same := (x :: l).filter fun y => (at' y).sameLine (at' x)
  same.getD ((Config.freeWord s.fresh).toNat % same.length) x

/-- The participant whose piece it is. -/
def State.pieceOwner (s : State) (x : CollLine) : Option Part' := ((s.core x.core).dray x.dray).running.map fun c => (x.core, x.dray, c)

/-- A participant's source. -/
def sourceSpan (p : Part') : Span :=
  let x := collOf p.2.2.desc
  { kind := locKind x.src, addr := locAddr x.src, size := x.srcBytes }

/-- A piece of a source is read; its line is held until its last piece has been (R11). -/
def State.collRead (s : State) (g : Nat) (r : CollRun) (x : CollLine) (l : List CollLine) : State :=
  let x := s.pickPiece id x l
  match s.pieceOwner x with
  | none => s
  | some p =>
    match s.readPiece (collEngine p) x.span (sourceSpan p) with
    | (.ok b, t) =>
      let left := r.reads.filter (· != x)
      let t := if left.any fun y => y.sameLine x then t
        else t.modRunning x.core x.dray fun c => { c with held := c.held.filter fun h => h.line != x.addr / 256, mixed := [] }
      { t with fresh := t.fresh + 1 }.setRun g { r with reads := left, got := r.got ++ [(x, b)] }
    | (.wait, t) => t
    | (.fail f, t) => t.collFail g { r with reads := r.reads.filter (· != x) } p f

/-- Everything has been read, or all that will be: the results are made, of a stopped operation so far as they are determined and
a free choice takes their lines (R28, R113, R319). -/
def State.collMake (s : State) (g : Nat) (r : CollRun) : State :=
  let t := { s with fresh := s.fresh + s.collFresh r }
  if r.stopped then
    let w := t.chooseLines (s.determined r)
    w.2.setRun g { r with writes := some w.1 }
  else t.setRun g { r with writes := some (s.collOut r) }

/-- A piece of a destination is written, or sent to its home. -/
def State.collWrite (s : State) (g : Nat) (r : CollRun) (x : CollLine × List Byte) (l : List (CollLine × List Byte)) : State :=
  let x := s.pickPiece (·.1) x l
  let left (gone : CollLine × List Byte → Bool) : CollRun :=
    { r with writes := r.writes.map fun (w : List (CollLine × List Byte)) => w.filter fun y => !gone y }
  match s.pieceOwner x.1 with
  | none => s
  | some p =>
    if s.watchHolds 2 p.2.2 then s
    else
      match s.writePiece (collEngine p) x.1.span x.2 with
      | (.ok _, t) =>
        let t := if x.1.kind = 0 || (x.1.addr + x.1.size) % 256 = 0 then t.lineMoved 2 p.2.2 else t
        { t with fresh := t.fresh + 1 }.setRun g (left (· == x))
      | (.wait, t) => t
      | (.fail f, t) => t.collFail g (left fun y => y.1.sameLine x.1) p f

/-- The next part of a group's operation. -/
def State.collLine (s : State) (g : Nat) : State :=
  match ffind s.pf.groups g with
  | none => s
  | some x =>
    match x.run with
    | none => if s.collReady g x && !mismatched (s.participants g) then s.collBegin g else s
    | some r =>
      match r.reads, r.writes with
      | y :: l, _ => s.collRead g r y l
      | [], none => s.collMake g r
      | [], some (y :: l) => s.collWrite g r y l
      | [], some [] => s

/-- A group's operation is over but for its tokens: everything has been written, nothing of it that was sent holds a token, and
the records that it makes can be written (R21, R79). -/
def State.collOver (s : State) (r : CollRun) : Bool :=
  r.reads.isEmpty && r.writes == some [] && (s.runParts r).all fun p =>
    s.sentOver' p.1 2 p.2.2 && (r.stopped || s.recordReady p.2.2.owner p.2.2.rcd)

/-- The group whose operation a Quarter's collective engine can complete: it is over, or its descriptors do not agree. -/
def State.collGroup (s : State) (quarter : Nat) : Option (Nat × Group) :=
  s.pf.groups.find? fun g =>
    (match g.2.run with
      | some r => s.collOver r && (s.runParts r).any fun p => quarterOf p.1 = quarter
      | none => s.collReady g.1 g.2 && mismatched (s.participants g.1) && (s.participants g.1).any fun p => quarterOf p.1 = quarter)

/-- A group's operation completes: each participant's record is written and its token is done, of one that stopped as the
participant's command ends; where the descriptors do not agree, each token is in error (R28, R122, R185, R319). -/
def State.collComplete (s : State) (g : Nat) (x : Group) : State :=
  match x.run with
  | some r =>
    let s := s.modGroup g fun y => { y with done := if r.stopped then y.done else y.done + 1, run := none }
    (s.runParts r).foldl (fun s p => match p.2.2.ending with
      | some e => s.endRunning p.1 p.2.1 p.2.2 e
      | none =>
        (s.performed p.2.2.owner p.2.2.rcd x.done (BitVec.ofNat 64 (collOf p.2.2.desc).count)).endRunning p.1 p.2.1 p.2.2 (.done 0)) s
  | none =>
    let s := s.modGroup g fun y => { y with done := y.done + 1 }
    (s.participants g).foldl (fun s p =>
      s.endRunning p.1 p.2.1 p.2.2 (.error { engid := 2, code := 2, addr := BitVec.ofNat 64 p.2.2.row })) s

/-- COLLECTIVE_COMPLETE (R113, R319). -/
def execCollectiveComplete (quarter : Nat) (s : State) : Host.Outcome State Fault Refusal :=
  match s.collGroup quarter with
  | some (g, x) => .next (s.collComplete g x)
  | none => .next s

/-! ## Aborts and cancellation (R178, R185, R320) -/

/-- Take one occurrence of each out of a list. -/
def eraseEach (l : List Nat) (out : List Nat) : List Nat := out.foldl (fun l n => l.erase n) l

/-- COLLECTIVE_ABORT (R185): the group's members that the abort reaches are ended with COLLABORT, unless they end in another way,
once lines of their destinations that a free choice takes have got free values. -/
def execCollectiveAbort (group : Nat) (s : State) : Host.Outcome State Fault Refusal :=
  match ffind s.pf.groups group with
  | none => .next s
  | some g =>
    let l := (s.participants group).filter fun p => g.aborts.contains (rankOf p)
    if g.run.isSome || l.isEmpty then .next s
    else
      let w := (s.endParts l fun _ => .done 1).smear l
      .next (w.2.modGroup group fun x =>
        { x with aborts := eraseEach x.aborts (l.map rankOf)
                 run := some { parts := l.map fun p => (p.1, p.2.1), reads := [], writes := some w.1, stopped := true } })

/-- The abort beat of a member on another device arrives: the operation under way ends for every member of this one (R185). -/
def State.abortBeat (s : State) (group : Nat) : State := s.abortGroup group fun g => g.others none

/-- The running command of a dray is cancelled; a collective one leaves its group (R178, R185, R320). -/
def State.cancelRunning (s : State) (core d : Nat) (c : DrayCmd) : State :=
  if c.ending.isSome then s else (s.leaveGroup c).stopRunning core d c (.done 2)

/-- The shadow command of a dray is discarded; a collective one leaves its group (R178, R185, R320). -/
def State.discardShadow (s : State) (core d : Nat) (c : DrayCmd) : State :=
  ((s.leaveGroup c).modDray core d fun w => { w with shadow := none }).tokenDone c.owner c.token 2

/-- `xcan` (R178, R320): with a running command the context's shadow command goes too. -/
def execXcan (c : CSlot) (tk : BitVec 3) (s : State) : Host.Outcome State Fault Refusal :=
  gated (cslot c) (staticGate (.xcan c tk)) (fun s =>
    let core := coreOf s.cur
    let d := cslot c - 4
    let x := (s.core core).dray d
    let mine (y : DrayCmd) : Bool := y.owner = s.cur && y.token = tk.toNat
    match x.shadow, x.running with
    | some y, some z =>
      if mine y then s.discardShadow core d y
      else if mine z then (if y.owner = s.cur then s.discardShadow core d y else s).cancelRunning core d z
      else s
    | _, some z => if mine z then s.cancelRunning core d z else s
    | _, none => s) s

/-! ## Writes on their way reach their homes (R57, R59, R67, R79, R81–R83, R354) -/

/-- The dray that holds the command of a write on its way. -/
def State.sentDray (s : State) (x : Sent) : Option (Nat × DrayCmd) :=
  [0, 1].findSome? fun d => (((s.core x.core).dray d).running.filter fun c =>
    c.owner = x.owner && c.issueSeq = x.cmd && (x.engid = 2 || x.engid = d)).map fun c => (d, c)

/-- A write that was sent fails at its home: its command, if its token has not completed, stops in error, and of a collective the
operation does (R28, R59, R83, R185). -/
def State.sentFails (s : State) (x : Sent) (f : EngineFault) : State :=
  match s.sentDray x with
  | none => s
  | some (d, c) =>
    if x.engid != 2 then s.failDray x.core d f
    else match s.pf.groups.find? fun g => g.2.run.any fun r => r.parts.contains (x.core, d) with
      | some (g, y) => match y.run with
        | some r => s.collFail g r (x.core, d, c) f
        | none => s
      | none => s

/-- The home applies a part of a write: a whole line clears its poison, and memory that has gone discards it (R57, R59, R79, R81,
R354). -/
def State.applySent (s : State) (x : Sent) (off : Nat) (bytes : List Byte) : State :=
  let pa := x.pa + off
  if !s.backed pa then
    let s := (s.modQuarter (homeQuarter pa) fun q => { q with discards := q.discards + 1 }).tellAbsent x.owner pa x.va.toNat
    (s.sentOff x off).sentFails x { engid := x.engid, code := 0x14, detail := 3, addr := x.va }
  else
    let r := s.rivals none pa bytes.length x.size true
    let m := x.mixed ++ s.sentOver (some x.id) pa bytes.length x.size
    let b := s.mixWrite m r pa bytes
    let t := s.homeWrite (.engine x.owner x.engid x.cmd x.va) x.tenant pa b
    let t := (t.noteMixed s.mem r pa bytes.length x.size).mixOver m r bytes.length
    let t := (t.noteWrite x.tenant x.pa x.size (0x10000 + x.core * 4 + x.engid) 0).markDirty x.launch x.va.toNat x.pa
    let t := if x.size = 256 && decide (x.left.length ≤ 1) then
        t.modMs fun m => { m with poison := m.poison.filter (· != x.pa / 256) }
      else t
    t.sentOff x off

/-- An earlier write of the same command still has bytes of a part on their way: of rows that overlap, the later is kept
(R318). -/
def State.sentBehind (s : State) (x : Sent) (off n : Nat) : Bool :=
  s.ms.sent.any fun y => decide (y.id < x.id) && y.core = x.core && y.engid = x.engid && y.owner = x.owner && y.cmd = x.cmd &&
    y.left.any fun u => meets (y.pa + u.1) u.2.length (x.pa + off) n

/-- The home compares a write, once, as its first part comes; one that the mixed-size check refuses does not perform (R83). -/
def State.compareSent (s : State) (x : Sent) (off : Nat) (bytes : List Byte) : State :=
  if x.compared then s.applySent x off bytes
  else if s.overlapFires x.tenant x.pa x.size (0x10000 + x.core * 4 + x.engid) 0 then
    (s.dropSent x.id).sentFails x { engid := x.engid, code := 0x0D, detail := 0, addr := x.va }
  else (s.modSent x.id fun y => { y with compared := true }).applySent x off bytes

/-- A part of a write on its way reaches its home, if nothing holds it (R60, R79, R318). -/
def State.sentUnit (s : State) (id unit : Nat) : State :=
  match s.ms.sent.find? fun x => x.id = id with
  | some x =>
    match x.left[unit]? with
    | some u => if s.hostHeld none x.pa || s.sentBehind x u.1 u.2.length then s else s.compareSent x u.1 u.2
    | none => s
  | none => s

/-- ENGINE_THAW (R40, R41): once the launch has ended with status VIOLATION. -/
def execEngineThaw (target : ThawTarget) (s : State) : Host.Outcome State Fault Refusal :=
  let ended (l : Nat) : Bool := (s.launch l).ended && (s.launch l).status = 0x0C
  match target with
  | .dray core d =>
    let x := (s.core core).dray d
    if x.frozen && ended x.blame then .next (s.modDray core d fun x => { x with frozen := false }) else .next s
  | .collective q =>
    let x := s.quarter q
    if x.collFrozen && ended x.collBlame then .next (s.modQuarter q fun x => { x with collFrozen := false }) else .next s

end Sys2Proof.Machine
end

