-- ==== Sys2Proof/Machine/Copy.lean ====
section
/-!
DEFINITION. The scratchpad forms of the copy slots (R30–R32, R42, R43, R301–R309).
-/

namespace Sys2Proof.Machine

/-! ## Reads and writes of one run (R305) -/

/-- `ldb` (R305). -/
def execLdb (c : CSlot) (w : BitVec 2) (imm : BitVec 8) (base : BitVec 5) (v : BitVec 6) (s : State) :
    Host.Outcome State Fault Refusal :=
  let n := accessSize w
  let a := s.cmAddr base imm n
  gated (cslot c) ((staticGate (.ldb c w imm base v)).and (s.zeroGate [(a.toNat, n)])) (fun s =>
    s.orFault (cslot c) (firstFault (s.landCheck (cslot c) v 5) (s.spFault 0 a n n false)) fun s =>
      s.later 2 (cslot c) (.spRead [some a.toNat] n (.bay (s.rd.bayOf v) 3 (s.rd.staint base)))) s

/-- `stb` (R305). -/
def execStb (c : CSlot) (w : BitVec 2) (imm : BitVec 8) (base : BitVec 5) (v : BitVec 6) (s : State) :
    Host.Outcome State Fault Refusal :=
  let n := accessSize w
  let a := s.cmAddr base imm n
  gated (cslot c) ((staticGate (.stb c w imm base v)).and (s.zeroGate [(a.toNat, n)])) (fun s =>
    s.orFault (cslot c) (firstFault (s.readBayCheck (cslot c) v) (s.spFault 0 a n n true)) fun s =>
      s.later 2 (cslot c) (.spWrite [(a.toNat, toBytes n (s.rd.bay (s.rd.bayOf v)).toNat)])) s

/-- `lds` (R305). -/
def execLds (c : CSlot) (imm : BitVec 8) (base v : BitVec 5) (s : State) : Host.Outcome State Fault Refusal :=
  let a := s.cmAddr base imm 8
  gated (cslot c) ((staticGate (.lds c imm base v)).and (s.zeroGate [(a.toNat, 8)])) (fun s =>
    s.orFault (cslot c) (s.spFault 0 a 8 8 false) fun s =>
      s.later 2 (cslot c) (.spRead [some a.toNat] 8 (.reg v.toNat 3 (s.rd.staint base)))) s

/-- `sts` (R305). -/
def execSts (c : CSlot) (imm : BitVec 8) (base v : BitVec 5) (s : State) : Host.Outcome State Fault Refusal :=
  let a := s.cmAddr base imm 8
  gated (cslot c) ((staticGate (.sts c imm base v)).and (s.zeroGate [(a.toNat, 8)])) (fun s =>
    s.orFault (cslot c) (s.spFault 0 a 8 8 true) fun s =>
      s.later 2 (cslot c) (.spWrite [(a.toNat, toBytes 8 (s.rd.sreg v).toNat)])) s

/-- `spzero` (R305). -/
def execSpzero (c : CSlot) (w : BitVec 2) (imm : BitVec 8) (base : BitVec 5) (s : State) : Host.Outcome State Fault Refusal :=
  let n := accessSize w
  let a := s.cmAddr base imm n
  gated (cslot c) ((staticGate (.spzero c w imm base)).and (s.zeroGate [(a.toNat, n)])) (fun s =>
    s.orFault (cslot c) (s.spFault 0 a n n true) fun s =>
      s.later 2 (cslot c) (.spWrite [(a.toNat, List.replicate n 0#8)])) s

/-! ## Indexed forms (R306) -/

/-- Bytes of an indexed element (R306). -/
def indexSize (es : BitVec 2) : Nat := match es.toNat with | 0 => 4 | 1 => 8 | 2 => 16 | _ => 128

/-- The element addresses of an indexed form, none where the element is skipped (R306). -/
def State.indexed (s : State) (w es : BitVec 2) (base : BitVec 5) (ix : BitVec 6) : List (Option Word) :=
  let b := s.rd.bay (s.rd.bayOf ix)
  (List.range (accessSize w / indexSize es)).map fun i =>
    let x := b.extractLsb' (32 * i) 32
    if x = 0xFFFFFFFF#32 then none else some (s.rd.sreg base + BitVec.ofNat 64 (indexSize es) * zext64 x)

/-- The first fault of a list of checks. -/
def firstOf {α : Type} (l : List α) (f : α → Option SFault) : Option SFault := l.findSome? f

/-- Checks 4, 5, 6 and 8 of R303 over every element: all are checked at issue, check by check (R306). -/
def State.indexedFault (s : State) (base : Word) (es : Nat) (l : List Word) (write : Bool) : Option SFault :=
  firstFault (alignFault base es)
    (firstFault (firstOf l fun a => s.bankFault a es)
      (firstFault (firstOf l fun a => s.spanFault 0 a es write)
        (faultIf (!write && l.any fun a => s.myCore.spPoisoned a.toNat es) { code := 0x14, detail := 4 })))

/-- `ldx` (R306). -/
def execLdx (c : CSlot) (w es : BitVec 2) (base : BitVec 5) (ix v : BitVec 6) (s : State) : Host.Outcome State Fault Refusal :=
  let n := indexSize es
  let l := s.indexed w es base ix
  let used := l.filterMap id
  gated (cslot c) ((staticGate (.ldx c w es base ix v)).and (s.zeroGate (used.map fun a => (a.toNat, n)))) (fun s =>
    s.orFault (cslot c) (firstFault (s.landCheck (cslot c) v 7) (firstFault (s.readBayCheck (cslot c) ix)
        (s.indexedFault (s.rd.sreg base) n used false))) fun s =>
      s.later 2 (cslot c) (.spRead (l.map fun a => a.map BitVec.toNat) n
        (.bay (s.rd.bayOf v) 5 (s.rd.staint base ||| s.rd.btaint (s.rd.bayOf ix))))) s

/-- `stx` (R306): the elements act in order, so the higher of two that meet is kept. -/
def execStx (c : CSlot) (w es : BitVec 2) (base : BitVec 5) (ix v : BitVec 6) (s : State) : Host.Outcome State Fault Refusal :=
  let n := indexSize es
  let l := s.indexed w es base ix
  let used := l.filterMap id
  gated (cslot c) ((staticGate (.stx c w es base ix v)).and (s.zeroGate (used.map fun a => (a.toNat, n)))) (fun s =>
    s.orFault (cslot c) (firstFault (s.readBayCheck (cslot c) v) (firstFault (s.readBayCheck (cslot c) ix)
        (s.indexedFault (s.rd.sreg base) n used true))) fun s =>
      let data := (s.rd.bay (s.rd.bayOf v)).toNat
      let parts := (l.zipIdx.filterMap fun x => x.1.map fun a => (a.toNat, toBytes n (data / 2 ^ (8 * n * x.2))))
      s.later 2 (cslot c) (.spWrite parts)) s

/-! ## Control words, scales, banks (R307–R309) -/

/-- `ldcw` (R307). -/
def execLdcw (c : CSlot) (imm : BitVec 8) (base v : BitVec 5) (s : State) : Host.Outcome State Fault Refusal :=
  let a := s.cmAddr base imm 32
  let n := ((s.rd.sreg v).extractLsb' 0 9).toNat
  gated (cslot c) ((staticGate (.ldcw c imm base v)).and (s.zeroGate [(a.toNat, 32)])) (fun s =>
    s.orFault (cslot c) (firstFault
        (faultIf (decide (s.me.cwlim - s.me.cwbase ≤ n)) { code := 8, addr := BitVec.ofNat 64 n }) (s.spFault 0 a 32 32 false)) fun s =>
      s.later 2 (cslot c) (.spRead [some a.toNat] 32 (.word (s.me.cwbase + n) 1))) s

/-- `sclq` (R308). -/
def execSclq (c : CSlot) (w : BitVec 2) (imm : BitVec 8) (base : BitVec 5) (s : State) : Host.Outcome State Fault Refusal :=
  let n := accessSize w
  let a := s.cmAddr base imm n
  gated (cslot c) ((((staticGate (.sclq c w imm base)).and s.leaseGate).and
      (waitIf .scale (decide (Config.scaleQueueEntries < s.myCore.scales.length + s.me.scalesInFlight.1 + n)))).and
      (s.zeroGate [(a.toNat, n)])) (fun s =>
    s.orFault (cslot c) (s.spFault 0 a n n false) fun s => s.takeLease.later 2 (cslot c) (.scalePush a.toNat n)) s

/-- The banks of a mask. -/
def banksOf (m : BitVec 48) : List Nat := (List.range 48).filter fun b => m.getLsbD b

/-- A bank on its way to a context (R309). -/
def State.bankComing (s : State) (core b : Nat) : Bool :=
  (contextsOf core).any fun c => (s.ctx c).pend.any fun p => match p.act with
    | .bankAcq m => m.getLsbD b
    | _ => false

/-- A bank that `bankacq` can take: released by the same tenant, or owned already (R151, R309). -/
def State.acquirable (s : State) (b : Nat) : Bool :=
  let k := s.myCore
  s.holdsBank b || (fget 0 k.released b = s.me.tenant + 1 && !s.bankComing (coreOf s.cur) b)

/-- `bankacq` (R151, R309). -/
def execBankacq (c : CSlot) (v : BitVec 5) (s : State) : Host.Outcome State Fault Refusal :=
  let m := (s.rd.sreg v).extractLsb' 0 48
  let bad := m &&& ~~~s.me.handover
  gated (cslot c) ((staticGate (.bankacq c v)).and (waitIf .bank (bad = 0#48 && !(banksOf m).all s.acquirable))) (fun s =>
    s.orFault (cslot c) (faultIf (bad != 0#48) { code := 9, addr := lowestBank bad }) fun s =>
      s.later 2 (cslot c) (.bankAcq m)) s

/-- Banks that the context's matrix and dray commands have still to reach (R309). -/
def State.banksInUse (s : State) : List Nat :=
  let k := s.myCore
  let mine (o : Nat) : Bool := o = s.cur
  let fills := [fget none k.gathers 0, fget none k.gathers 1, fget none k.loads 0, fget none k.loads 1].filterMap id
  let reads := (fills.filter fun f => mine f.owner).flatMap (·.rows)
  let drains := (k.cmds.filter fun m => mine m.owner).flatMap fun m => match m.kind with
    | .mdrain _ n addr ofmt _ _ => rangeBanks (addr + m.done * drainBytes ofmt) ((n - m.done) * drainBytes ofmt)
    | _ => []
  let drays := [0, 1].flatMap fun d =>
    (((k.dray d).running.toList ++ (k.dray d).shadow.toList).filter fun x => mine x.owner).flatMap s.banksLeft
  reads ++ drains ++ drays

/-- `bankrel` (R309). -/
def execBankrel (c : CSlot) (v : BitVec 5) (s : State) : Host.Outcome State Fault Refusal :=
  let m := (s.rd.sreg v).extractLsb' 0 48
  let bad := (banksOf m).filter fun b => !s.holdsBank b
  gated (cslot c) ((staticGate (.bankrel c v)).and (waitIf .bankUse (bad.isEmpty && s.banksInUse.any fun b => m.getLsbD b))) (fun s =>
    s.orFault (cslot c) (bad.head?.map fun b => { code := 9, addr := BitVec.ofNat 64 b }) fun s =>
      s.later 2 (cslot c) (.bankRel m)) s

end Sys2Proof.Machine
end

