-- ==== Sys2Proof/Machine/Landing.lean ====
section
/-!
DEFINITION. Pending effects as they act (R43, R44, R92, R101, R159, R160, R175, R181, R211, R271, R272,
R305–R309): each when its context's κ reaches its due value.
-/

namespace Sys2Proof.Machine

/-! ## When an effect is due (R155, R175) -/

/-- A wait for an engine command of the context's own, whose idle cycles count towards its issue + 3 (R78, R297; DEDUCED, log
entry 20). -/
def Wait.engine : Wait → Bool
  | .command | .barrier | .matrix | .bankUse | .gather | .scale | .shadow | .caravan => true
  | _ => false

/-- The context waits for an engine. -/
def Ctx.engineWait (c : Ctx) : Bool :=
  c.st = .resident && !c.iss.active && (match c.iss.cause with | some w => w.engine | none => false)

/-- The issue + 3 that the last of a context's commands yet to begin waits for, 0 with none (R78, R297). -/
def State.opens (s : State) (c : Nat) : Nat :=
  let k := s.core (coreOf c)
  let fills := [fget none k.gathers 0, fget none k.gathers 1, fget none k.loads 0, fget none k.loads 1].filterMap id
  let cmds := k.drays.flatMap fun d => (d.2.running.toList ++ d.2.shadow.toList).filter fun y => !y.started
  max ((fills.filter fun f => f.owner = c).foldl (fun n f => max n (f.issueK + 3)) 0)
    ((cmds.filter fun y => y.owner = c).foldl (fun n y => max n (y.issueK + 3)) 0)

/-- An effect goes before the commands that its context's waiting bundle waits for: an access to the scratchpad or a change of
its banks by their issue + 3, or a push that a waiting matrix command needs. A control word waits for κ itself (R211). DEDUCED,
log entry 20. -/
def State.actsAhead (s : State) (c : Nat) (p : Pending) : Bool :=
  let scales := (s.ctx c).iss.cause = some .matrix || (s.ctx c).iss.cause = some .scale
  match p.act with
  | .spRead _ _ _ | .spWrite _ | .bankAcq _ | .bankRel _ => decide (p.due ≤ s.opens c)
  | .scalePush _ _ => scales || decide (p.due ≤ s.opens c)
  | _ => false

/-- A pending effect acts in this cycle: when κ has reached its due value (R155), or ahead of a command that is waited for. -/
def State.acts (s : State) (c : Nat) (p : Pending) : Bool :=
  let x := s.ctx c
  (x.iss.active && decide (p.due ≤ x.iss.kappa)) || (x.engineWait && decide (p.due ≤ x.engineK) && s.actsAhead c p)

/-- The effects of a kind that act now, and the context without them. -/
def State.takeDue (s : State) (c : Nat) (f : Action → Bool) : List Pending × Ctx :=
  let x := s.ctx c
  let now (p : Pending) : Bool := f p.act && s.acts c p
  (x.pend.filter now, { x with pend := x.pend.filter fun p => !now p })

/-! ## Collisions (R160, R211) -/

/-- One of two results of a cycle is kept over the other: the higher slot, then the later-issued (R160, R211). -/
def Pending.over (a b : Pending) : Bool := decide (b.slot < a.slot) || (a.slot = b.slot && decide (b.seq < a.seq))

/-- The result that is kept. -/
def keeper : List Pending → Option Pending
  | [] => none
  | a :: l => match keeper l with
    | none => some a
    | some b => if a.over b then some a else some b

/-- Each result that is not kept sets lost landing in its slot's record (R160, R176). -/
def State.lose (s : State) (c : Nat) (kept : Option Pending) (l : List Pending) : State :=
  l.foldl (fun s p => if kept = some p then s else s.record c p.slot p.bundle Flag.ll) s

/-! ## Bays (R92, R101, R159, R160) -/

/-- A landing of one bay. -/
def Action.landsIn (bay : Nat) : Action → Bool
  | .land b _ _ _ _ => b = bay
  | _ => false

/-- The clearing of one bay's mask. -/
def Action.clears (bay : Nat) : Action → Bool
  | .untaint b => b = bay
  | _ => false

/-- A value lands in a bay in the bits it writes (R92, R159). -/
def Regs.landBay (r : Regs) (b : Nat) (v bits : Bay) (t : Mask) (unite : Bool) : Regs :=
  { r with b := fput r.b b ((r.bay b &&& ~~~bits) ||| (v &&& bits))
           bT := fput r.bT b (if unite then r.btaint b ||| t else t) }

/-- BAY_LANDING (R92, R101, R159, R160). -/
def execBayLanding (c bay : Nat) (s : State) : Host.Outcome State Fault Refusal :=
  let (l, _) := s.takeDue c (Action.landsIn bay)
  let (u, _) := s.takeDue c (Action.clears bay)
  let (_, x) := s.takeDue c fun a => a.landsIn bay || a.clears bay
  if l.isEmpty && u.isEmpty then .next s
  else
    let k := keeper l
    let x := match k with
      | some p => (match p.act with
        | .land b v bits t unite => { x with r := x.r.landBay b v bits t unite }
        | _ => x)
      | none => x
    let x := if u.isEmpty then x else { x with r := { x.r with bT := fput x.r.bT bay 0#9 } }
    .next ((s.setCtx c x).lose c k l)

/-! ## Registers and predicates (R211, R272, R305) -/

/-- A register write of one register. -/
def Action.writesReg (d : Nat) : Action → Bool
  | .regWrite n _ _ => n = d
  | _ => false

/-- LDS_REGISTER_WRITE (R211, R305). -/
def execLdsRegisterWrite (c d : Nat) (s : State) : Host.Outcome State Fault Refusal :=
  let (l, x) := s.takeDue c (Action.writesReg d)
  match keeper l with
  | some p =>
    match p.act with
    | .regWrite n v t =>
      let clash := x.wroteS.contains n && n != 0
      let s := (s.setCtx c { x with r := x.r.setS (BitVec.ofNat 5 n) v t }).lose c (some p) l
      .next (if clash then s.record c 0 x.lastPc Flag.ll else s)
    | _ => .next s
  | none => .next s

/-- A predicate write of one predicate. -/
def Action.writesPred (d : Nat) : Action → Bool
  | .predWrite n _ _ _ _ => n = d
  | _ => false

/-- A predicate and its mask as they stood before a result of slot S of this cycle, which is lost whole (R211). -/
def Ctx.predBefore (x : Ctx) (d : BitVec 5) : Pred × Mask := fget (x.r.preg d, x.r.ptaint d) x.wroteP d.toNat

/-- VECTOR_PREDICATE_WRITE (R91, R211, R272). -/
def execVectorPredicateWrite (c p : Nat) (s : State) : Host.Outcome State Fault Refusal :=
  let (l, x) := s.takeDue c (Action.writesPred p)
  match keeper l with
  | some k =>
    match k.act with
    | .predWrite n v bits t unite =>
      let clash := (ffind x.wroteP n).isSome && n != 0
      let d := BitVec.ofNat 5 n
      let before := x.predBefore d
      let r := x.r.setP d ((before.1 &&& ~~~bits) ||| (v &&& bits)) (if unite then before.2 ||| t else t)
      let s := (s.setCtx c { x with r := r, wroteP := fdel x.wroteP n }).lose c (some k) l
      .next (if clash then s.record c 0 x.lastPc Flag.ll else s)
    | _ => .next s
  | none => .next s

/-! ## Scratchpad (R43, R44, R46, R305, R306) -/

/-- Units of 16 bytes that an access writes. -/
def Action.writes : Action → List Nat
  | .spWrite parts => parts.flatMap fun p => unitsOf p.1 p.2.length
  | _ => []

/-- A memory after an access alone. -/
def Action.applyTo (m : Memory) : Action → Memory
  | .spWrite parts => parts.foldl (fun m p => mwrite m p.1 p.2) m
  | _ => m

/-- Copy 16-byte units of one memory into another. -/
def copyUnits (src dst : Memory) (l : List Nat) : Memory := l.foldl (fun m u => mwrite m (16 * u) (mread src (16 * u) 16)) dst

/-- Split units by free choice, with the count of choices made. -/
def splitUnits (fresh : Nat) (l : List Nat) : List Nat :=
  (l.zipIdx.filter fun x => Config.freeBool (fresh + x.2)).map (·.1)

/-- The bytes a read delivers, by element (R306). -/
def readParts (m : Memory) (es : Nat) (parts : List (Option Nat)) : Nat :=
  ofBytes (parts.flatMap fun p => match p with
    | some a => mread m a es
    | none => List.replicate es 0#8)

/-- A scratchpad read's data goes on to its destination (R305–R307). -/
def deliverRead (p : Pending) (v : Nat) : ReadDest → Pending
  | .bay b lat t => { p with due := p.due + lat, act := .land b (BitVec.ofNat 1024 v) allBits t false }
  | .reg d lat t => { p with due := p.due + lat, act := .regWrite d (BitVec.ofNat 64 v) t }
  | .word e lat => { p with due := p.due + lat, act := .wordWrite e (BitVec.ofNat 256 v) }

/-- What a read leaves pending, from the memory it sees. -/
def readNow (m : Memory) (p : Pending) : List Pending :=
  match p.act with
  | .spRead parts es dest => [deliverRead p (readParts m es parts) dest]
  | _ => []

/-- Poison cleared by an access (R181). -/
def Action.clean (l : List Nat) : Action → List Nat
  | .spWrite parts => parts.foldl (fun l p => clearUnits l p.1 p.2.length) l
  | _ => l

/-- The two scratchpad accesses of one bundle act together, unordered: a unit that both write holds one's data, and
a read sees each unit that the other writes as before or after it (R44). -/
def State.actPair (s : State) (c : Nat) (p q : Pending) : State :=
  let core := coreOf c
  let m := (s.core core).scratch
  let wp := p.act.writes
  let wq := q.act.writes
  let mp := p.act.applyTo m
  let mq := q.act.applyTo m
  let both := wp.filter wq.contains
  let mem := copyUnits mp (q.act.applyTo mp) (splitUnits s.fresh both)
  let mem := copyUnits mq mem (both.filter fun u => !(splitUnits s.fresh both).contains u)
  let seenByP := copyUnits mq m (splitUnits s.fresh wq)
  let seenByQ := copyUnits mp m (splitUnits s.fresh wp)
  let s := { s with fresh := s.fresh + wp.length + wq.length }
  (s.modCore core fun k => { k with scratch := mem, spPoison := q.act.clean (p.act.clean k.spPoison) }).modCtx c fun x =>
    { x with pend := x.pend ++ readNow seenByP p ++ readNow seenByQ q }

/-- One scratchpad access acts (R43). -/
def State.actOne (s : State) (c : Nat) (p : Pending) : State :=
  let core := coreOf c
  let m := (s.core core).scratch
  (s.modCore core fun k => { k with scratch := p.act.applyTo m, spPoison := p.act.clean k.spPoison }).modCtx c fun x =>
    { x with pend := x.pend ++ readNow m p }

/-- A scratchpad read or write. -/
def Action.access : Action → Bool
  | .spRead _ _ _ => true
  | .spWrite _ => true
  | _ => false

/-- Accesses in issue order; those of one bundle act together. -/
def State.actAll (s : State) (c : Nat) : List Pending → State
  | p :: q :: l => if p.due = q.due && p.bundle = q.bundle then (s.actPair c p q).actAll c l else (s.actOne c p).actAll c (q :: l)
  | [p] => s.actOne c p
  | [] => s

/-- SCRATCHPAD_ACCESS_ACTS (R43, R44, R175). -/
def execScratchpadAccessActs (c : Nat) (s : State) : Host.Outcome State Fault Refusal :=
  let (l, x) := s.takeDue c Action.access
  if l.isEmpty then .next s else .next ((s.setCtx c x).actAll c l)

/-! ## Control words, scales, banks (R307–R309) -/

/-- CONTROL_WORD_WRITE (R211, R307): C0's before C1's. -/
def execControlWordWrite (c : Nat) (s : State) : Host.Outcome State Fault Refusal :=
  let (l, x) := s.takeDue c fun a => match a with | .wordWrite _ _ => true | _ => false
  .next (l.foldl (fun s p => match p.act with
    | .wordWrite e w => s.modCore (coreOf c) fun k => { k with cwt := fput k.cwt e w }
    | _ => s) (s.setCtx c x))

/-- SCALE_QUEUE_PUSH (R287, R308): lowest address first, C0's before C1's. A push that outlives its context's lease
reaches no queue. -/
def execScaleQueuePush (c : Nat) (s : State) : Host.Outcome State Fault Refusal :=
  let (l, x) := s.takeDue c fun a => match a with | .scalePush _ _ => true | _ => false
  .next (l.foldl (fun s p => match p.act with
    | .scalePush a n => s.modCore (coreOf c) fun k =>
        if k.lease = some c then { k with scales := k.scales ++ mread k.scratch a n } else k
    | _ => s) (s.setCtx c x))

/-- BANK_OWNERSHIP_CHANGE (R32, R151, R309). -/
def execBankOwnershipChange (c : Nat) (s : State) : Host.Outcome State Fault Refusal :=
  let (l, x) := s.takeDue c fun a => match a with | .bankAcq _ => true | .bankRel _ => true | _ => false
  let tenant := x.tenant
  .next (l.foldl (fun s p => match p.act with
    | .bankAcq m => s.modCore (coreOf c) fun k =>
        (banksOf m).foldl (fun k b => { k with bankOwner := fput k.bankOwner b (c + 1), released := fdel k.released b }) k
    | .bankRel m => s.modCore (coreOf c) fun k =>
        (banksOf m).foldl (fun k b => { k with bankOwner := fdel k.bankOwner b, released := fput k.released b (tenant + 1) }) k
    | _ => s) (s.setCtx c x))

/-- BANK_ZEROING_DONE (R32): the 512 cycles after a grant are over. -/
def execBankZeroingDone (core : Nat) (s : State) : Host.Outcome State Fault Refusal :=
  if (s.core core).bankZero.all fun e => decide (s.cycle < e.2) then .next s
  else .next (s.modCore core fun k => { k with bankZero := k.bankZero.filter fun e => decide (s.cycle < e.2) })

end Sys2Proof.Machine
end

