-- ==== Sys2Proof/Machine/Issue.lean ====
section
/-!
DEFINITION. The issue of bundles (R140, R143, R154–R156, R164–R169, R208–R212, R226, R227, R237, R253, R350,
R355): what an offered bundle waits for, its slots in commit order, the transfer after it, the selector, and one
cycle of a context.
-/

namespace Sys2Proof.Machine

/-- The meaning of a slot form; an event is no slot form and does nothing here. -/
def slotMeaning (i : Instr) (s : State) : Host.Outcome State Fault Refusal :=
  match i with
  | .nop => execNop s
  | .add d a b g => execAdd d a b g s
  | .sub d a b g => execSub d a b g s
  | .mul d a b g => execMul d a b g s
  | .mulh d a b g => execMulh d a b g s
  | .mulhu d a b g => execMulhu d a b g s
  | .div d a b g => execDiv d a b g s
  | .divu d a b g => execDivu d a b g s
  | .rem d a b g => execRem d a b g s
  | .remu d a b g => execRemu d a b g s
  | .and d a b g => execAnd d a b g s
  | .or d a b g => execOr d a b g s
  | .xor d a b g => execXor d a b g s
  | .shl d a b g => execShl d a b g s
  | .shr d a b g => execShr d a b g s
  | .sra d a b g => execSra d a b g s
  | .min d a b g => execMin d a b g s
  | .minu d a b g => execMinu d a b g s
  | .max d a b g => execMax d a b g s
  | .maxu d a b g => execMaxu d a b g s
  | .sel d a b g f => execSel d a b g f s
  | .clz d a g => execClz d a g s
  | .ctz d a g => execCtz d a g s
  | .popc d a g => execPopc d a g s
  | .addi d a imm => execAddi d a imm s
  | .andi d a imm => execAndi d a imm s
  | .ori d a imm => execOri d a imm s
  | .xori d a imm => execXori d a imm s
  | .shli d a imm => execShli d a imm s
  | .shri d a imm => execShri d a imm s
  | .srai d a imm => execSrai d a imm s
  | .lim d imm => execLim d imm s
  | .lims d a imm => execLims d a imm s
  | .cmpEq d a b g => execCmpEq d a b g s
  | .cmpNe d a b g => execCmpNe d a b g s
  | .cmpLt d a b g => execCmpLt d a b g s
  | .cmpLtu d a b g => execCmpLtu d a b g s
  | .cmpLe d a b g => execCmpLe d a b g s
  | .cmpLeu d a b g => execCmpLeu d a b g s
  | .cmpiEq d a imm => execCmpiEq d a imm s
  | .cmpiLt d a imm => execCmpiLt d a imm s
  | .cmpiLtu d a imm => execCmpiLtu d a imm s
  | .pand d a b g => execPand d a b g s
  | .por d a b g => execPor d a b g s
  | .pxor d a b g => execPxor d a b g s
  | .pandn d a b g => execPandn d a b g s
  | .pnot d a g => execPnot d a g s
  | .pget d a g => execPget d a g s
  | .pset d a g => execPset d a g s
  | .br g pad disp => execBr g pad disp s
  | .brn g pad disp => execBrn g pad disp s
  | .call pad disp => execCall pad disp s
  | .jmp a pad => execJmp a pad s
  | .ret pad => execRet pad s
  | .loop level len a sigma fl => execLoop level len a sigma fl s
  | .lbrk a pad => execLbrk a pad s
  | .lidx d level => execLidx d level s
  | .wait d mask all => execWait d mask all s
  | .bara a id scope => execBara a id scope s
  | .barw id => execBarw id s
  | .span d a eng opn => execSpan d a eng opn s
  | .tclr a kind mask => execTclr a kind mask s
  | .tmask d a kind rot => execTmask d a kind rot s
  | .slack n => execSlack n s
  | .yield => execYield s
  | .getsr d n => execGetsr d n s
  | .setsr a n => execSetsr a n s
  | .trap code => execTrap code s
  | .brkpt code => execBrkpt code s
  | .done => execDone s
  | .mark a => execMark a s
  | .rdtime d => execRdtime d s
  | .tblw a table index => execTblw a table index s
  | .tblr d table index => execTblr d table index s
  | .qpop d q word => execQpop d q word s
  | .xget d bay lane size => execXget d bay lane size s
  | .xput d bay lane size => execXput d bay lane size s
  | .vectorCascade u f => execVectorCascade u f s
  | .vmov u dst x xm guard cx => execVmov u dst x xm guard cx s
  | .anc u dst x xm => execAnc u dst x xm s
  | .vzero u dst guard => execVzero u dst guard s
  | .vtclr u dst => execVtclr u dst s
  | .mnop => execMnop s
  | .mmul f => execMmul f s
  | .mwld bb sa k n fmt => execMwld bb sa k n fmt s
  | .mgath lt ix base m fmt => execMgath lt ix base m fmt s
  | .mdrain row m sa ofmt clr => execMdrain row m sa ofmt clr s
  | .mdrainb row dst ofmt => execMdrainb row dst ofmt s
  | .mzero row m opx => execMzero row m opx s
  | .mrel => execMrel s
  | .mwait => execMwait s
  | .ldb c w imm base v => execLdb c w imm base v s
  | .stb c w imm base v => execStb c w imm base v s
  | .lds c imm base v => execLds c imm base v s
  | .sts c imm base v => execSts c imm base v s
  | .ldx c w es base ix v => execLdx c w es base ix v s
  | .stx c w es base ix v => execStx c w es base ix v s
  | .ldcw c imm base v => execLdcw c imm base v s
  | .sclq c w imm base => execSclq c w imm base s
  | .bankacq c v => execBankacq c v s
  | .bankrel c v => execBankrel c v s
  | .spzero c w imm base => execSpzero c w imm base s
  | .ldq c cls tk imm base v => execLdq c cls tk imm base v s
  | .ldqv c cls tk w imm base => execLdqv c cls tk w imm base s
  | .stq c cls tk imm base v => execStq c cls tk imm base v s
  | .stqv c cls tk w imm base v => execStqv c cls tk w imm base v s
  | .pref c imm base => execPref c imm base s
  | .atom c cls tk scope rel acq size aop base v => execAtom c cls tk scope rel acq size aop base v s
  | .atomr c cls tk scope rel acq size aop base v => execAtomr c cls tk scope rel acq size aop base v s
  | .cas c cls tk scope rel acq size base v => execCas c cls tk scope rel acq size base v s
  | .atomv c cls tk et aop base v => execAtomv c cls tk et aop base v s
  | .fenceC c mask => execFenceC c mask s
  | .fenceS c scope => execFenceS c scope s
  | .acq c scope => execAcq c scope s
  | .rel c scope => execRel c scope s
  | .xcp c tk scope rel acq base => execXcp c tk scope rel acq base s
  | .xcp2 c tk scope rel acq base => execXcp2 c tk scope rel acq base s
  | .xcoll c tk scope rel acq base => execXcoll c tk scope rel acq base s
  | .xcan c tk => execXcan c tk s
  | .tkres c cls base v => execTkres c cls base v s
  | .tkpost c cls base v => execTkpost c cls base v s
  | .tktake c cls base v => execTktake c cls base v s
  | .tkfree c cls base v => execTkfree c cls base v s
  | _ => .next s

/-! ## Decode checks of a whole bundle (R212, R226, R227) -/

/-- Offences of a slot found in the context's state; `pool` is the lane groups' bits that the bundle's vector slots
take together. -/
def State.slotOffences (s : State) (pool : Nat) (n : Nat) (i : Instr) : List Decode.Offence :=
  match i with
  | .vectorCascade _ f => s.cascadeOffences f ++ Decode.off (n = 2 && decide (1536 < pool)) 48 5
  | .vmov _ _ _ _ _ _ | .anc _ _ _ _ | .vzero _ _ _ => Decode.off (n = 2 && decide (1536 < pool)) 48 5
  | .loop level len _ _ _ => Decode.off (loopRefused s level len) 7 9
  | .lbrk _ _ => Decode.off s.rd.innermost.isNone 0 9
  | i => s.matrixOffences i

/-- Bits of the lane pool that a pattern's valid vector slots take (R212). -/
def State.poolOf (s : State) (skip : BitVec 6) (w : BitVec 256) : Nat :=
  ((Decode.slotInstrs skip (Decode.splitBundle w)).map fun x => if x.1 = 1 || x.1 = 2 then s.poolShare x.2 else 0).sum

/-- The issuing context's decoding of a pattern (R226). -/
def State.decode (s : State) (w : BitVec 256) : Except Decode.Refused (List (Nat × Instr)) :=
  Decode.decodeBundle (s.slotOffences (s.poolOf s.me.skip w)) s.me.skip w

/-! ## Causes that stand before the slots (R74, R140, R156, R321, R350, R355) -/

/-- Cycles until a context's next issue, were it to have the width: its planned idle cycles come in the turn in which it
issues (R156, R164). -/
def State.issueDelay (s : State) (c : Nat) : Nat :=
  s.gapOf c + (if s.gapOf c < (s.ctx c).iss.pad then 32 else 0)

/-- A context is a member of a Caravan that takes its lead's bundles (R140, R332). -/
def Ctx.follows (x : Ctx) : Bool := decide (0 < x.csize) && decide (0 < x.cpos) && !x.redo

/-- A Caravan lets a context issue: the lead when every member has issued the bundle before, a member 32·p cycles
after its lead, and none while another member's core has failed (R140, R183). -/
def State.peersReady (s : State) (c : Nat) : Bool :=
  let x := s.ctx c
  if x.csize = 0 || x.redo then true
  else if (List.range x.csize).any fun p => match s.memberAt c p with | some m => s.stranded m | none => false then false
  else if x.cpos = 0 then
    (List.range x.csize).all fun p => p = 0 ||
      (match s.memberAt c p with
        | some m => decide (x.bundles ≤ (s.ctx m).bundles) && !(s.ctx m).redo
        | none => false)
  else
    let lead := s.ctx (s.leadOf c)
    decide (lead.cpos = 0) && decide (x.bundles < lead.bundles) && decide (lead.issuedAt + 32 * x.cpos ≤ s.cycle + s.issueDelay c)

/-- A watchpoint of a tenant space is armed (R353). -/
def State.armed (s : State) (tenant : Nat) : Bool :=
  s.quarters.any fun q => q.2.watch.any fun w => (w.2.mode = 1 || w.2.mode = 2) && w.2.tenant = tenant

/-- The sink holds back a core, whichever of its contexts would issue: it is lossless and full, and this bundle, another context's
or an earlier record of the core finds it so (R350). -/
def State.traceHolds (s : State) (core : Nat) (tp : Bool) : Bool :=
  let k := (s.quarter (quarterOf core)).sink
  k.enabled && k.lossless && k.full &&
    (tp || ((contextsOf core).any fun c => (s.ctx c).st = .resident && (s.ctx c).iss.cause = some .trace) ||
      (k.buffer.drop (Config.sinkBuffer + 1)).any fun r => some r.core = (s.core core).logical)

/-- A watchpoint report of an engine that can wait no longer (R355). -/
def Ctx.overdue (x : Ctx) : Option Report := x.reports.find? fun r => r.code = 0x11 && decide (r.bundles + 64 ≤ x.bundles)

/-- A report that is not one of the list. -/
def dropReport (r : Report) : List Report → List Report
  | [] => []
  | q :: l => if q = r then l else q :: dropReport r l

/-- A context stops with what an engine reports (R40, R355). -/
def State.deliverReport (s : State) (c : Nat) (r : Report) : State :=
  let s := s.modCtx c fun x => { x with reports := dropReport r x.reports }
  let e : EngineFault := { engid := r.engid, code := if r.code = 4 then 4 else 0 }
  s.stopWith c (engineFaultWord r.code r.detail 0 e 0) r.addr 0 (s.ctx c).skip

/-- The page walk asked for by a trial is kept, and that the context waits for it; all else of the trial is dropped (R21). -/
def State.keepWalks (s t : State) : State :=
  let q := quarterOf (coreOf s.cur)
  (s.modQuarter q fun x => { x with walks := (t.quarter q).walks }).modMe fun x => { x with asked := t.me.asked }

/-! ## Slots in commit order (R174) -/

/-- Whether some slot holds the bundle back: a slot that would fault hides no wait of a later one. -/
def State.trySlots (s : State) : List (Nat × Instr) → State × Option Wait
  | [] => (s, none)
  | x :: l =>
    match slotMeaning x.2 s with
    | .next t =>
      match t.me.iss.cause with
      | some w => (t, some w)
      | none => if t.me.st = .resident then t.trySlots l else s.trySlots l
    | _ => s.trySlots l

/-- The slots take effect in index order until one stops the context. -/
def State.runSlots (s : State) : List (Nat × Instr) → State
  | [] => s
  | x :: l =>
    match slotMeaning x.2 s with
    | .next t => if t.me.st = .resident then t.runSlots l else t
    | _ => s

/-! ## An offer (R156, R168) -/

/-- What an offered bundle comes to: it waits, the context stops before any slot, or its slots issue. -/
inductive Front
  | wait (w : Wait) (s : State)
  | stop (s : State)
  | issue (s : State) (w : BitVec 256) (l : List (Nat × Instr))

/-- The pattern that a context is to issue: its lead's for a Caravan member, else what it fetches (R62, R140). -/
def State.pattern (s : State) : Fetched × BitVec 256 :=
  let x := s.me
  if x.follows then (.ok [], (s.ctx (s.leadOf s.cur)).words)
  else
    match s.fetched s.cur x.pc with
    | .ok line => (.ok line, bundleOf line x.pc)
    | f => (f, 0#256)

/-- A `fence.s` that has issued still waits: for an access before it, or at scope 5 for its answer (R74, R75). -/
def Ctx.fenceHolds (x : Ctx) : Bool :=
  match x.fenceWait with
  | some n => (x.accesses.any fun a => a.global && decide (a.id < n)) || farHolds x.far (if x.fenceFar then 5 else 0) n
  | none => false

/-- The front of an offer, for the issuing context with its registers taken (R210). -/
def State.front (s : State) : Front :=
  let x := s.me
  if s.armed x.tenant && x.accesses.any fun a => a.global && a.writes then .wait .watch s
  else if !x.ticketWait.isEmpty then .wait .ticket s
  else if x.fenceHolds then .wait .fenceS s
  else
    match x.doom with
    | (code, detail, slot, addr) :: l =>
      .stop ((s.modMe fun y => { y with doom := l }).stopWith s.cur (faultWord code detail slot) addr 0 x.skip)
    | [] =>
      match x.overdue with
      | some r => .stop (s.deliverReport s.cur r)
      | none =>
        if ((s.launch x.launch).team x.team).orphan then
          .stop ({ s with fresh := s.fresh + 1 }.stopWith s.cur (faultWord 0x12 0 0) (s.faultAddress none) 0 x.skip)
        else if !s.peersReady s.cur then .wait .peers s
        else
          let s := if x.follows then s.modMe fun y => { y with pc := (s.ctx (s.leadOf s.cur)).lastPc } else s
          match s.pattern with
          | (.miss, _) => .wait .fetch s
          | (.fault code detail, _) => .stop ((s.modMe fun y => { y with words := 0#256 }).raise code detail 0 s.me.pc)
          | (.ok _, w) =>
            if s.traceHolds (coreOf s.cur) (w.getLsbD 14) then .wait .trace s
            else
              match s.decode w with
              | .error (slot, reason) => .stop (s.illegal slot reason)
              | .ok l =>
                match s.trySlots l with
                | (t, some w) => .wait w (s.keepWalks t)
                | (_, none) => .issue s w l

/-- The issuing context with its registers as they stand, or as they stood when the slots of its bundle first issued
(R210, R228). What it waits for is found anew. -/
def State.taken (s : State) (c : Nat) : State :=
  let s := { s with cur := c, snap := some ((s.ctx c).entry.getD (s.ctx c).r) }
  s.modMe fun x => { x with asked := none, iss := { x.iss with cause := none } }

/-- No bundle is at issue any more. -/
def State.settled (s : State) : State := { s with snap := none }

/-- A bundle stops at a slot: its other slots will read the registers as they stood at issue (R210, R228). -/
def State.stopped (s : State) : State := { s.modMe fun x => { x with entry := s.snap } with snap := none }

/-- A context cannot issue: it gives up the width, and the selector runs in this cycle (R168). -/
def State.giveUp (s : State) (c : Nat) (w : Wait) : State :=
  (s.settled.modCtx c fun x => { x with iss := { x.iss with cause := some w, yielding := false } }).modCore (coreOf c)
    fun k => { k with width := none, giver := some c, offerAt := s.cycle }

/-- The loop levels whose body ends at a bundle, from the innermost active one down: an address to go back to, if one
goes on (R237). -/
def Regs.loopEnd (r : Regs) (pc : Word) : List Nat → Regs × Option Word
  | [] => (r, none)
  | n :: l =>
    let lv := r.loopLevel n
    if !lv.active then r.loopEnd pc l
    else if lv.stop != pc then (r, none)
    else
      let i := lv.i + 1#32
      if i.ult lv.n then ({ r with loops := fput r.loops n { lv with i := i } }, some lv.start)
      else ({ r with loops := fput r.loops n { lv with active := false } } : Regs).loopEnd pc l

/-- The registers, the next bundle's address and its pad after a bundle (R164, R237). -/
def Ctx.transfer (x : Ctx) : Regs × Word × Nat :=
  match x.jump with
  | some (t, pad) => (x.r, t, pad)
  | none =>
    match x.r.loopEnd x.pc [3, 2, 1, 0] with
    | (r, some t) => (r, t, 0)
    | (r, none) => (r, x.pc + 32#64, 0)

/-- A context whose bundle has issued, with its registers as they stood at issue (R155, R164). -/
def Ctx.issued (x : Ctx) (cycle phase : Nat) (at' : Regs) : Ctx :=
  let t := x.transfer
  let pad := if x.iss.done then 0 else t.2.2
  { x with entry := none, lastRegs := at', lastWords := x.words
           r := t.1, pc := t.2.1, jump := none, bundles := x.bundles + 1, walkFail := [], skip := 0#6, lastPc := x.pc
           issuedAt := cycle, lastKappa := x.iss.kappa, lastPhase := phase, redo := false
           iss := { x.iss with active := true, pad := pad, nextPhase := (phase + 1 + pad) % 32, cause := none
                               lastIssue := some cycle, idle := 0 } }

/-- A bundle with tp set issues, for the first time: a POINT record, with the scopes that its instructions name (R75, R349). -/
def State.point (s : State) (w : BitVec 256) : State :=
  if w.getLsbD 14 && s.me.entry.isNone then
    s.traceWith (coreOf s.cur) 1 7 (s.cur % 4) s.me.pc (BitVec.ofNat 128 (s.phase s.cur)) (bundleScopes w)
  else s

/-- Every slot has committed: the transfer follows, and the width stays with the context for its next bundle (R164,
R168, R253). -/
def State.complete (s : State) : State :=
  let c := s.cur
  let x := s.me
  let y := x.issued s.cycle (s.phase c) s.rd
  (s.settled.setCtx c y).modCore (coreOf c) fun k =>
    { k with width := if y.iss.done then none else some c, giver := none, offerAt := s.cycle + 1 + y.iss.pad }

/-- A context is offered the issue of its next bundle in this cycle (R156, R168, R169, R174). -/
def State.offer (s : State) (c : Nat) : State :=
  if (s.ctx c).iss.yielding then s.giveUp c .width
  else
    match (s.taken c).front with
    | .wait w t => t.giveUp c w
    | .stop t => t.settled
    | .issue t w l =>
      let t := ((t.point w).modMe fun x => { x with words := w, fenceWait := none, fenceFar := false }).runSlots l
      if t.me.st = .resident then t.complete else t.stopped

/-- A core offers its holder the issue in this cycle. -/
def State.offered (s : State) (core : Nat) : Option Nat :=
  let k := s.core core
  match k.width with
  | some c => if k.offerAt = s.cycle && !k.frozen && (s.ctx c).st = .resident then some c else none
  | none => none

/-- BUNDLE_REOFFER (R156): a bundle that could not issue is offered again, at its phase. -/
def execBundleReoffer (c : Nat) (s : State) : Host.Outcome State Fault Refusal :=
  if s.offered (coreOf c) = some c && (s.ctx c).iss.cause.isSome then .next (s.offer c) else .next s

/-! ## The selector (R143, R168, R169) -/

/-- A context is ready: resident, and held by no cause but the width (R168). DESIGN CHOICE (log entry 16): of a context whose
found cause has cleared the whole bundle is tried, and one that has a further wait, not yet found at an offer, is not ready. -/
def State.ready (s : State) (c : Nat) : Bool :=
  let x := s.ctx c
  x.st = .resident && !x.isDone && (match x.iss.notBefore with | some n => decide (n ≤ s.cycle + s.issueDelay c) | none => false) && s.peersReady c &&
    match x.iss.cause with
    | none => true
    | some .width => true
    | some _ => (match (s.taken c).front with | .wait _ _ => false | _ => true)

/-- The selector's choice for a core whose width nobody holds: the context that gave it up in this cycle last is not
chosen; one that gave it up earlier in the cycle may be (R168; assumption log, 16). -/
def State.selection (s : State) (core : Nat) : Option Nat :=
  let k := s.core core
  if k.width.isSome || k.frozen || decide (s.cycle < k.offerAt) then none
  else s.selectFrom ((contextsOf core).filter fun c => !(k.giver = some c && k.offerAt = s.cycle) && s.ready c)

/-- With no candidate, the context that gave up the width in this cycle, if it is still to issue: it offers its bundle
again at its own phase in the next turn, and nothing is chosen before (R168). -/
def State.reoffer (s : State) (core : Nat) : Option Nat :=
  let k := s.core core
  k.giver.filter fun c => k.width.isNone && !k.frozen && k.offerAt = s.cycle && (s.ctx c).st = .resident && !(s.ctx c).isDone &&
    (s.ctx c).iss.notBefore.isSome

/-- Cycles until the next turn in which a context can offer its bundle. -/
def State.turnDelay (s : State) (c : Nat) : Nat := if s.issueDelay c = 0 then 32 else s.issueDelay c

/-- ISSUE_SELECTION (R168, R349): the chosen context issues when its phase comes round; another than the last holder
makes a SWITCH record. -/
def execIssueSelection (core : Nat) (s : State) : Host.Outcome State Fault Refusal :=
  let k := s.core core
  match s.selection core with
  | some c =>
    let t := s.setCore core { k with width := some c, giver := none, lastHeld := some c, offerAt := s.cycle + s.issueDelay c }
    if k.lastHeld = some c then .next t
    else
      let addr := match k.lastHeld with | some g => (s.ctx g).pc | none => 0#64
      .next (t.trace core 3 7 (k.lastHeld.getD c % 4) addr (BitVec.ofNat 128 (c % 4)))
  | none =>
    match s.reoffer core with
    | some c => .next (s.setCore core { k with width := some c, giver := none, offerAt := s.cycle + s.turnDelay c })
    | none => .next s

/-- FORCED_YIELD (R143, R169): at the turn boundary after 4,096 turns. -/
def execForcedYield (c : Nat) (s : State) : Host.Outcome State Fault Refusal :=
  let x := s.ctx c
  if decide (Config.yieldTurns ≤ x.iss.turns) && s.phase c = 0 && x.st = .resident then
    .next (s.setCtx c { x with iss := { x.iss with yielding := true, turns := 0 } })
  else .next s

/-- WATCHPOINT_IMPRECISE_STOP (R355). -/
def execWatchpointImpreciseStop (c : Nat) (s : State) : Host.Outcome State Fault Refusal :=
  let x := s.ctx c
  match x.reports.find? fun r => r.code = 0x11 with
  | some r => if x.st = .resident then .next (s.deliverReport c r) else .next s
  | none => .next s

/-! ## One cycle of a context -/

/-- Another context of the core, of equal or higher class, is ready (R143). -/
def State.rival (s : State) (c : Nat) : Bool :=
  (contextsOf (coreOf c)).any fun d => d != c && decide (s.classOf c ≤ s.classOf d) && s.ready d

/-- A member of a context's Caravan waits for an engine, so that the Caravan waits as one (R140, R299). -/
def State.caravanWaits (s : State) (c : Nat) : Bool :=
  let x := s.ctx c
  decide (0 < x.csize) && (List.range x.csize).any fun p =>
    match s.memberAt c p with
    | some m => (s.ctx m).iss.cause != some .caravan && (s.ctx m).engineWait
    | none => false

/-- A context that cannot issue is offered its bundle anew at its phase: what keeps it now is the cause, and walks it
needs are asked for (R20, R156). -/
def State.askAnew (s : State) (c : Nat) : State :=
  let x := s.ctx c
  if x.st = .resident && x.iss.cause.isSome && x.iss.cause != some .width && s.phase c = x.iss.nextPhase then
    match (s.taken c).front with
    | .wait w t =>
      let w := if w = .peers && s.caravanWaits c then .caravan else w
      t.settled.modCtx c fun x => { x with iss := { x.iss with cause := some w } }
    | _ => s
  else s

/-- A command of a dray or a fill waits for its issuer's κ to reach issue + 3: a pending effect (R175). -/
def State.kappaPending (s : State) (c : Nat) : Bool :=
  let k := s.core (coreOf c)
  let n := (s.ctx c).iss.kappa
  let fills := [fget none k.gathers 0, fget none k.gathers 1, fget none k.loads 0, fget none k.loads 1].filterMap id
  (fills.any fun f => f.owner = c && decide (n < f.issueK + 3)) ||
    k.drays.any fun d => (d.2.running.toList ++ d.2.shadow.toList).any fun y => y.owner = c && decide (n < y.issueK + 3)

/-- A context passes to the next cycle (R123, R143, R154, R155, R164, R175). -/
def State.nextCycle (s : State) (c : Nat) : State :=
  let s := s.askAnew c
  let x := s.ctx c
  let i := x.iss
  let phase := (s.phase c + 1) % 32
  let live := x.st = .resident
  let pad := live && decide (0 < i.pad) && (i.nextPhase + 32 - phase) % 32 = i.pad
  let boundary := phase = 0 && live
  let issuedNow := match i.lastIssue with | some n => decide (s.cycle < n + 32) | none => false
  let turns := if !boundary then i.turns else if issuedNow && s.rival c then i.turns + 1 else 0
  let m := x.man
  s.setCtx c { x with
    wroteS := [], wroteP := []
    man := { m with mstall := if i.cause = some .manifest && phase = i.nextPhase then m.mstall + 1 else m.mstall }
    iss := { i with kappa := if i.active then i.kappa + 1 else i.kappa
                    idle := if x.engineWait then i.idle + 1 else i.idle
                    active := pad || (live && x.isDone && (!x.pend.isEmpty || s.kappaPending c))
                    pad := if pad then i.pad - 1 else i.pad
                    turns := turns } }

/-- A violation of an engine stops the context that issued its command at a bundle boundary (R40). -/
def State.boundaryStop (s : State) (c : Nat) : State :=
  match (s.ctx c).reports.find? fun r => r.code = 4 with
  | some r => if (s.ctx c).st = .resident then s.deliverReport c r else s
  | none => s

end Sys2Proof.Machine
end

