-- ==== Sys2Proof/Machine/Teams.lean ====
section
/-!
DEFINITION. Launches and their teams (R134–R146, R189): the geometry of a launch, the places for a team, the head of
a Quarter's queue, installation and release.
-/

namespace Sys2Proof.Machine

/-! ## Launches and teams -/

/-- A team waits to be installed or resumed. -/
def Team.queued (t : Team) : Bool := t.st = .waiting || t.st = .saved

/-- No team of the launch has been installed. -/
def Launch.untouched (l : Launch) : Bool := l.teams.all fun e => e.2.st = .waiting

/-- A loaded object (R132). -/
def State.object (s : State) (h : Word) : Option Object := s.pf.objects.find? fun o => o.handle = h

/-! ## Places (R140, R141) -/

/-- What a team needs of a core. -/
structure Room where
  rows : Nat
  entries : Nat
  banks : BitVec 48
  deriving DecidableEq, Repr

/-- The needs of a launch's teams (R141). -/
def Launch.room (l : Launch) (o : Object) : Room :=
  { rows := l.accrows, entries := (o.cwt.length + 31) / 32 * 32, banks := l.grant }

/-- A context is held for a co-resident launch that waits for the others it needs (R142). -/
def State.claimed (s : State) (c : Nat) : Bool := s.launches.any fun e => e.2.claiming && !e.2.ended && e.2.claims.contains c

/-- Free contexts of a core that no launch waits for (R141, R142). -/
def State.freeOn (s : State) (core : Nat) : List Nat := (contextsOf core).filter fun c => (s.ctx c).st = .free && !s.claimed c

/-- Runs that the partitions of a core's contexts take. -/
def State.runs (s : State) (core : Nat) (f : Ctx → Nat × Nat) : List (Nat × Nat) :=
  ((contextsOf core).filter fun c => (s.ctx c).st != .free).map fun c => f (s.ctx c)

/-- The lowest place, a multiple of 32, for a run of n among 512 (R141). -/
def firstFit (used : List (Nat × Nat)) (n : Nat) : Option Nat :=
  ((List.range 16).map (32 * ·)).find? fun b => decide (b + n ≤ 512) && used.all fun u => decide (u.2 ≤ b) || decide (b + n ≤ u.1)

/-- The first accumulator row and control-word entry of a new team's partitions on a core. -/
def State.rowBase (s : State) (core n : Nat) : Option Nat := firstFit (s.runs core fun x => (x.accbase, x.acclim)) n
def State.entryBase (s : State) (core n : Nat) : Option Nat := firstFit (s.runs core fun x => (x.cwbase, x.cwlim)) n

/-- A core can take a team (R141, R179). -/
def State.hasRoom (s : State) (core : Nat) (n : Room) : Bool :=
  let k := s.core core
  k.logical.isSome && !k.frozen && !k.retired && !(s.freeOn core).isEmpty &&
    (banksOf n.banks).all (fun b => fget 0 k.bankOwner b = 0) && (s.rowBase core n.rows).isSome &&
    (s.entryBase core n.entries).isSome

/-- One core stands before another in the ranking: more free contexts, then the lower logical number (R141). -/
def State.rankedBefore (s : State) (a b : Nat) : Bool :=
  let free (n : Nat) : Nat := (s.freeOn n).length
  let logical (n : Nat) : Nat := (s.core n).logical.getD 0
  decide (free b < free a) || (free a = free b && decide (logical a < logical b))

/-- Insert a core in the ranking. -/
def State.rankIn (s : State) (n : Nat) : List Nat → List Nat
  | [] => [n]
  | m :: l => if s.rankedBefore n m then n :: m :: l else m :: s.rankIn n l

/-- The ranking of cores (R141). -/
def State.ranking (s : State) (l : List Nat) : List Nat := l.foldl (fun acc n => s.rankIn n acc) []

/-- Cores for a unit of n teams in a Quarter, by position: for one team the first of the ranking, for a Caravan the
first n of the Plaza whose chosen cores hold the most free contexts (R141). -/
def State.places (s : State) (quarter n : Nat) (ok : Nat → Bool) : Option (List Nat) :=
  let plazas := (List.range 6).map fun p => (List.range 9).map fun k => 54 * quarter + 9 * p + k
  if n ≤ 1 then (s.ranking (plazas.flatten.filter ok)).head?.map fun c => [c]
  else
    let total (l : List Nat) : Nat := (l.map fun c => (s.freeOn c).length).sum
    ((plazas.map fun l => (s.ranking (l.filter ok)).take n).filter fun l => l.length = n).foldl
      (fun acc l => match acc with
        | none => some l
        | some m => if total m < total l then some l else some m) none

/-! ## The queue (R141, R142, R144) -/

/-- A launch's places in a Quarter are held for a newcomer that has not ended (R144). -/
def State.drainedIn (s : State) (l quarter : Nat) : Bool :=
  (fget [] (s.launch l).drained quarter : List Nat).any fun n => !(s.launch n).ended

/-- Places are held for a launch no more in the Quarters where all its teams have been installed (R144). -/
def State.endDrains (s : State) (n : Nat) : State :=
  let x := s.launch n
  let waits (q : Nat) : Bool := (x.teamsIn q).any fun t => (x.team t).queued
  { s with launches := s.launches.map fun (e : Nat × Launch) =>
      (e.1, { e.2 with drained := e.2.drained.map fun (d : Nat × List Nat) => (d.1, d.2.filter fun m => m != n || waits d.1) }) }

/-- The next team of a launch in a Quarter: saved teams first, in identifier order (R144). -/
def Launch.nextIn (l : Launch) (quarter : Nat) : Option Nat :=
  match (l.teamsIn quarter).find? fun t => (l.team t).st = .saved with
  | some t => some t
  | none => (l.teamsIn quarter).find? fun t => (l.team t).st = .waiting

/-- Launches with a team to install or resume in a Quarter. -/
def State.queuedIn (s : State) (quarter : Nat) : List Nat :=
  (s.launches.map (·.1)).filter fun l =>
    let x := s.launch l
    !x.ended && !x.killing && (x.nextIn quarter).isSome

/-- A launch holds a team saved because the spare core was in use (R144, R179). -/
def State.urgentIn (s : State) (quarter l : Nat) : Bool :=
  let x := s.launch l
  (x.teamsIn quarter).any fun t => (x.team t).st = .saved && (x.team t).urgent

/-- One launch stands before another: higher class, then one that waits for its contexts at the head of its class, then
earlier admitted (R141, R142). -/
def State.launchBefore (s : State) (a b : Nat) : Bool :=
  let x := s.launch a
  let y := s.launch b
  decide (y.prio < x.prio) || (x.prio = y.prio && (if x.claiming = y.claiming then decide (a < b) else x.claiming))

/-- The first of some launches in a Quarter's queue, with its team to install or resume next (R141). -/
def State.headOf (s : State) (quarter : Nat) (l : List Nat) : Option (Nat × Nat) :=
  (l.foldl (fun acc n => match acc with
    | none => some n
    | some m => if s.launchBefore n m then some n else some m) none).bind fun n =>
      ((s.launch n).nextIn quarter).map fun t => (n, t)

/-- The head of a Quarter's queue (R141, R142, R144): a team saved because the spare core was in use, and else the head of
the highest class. -/
def State.queueHead (s : State) (quarter : Nat) : Option (Nat × Nat) :=
  let l := s.queuedIn quarter
  match l.find? (s.urgentIn quarter) with
  | some n => s.headOf quarter [n]
  | none => s.headOf quarter (l.filter fun n => !s.drainedIn n quarter)

/-- The newcomers that a Quarter may have: the head of its queue, and those of its classes (R144). -/
def State.classHeads (s : State) (quarter : Nat) : List (Nat × Nat) :=
  let l := (s.queuedIn quarter).filter fun n => !s.drainedIn n quarter
  let heads := [3, 2, 1, 0].filterMap fun p => s.headOf quarter (l.filter fun n => (s.launch n).prio = p)
  (s.queueHead quarter).toList ++ heads.filter fun h => s.queueHead quarter != some h

/-! ## Installation (R139, R140, R146) -/

/-- Banks are granted and zeroed (R32, R151). -/
def State.grantBanks (s : State) (c : Nat) (m : BitVec 48) : State :=
  let l := banksOf m
  s.modCore (coreOf c) fun k =>
    { k with bankOwner := l.foldl (fun o b => fput o b (c + 1)) k.bankOwner
             bankZero := l.foldl (fun o b => fput o b (s.cycle + Config.bankZeroCycles)) k.bankZero
             released := l.foldl (fun o b => fdel o b) k.released
             scratch := l.foldl (fun o b => mclear o (0x10000 * b) 0x10000) k.scratch
             spPoison := k.spPoison.filter fun u => !m.getLsbD (bankOf (16 * u)) }

/-- The registers of a team at its start (R115, R139). -/
def startRegs (l : Launch) (o : Object) (t pos : Nat) : Regs :=
  let i := indicesOf l.spatial t
  let n := l.temporal
  let w (x : Nat) : Word := BitVec.ofNat 64 x
  { s := [(1, w (i.getD 0 0)), (2, w (i.getD 1 0)), (3, w (i.getD 2 0)), (4, w (i.getD 3 0)), (5, w t), (6, w l.count),
          (7, l.args), (8, w pos), (9, w (n.getD 0 0)), (10, w (n.getD 1 0)), (11, w (n.getD 2 0)), (12, w (n.getD 3 0))]
    fmt := o.fmtab.zipIdx.map fun x => (x.2, x.1)
    opt := o.optab
    spanR := if l.det then [(0, BitVec.allOnes 48)] else []
    spanW := if l.det then [(0, BitVec.allOnes 48)] else [] }

/-- A line of code enters a core's L1I ahead of need; one that cannot be fetched, or whose page the walker cannot walk now, is
passed over (R21, R64, R146). -/
def State.warmLine (s : State) (core tenant : Nat) (va : Word) : State :=
  if decide (2 ^ 55 ≤ va.toNat) || !s.mayTranslate core tenant va { ex := true } || ((s.core core).l1i.any fun e => e.1 = lineKey tenant va.toNat) then s
  else
    match s.translateNow core tenant va { ex := true } with
    | (.ok pa _, t) =>
      if t.backed pa && !t.poisoned pa then
        t.modCore core fun k => { k with l1i := fput k.l1i (lineKey tenant va.toNat) (pa / 128, mread t.mem (pa / 128 * 128) 128) }
      else t
    | _ => s

/-- The lines from an entry bundle on, as far as 16 KiB, enter a core's L1I (R146). -/
def State.warm (s : State) (core tenant : Nat) (entry : Word) : State :=
  (List.range 128).foldl (fun s i => s.warmLine core tenant (entry + BitVec.ofNat 64 (128 * i))) s

/-- The address of an object's entry bundle (R129). -/
def Object.start (o : Object) : Word := BitVec.ofNat 64 (o.bundleVa + o.entry)

/-- Place of a unit's member: its context, its position, the members, and the lead's context. -/
structure Seat where
  ctx : Nat
  pos : Nat := 0
  size : Nat := 0
  lead : Nat := 0
  deriving DecidableEq, Repr

/-- A context as installation leaves it (R139, R146). -/
def installed (old : Ctx) (l : Launch) (n t : Nat) (o : Object) (m : Manifest) (p : Seat) (rows entries : Nat) (need : Room) :
    Ctx :=
  { st := .resident, launch := n, team := t, tenant := l.tenant, pc := o.start, r := startRegs l o t p.pos
    iss := { off := old.iss.off }, man := m, cwbase := entries, cwlim := entries + need.entries, accbase := rows
    acclim := rows + need.rows, handover := l.handover, cpos := p.pos, csize := p.size }

/-- A team is installed in a context (R139, R141, R146). -/
def State.install (s : State) (n t : Nat) (o : Object) (p : Seat) : State :=
  let l := s.launch n
  let core := coreOf p.ctx
  let need := l.room o
  let rows := (s.rowBase core need.rows).getD 0
  let entries := (s.entryBase core need.entries).getD 0
  let words := (o.cwt ++ List.replicate need.entries 0#256).take need.entries
  let s := s.setCtx p.ctx (installed (s.ctx p.ctx) l n t o (s.manifestOf l t) p rows entries need)
  let s := s.modCore core fun k => { k with cwt := words.zipIdx.foldl (fun m w => fput m (entries + w.2) w.1) k.cwt }
  let s := s.grantBanks p.ctx l.grant
  let s := s.modTeam n t fun x => { x with st := .resident, ctx := p.ctx }
  let s := s.modLaunch n fun x => { x with pass := x.pass ++ [t] }
  (s.warm core l.tenant o.start).sched p.ctx 1

/-- The seats of a unit on chosen cores: the lowest free context of each. -/
def State.seats (s : State) (cores : List Nat) (size : Nat) : List Seat :=
  let c (n : Nat) : Nat := (s.freeOn n).headD (4 * n)
  cores.zipIdx.map fun x => { ctx := c x.1, pos := x.2, size := if size ≤ 1 then 0 else size, lead := c (cores.headD 0) }

/-- A unit of teams is installed, if there are places. -/
def State.installUnit (s : State) (n t : Nat) (o : Object) : Option State :=
  let l := s.launch n
  (s.places (l.quarterOf t) l.gangSize fun c => s.hasRoom c (l.room o)).map fun cores =>
    ((l.unitOf t).zip (s.seats cores l.gangSize)).foldl (fun s x => s.install n x.1 o x.2) s

/-- Every team of a launch is installed at once, if all fit (R142). -/
def State.installAll (n : Nat) (o : Object) : List Nat → State → Option State
  | [], s => some s
  | t :: l, s => (s.installUnit n t o).bind (State.installAll n o l)

/-- The first team of each unit of a launch. -/
def Launch.units (l : Launch) : List Nat := (List.range l.count).filter fun t => t % l.gangSize = 0

/-! ## Victims (R37, R142, R144) -/

/-- What pre-emption does to a victim (R144). -/
inductive Preempt
  | drain | checkpoint | kill
  deriving DecidableEq, Repr

/-- A tenant's key slot can seal one more image (R37). -/
def State.canSeal (s : State) (tenant : Nat) : Bool :=
  let k : KeySlot := fget {} s.pf.keys tenant
  k.key.isSome && decide (k.counter + 1 < 2 ^ 64)

/-- Checkpoint is available to a launch (R144). -/
def State.canCheckpoint (s : State) (l : Nat) : Bool := (s.launch l).ckpt != 0#64 && s.canSeal (s.launch l).tenant

/-- The action that a victim's state selects (R144). -/
def State.actionOn (s : State) (l : Nat) : Option Preempt :=
  let x := s.launch l
  let elapsed := s.tick - x.t0.getD s.tick
  if x.estimate != 0xFFFFFFFF && decide (1000 * x.estimate ≤ 1000 * s.pf.drainWindow + elapsed) then some .drain
  else if s.canCheckpoint l then some .checkpoint
  else if x.killable then some .kill
  else none

/-- Running launches with a team installed in a Quarter and fewer priority tokens (R144). -/
def State.victims (s : State) (newcomer tokens quarter : Nat) : List Nat :=
  (s.launches.map (·.1)).filter fun l =>
    let x := s.launch l
    l != newcomer && !x.ended && !x.killing && decide (x.tokens < tokens) &&
      (x.teamsIn quarter).any fun t => (x.team t).st = .resident

/-- The machine as it would be were a context free. -/
def State.withoutCtx (s : State) (c : Nat) : State :=
  (s.setCtx c {}).modCore (coreOf c) fun k => { k with bankOwner := k.bankOwner.filter fun e => e.2 != c + 1 }

/-- The machine as it would be were every context that pre-emption can obtain for a launch free (R142). -/
def State.afterPreemption (s : State) (n : Nat) : State :=
  let x := s.launch n
  ((setBits x.qmask).flatMap fun q => ((s.victims n x.tokens q).filter fun v => (s.actionOn v).isSome).flatMap fun v =>
      let y := s.launch v
      ((if y.cores then List.range y.count else y.teamsIn q).filter fun t => (y.team t).st = .resident).map
        fun t => (y.team t).ctx).foldl State.withoutCtx s

/-! ## The report's status (R135, R153) -/

/-- Bytes written in a tenant space by firmware or the front end, page by page; false where one does not translate
with WR. -/
def State.vwrite (s : State) (tenant : Nat) : (va : Nat) → List (List Byte) → Bool × State
  | _, [] => (true, s)
  | va, b :: l =>
    match s.walk tenant va with
    | .ok e entry =>
      if e.perms.getLsbD 3 then
        let pa := e.pa va
        let s := (s.markLeaf entry true).homeWrite (.outside 3) 0x10 pa b
        s.vwrite tenant (va + b.length) l
      else (false, s)
    | _ => (false, s)

/-- Bytes in chunks of eight, none of which crosses a page where the first is aligned. -/
def chunks8 : (fuel : Nat) → List Byte → List (List Byte)
  | 0, _ => []
  | n + 1, l => if l.isEmpty then [] else l.take 8 :: chunks8 n (l.drop 8)

/-- A report that cannot be written: firmware is told, and an audit record is made (R135). -/
def State.unreported (s : State) (tenant queue : Nat) (report : Word) : State :=
  (s.audit 9 tenant 0xFF [BitVec.ofNat 64 queue, report]).notice 9 tenant queue report.toNat

/-- A launch is refused: the status word alone is written (R135). -/
def State.refuseLaunch (s : State) (n status : Nat) : State :=
  let l := s.launch n
  let r := s.vwrite l.tenant l.report.toNat [toBytes 4 status]
  let s := if r.1 then r.2 else s.unreported l.tenant l.queue l.report
  s.modLaunch n fun x => { x with ended := true, status := status, claiming := false, claims := [] }

/-! ## The events -/

/-- The contexts held for a launch are its own to use (R142). -/
def State.unclaimed (s : State) (n : Nat) : State := s.modLaunch n fun x => { x with claiming := false, claims := [] }

/-- A co-resident launch's turn: it is installed at once, waits for the contexts that pre-emption can obtain, which are
held for it, or is refused (R142). -/
def State.coInstall (s : State) (n : Nat) (o : Object) : State :=
  let units := (s.launch n).units
  match State.installAll n o units (s.unclaimed n) with
  | some t => t
  | none =>
    if (s.launch n).claiming then s
    else
      match State.installAll n o units (s.afterPreemption n) with
      | some t => s.modLaunch n fun x => { x with claiming := true, claims := (t.launch n).teams.map fun e => e.2.ctx }
      | none => s.refuseLaunch n 9

/-- The records of a launch's teams can be written in every Quarter that an act on it in one Quarter reaches (R21, R123). -/
def State.schedsReady (s : State) (l quarter : Nat) : Bool :=
  (if (s.launch l).cores then setBits (s.launch l).qmask else [quarter]).all (s.schedReady l)

/-- TEAM_INSTALL (R139–R142, R146): the head of a Quarter's queue, where it is a team to install. -/
def execTeamInstall (quarter : Nat) (s : State) : Host.Outcome State Fault Refusal :=
  match s.queueHead quarter with
  | some (n, t) =>
    let l := s.launch n
    match s.object l.object with
    | some o =>
      if (l.team t).st != .waiting || !s.schedsReady n quarter then .next s
      else if l.cores && l.untouched then .next ((s.coInstall n o).endDrains n)
      else .next (((s.installUnit n t o).getD s).endDrains n)
    | none => .next s
  | none => .next s

/-- TEAM_RELEASE (R109, R140, R146, R165): the teams of a pass issue their entry bundles at Φ 0, a Caravan member 32·p
cycles after its lead; T0 is now. -/
def execTeamRelease (launch quarter : Nat) (s : State) : Host.Outcome State Fault Refusal :=
  let l := s.launch launch
  let now := l.pass.filter fun t => l.quarterOf t = quarter
  if now.isEmpty then .next s
  else
    let s := now.foldl (fun s t => s.modCtx (l.team t).ctx fun x =>
      { x with iss := { x.iss with off := (32 - s.cycle % 32) % 32, nextPhase := 0, notBefore := some (s.cycle + 32 * x.cpos) } }) s
    .next (s.modLaunch launch fun x =>
      { x with pass := x.pass.filter fun t => x.quarterOf t != quarter
               t0 := match x.t0 with | some n => some n | none => some s.tick })

end Sys2Proof.Machine
end

