-- ==== Sys2Proof/Machine/Ending.lean ====
section
/-!
DEFINITION. The end of teams and launches (R39, R40, R118, R145, R153, R174, R178, R185, R186): resumption and ending by
firmware, kills, finishing, the scrub of a released context, and the launch report.
-/

namespace Sys2Proof.Machine

/-! ## What a context has under way -/

/-- The commands of a context on its core's drays, with the dray of each. -/
def State.drayCmds (s : State) (c : Nat) : List (Nat × DrayCmd) :=
  [0, 1].flatMap fun d =>
    let x := (s.core (coreOf c)).dray d
    ((x.running.toList ++ x.shadow.toList).filter fun y => y.owner = c).map fun y => (d, y)

/-- A share of a ganged command has its lead on a core (R299). -/
def State.feedsShares (s : State) (core : Nat) : Bool :=
  (List.range 9).any fun k => (s.core (plazaOf core * 9 + k)).cmds.any fun m =>
    match m.lead with
    | some l => l.1 = core
    | none => false

/-! ## Ending a team (R145, R178, R185) -/

/-- The cause that a fault gives a team which firmware does not resume (R145). -/
def causeOf (fault : Word) : Cause :=
  let code := (fault.extractLsb' 0 8).toNat
  let detail := (fault.extractLsb' 8 8).toNat
  if code = 4 then .violation else if code = 0x14 && (detail = 2 || detail = 3) then .memerr else .fault

/-- The state of a team that ended with a cause (R145). -/
def endState (cause : Cause) : TeamState :=
  match cause with
  | .none => .finished
  | .killed => .ended
  | _ => .faulted

/-- The first team of a launch to end with a cause other than KILLED is noted (R153). -/
def State.noteFirst (s : State) (l t : Nat) (cause : Cause) : State :=
  if cause = .none || cause = .killed then s
  else s.modLaunch l fun x => { x with first := match x.first with | some n => some n | none => some t }

/-- A team ends, in whatever place it is (R145). -/
def State.teamOver (s : State) (l t : Nat) (cause : Cause) (fault faddr : Word) : State :=
  let s := (s.modTeam l t fun x => { x with st := endState cause, cause := cause, fault := fault, faddr := faddr }).noteFirst l t cause
  if cause = .violation || cause = .memerr then s.condemn l else s

/-- A dray's commands of a context are cancelled, the shadow command first; a collective one leaves its group (R178,
R185). -/
def State.cancelDray (s : State) (core d c : Nat) : State :=
  let s := match ((s.core core).dray d).shadow with
    | some y =>
      if y.owner = c then s.discardShadow core d y else s
    | none => s
  match ((s.core core).dray d).running with
  | some y => if y.owner = c then s.cancelRunning core d y else s
  | none => s

/-- The matrix commands of a context go, and its lease passes (R277). -/
def State.dropMatrix (s : State) (c : Nat) : State :=
  let core := coreOf c
  let s := s.modCore core fun k =>
    { k with cmds := k.cmds.filter fun m => m.owner != c, rowsEnd := if k.lease = some c then min k.rowsEnd k.et else k.rowsEnd }
  if (s.core core).lease = some c then s.passLease core else s

/-- A context that is being released (R186). -/
def Ctx.leaving (x : Ctx) : Ctx :=
  { x with st := .releasing, pend := [], reports := [], doom := []
           iss := { x.iss with cause := none, active := false, pad := 0, yielding := false } }

/-- The team in a context ends: its engine commands are cancelled, those of a group first telling it, what replay holds is
withdrawn, and the context is released once its accesses have performed (R125, R145, R178, R185, R186). -/
def State.endTeam (s : State) (c : Nat) (cause : Cause) : State :=
  let x := s.ctx c
  let s := (((s.cancelDray (coreOf c) 0 c).cancelDray (coreOf c) 1 c).withdraw c).dropMatrix c
  let s := s.modTeam x.launch x.team fun t => { t with mstall := x.man.mstall }
  let s := s.teamOver x.launch x.team cause x.fault x.faddr
  (s.modCtx c Ctx.leaving).dropWidth c

/-- A team ends with a cause, or with VIOLATION where a violation of its engine is still to stop its context (R40). -/
def State.endAs (s : State) (c : Nat) (cause : Cause) : State :=
  match (s.ctx c).reports.find? fun r => r.code = 4 with
  | some r => (s.deliverReport c r).endTeam c .violation
  | none => s.endTeam c cause

/-- FIRMWARE_RESUME (R29, R171, R174, R252): a held context whose fault may be resumed re-enters its bundle. -/
def execFirmwareResume (c : Nat) (mask : BitVec 6) (s : State) : Host.Outcome State Fault Refusal :=
  let x := s.ctx c
  if x.st = .held && resumable x.fault && !(s.core (coreOf c)).frozen then .next (s.resume c mask) else .next s

/-- A context of a launch that is killed: one that violated, by itself or through an engine, keeps that cause (R40,
R145, R185). -/
def State.killContext (s : State) (c : Nat) : State :=
  let x := s.ctx c
  s.endAs c (if x.st = .held && !resumable x.fault then causeOf x.fault else .killed)

/-- The contexts of a context's Caravan, or the context alone (R140). -/
def State.gangOf (s : State) (c : Nat) : List Nat :=
  let x := s.ctx c
  if x.csize = 0 then [c] else (List.range x.csize).filterMap (s.memberAt c)

/-- The other members of a Caravan that stand in contexts are killed (R140; assumption log, 38). -/
def State.killOthers (s : State) (others : List Nat) : State :=
  others.foldl (fun s d => match (s.ctx d).st with
    | .resident => s.killContext d
    | .held => s.killContext d
    | .saving => s.killContext d
    | _ => s) s

/-- FIRMWARE_END_TEAM (R40, R140, R145, R186): a held team ends with the cause of its fault, and its Caravan with it, once
no other member is migrating. -/
def execFirmwareEndTeam (c : Nat) (s : State) : Host.Outcome State Fault Refusal :=
  let others := (s.gangOf c).filter (· != c)
  if (s.ctx c).st != .held || others.any s.stranded then .next s
  else .next ((s.endAs c (causeOf (s.ctx c).fault)).killOthers others)

/-- A team that holds no context is killed (R145). -/
def Team.killed (t : Team) : Team := if t.queued then { t with st := .ended, cause := .killed } else t

/-- KILL (R144, R145, R185): every team of the launch ends. -/
def execKill (launch : Nat) (s : State) : Host.Outcome State Fault Refusal :=
  match ffind s.launches launch with
  | none => .next s
  | some l =>
    if l.ended then .next s
    else
      let s := (s.contextsIn launch).foldl (fun s c =>
        match (s.ctx c).st with
        | .resident => s.killContext c
        | .held => s.killContext c
        | .saving => s.killContext c
        | _ => s) (s.condemn launch)
      .next ((List.range l.count).foldl (fun s t => s.modTeam launch t Team.killed)
        (s.modLaunch launch fun x => { x with claiming := false, claims := [], pass := [] }))

/-! ## Finishing (R145, R253) -/

/-- Every member of a context's Caravan has issued `done` (R253). -/
def State.gangDone (s : State) (c : Nat) : Bool :=
  let x := s.ctx c
  (List.range x.csize).all fun p => p = x.cpos ||
    match s.memberAt c p with
    | some m => (s.ctx m).isDone
    | none => true

/-- `done` has issued, and nothing of the team is under way but its lease and its Manifest's head (R123, R145). -/
def State.finishable (s : State) (c : Nat) : Bool :=
  let x := s.ctx c
  x.st = .resident && x.isDone && x.accesses.isEmpty && x.pend.isEmpty && (s.drayCmds c).isEmpty &&
    !(s.core (coreOf c)).matrixBusy c && !(s.feedsShares (coreOf c)) && !(x.reports.any fun r => r.code = 4) && s.gangDone c

/-- TEAM_FINISH (R145, R253, R277): the lease passes first, and the team is finished when its Manifest's head word is
written. -/
def execTeamFinish (c : Nat) (s : State) : Host.Outcome State Fault Refusal :=
  let x := s.ctx c
  let k := s.core (coreOf c)
  if x.st = .resident && x.isDone && k.lease = some c && !k.matrixBusy c && !(s.feedsShares (coreOf c)) then
    .next (s.passLease (coreOf c))
  else if s.finishable c && (!s.recording c || decide (x.man.lowest ≤ x.man.published)) then
    let s := s.modTeam x.launch x.team fun t => { t with st := .finished, mstall := x.man.mstall, fault := x.fault, faddr := x.faddr }
    .next ((s.modCtx c Ctx.leaving).dropWidth c)
  else .next s

/-! ## The scrub (R39) -/

/-- A released context becomes free: its state is zeroed, and its partitions with it (R39, R141). Its ring goes on
turning (R154). -/
def State.scrub (s : State) (c : Nat) : State :=
  let x := s.ctx c
  let core := coreOf c
  let row (r : Nat) : Bool := decide (x.accbase ≤ r) && decide (r < x.acclim)
  let entry (n : Nat) : Bool := decide (x.cwbase ≤ n) && decide (n < x.cwlim)
  let s := (s.dropMatrix c).dropWidth c
  let s := s.modCore core fun k =>
    { k with acc := k.acc.filter fun e => !row e.1
             accPoison := k.accPoison.filter fun r => !row r
             accWas := k.accWas.filter fun e => !row e.1
             cwt := k.cwt.filter fun e => !entry e.1
             bankOwner := k.bankOwner.filter fun e => e.2 != c + 1 }
  s.setCtx c { iss := { off := x.iss.off } }

/-- A write of a context's engine is on its way (R79, R84). -/
def State.sentBy (s : State) (c : Nat) : Bool := s.ms.sent.any fun x => x.owner = c

/-- SCRUB_COMPLETE (R39, R84, R186). -/
def execScrubComplete (c : Nat) (s : State) : Host.Outcome State Fault Refusal :=
  let x := s.ctx c
  if x.st = .releasing && x.accesses.isEmpty && (s.drayCmds c).isEmpty && !s.sentBy c then .next (s.scrub c) else .next s

/-! ## The end of a launch (R118, R145, R153) -/

/-- A team is in none of the states that keep its launch running (R145). -/
def Team.over (t : Team) : Bool := t.st = .finished || t.st = .ended || t.st = .faulted

/-- Something of a launch has yet to perform or complete (R153). -/
def State.underWay (s : State) (l : Nat) : Bool :=
  s.ms.sent.any (fun x => x.launch = l) || (s.contextsIn l).any fun c =>
    !(s.ctx c).accesses.isEmpty || !(s.drayCmds c).isEmpty || (s.core (coreOf c)).matrixBusy c

/-- The launch's status: that of a violation in it, or the first of the causes that some team has (R40, R145, R153). -/
def Launch.finalStatus (l : Launch) : Nat :=
  let has (c : Cause) : Bool := l.teams.any fun e => e.2.cause = c
  if l.violated || has .violation then 0x0C
  else if has .memerr then 0x0D
  else if has .nokey then 0x0B
  else if has .fault then 0x0E
  else if has .killed then 0x0F
  else 1

/-- The digest section of a deterministic launch before its levels, and the levels (R118). -/
def State.digest (s : State) (n : Nat) : List Byte × List Byte :=
  let l := s.launch n
  let leaves := s.leaves n
  let hashes := leaves.map (·.2)
  let h (x : BitVec 256) : List Byte := toBytes 32 x.toNat
  (toBytes 8 leaves.length ++ toBytes 8 l.closed ++ toBytes 8 l.overflow ++ toBytes 8 l.undigested ++ h (hashRoot hashes) ++
      l.roots.flatMap h ++ leaves.flatMap fun x => toBytes 8 x.1,
    if leaves.isEmpty then [] else (hashLevels hashes.length hashes).reverse.flatMap fun level => level.flatMap h)

/-- As much of the digest section as a report buffer takes, levels by whole entries, and whether some is cut off
(R118). -/
def fitDigest (room : Nat) (d : List Byte × List Byte) : List Byte × Bool :=
  if room < d.1.length then (d.1.take room, true)
  else
    let n := (room - d.1.length) / 32 * 32
    (d.1 ++ d.2.take n, decide (n < d.2.length))

/-- Bytes 4–63 of a report (R153). -/
def Launch.header (l : Launch) (cut : Bool) : List Byte :=
  let first := l.first.map l.team
  let nokey : Bool := match first with | some t => decide (t.cause = .nokey) | none => true
  let w (f : Team → Word) : Nat := if nokey then 0 else ((first.map f).getD 0#64).toNat
  let flags := (if cut then 1 else 0) + (if l.teams.any fun e => e.2.droppedSched then 2 else 0)
  toBytes 4 (l.teams.filter fun e => e.2.st = .finished).length ++ toBytes 8 (l.t0.getD 0) ++ toBytes 8 l.tend ++
    toBytes 1 flags ++ toBytes 7 0 ++ toBytes 8 (l.first.getD (2 ^ 64 - 1)) ++ toBytes 8 (w Team.fault) ++
    toBytes 8 (w Team.faddr) ++ toBytes 8 ((l.teams.foldl (fun n e => n + e.2.mstall) 0) % 2 ^ 64)

/-- The report is written, its status last (R135, R153). -/
def State.writeReport (s : State) (n : Nat) : State :=
  let l := s.launch n
  let d := if l.det then fitDigest (l.replen - 64) (s.digest n) else ([], false)
  let head := l.header d.2
  let body := head.take 4 :: chunks8 (head.length + d.1.length) (head.drop 4 ++ d.1)
  match s.vwrite l.tenant (l.report.toNat + 4) body with
  | (false, t) => t.unreported l.tenant l.queue l.report
  | (true, t) =>
    match t.vwrite l.tenant l.report.toNat [toBytes 4 l.status] with
    | (true, t) => t
    | (false, t) => t.unreported l.tenant l.queue l.report

/-- LAUNCH_END (R117, R118, R145, R153). -/
def execLaunchEnd (launch : Nat) (s : State) : Host.Outcome State Fault Refusal :=
  match ffind s.launches launch with
  | none => .next s
  | some l =>
    if l.ended || !((List.range l.count).all fun t => (l.team t).over) || s.underWay launch then .next s
    else
      let s := s.modLaunch launch fun x => { x with ended := true, status := l.finalStatus, tend := s.tick }
      .next (s.writeReport launch)

end Sys2Proof.Machine
end

