-- ==== Sys2Proof/Machine/Images.lean ====
section
/-!
DEFINITION. Context images (R37, R84, R102, R128, R142, R144, R170, R175, R184, R187–R189): capture, sealing and
saving, the checks of a restore and the restored context, and pre-emption.
-/

namespace Sys2Proof.Machine

/-! ## Ranges of a tenant space, as firmware reads and writes them -/

/-- Pieces of a virtual range, none of which crosses a 64 KiB page. -/
def pagePieces : (fuel : Nat) → (va n : Nat) → List (Nat × Nat)
  | 0, _, _ => []
  | k + 1, va, n =>
    if n = 0 then []
    else
      let m := min (0x10000 - va % 0x10000) n
      (va, m) :: pagePieces k (va + m) (n - m)

/-- Firmware stores bytes in device memory: a line written whole is poisoned no more (R57, R59). -/
def State.deviceWrite (s : State) (pa : Nat) (bytes : List Byte) : State :=
  if s.backed pa then
    ({ s with mem := mwrite s.mem pa bytes }).modMs fun m =>
      { m with poison := m.poison.filter fun l => !(decide (pa ≤ l * 256) && decide (l * 256 + 256 ≤ pa + bytes.length)) }
  else s

/-- The first piece that cannot be read and written: code, reason and address (R18, R25, R184). -/
def State.areaFault (s : State) (tenant : Nat) : List (Nat × Nat) → Option (Nat × Nat × Nat)
  | [] => none
  | (va, _) :: l =>
    if 2 ^ 55 ≤ va then some (3, 1, va)
    else
      match s.walk tenant va with
      | .violation => some (4, 0, va)
      | .fault r => some (3, r, va)
      | .ok e _ =>
        match permFault e.perms { rd := true, wr := true } with
        | some r => some (3, r, va)
        | none => s.areaFault tenant l

/-- Bytes written piece by piece. -/
def State.areaWrite (s : State) (tenant : Nat) : List (Nat × Nat) → List Byte → State
  | [], _ => s
  | (va, n) :: l, b =>
    match s.walk tenant va with
    | .ok e entry => ((s.markLeaf entry true).deviceWrite (e.pa va) (b.take n)).areaWrite tenant l (b.drop n)
    | _ => s

/-- Bytes read piece by piece: none where a piece does not translate, or holds no data. -/
def State.areaRead (s : State) (tenant : Nat) : List (Nat × Nat) → Option (List Byte)
  | [] => some []
  | (va, n) :: l =>
    match s.walk tenant va with
    | .ok e _ =>
      let pa := e.pa va
      if !s.backed pa || s.poisoned pa || s.poisoned (pa + n - 1) then none
      else (s.areaRead tenant l).map fun b => mread s.mem pa n ++ b
    | _ => none

/-- Bytes of a team's part of a checkpoint area (R184). -/
def areaSize : Nat := 0x400000

/-- Where a team's image lies (R184). -/
def Launch.imageAt (l : Launch) (t : Nat) : Nat := l.ckpt.toNat + t * areaSize

/-! ## Quiescence (R84, R175, R184) -/

/-- A dray command's start still waits for its issuer's κ: it is a pending effect (R78, R175). -/
def State.startWaits (s : State) (y : DrayCmd) : Bool := !y.started && decide ((s.ctx y.owner).engineK < y.issueK + 3)

/-- A context's accesses have performed, with the answers of those that go off the device, and its dray commands have
completed but those that wait for κ (R84, R184). -/
def State.quiet (s : State) (c : Nat) : Bool :=
  (s.ctx c).accesses.isEmpty && (s.ctx c).far.isEmpty && !s.sentBy c && (s.drayCmds c).all fun y => s.startWaits y.2

/-- No gather or load of a context that has begun is still filling (R175, R184). -/
def State.fillsSettled (s : State) (c : Nat) : Bool :=
  let k := s.core (coreOf c)
  [(true, false), (true, true), (false, false), (false, true)].all fun u =>
    match (if u.2 then (k.fills u.1).2 else (k.fills u.1).1) with
    | some f => f.owner != c || !s.fillMayBegin k f u.1 u.2
    | none => true

/-! ## Barrier state (R175, R331) -/

/-- A context's instance of a barrier. -/
def State.instanceOf (s : State) (c id : Nat) : Barrier := fget {} s.ms.barriers (barrierKey (s.ctx c).launch (coreOf c) id)

/-- A barrier record with what its instance has come to: whether its generation has completed, and when, for the loads after the
wait (R77, R175). -/
def BarRecord.settled (r : BarRecord) (b : Barrier) : BarRecord :=
  if decide (r.gen < b.gen) then { r with complete := true, stamp := max r.stamp b.stamp } else r

/-- The barrier records that a context carries away: for a core-local instance, whether the generation has completed,
and the arrivals of one that has not (R175). -/
def State.carriedBars (s : State) (c : Nat) : FMap BarRecord :=
  (s.ctx c).bars.map fun (e : Nat × BarRecord) =>
    let b := s.instanceOf c e.1
    if coreLocal e.1 then (e.1, { e.2.settled b with counts := if e.2.cgen = b.gen then e.2.counts else [] }) else e

/-- A context's arrivals at core-local instances whose generation has not completed are removed (R175, R331). -/
def State.removeArrivals (s : State) (c : Nat) : State :=
  (s.carriedBars c).foldl (fun s e =>
    if coreLocal e.1 && !e.2.counts.isEmpty then
      let b := s.instanceOf c e.1
      let n := b.count - e.2.counts.length
      s.modMs fun m => { m with barriers := fput m.barriers (barrierKey (s.ctx c).launch (coreOf c) e.1)
                                              { b with count := n, need := if n = 0 then 0 else b.need } }
    else s) s

/-- Arrivals at one core-local instance are made again, each with the count it fixed (R175, R331). -/
def State.arriveAgain (s : State) (c : Nat) (e : Nat × BarRecord) : State :=
  if coreLocal e.1 && !e.2.counts.isEmpty then
    let gen := (s.instanceOf c e.1).gen
    let s := s.modCtx c fun x =>
      { x with bars := fput x.bars e.1 { e.2 with gen := if e.2.complete then e.2.gen else gen, counts := [], cgen := gen } }
    e.2.counts.foldl (fun s n => s.arrive c (barrierKey (s.ctx c).launch (coreOf c) e.1) e.1 n e.2.scope false) s
  else s

/-- Plaza and Quarter records of a context that stood on a core, with the generations completed since (R175). -/
def State.settledBars (s : State) (launch old : Nat) (bars : FMap BarRecord) : FMap BarRecord :=
  bars.map fun (e : Nat × BarRecord) =>
    if coreLocal e.1 then e else (e.1, e.2.settled (fget {} s.ms.barriers (barrierKey launch old e.1)))

/-- A core is within reach of the Plaza and Quarter instances at which a context has an uncompleted arrival (R175). -/
def State.reaches (s : State) (launch old : Nat) (bars : FMap BarRecord) (core : Nat) : Bool :=
  (s.settledBars launch old bars).all fun e => coreLocal e.1 || !e.2.arrived || e.2.complete ||
    (if e.1 < 48 then plazaOf core = plazaOf old else quarterOf core = quarterOf old)

/-! ## Capture (R170, R175, R184, R188) -/

/-- Registers of a context as an image holds them: the load-store unit is empty, and the line buffer is not part of
it. -/
def State.carriedCtx (s : State) (c : Nat) : Ctx :=
  { s.ctx c with lsu := [], line := none, walkFail := [], bars := s.carriedBars c }

/-- A share that has yet to start keeps the cycles to its start, plus one; 0 where it is not fixed (R299). -/
def MCmd.relative (m : MCmd) (cycle : Nat) : MCmd :=
  if m.start.isNone && m.startAt != 0 then { m with startAt := m.startAt - cycle + 1 } else m

/-- The banks a context owns. -/
def CoreState.banksOwned (k : CoreState) (c : Nat) : BitVec 48 := bankMask ((List.range 48).filter fun b => k.owns c b)

/-- What an image stands for, but for its key and bytes (R188). -/
def State.capture (s : State) (c : Nat) (key : BitVec 256) (bytes : List Byte) : Image :=
  let x := s.carriedCtx c
  let k := s.core (coreOf c)
  let banks := k.banksOwned c
  let lease := k.lease = some c
  let rows := (List.range (x.acclim - x.accbase)).map (· + x.accbase)
  let entries := (List.range (x.cwlim - x.cwbase)).map (· + x.cwbase)
  { tenant := x.tenant, key := key, bytes := bytes, ctx := x, banks := banks
    scratch := k.scratch.filter fun e => banks.getLsbD (bankOf e.1)
    spPoison := k.spPoison.filter fun u => banks.getLsbD (bankOf (16 * u))
    acc := rows.zipIdx.map fun r => (r.2, fget 0#4096 k.acc r.1)
    accPoison := (rows.zipIdx.filter fun r => k.accPoison.contains r.1).map (·.2)
    words := entries.zipIdx.map fun n => (n.2, fget 0#256 k.cwt n.1)
    rows := rows.length, entries := entries.length, lease := lease
    lat := if lease then k.lat else [], bbuf := if lease then k.bbuf else []
    gathers := if lease then k.gathers else [], loads := if lease then k.loads else []
    scales := if lease then k.scales else [], scalePoison := lease && k.scalePoison
    cmds := (k.cmds.filter fun m => m.owner = c).map fun m => m.relative s.cycle
    et := k.et, slew := [k.rampFrom, k.rampLevel, k.rowsEnd, k.level]
    drays := (s.drayCmds c).map (·.2) }

/-! ## Sealing and saving (R36, R37, R184, R187) -/

/-- An image's header (R187). -/
def imageHeader (x : Ctx) (lease : Bool) (counter length : Nat) (object : Word) : List Byte :=
  toBytes 4 0x474D4943 ++ toBytes 2 1 ++ toBytes 2 ((if lease then 1 else 0) + (if x.migrated then 2 else 0)) ++
    toBytes 1 x.tenant ++ toBytes 3 0 ++ toBytes 4 Config.noncePrefix.toNat ++ toBytes 8 counter ++ toBytes 8 length ++
    toBytes 8 x.team ++ toBytes 8 object.toNat ++ toBytes 8 x.launch ++ toBytes 8 0

/-- The length of a section whose payload's layout is not published, by its type and the entries it holds; the bound keeps
every image within 4 MiB (R188; assumption log, 17). -/
def openLength (type n : Nat) : Nat := Config.sectionLength type n % 0x8000

/-- The length of a section of an image, as the table of R188 sizes its contents. -/
def Image.sectionLength (im : Image) (type : Nat) : Nat :=
  let banks := (banksOf im.banks).length
  match type with
  | 0x01 => openLength 1 ((im.ctx.bars.map fun e => e.2.counts.length).sum)
  | 0x02 => 32 * 128
  | 0x03 => 31 * 8
  | 0x04 => 23 * 4
  | 0x05 => 24 * 128
  | 0x06 => openLength 6 (im.ctx.q0.length + im.ctx.q1.length)
  | 0x07 => openLength 7 (im.ctx.pend.length + im.drays.length)
  | 0x0A => 32 * im.entries
  | 0x0B => 8 * 8 + 16 * 4
  | 0x0D => 4 * 2 * 6
  | 0x0F => 6 + banks * 0x10000 + banks * (0x10000 / 16 / 8)
  | 0x10 => 512 * im.rows + im.rows / 8
  | 0x11 => 340 * 1024 + 32 * im.cmds.length
  | n => openLength n 0

/-- The sections of an image, in ascending order: the last is there with the lease (R188). -/
def Image.table (im : Image) : List (Nat × Nat) :=
  ((List.range 16).map (· + 1) ++ if im.lease then [0x11] else []).map fun t => (t, im.sectionLength t)

/-- Zeros that bring a payload to a multiple of 8 (R188). -/
def padding (n : Nat) : Nat := (8 - n % 8) % 8

/-- The sections of an image before they are encrypted: a header of 8 bytes, the payload, and zeros up to a multiple of 8
(R188). What a payload's bytes are is not published: they are free values (assumption log, 17). -/
def plainSections (image : Nat) (l : List (Nat × Nat)) : List Byte :=
  l.flatMap fun x => toBytes 2 x.1 ++ toBytes 2 0 ++ toBytes 4 x.2 ++
    ((List.range x.2).map fun i => Config.payloadByte image x.1 i) ++ List.replicate (padding x.2) 0#8

/-- The bytes of a sealed image: the header, the sections encrypted under the tenant's key with the device's prefix and the
counter as the nonce, and the tag of 16 bytes (R187, R188). -/
def State.imageBytes (s : State) (im : Image) (key : BitVec 256) (counter : Nat) (object : Word) : List Byte :=
  let plain := plainSections s.pf.images.length im.sections
  let header := imageHeader im.ctx im.lease counter (80 + plain.length) object
  header ++ plain.zipIdx.map (fun b => b.1 ^^^ Config.keyStream key counter b.2) ++
    (List.range 16).map fun i => Config.tagByte key counter (header ++ plain) i

/-- A context leaves its core after its image is written: what it had on the drays, the engine and core-local barriers
goes with it (R175, R184). -/
def State.depart (s : State) (c : Nat) : State :=
  let s := (s.removeArrivals c).dropMatrix c
  let gone (y : Option DrayCmd) : Option DrayCmd := y.filter fun y => y.owner != c
  let s := [0, 1].foldl (fun s d => s.modDray (coreOf c) d fun x =>
    match gone x.running, gone x.shadow with
    | none, y => { x with running := y, shadow := none }
    | r, y => { x with running := r, shadow := y }) s
  (s.modCtx c Ctx.leaving).dropWidth c

/-- An image that cannot be written ends its team with cause FAULT (R184). -/
def State.unsaved (s : State) (c code reason va : Nat) : State :=
  let x := s.ctx c
  let s := if code = 4 then (s.audit 10 x.tenant 0xFF [BitVec.ofNat 64 va]).notice 10 c 4 va else s
  (s.modCtx c fun x => { x with fault := faultWord code reason 0, faddr := BitVec.ofNat 64 va }).endTeam c .fault

/-- A context's image is sealed and written, and the context released (R37, R128, R184). -/
def State.saveTeam (s : State) (c : Nat) (key : BitVec 256) : State :=
  let s := s.sched c 2
  let x := s.ctx c
  let l := s.launch x.launch
  let counter := (fget {} s.pf.keys x.tenant : KeySlot).counter + 1
  let s := s.modPf fun p => { p with keys := fput p.keys x.tenant { key := some key, counter := counter } }
  let im := s.capture c key []
  let im := { im with sections := im.table }
  let bytes := s.imageBytes im key counter l.object
  let at' := pagePieces 66 (l.imageAt x.team) bytes.length
  match s.areaFault x.tenant at' with
  | some (code, reason, va) => s.unsaved c code reason va
  | none =>
    let s := (s.areaWrite x.tenant at' bytes).modPf fun p => { p with images := p.images ++ [{ im with bytes := bytes }] }
    (s.modTeam x.launch x.team fun t => { t with st := .saved, counter := counter, mstall := x.man.mstall }).depart c

/-- The checkpoint of a saving context comes to its end (R37, R40, R184): a violation of its engine goes first; one
that can no longer be sealed goes on. -/
def State.finishSave (s : State) (c : Nat) : State :=
  let x := s.ctx c
  match x.reports.find? fun r => r.code = 4 with
  | some r => s.deliverReport c r
  | none =>
    if !(s.quiet c && s.fillsSettled c && s.schedReady x.launch (quarterOf (coreOf c))) then s
    else
      match (fget {} s.pf.keys x.tenant : KeySlot).key with
      | some key => if s.canSeal x.tenant then s.saveTeam c key else s.modCtx c fun y => { y with st := .resident }
      | none => s.modCtx c fun y => { y with st := .resident }

/-- Issue stops at the bundle boundary where a context stands (R184, R186): a held one keeps the slots it has
committed. -/
def State.startSave (s : State) (c : Nat) : State :=
  let x := s.ctx c
  ((s.modLaunch x.launch fun l => { l with saving := l.saving.filter (· != x.team) }).modCtx c fun x =>
    { x with st := .saving, skip := if x.st = .held then x.skip ||| x.donemask else x.skip
             iss := { x.iss with cause := none, active := false } }).dropWidth c

/-- A context may be chosen for a checkpoint (R144, R186). -/
def State.savable (s : State) (c : Nat) : Bool :=
  let x := s.ctx c
  s.canCheckpoint x.launch && !s.stranded c && (x.st = .resident || (x.st = .held && resumable x.fault))

/-- A checkpoint of a context's Caravan, or of the context alone: the members are saved together, so none is chosen while
one of them is migrating, or is held for a fault that ends it (R140, R144). -/
def State.saveGang (s : State) (c : Nat) : State :=
  let l := s.gangOf c
  if l.all fun d => s.savable d || (s.ctx d).st = .saving || (s.ctx d).st = .releasing then (l.filter s.savable).foldl State.startSave s
  else s

/-- CHECKPOINT (R84, R128, R144, R175, R184, R186): a context is chosen, or the image of one that is being saved is
sealed and written. -/
def execCheckpoint (c : Nat) (s : State) : Host.Outcome State Fault Refusal :=
  if (s.ctx c).st = .saving then .next (s.finishSave c)
  else if s.savable c then .next (s.saveGang c)
  else .next s

/-! ## The checks of a restore (R189, R191) -/

/-- What becomes of a saved image that is to be restored. -/
inductive Opened
  | ok (im : Image)
  | nokey
  | bad (detail : Nat)
  deriving DecidableEq, Repr

/-- The image that bytes authenticate as under a key: one that this device sealed, or one that another did (R189). -/
def State.openBytes (s : State) (key : BitVec 256) (b : List Byte) : Option Image :=
  match s.pf.images.find? fun im => im.key = key && im.bytes = b with
  | some im => some im
  | none => openImage key b

/-- Step 1 of R189 on a header. -/
def headerOk (h : List Byte) (tenant : Nat) : Bool :=
  field h 0 4 = 0x474D4943 && field h 4 2 = 1 && field h 8 1 = tenant && decide (80 ≤ field h 24 8) && decide (field h 24 8 ≤ areaSize)

/-- The checks of R189 in their order. -/
def State.openTeam (s : State) (n t : Nat) : Opened :=
  let l := s.launch n
  match s.areaRead l.tenant (pagePieces 2 (l.imageAt t) 64) with
  | none => .bad 5
  | some h =>
    if !headerOk h l.tenant then .bad 5
    else
      match (fget {} s.pf.keys l.tenant : KeySlot).key with
      | none => .nokey
      | some key =>
        match (s.areaRead l.tenant (pagePieces 66 (l.imageAt t) (field h 24 8))).bind (s.openBytes key) with
        | none => .bad 5
        | some im =>
          if im.sections != im.table then .bad 5
          else if field h 16 8 = (l.team t).counter then .ok im
          else .bad 6

/-- A failed restore ends the team and writes no context (R145, R189). -/
def State.unrestored (s : State) (n t : Nat) (o : Opened) : State :=
  match o with
  | .ok _ => s
  | .nokey => s.teamOver n t .nokey 0#64 0#64
  | .bad d => s.teamOver n t .fault (faultWord 0x14 d 0) (s.faultAddress none)

/-! ## The restored context (R141, R170, R175, R189) -/

/-- What an image needs of a core (R189). -/
def Image.room (im : Image) : Room := { rows := im.rows, entries := im.entries, banks := im.banks }

/-- Free places of a dray. -/
def Dray.places (d : Dray) : Nat := (if d.running.isNone then 1 else 0) + (if d.shadow.isNone then 1 else 0)

/-- A core is eligible for an image of a team that last stood on core `old` (R175, R189). DESIGN CHOICE (log entry 17): an adopted
team counts as having stood on core 0, since no field of its image names where it stood (R191). -/
def State.eligible (s : State) (launch old : Nat) (im : Image) (core : Nat) : Bool :=
  let k := s.core core
  s.hasRoom core im.room && (banksOf im.banks).all (fun b => (ffind k.released b).isNone) &&
    (!im.lease || (k.lease.isNone && decide (k.scrubEnd ≤ s.cycle))) && s.reaches launch old im.ctx.bars core &&
    [0, 1].all fun d => decide ((im.drays.filter fun y => y.slot = 4 + d).length ≤ (k.dray d).places)

/-- A pending effect's control-word entry, in a partition that has moved (R141). -/
def Action.rebase (old new : Nat) : Action → Action
  | .wordWrite e w => .wordWrite (e - old + new) w
  | .spRead parts es (.word e lat) => .spRead parts es (.word (e - old + new) lat)
  | a => a

/-- The context of a restored team (R170, R174, R175, R189). -/
def Image.restored (im : Image) (n t tenant cycle : Nat) (rows entries : Nat) (bars : FMap BarRecord) : Ctx :=
  let x := im.ctx
  { x with st := .resident, launch := n, team := t, tenant := tenant, bars := bars
           pend := x.pend.map fun p => { p with act := p.act.rebase x.cwbase entries }
           accbase := rows, acclim := rows + im.rows, cwbase := entries, cwlim := entries + im.entries
           iss := { x.iss with cause := none, active := false, yielding := false, notBefore := some cycle } }

/-- A matrix command as it goes on elsewhere (R184, R299). -/
def MCmd.moved (m : MCmd) (c rows cycle lead : Nat) : MCmd :=
  { m with owner := c, accbase := rows, lead := m.lead.map fun l => (lead, l.2)
           startAt := if m.start.isNone && m.startAt != 0 then m.startAt - 1 + cycle else m.startAt }

/-- The lease section of an image enters a core (R189). -/
def CoreState.takeEngine (k : CoreState) (im : Image) (c rows cycle lead : Nat) : CoreState :=
  let own (f : FMap (Option Fill)) : FMap (Option Fill) := f.map fun (e : Nat × Option Fill) => (e.1, e.2.map fun x => { x with owner := c })
  let fills := (im.gathers ++ im.loads).filterMap (·.2)
  if !im.lease then k
  else
    { k with lease := some c, lat := im.lat, bbuf := im.bbuf, gathers := own im.gathers, loads := own im.loads
             scales := im.scales, scalePoison := im.scalePoison, cmds := im.cmds.map fun m => m.moved c rows cycle lead
             et := im.et, rampFrom := im.slew.getD 0 0, rampLevel := im.slew.getD 1 0, rowsEnd := im.slew.getD 2 0
             level := im.slew.getD 3 0
             cmdSeq := fills.foldl (fun n f => max n f.after) (im.cmds.foldl (fun n m => max n (m.id + 1)) k.cmdSeq)
             fillSeq := fills.foldl (fun n f => max n (f.seq + 1)) k.fillSeq }

/-- A dray command enters a dray again. -/
def State.enterAgain (s : State) (c : Nat) (y : DrayCmd) : State :=
  let y := { y with owner := c }
  s.modDray (coreOf c) (y.slot - 4) fun x => if x.running.isNone then { x with running := some y } else { x with shadow := some y }

/-- An image is written into a context (R184, R189): banks are granted without zeroing. -/
def State.place (s : State) (n t : Nat) (im : Image) (c lead : Nat) : State :=
  let l := s.launch n
  let core := coreOf c
  let rows := (s.rowBase core im.rows).getD 0
  let entries := (s.entryBase core im.entries).getD 0
  let bars := s.settledBars n (coreOf (l.team t).ctx) im.ctx.bars
  let s := s.setCtx c (im.restored n t l.tenant s.cycle rows entries bars)
  let banks := banksOf im.banks
  let s := s.modCore core fun k =>
    let k := { k with
      bankOwner := banks.foldl (fun o b => fput o b (c + 1)) k.bankOwner
      bankZero := banks.foldl (fun o b => fdel o b) k.bankZero
      scratch := im.scratch.foldl (fun m (e : Nat × Byte) => mput m e.1 e.2) (banks.foldl (fun m b => mclear m (0x10000 * b) 0x10000) k.scratch)
      spPoison := im.spPoison ++ k.spPoison.filter fun u => !im.banks.getLsbD (bankOf (16 * u))
      acc := im.acc.foldl (fun m (e : Nat × BitVec 4096) => fput m (rows + e.1) e.2) k.acc
      accPoison := im.accPoison.map (· + rows) ++ k.accPoison
      cwt := im.words.foldl (fun m (e : Nat × BitVec 256) => fput m (entries + e.1) e.2) k.cwt }
    k.takeEngine im c rows s.cycle (coreOf lead)
  let s := im.drays.foldl (fun s y => s.enterAgain c y) s
  let s := bars.foldl (fun s e => s.arriveAgain c e) s
  (s.modTeam n t fun x => { x with st := .resident, ctx := c, urgent := false }).sched c 3

/-- The teams of a unit that are saved, and the images they open to. -/
def State.savedUnit (s : State) (n t : Nat) : List (Nat × Opened) :=
  (((s.launch n).unitOf t).filter fun u => ((s.launch n).team u).st = .saved).map fun u => (u, s.openTeam n u)

/-- The cores of the members of a unit that stand in contexts (R140). -/
def State.unitCores (s : State) (n t : Nat) : List Nat :=
  (((s.launch n).unitOf t).filter fun u => ((s.launch n).team u).st = .resident || ((s.launch n).team u).st = .migrating).map fun u =>
    coreOf ((s.launch n).team u).ctx

/-- A member of a unit is on its way out, so that its Caravan cannot be resumed together yet (R140). -/
def State.unitLeaving (s : State) (n t : Nat) : Bool :=
  ((s.launch n).unitOf t).any fun u =>
    ((s.launch n).team u).st = .resident && (s.ctx ((s.launch n).team u).ctx).st = .saving

/-- Teams of a unit are restored in cores chosen as for an installation (R140, R141, R189). -/
def State.restoreUnit (s : State) (quarter n t : Nat) (l : List (Nat × Image)) : Option State :=
  let others := s.unitCores n t
  let ok (core : Nat) : Bool :=
    (l.all fun x => s.eligible n (coreOf ((s.launch n).team x.1).ctx) x.2 core) &&
      others.all fun o => plazaOf o = plazaOf core && o != core
  (s.places quarter l.length ok).map fun cores =>
    let seats := s.seats cores l.length
    let size := (s.launch n).gangSize
    let lead := match (l.zip seats).find? fun x => x.1.1 % size = 0 with
      | some x => x.2.ctx
      | none => ((s.launch n).team (t / size * size)).ctx
    (l.zip seats).foldl (fun s x => s.place n x.1.1 x.1.2 x.2.ctx lead) s

/-- TEAM_RESTORE (R102, R128, R133, R140, R144, R145, R170, R189, R191): the head of a Quarter's queue, where it is a
saved team. -/
def execTeamRestore (quarter : Nat) (s : State) : Host.Outcome State Fault Refusal :=
  match s.queueHead quarter with
  | none => .next s
  | some (n, t) =>
    if ((s.launch n).team t).st != .saved || s.unitLeaving n t || !s.schedReady n quarter then .next s
    else
      let unit := s.savedUnit n t
      let good := unit.filterMap fun x => match x.2 with
        | .ok im => some (x.1, im)
        | _ => none
      if good.length = unit.length then .next (((s.restoreUnit quarter n t good).getD s).endDrains n)
      else .next (unit.foldl (fun s x => s.unrestored n x.1 x.2) s)

/-! ## Pre-emption (R37, R142, R144, R185) -/

/-- The head of a Quarter's queue has no place (R141, R142, R189). -/
def State.headBlocked (s : State) (quarter n t : Nat) : Bool :=
  let l := s.launch n
  if (l.team t).st = .saved then
    let unit := s.savedUnit n t
    let good := unit.filterMap fun x => match x.2 with
      | .ok im => some (x.1, im)
      | _ => none
    good.length = unit.length && (s.restoreUnit quarter n t good).isNone
  else
    match s.object l.object with
    | some o =>
      if l.cores && l.untouched then l.claiming && (State.installAll n o l.units (s.unclaimed n)).isNone
      else (s.installUnit n t o).isNone
    | none => false

/-- Contexts of a Quarter are on their way to being free. -/
def State.freeing (s : State) (quarter : Nat) : Bool :=
  s.ctxs.any fun e => quarterOf (coreOf e.1) = quarter &&
    (e.2.st = .saving || e.2.st = .releasing || (e.2.st = .resident && (s.launch e.2.launch).killing))

/-- The victim: fewest tokens, and among equals the latest admitted (R144). -/
def State.victim (s : State) (n tokens quarter : Nat) : Option Nat :=
  (s.victims n tokens quarter).foldl (fun acc l => match acc with
    | none => some l
    | some m =>
      if (s.launch l).tokens < (s.launch m).tokens || ((s.launch l).tokens = (s.launch m).tokens && m < l) then some l else some m) none

/-- Quarters in which a victim is acted on: all of them for a co-resident launch (R144). -/
def Launch.actedIn (l : Launch) (quarter : Nat) : List Nat := if l.cores then setBits l.qmask else [quarter]

/-- Contexts of a launch's resident teams in some Quarters. -/
def Launch.residents (l : Launch) (quarters : List Nat) : List Nat :=
  ((l.teams.filter fun e => e.2.st = .resident && quarters.contains (l.quarterOf e.1)).map fun e => e.2.ctx)

/-- A newcomer is one of a list, once. -/
def addNewcomer (n : Nat) (l : List Nat) : List Nat := if l.contains n then l else l ++ [n]

/-- The victim's places are for the newcomer, beside others, until its teams in the Quarter are installed (R144). -/
def State.drainFor (s : State) (v n : Nat) (quarters : List Nat) : State :=
  s.modLaunch v fun x => { x with drained := quarters.foldl (fun d q => fput d q (addNewcomer n (fget [] d q))) x.drained }

/-- A checkpoint chooses every team of a launch that is installed in some Quarters: those that cannot be saved yet follow when
they can (R144). -/
def State.chooseSaved (s : State) (v : Nat) (quarters : List Nat) : State :=
  s.modLaunch v fun x =>
    let l := (x.teams.filter fun e => (e.2.st = .resident || e.2.st = .migrating) && quarters.contains (x.quarterOf e.1)).map (·.1)
    { x with saving := x.saving ++ l.filter fun t => !x.saving.contains t }

/-- A context's team was chosen for a checkpoint that it has yet to begin (R144). -/
def State.chosen (s : State) (c : Nat) : Bool :=
  let x := s.ctx c
  x.st != .free && x.st != .releasing && (s.launch x.launch).saving.contains x.team

/-- What the dispatcher does to a victim (R142, R144, R185). DESIGN CHOICE (log entry 17): after a checkpoint too, as in a drain,
no team of the victim is installed or resumed in the Quarter until the newcomer's are installed, or it has ended. -/
def State.preempt (s : State) (n v quarter : Nat) (a : Preempt) : State :=
  let x := s.launch v
  let quarters := x.actedIn quarter
  match a with
  | .drain =>
    if (fget [] x.drained quarter : List Nat).contains n || !s.schedsReady v quarter then s
    else (x.residents (quarters.filter fun q => !s.drainedIn v q)).foldl (fun s c => s.sched c 4) (s.drainFor v n quarters)
  | .checkpoint =>
    let l := x.residents quarters
    if l.isEmpty then s
    else l.foldl (fun s c => if s.savable c then s.saveGang c else s) ((s.drainFor v n quarters).chooseSaved v quarters)
  | .kill => s.condemn v

/-- What the dispatcher does in a Quarter for one newcomer (R144). -/
def State.preemptFor (quarter : Nat) (s : State) (h : Nat × Nat) : State :=
  if s.freeing quarter || !s.headBlocked quarter h.1 h.2 then s
  else
    match s.victim h.1 (if s.urgentIn quarter h.1 then 16 else (s.launch h.1).tokens) quarter with
    | none => s
    | some v =>
      match s.actionOn v with
      | some a => s.preempt h.1 v quarter a
      | none => s

/-- PREEMPTION (R37, R84, R142, R144, R185): for the head of every class that has no place. -/
def execPreemption (quarter : Nat) (s : State) : Host.Outcome State Fault Refusal :=
  .next ((s.classHeads quarter).foldl (State.preemptFor quarter) s)

end Sys2Proof.Machine
end

