-- ==== Sys2Proof/Machine/Migration.lean ====
section
/-!
DEFINITION. Cores that fail (R65, R179–R183, R186, R330–R332): the freeze with what it damages, the bundle that is
issued again, and the move to the Plaza's spare core or, where that is in use, to sealed images.
-/

namespace Sys2Proof.Machine

/-! ## Damage (R179, R330) -/

/-- A value of any width that nothing fixes. -/
def freeBits {w : Nat} (fresh : Nat) : BitVec w :=
  BitVec.ofNat w ((List.range ((w + 63) / 64)).foldl (fun n i => n * 2 ^ 64 + (Config.freeWord (fresh + i)).toNat) 0)

/-- A core's damaged unit is zero and poisoned; what a damaged control word holds is open, and a free value here (R179;
assumption log, 10). -/
def CoreState.damaged (k : CoreState) (d : Damage) (fresh : Nat) : CoreState :=
  let n (b : Bool) : Nat := if b then 1 else 0
  match d with
  | .nothing => k
  | .queueEntry _ _ _ => k
  | .bay _ _ => k
  | .anchor _ _ => k
  | .controlWord e => { k with cwt := fput k.cwt e (freeBits fresh) }
  | .scratchpad u => { k with scratch := mclear k.scratch (16 * u) 16, spPoison := u :: k.spPoison.filter (· != u) }
  | .accRow r => { k with acc := fput k.acc r 0#4096, accPoison := r :: k.accPoison.filter (· != r), accWas := fdel k.accWas r }
  | .latch lt => { k with lat := fput k.lat (n lt) { (fget {} k.lat (n lt) : Latch) with rows := [], poisoned := true } }
  | .bbuf bb => { k with bbuf := fput k.bbuf (n bb) { (fget {} k.bbuf (n bb) : BBuf) with cols := [], scales := [], poisoned := true } }
  | .scaleQueue => { k with scales := k.scales.map fun _ => 0#8, scalePoison := true }

/-- A damaged queue entry is zero and poisoned (R179–R181). -/
def damagedEntry (n : Nat) (q : List QEntry) : List QEntry :=
  q.zipIdx.map fun e => if e.2 = n then { e.1 with data := 0#1024, poison := 4 } else e.1

/-- The damage to a context: to a queue, or to a bay or an anchor, which then hold free values (R179; assumption log,
10). -/
def State.damageCtx (s : State) (core : Nat) (d : Damage) : State :=
  match d with
  | .bay c b => s.modCtx (core * 4 + c % 4) fun x => { x with r := { x.r with b := fput x.r.b (b % 32) (freeBits s.fresh) } }
  | .anchor c n => s.modCtx (core * 4 + c % 4) fun x => { x with r := { x.r with a := fput x.r.a (n % 24) (freeBits s.fresh) } }
  | .queueEntry c q n => s.modCtx (core * 4 + c % 4) fun x =>
      if q = 0 then { x with q0 := damagedEntry n x.q0 } else { x with q1 := damagedEntry n x.q1 }
  | _ => s

/-- Rows of a command that have streamed by an engine time (R291, R357). -/
def MCmd.streamed (m : MCmd) (et : Nat) : Nat :=
  match m.start with
  | some t => min m.occ (et + 1 - t)
  | none => 0

/-- Shares fed from a damaged B buffer, in a gang or issued again alone, write the rows they stream from now on as zeros, marked
poisoned (R330). -/
def State.spoilShares (s : State) (core : Nat) (d : Damage) : State :=
  let spoil (k : CoreState) (bb : Bool) (m : MCmd) : MCmd :=
    if m.feed = some core && m.start.isSome && m.names false bb then { m with badFrom := some (m.streamed k.et) } else m
  match d with
  | .bbuf bb => (((List.range 9).map (· + plazaOf core * 9)).filter (· != core)).foldl (fun s n =>
      s.modCore n fun k => { k with cmds := k.cmds.map (spoil k bb) }) s
  | _ => s

/-! ## The bundle that is issued again (R182) -/

/-- A matrix instruction's effect holds the damaged unit: rows, a latch, a buffer, what a drain has stored, or the bay in
which one has landed. -/
def effectDamaged (x : Ctx) (slot : Nat) (d : Damage) (i : Instr) : Bool :=
  let inRows (row n : Nat) (r : Nat) : Bool := decide (x.accbase + row ≤ r) && decide (r < x.accbase + row + n)
  match i, d with
  | .mdrain _ m sa ofmt _, .scratchpad u =>
    let a := (x.lastRegs.sreg sa).toNat
    decide (a ≤ 16 * u) && decide (16 * u < a + m.toNat * drainBytes ofmt.toNat)
  | .mdrainb _ dst _, .bay c b => c % 4 = slot && x.lastRegs.bayOf dst = b % 32
  | .mmul f, .accRow r => inRows f.row.toNat f.m.toNat r
  | .mzero row m _, .accRow r => inRows row.toNat m.toNat r
  | .mgath lt _ _ _ _, .latch w => lt = w
  | .mwld bb _ _ _ _, .bbuf w => bb = w
  | _, _ => false

/-- The last bundle that a context issued is to be issued again for its matrix instruction (R182, R330): no slot of a later
one has committed, and a command of it is not complete, or its effect holds the damaged unit. -/
def State.mustRedo (s : State) (c : Nat) (d : Damage) : Bool :=
  let x := s.ctx c
  let k := s.core (coreOf c)
  x.iss.lastIssue.isSome && x.skip = 0#6 && x.lastWords.getLsbD 3 && !x.redo &&
    (k.cmds.any (fun m => m.owner = c && m.bundle = x.lastPc && m.issueK = x.lastKappa) ||
      ((k.lease = some c) && (Decode.slotInstrs (0x37#6) (Decode.splitBundle x.lastWords)).any fun i => effectDamaged x (c % 4) d i.2))

/-- A context goes back to the bundle it last issued, with every valid slot but M committed, at its phase and κ (R182). -/
def Ctx.rewind (x : Ctx) : Ctx :=
  { x with pc := x.lastPc, bundles := x.bundles - 1, jump := some (x.pc, (x.iss.nextPhase + 63 - x.lastPhase) % 32)
           skip := x.lastWords.extractLsb' 0 6 &&& 0x37#6, entry := some x.lastRegs, redo := true
           iss := { x.iss with kappa := x.lastKappa, nextPhase := x.lastPhase, pad := 0 } }

/-- A share of a ganged command waits on the frozen core whose member has not come to its copy of the bundle: the member
will issue that bundle alone (R182, R299, R330, R332). -/
def State.shareAhead (s : State) (c : Nat) : Bool :=
  let x := s.ctx c
  (s.core (coreOf c)).cmds.any fun m => m.owner = c && m.lead.isSome && m.issueK = x.iss.kappa && x.lastKappa != x.iss.kappa

/-- A context stops with its core; no rule names an address for `faddr` (R171, R172, R179, R180, R182). -/
def State.stopFrozen (s : State) (d : Damage) (c : Nat) : State :=
  let redo := s.mustRedo c d
  let s := if redo then s.modCtx c Ctx.rewind else if s.shareAhead c then s.modCtx c fun x => { x with redo := true } else s
  let x := s.ctx c
  let slot := if redo then 3 else 0
  ({ s with fresh := s.fresh + 1 }.stopWith c (faultWord 0x14 1 slot) (s.faultAddress none) slot x.skip).modCtx c fun y =>
    { y with st := .frozen }

/-- CORE_FREEZE (R65, R84, R145, R179, R183, R186, R330). A held context stays held, and moves with the others. -/
def execCoreFreeze (core : Nat) (damage : Damage) (s : State) : Host.Outcome State Fault Refusal :=
  let k := s.core core
  if decide (216 ≤ core) || k.frozen || k.retired then .next s
  else
    let l := (contextsOf core).filter fun c => (s.ctx c).st = .resident || (s.ctx c).st = .saving || (s.ctx c).st = .held
    let s := (s.spoilShares core damage).damageCtx core damage
    let s := { s.modCore core fun k => { k.damaged damage s.fresh with frozen := true, width := none, giver := none } with fresh := s.fresh + 16 }
    let s := l.foldl (fun s c => if (s.ctx c).st = .held then s else s.stopFrozen damage c) s
    let s := l.foldl (fun s c => s.modTeam (s.ctx c).launch (s.ctx c).team fun t => { t with st := .migrating }) s
    .next (s.notice 8 core 0x14 1)

/-! ## Migration (R179, R183, R331, R332) -/

/-- The spare core of a core's Plaza (R356). -/
def spareOf (core : Nat) : Nat := plazaOf core * 9 + 8

/-- The spare core of a core's Plaza is not in use. -/
def State.spareFree (s : State) (core : Nat) : Bool :=
  let k := s.core (spareOf core)
  k.logical.isNone && !k.frozen && !k.retired

/-- Contexts that are to move off a frozen core. -/
def State.movers (s : State) (core : Nat) : List Nat :=
  (contextsOf core).filter fun c => (s.ctx c).st = .frozen || ((s.ctx c).st = .held && resumable (s.ctx c).fault)

/-- A context's place on the spare core. -/
def onSpare (core c : Nat) : Nat := spareOf core * 4 + c % 4

/-- What the spare core takes over of a frozen core for contexts that move (R179, R330). The engine's commands are lost,
and its level is 0. -/
def CoreState.takeOver (spare k : CoreState) (core cycle : Nat) (l : List Nat) : CoreState :=
  let owned (b : Nat) : Bool := l.any fun c => k.owns c b
  let moves (o : Nat) : Bool := l.contains o
  let fill (f : FMap (Option Fill)) : FMap (Option Fill) :=
    f.map fun (e : Nat × Option Fill) => (e.1, e.2.map fun x => { x with owner := onSpare core x.owner })
  let cmd (y : Option DrayCmd) : Option DrayCmd :=
    (y.filter fun y => moves y.owner).map fun y => { y with owner := onSpare core y.owner }
  let dray (d : Dray) : Dray :=
    match cmd d.running, cmd d.shadow with
    | none, y => { running := y }
    | r, y => { running := r, shadow := y }
  let lease := match k.lease with | some c => moves c | none => false
  { spare with
    logical := k.logical
    width := none, giver := none, offerAt := cycle
    scratch := k.scratch.filter fun e => owned (bankOf e.1)
    spPoison := k.spPoison.filter fun u => owned (bankOf (16 * u))
    bankOwner := (k.bankOwner.filter fun e => owned e.1).map fun (e : Nat × Nat) => (e.1, onSpare core (e.2 - 1) + 1)
    bankZero := k.bankZero.filter fun e => owned e.1
    cwt := k.cwt, acc := k.acc, accPoison := k.accPoison, accWas := []
    lease := if lease then k.lease.map (onSpare core) else none
    scrubEnd := k.scrubEnd, et := k.et, rowsEnd := 0, rampFrom := 0, rampLevel := 0, level := 0
    lat := if lease then k.lat else [], bbuf := if lease then k.bbuf else []
    gathers := if lease then fill k.gathers else [], loads := if lease then fill k.loads else []
    scales := if lease then k.scales else [], scalePoison := lease && k.scalePoison
    cmds := [], cmdSeq := k.cmdSeq, fillSeq := k.fillSeq
    drays := [(0, dray (k.dray 0)), (1, dray (k.dray 1))] }

/-- Shares of a ganged command, and those issued again alone, name their lead's new place (R183, R299). -/
def State.followLead (s : State) (core : Nat) : State :=
  let follow (m : MCmd) : MCmd :=
    let m := if m.feed = some core then { m with feed := some (spareOf core) } else m
    match m.lead with
    | some x =>
      if x.1 = core then
        { m with lead := some (spareOf core, x.2), startAt := if m.start.isNone && m.startAt = 0 then s.cycle + 1 else m.startAt }
      else m
    | none => m
  ((List.range 9).map (· + plazaOf core * 9)).foldl (fun s n => s.modCore n fun k => { k with cmds := k.cmds.map follow }) s

/-- One context moves to the spare core (R170, R179, R331). -/
def State.moveCtx (s : State) (core c : Nat) : State :=
  let x := s.carriedCtx c
  let d := onSpare core c
  let s := s.removeArrivals c
  let s := s.setCtx d
    { x with st := if x.st = .held then .held else .resident, migrated := true
             iss := { x.iss with cause := none, notBefore := x.iss.notBefore.map (max s.cycle) } }
  let s := s.setCtx c { iss := { off := x.iss.off } }
  let s := x.bars.foldl (fun s e => s.arriveAgain d e) s
  (s.modTeam x.launch x.team fun t => { t with st := .resident, ctx := d }).sched d 5

/-- The contexts of a frozen core move to the spare core, which takes its logical number (R49, R179). -/
def State.moveCore (s : State) (core : Nat) (l : List Nat) : State :=
  let k := s.core core
  let gone (y : Option DrayCmd) : Option DrayCmd := y.filter fun y => !l.contains y.owner
  let s := s.modCore (spareOf core) fun spare => spare.takeOver k core s.cycle l
  let s := s.modCore core fun k =>
    { k with logical := none, retired := true, lease := none
             cmds := k.cmds.filter fun m => !l.contains m.owner
             bankOwner := k.bankOwner.filter fun e => !l.contains (e.2 - 1)
             drays := [0, 1].map fun d => (d, { k.dray d with running := gone (k.dray d).running, shadow := gone (k.dray d).shadow }) }
  (l.foldl (fun s c => s.moveCtx core c) s).followLead core

/-- With the spare core in use, a team is saved as a sealed image, or ends faulted with 0x14 and detail 1 (R37, R144,
R179). -/
def State.saveFrozen (s : State) (c : Nat) : State :=
  let x := s.ctx c
  let s := s.modCore (coreOf c) fun k => { k with cmds := k.cmds.filter fun m => m.owner != c }
  match (fget {} s.pf.keys x.tenant : KeySlot).key with
  | some key =>
    if s.canCheckpoint x.launch then
      let s := s.modTeam x.launch x.team fun t => { t with urgent := true }
      (s.modCtx c fun y => { y with skip := if y.st = .held then y.skip ||| y.donemask else y.skip }).saveTeam c key
    else (s.modCtx c fun y => { y with fault := faultWord 0x14 1 0, faddr := s.faultAddress none }).endTeam c .fault
  | none => (s.modCtx c fun y => { y with fault := faultWord 0x14 1 0, faddr := s.faultAddress none }).endTeam c .fault

/-- A frozen context is saved, and the other members of its Caravan with it; where it ends instead, so do they (R140,
R179). -/
def State.saveStranded (s : State) (c : Nat) : State :=
  let x := s.ctx c
  let others := (s.gangOf c).filter (· != c)
  let s := s.saveFrozen c
  if ((s.launch x.launch).team x.team).st = .saved then (others.filter s.savable).foldl State.startSave s
  else s.killOthers others

/-- MIGRATION_COMPLETE (R49, R84, R128, R144, R145, R170, R175, R179, R182, R183, R331, R332): once what left the core
has performed and the drays have finished. Teams whose launch is being killed end instead. -/
def execMigrationComplete (core : Nat) (s : State) : Host.Outcome State Fault Refusal :=
  let k := s.core core
  let l := s.movers core
  if !k.frozen || k.retired || !l.all (fun c => s.quiet c && s.schedReady (s.ctx c).launch (quarterOf core)) then .next s
  else
    let dying := l.filter fun c => (s.launch (s.ctx c).launch).killing
    let s := dying.foldl (fun s c => s.endAs c .killed) s
    let l := l.filter fun c => !dying.contains c
    if s.spareFree core then .next (s.moveCore core l)
    else .next ((l.foldl State.saveStranded s).modCore core fun k => { k with retired := true, logical := none })

end Sys2Proof.Machine
end

