-- ==== Sys2Proof/Machine/MemoryEvents.lean ====
section
/-!
DEFINITION. What reaches memory from outside the cores (R19, R22, R33, R40, R57–R65, R83, R336, R341, R354): requests of
host functions, of CXL.mem and of peers; errors, evictions, links; and changes of ownership.
-/

namespace Sys2Proof.Machine

/-! ## Requests at a home slice (R22, R61, R336) -/

/-- Bytes that a request touches. -/
def busSize : BusOp → Nat
  | .read n => n
  | .write n _ => n
  | .atomic n _ _ => n
  | .cas n _ _ => n

/-- A request writes (R354). -/
def busWrites : BusOp → Bool
  | .read _ => false
  | _ => true

/-- A request that only writes is posted: nothing answers it. -/
def busPosted : BusOp → Bool
  | .write _ _ => true
  | _ => false

/-- A link carries no request that is empty or crosses a 4 KiB boundary (assumption log, 25). -/
def busFits (addr : Nat) (op : BusOp) : Bool :=
  decide (0 < busSize op) && addr / 0x1000 = (addr + busSize op - 1) / 0x1000

/-- The bytes that a request leaves where `old` stood (R104, R107). -/
def busNew (op : BusOp) (old : List Byte) : List Byte :=
  match op with
  | .read _ => old
  | .write n v => toBytes n v
  | .atomic n aop v => toBytes n (atomicNew aop.toNat n (ofBytes old) v)
  | .cas n x y => if ofBytes old = x then toBytes n y else old

/-- All ones in as many bytes as a request asks for (R336). -/
def busOnes (op : BusOp) : Nat := 2 ^ (8 * busSize op) - 1

/-- A request writes where `old` stands: a `cas` that fails does not (R107, R354). -/
def busTakes (op : BusOp) (old : List Byte) : Bool :=
  match op with
  | .read _ => false
  | .cas _ x _ => ofBytes old = x
  | _ => true

/-- The 256-byte lines of a range. -/
def busLines (pa n : Nat) : List Nat := (List.range ((pa + n - 1) / 256 + 1 - pa / 256)).map (· + pa / 256)

/-- The pieces of a range in its lines, each at its line's home: address and size (R50, R83). -/
def linePieces (pa n : Nat) : List (Nat × Nat) :=
  (busLines pa n).map fun l => (max pa (l * 256), min (pa + n) (l * 256 + 256) - max pa (l * 256))

/-- A line that is written whole is poisoned no more (R57). -/
def State.cleanLines (s : State) (pa n : Nat) : State :=
  s.modMs fun m => { m with poison := m.poison.filter fun l => !(decide (pa ≤ l * 256) && decide (l * 256 + 256 ≤ pa + n)) }

/-- A request from outside fails at the home: it is counted where it writes, and firmware is told (R57, R59). -/
def State.busFailed (s : State) (engid pa : Nat) (op : BusOp) (detail : Nat) : State :=
  let s := if busWrites op then s.modQuarter (homeQuarter pa) fun q => { q with discards := q.discards + 1 } else s
  if detail = 3 then s.tellAbsent engid pa pa else s.notice 7 engid detail pa

/-- A master's number in the mixed-size check: none of the cores' or their engines'. -/
def busMaster (engid : Nat) : Nat := 0x20000 + engid

/-- A request performs at the home for a tenant space: what it answers, none where it fails (R51, R57, R59, R83, R104,
R336, R354). -/
def State.busPerform (s : State) (engid tenant pa : Nat) (op : BusOp) : Option Nat × State :=
  let n := busSize op
  let pieces := linePieces pa n
  if pieces.any fun x => s.overlapFires tenant x.1 x.2 (busMaster engid) 16 then (none, s.notice 13 engid 0x0D pa)
  else if !s.backed pa then (none, s.busFailed engid pa op 3)
  else if !busPosted op && (busLines pa n).any s.ms.poison.contains then (none, s.busFailed engid pa op 2)
  else
    let old := mread s.mem pa n
    let s := if busTakes op old then
        pieces.foldl (fun s x => s.noteWrite tenant x.1 x.2 (busMaster engid) 16)
          ((s.homeWrite (.outside engid) tenant pa (busNew op old)).cleanLines pa n)
      else s
    (some (ofBytes old), s)

/-- Where answers to peers go; a host function's own go to its number. -/
def peerPort : Nat := 0x10000

/-- Where answers to CXL.mem requests go. -/
def cxlPort : Nat := 0x10001

/-- A request performs and is answered: one that fails with an error completion. -/
def State.busAnswer (s : State) (port engid tenant pa : Nat) (op : BusOp) : State :=
  let r := s.busPerform engid tenant pa op
  if busPosted op then r.2
  else match r.1 with
    | some v => r.2.reply port v false
    | none => r.2.reply port (busOnes op) true

/-- A request through an empty entry, or to memory no tenant holds: all ones, or nothing (R336). -/
def State.busEmpty (s : State) (port : Nat) (op : BusOp) : State :=
  if busPosted op then s else s.reply port (busOnes op) false

/-- The tenant space that holds a byte of device memory (R17, R336). -/
def State.tenantAt (s : State) (pa : Nat) : Option Nat :=
  match region pa with
  | .hbm | .cxl _ => (s.owner pa 1).filter (· < 16)
  | _ => none

/-- A violation by a master outside the cores, of no tenant space: the request does not perform (R35, R40). -/
def State.busViolation (s : State) (port engid pa : Nat) : State :=
  ((s.audit 2 0xFF engid [BitVec.ofNat 64 pa]).notice 2 engid 4 pa).reply port 0 true

/-- Some peer reaches this device: its links are up, and it is of the device's domain (R341). -/
def State.reached (s : State) : Bool := s.pf.peers.any fun d => fget 0 s.pf.peerDomains d = s.pf.domain

/-- WINDOW_ACCESS (R22, R40, R51, R336). -/
def execWindowAccess (fn off : Nat) (op : BusOp) (s : State) : Host.Outcome State Fault Refusal :=
  let f := s.fn fn
  if !busFits off op || decide (f.barSize ≤ off) then .next s
  else if f.aborted then .next (s.reply fn 0 true)
  else
    match fget none f.winmap (off / granuleSize) with
    | none => .next (s.busEmpty fn op)
    | some base =>
      let pa := base + off % granuleSize
      match (s.tenantAt pa).filter fun t => f.tenants.contains t with
      | some t => .next (s.busAnswer fn 3 t pa op)
      | none => .next (s.busEmpty fn op)

/-- HOST_CXL_MEM_ACCESS (R22, R35, R51). -/
def execHostCxlMemAccess (pa : Nat) (op : BusOp) (s : State) : Host.Outcome State Fault Refusal :=
  if !busFits pa op then .next s
  else if region pa = .registers then .next (s.busViolation cxlPort 3 pa)
  else
    match s.tenantAt pa with
    | some t => .next (s.busAnswer cxlPort 3 t pa op)
    | none => .next (s.busEmpty cxlPort op)

/-- PEER_REQUEST (R35, R40, R61, R341, R354): a request for what no tenant space of this device holds is a violation, and the
link stays up. -/
def execPeerRequest (pa : Nat) (op : BusOp) (s : State) : Host.Outcome State Fault Refusal :=
  if !busFits pa op || !s.reached then .next s
  else
    match s.tenantAt pa with
    | some t => .next (s.busAnswer peerPort 4 t pa op)
    | none => .next (s.busViolation peerPort 4 pa)

/-! ## Errors (R57, R65) -/

/-- A global line is marked poisoned: firmware is told, and an audit record names the line (R57). -/
def State.poisonLine (s : State) (line : Nat) : State :=
  let pa := line * 256
  match region pa with
  | .hbm | .cxl _ =>
    if s.ms.poison.contains line then s
    else
      let s := s.modMs fun m => { m with poison := line :: m.poison }
      (s.audit 3 ((s.tenantAt pa).getD 0xFF) 0xFF [BitVec.ofNat 64 pa]).notice 11 0xFF 2 pa
  | _ => s

/-- MEMORY_UNCORRECTABLE_ERROR (R57). -/
def execMemoryUncorrectableError (line : Nat) (s : State) : Host.Outcome State Fault Refusal := .next (s.poisonLine line)

/-- The line of a key goes from a core's line buffers (R62). -/
def State.dropBuffers (s : State) (core : Nat) (gone : (tenant line : Nat) → Bool) : State :=
  (contextsOf core).foldl (fun s c =>
    match (s.ctx c).line with
    | some (n, _) => if gone (s.ctx c).tenant n then s.modCtx c fun x => { x with line := none } else s
    | none => s) s

/-- Lines go from a core's L1I, and from the line buffers that it includes (R62). -/
def State.dropL1i (s : State) (core : Nat) (gone : (tenant line : Nat) → Bool) : State :=
  (s.modCore core fun k => { k with l1i := k.l1i.filter fun e => !gone (e.1 / 2 ^ 64) (e.1 % 2 ^ 64) }).dropBuffers core gone

/-- Lines go from a Plaza's middle level (R62). -/
def State.dropPlaza (s : State) (gone : (plaza tenant line : Nat) → Bool) : State :=
  s.modMs fun m => { m with plaza := m.plaza.filter fun e => !gone (e.1 % 32) (e.1 / 32 / 2 ^ 64) (e.1 / 32 % 2 ^ 64) }

/-- Every core that something has changed. -/
def State.listedCores (s : State) : List Nat := s.cores.map (·.1)

/-- Lines go from every fetch level (R63). -/
def State.dropFetch (s : State) (gone : (tenant line : Nat) → Bool) : State :=
  ((s.listedCores ++ s.ctxs.map fun e => coreOf e.1).foldl (fun s n => s.dropL1i n gone) s).dropPlaza fun _ t n => gone t n

/-- ONCHIP_SOFT_ERROR (R57, R65). -/
def execOnchipSoftError (site : SoftSite) (s : State) : Host.Outcome State Fault Refusal :=
  match site with
  | .fetchLine core line =>
    let hit (t n : Nat) : Bool := t * 2 ^ 64 + n = line
    .next ((s.dropL1i core hit).dropPlaza fun p t n => p = plazaOf core && hit t n)
  | .nearLine quarter line => .next (s.dropNear quarter (line * 256))
  | .cleanHomeLine _ => .next s
  | .dirtyHomeLine line => .next (s.poisonLine line)
  | .stagingUnit unit =>
    if s.ms.stagingPoison.contains unit then .next s
    else .next (s.modMs fun m => { m with stagingPoison := unit :: m.stagingPoison })
  | .scratchpadUnit core unit => execCoreFreeze core (.scratchpad unit) s
  | .correctable => .next (s.modMs fun m => { m with corrected := m.corrected + 1 })

/-- LINE_EVICTION (R51, R62): what a level includes goes with the line. A home's line is found in an L1I by the physical
line that it was fetched from. -/
def execLineEviction (level : FetchLevel) (line : Nat) (s : State) : Host.Outcome State Fault Refusal :=
  match level with
  | .l1i core => .next (s.dropL1i core fun t n => t * 2 ^ 64 + n = line)
  | .plaza p => .next (s.dropPlaza fun q t n => q = p && t * 2 ^ 64 + n = line)
  | .home =>
    .next (s.listedCores.foldl (fun s n =>
      let held := ((s.core n).l1i.filter fun e => e.2.1 / 2 = line).map (·.1)
      s.dropL1i n fun t v => held.contains (t * 2 ^ 64 + v)) s)

/-- CXL_DEVICE_FAILURE (R59): the port has no device from now on. -/
def execCxlDeviceFailure (port : Nat) (s : State) : Host.Outcome State Fault Refusal :=
  if (ffind s.pf.cxl port).isSome then .next ((s.modPf fun p => { p with cxl := fdel p.cxl port }).notice 14 port 3 0)
  else .next s

/-- PEER_LINK_DOWN (R341). -/
def execPeerLinkDown (peer : Nat) (s : State) : Host.Outcome State Fault Refusal :=
  if s.pf.peers.contains peer then
    let s := s.modPf fun p => { p with peers := p.peers.filter (· != peer) }
    .next ((s.audit 8 0xFF 0xFF [BitVec.ofNat 64 peer]).notice 12 peer 0 0)
  else .next s

/-- PEER_LINK_UP (R16, R341). -/
def execPeerLinkUp (peer : Nat) (s : State) : Host.Outcome State Fault Refusal :=
  if s.pf.peers.contains peer || decide (64 ≤ peer) then .next s
  else .next (s.modPf fun p => { p with peers := peer :: p.peers })

/-! ## Ownership (R19, R33) -/

/-- An owner of R17: a tenant space, firmware, or none. -/
def ownerLegal (o : BitVec 5) : Bool := o.ule 0x10#5 || o == 0x1F#5

/-- Running commands of drays that hold a line that meets a condition, with its commands' (R11). -/
def State.readsLine (s : State) (f : DrayCmd → HeldLine → Bool) : Bool :=
  s.cores.any fun e => [0, 1].any fun d => (e.2.dray d).running.any fun c => c.held.any (f c)

/-- An access of some context, or a write or a line's read of an engine, to a physical range has not performed (R11, R19). -/
def State.outstanding (s : State) (base len : Nat) : Bool :=
  (s.ctxs.any fun e => e.2.accesses.any fun a => a.global && decide (base ≤ a.pa) && decide (a.pa < base + len)) ||
    (s.ms.sent.any fun x => decide (base ≤ x.pa) && decide (x.pa < base + len)) ||
    s.readsLine fun _ h => decide (base ≤ h.pa) && decide (h.pa < base + len)

/-- Translations into a physical range go from every TLB (R19). -/
def State.dropTlbs (s : State) (gone : Tlb → Bool) : State :=
  { s with cores := s.cores.map fun (e : Nat × CoreState) => (e.1, { e.2 with tlb := e.2.tlb.filter fun t => !gone t })
           quarters := s.quarters.map fun (e : Nat × Quarter) => (e.1, { e.2 with tlb := e.2.tlb.filter fun t => !gone t }) }

/-- A translation maps into a physical range. -/
def Tlb.maps (e : Tlb) (base len : Nat) : Bool :=
  decide (e.base < base + len) && decide (base < e.base + (if e.big then granuleSize else 0x10000))

/-- Zeros are written over a physical range at device scope, and its near-buffer lines go (R19). -/
def State.wipe (s : State) (base len : Nat) : State :=
  ({ s with mem := mclear s.mem base len }).modMs fun m =>
    { m with poison := m.poison.filter fun l => !(decide (base ≤ l * 256) && decide (l * 256 < base + len))
             near := m.near.filter fun l => !(decide (base ≤ l.line * 256) && decide (l.line * 256 < base + len)) }

/-- Every window entry that names a granule is emptied (R336). -/
def State.emptyWindows (s : State) (base : Nat) : State :=
  s.modPf fun p => { p with fns := p.fns.map fun (e : Nat × HostFn) =>
    (e.1, { e.2 with winmap := e.2.winmap.filter fun w => w.2 != some base }) }

/-- The first part of a change of a granule's owner (R19, R336). -/
def State.beginGranule (s : State) (n : Nat) : State :=
  let base := n * granuleSize
  let s := (s.emptyWindows base).modMs fun m => { m with owners := fput m.owners n (fget 0x1F#8 m.owners n ||| 0x20#8) }
  s.dropTlbs fun e => e.maps base granuleSize

/-- The second part. -/
def State.endGranule (s : State) (n : Nat) (owner : BitVec 5) : State :=
  (s.wipe (n * granuleSize) granuleSize).modMs fun m => { m with owners := fput m.owners n (owner.zeroExtend 8) }

/-- A granule number of the ownership map (R17). -/
def granuleExists (n : Nat) : Bool := match region (n * granuleSize) with | .hbm => true | .cxl _ => true | _ => false

/-- A window descriptor may be held: in the host or peer range, of whole 64 KiB pages, apart from the others (R17). -/
def State.windowLegal (s : State) (base len : Nat) : Bool :=
  decide (0 < len) && base % 0x10000 = 0 && len % 0x10000 = 0 && decide (0x1000000000000 ≤ base) && decide (base + len ≤ 0x3000000000000) &&
    s.ms.windows.all fun w => (w.base = base && w.length = len) || decide (w.base + w.length ≤ base) || decide (base + len ≤ w.base)

/-- Change the descriptor of a range. -/
def State.modWindow (s : State) (base len : Nat) (f : Window → Window) : State :=
  s.modMs fun m => { m with windows := m.windows.map fun w => if w.base = base && w.length = len then f w else w }

/-- The first part of a change of a descriptor's owner: zp is set, in a new descriptor where there is none (R17, R19). -/
def State.beginWindow (s : State) (base len : Nat) : State :=
  let s := if s.ms.windows.any fun w => w.base = base && w.length = len then s.modWindow base len fun w => { w with zp := true }
    else s.modMs fun m => { m with windows := m.windows ++ [{ base := base, length := len, owner := 0x1F, zp := true }] }
  s.dropTlbs fun e => e.maps base len

/-- The second part: a descriptor that no one owns is given up. -/
def State.endWindow (s : State) (base len : Nat) (owner : BitVec 5) : State :=
  let s := s.wipe base len
  if owner = 0x1F#5 then s.modMs fun m => { m with windows := m.windows.filter fun w => !(w.base = base && w.length = len) }
  else s.modWindow base len fun w => { w with owner := owner.toNat, zp := false }

/-- GRANULE_REASSIGN (R17, R19, R336): zp is set and the translations go; once what was translated through them has
performed, the range is zeroed and changes hands. -/
def execGranuleReassign (target : GranuleTarget) (owner : BitVec 5) (s : State) : Host.Outcome State Fault Refusal :=
  if !ownerLegal owner then .next s
  else
    match target with
    | .granule n =>
      if !granuleExists n then .next s
      else if !(s.granule n).getLsbD 5 then .next (s.beginGranule n)
      else if s.outstanding (n * granuleSize) granuleSize then .next s
      else .next (s.endGranule n owner)
    | .descriptor base len =>
      if !s.windowLegal base len then .next s
      else
        match s.ms.windows.find? fun w => w.base = base && w.length = len with
        | some w =>
          if !w.zp then .next (s.beginWindow base len)
          else if s.outstanding base len then .next s
          else .next (s.endWindow base len owner)
        | none => if decide (s.ms.windows.length < 256) then .next (s.beginWindow base len) else .next s

/-- A staging block is granted; it is zeroed where its tenant changes (R33). -/
def State.grantBlock (s : State) (slice block : Nat) (owner : BitVec 5) : State :=
  let key := slice * 28 + block
  let base := slice * 0x200000 + block * 0x10000
  s.modMs fun m =>
    let same := (fget 0x1F#8 m.grants key).extractLsb' 0 5 == owner
    { m with grants := fput m.grants key (owner.zeroExtend 8)
             staging := if same then m.staging else mclear m.staging base 0x10000
             stagingPoison := if same then m.stagingPoison else m.stagingPoison.filter fun u => !(u * 16 / 0x10000 * 0x10000 = base) }

/-- STAGING_GRANT (R33). -/
def execStagingGrant (slice block : Nat) (owner : BitVec 5) (s : State) : Host.Outcome State Fault Refusal :=
  if decide (slice < 256) && decide (block < 28) && ownerLegal owner then .next (s.grantBlock slice block owner) else .next s

end Sys2Proof.Machine
end

