-- ==== Sys2Proof/Machine/Queues.lean ====
section
/-!
DEFINITION. Launch queues (R134–R137, R146–R150, R340): the notify pages, the mapping of queues, and the taking and
checking of launch records.
-/

namespace Sys2Proof.Machine

/-! ## Queues and their notify pages (R147–R149, R335) -/

/-- A launch queue. -/
def State.queue (s : State) (n : Nat) : Queue := fget {} s.pf.queues n

/-- Change a launch queue. -/
def State.modQueue (s : State) (n : Nat) (f : Queue → Queue) : State :=
  s.modPf fun p => { p with queues := fput p.queues n (f (fget {} p.queues n)) }

/-- A function's notify page for a queue is live: the queue is bound to a tenant of the function (R335). -/
def State.pageLive (s : State) (fn queue : Nat) : Bool :=
  decide (queue < 4096) && (s.queue queue).bound && (s.fn fn).tenants.contains (s.queue queue).tenant

/-- An operation on a queue's descriptor; the queue has been used (R147, R149). -/
def State.operateQueue (s : State) (queue : Nat) (f : Ticket → Ticket) : State :=
  s.modQueue queue fun q => { q with desc := (f (Ticket.ofBytes q.desc)).toBytes, used := s.cycle }

/-- A reserve, and its answer to the function that reads (R148). -/
def State.reserveFor (s : State) (queue fn : Nat) : State :=
  let r := (Ticket.ofBytes (s.queue queue).desc).reserve
  (s.operateQueue queue fun t => t.reserve.1).reply fn (slotWord r.2).toNat false

/-- RESERVATION_REGISTER_READ (R40, R148, R149, R335): a read of an unmapped queue's page waits for the mapping. -/
def execReservationRegisterRead (fn queue : Nat) (s : State) : Host.Outcome State Fault Refusal :=
  if (s.fn fn).aborted then .next (s.reply fn 0 true)
  else if !s.pageLive fn queue then .next (s.reply fn (2 ^ 64 - 1) false)
  else if (s.queue queue).mapped then .next (s.reserveFor queue fn)
  else .next (s.modQueue queue fun q => { q with waiting := q.waiting ++ [fn] })

/-- COMMIT_REGISTER_WRITE (R40, R148, R149, R335): a write to an unmapped queue's page is stored. -/
def execCommitRegisterWrite (fn queue slot : Nat) (s : State) : Host.Outcome State Fault Refusal :=
  if (s.fn fn).aborted then .next (s.reply fn 0 true)
  else if !s.pageLive fn queue then .next s
  else if (s.queue queue).mapped then .next (s.operateQueue queue fun t => t.post slot)
  else .next (s.modQueue queue fun q => { q with stored := q.stored ++ [slot] })

/-! ## Mapping (R149) -/

/-- The features accepted for a tenant space's work: by a function that holds it (R340). -/
def State.acceptedFor (s : State) (tenant : Nat) : Option (BitVec 128) :=
  (s.pf.fns.find? fun e => e.2.tenants.contains tenant && e.2.accepted.isSome).bind fun e => e.2.accepted

/-- A queue's next slot may be taken: it is committed, and features have been accepted (R147, R340). -/
def State.takeable (s : State) (queue : Nat) : Bool :=
  let q := s.queue queue
  q.bound && (Ticket.ofBytes q.desc).takeSlot.2.isSome && (s.acceptedFor q.tenant).isSome

/-- The Quarter in which a queue is mapped (assumption log, 26). -/
def queueQuarter (queue : Nat) : Nat := queue % 4

/-- Queues mapped in a Quarter, with when each was last used. -/
def State.mappedIn (s : State) (quarter : Nat) : List (Nat × Nat) :=
  (s.pf.queues.filter fun e => e.2.mapped && queueQuarter e.1 = quarter).map fun e => (e.1, e.2.used)

/-- The queue that has been idle longest. -/
def idlest : List (Nat × Nat) → Option Nat
  | [] => none
  | (n, u) :: l =>
    match l.find? fun e => decide (e.2 < u) with
    | some _ => idlest l
    | none => some n

/-- A Quarter gets a place for one more queue. -/
def State.makePlace (s : State) (quarter : Nat) : State :=
  let l := s.mappedIn quarter
  if l.length < Config.mappedQueues then s
  else match idlest l with
    | some n => s.modQueue n fun q => { q with mapped := false }
    | none => s

/-- A queue waits for its mapping: commits are stored, reads wait, or a committed slot can be taken. -/
def State.wantsMapping (s : State) (queue : Nat) : Bool :=
  let q := s.queue queue
  q.bound && !q.mapped && (!q.stored.isEmpty || !q.waiting.isEmpty || s.takeable queue)

/-- QUEUE_MAPPING (R149): the stored commits are folded in, and the reads that waited complete. -/
def execQueueMapping (queue : Nat) (s : State) : Host.Outcome State Fault Refusal :=
  if !s.wantsMapping queue then .next s
  else
    let q := s.queue queue
    let s := (s.makePlace (queueQuarter queue)).modQueue queue fun x => { x with mapped := true, stored := [], waiting := [] }
    let s := s.operateQueue queue fun t => q.stored.foldl (fun t n => t.post n) t
    .next (q.waiting.foldl (fun s fn => s.reserveFor queue fn) s)

/-! ## The launch record (R134) -/

/-- Bytes of device or host memory as the front end and firmware read them: free bytes where the memory is not there or
is poisoned (assumption log, 1). -/
def State.readBytes (s : State) (pa n : Nat) : List Byte × State :=
  if s.backed pa && !(busLines pa n).any s.ms.poison.contains then (mread s.mem pa n, s)
  else ((List.range n).map fun i => Config.freeByte (s.fresh + i), { s with fresh := s.fresh + n })

/-- A launch record (R134). -/
structure LaunchRecord where
  bytes : List Byte
  deriving DecidableEq, Repr

def LaunchRecord.field (r : LaunchRecord) (off n : Nat) : Nat := Sys2Proof.Machine.field r.bytes off n
def LaunchRecord.mode (r : LaunchRecord) (bit : Nat) : Bool := r.field 29 1 / 2 ^ bit % 2 = 1
def LaunchRecord.object (r : LaunchRecord) : Word := BitVec.ofNat 64 (r.field 0 8)
def LaunchRecord.report (r : LaunchRecord) : Word := BitVec.ofNat 64 (r.field 16 8)
def LaunchRecord.replen (r : LaunchRecord) : Nat := r.field 24 4
def LaunchRecord.tenant (r : LaunchRecord) : Nat := r.field 30 1 % 16
def LaunchRecord.qmask (r : LaunchRecord) : BitVec 4 := BitVec.ofNat 4 (r.field 30 1 / 16)
def LaunchRecord.trips (r : LaunchRecord) : List Nat := (List.range 6).map fun i => r.field (32 + 4 * i) 4
def LaunchRecord.grant (r : LaunchRecord) : BitVec 48 := BitVec.ofNat 48 (r.field 64 6)
def LaunchRecord.handover (r : LaunchRecord) : BitVec 48 := BitVec.ofNat 48 (r.field 70 6)
def LaunchRecord.det (r : LaunchRecord) : Bool := r.mode 0
def LaunchRecord.recording (r : LaunchRecord) : Bool := r.mode 1
def LaunchRecord.replay (r : LaunchRecord) : Bool := r.mode 2

/-- The launch of a record for an object's loop table; its output regions are read where it is deterministic (R117,
R134, R136). -/
def State.launchOf (s : State) (r : LaunchRecord) (levels : List Nat) (queue : Nat) : Launch :=
  let n := r.field 96 1
  let table := if r.det then (s.vreadLong r.tenant (r.field 88 8) n).getD [] else []
  { object := r.object, args := BitVec.ofNat 64 (r.field 8 8), report := r.report, replen := r.replen
    prio := r.field 28 1 % 4, tokens := r.field 28 1 / 16, det := r.det, recording := r.recording, replay := r.replay
    cores := r.mode 3, killable := r.mode 4, tenant := r.tenant, qmask := r.qmask
    ie := if r.det then (if r.field 31 1 = 0 then 20 else r.field 31 1) else 0
    trips := r.trips, levels := levels, estimate := r.field 56 4, accrows := r.field 60 2
    grant := r.grant, handover := r.handover, manifests := BitVec.ofNat 64 (r.field 80 8)
    regions := (List.range (table.length / 16)).map fun i => (field table (16 * i) 8, field table (16 * i + 8) 8)
    ckpt := BitVec.ofNat 64 (r.field 104 8), queue := queue }

/-! ## The checks (R135–R137) -/

/-- Levels and trip counts are in order (R136, R137). -/
def levelsOk (levels trips : List Nat) (qmask : BitVec 4) : Bool :=
  let used := levels.takeWhile (· != 0)
  let spatial := used.takeWhile fun k => decide (k ≤ 3)
  let kind (k : Nat) : Nat := (used.filter (· = k)).length
  let pairs := used.zip trips
  levels.all (fun k => decide (k ≤ 4)) && (levels.drop used.length).all (· = 0) && (used.drop spatial.length).all (· = 4) &&
    decide (spatial.length ≤ 4) && decide (kind 1 ≤ 1) && decide (kind 3 ≤ 1) && decide (kind 4 ≤ 4) &&
    (kind 3 = 0 || spatial.getLast? = some 3) && pairs.all (fun p => decide (1 ≤ p.2)) &&
    (trips.drop used.length).all (· = 0) &&
    pairs.all (fun p => p.1 != 1 || p.2 = (setBits qmask).length) &&
    pairs.all (fun p => p.1 != 3 || (decide (2 ≤ p.2) && decide (p.2 ≤ 8))) &&
    (kind 1 = 1 || (setBits qmask).length = 1) &&
    decide (product ((pairs.filter fun p => decide (p.1 ≤ 3)).map (·.2)) ≤ 2 ^ 24)

/-- A loop table and a record's trip counts are legal (R136, R137). DESIGN CHOICE (log entry 16): a table whose reserved bytes 6 and
7 are not zero is refused here, with BADLOOP, and not at LOAD. -/
def loopsOk (table : List Byte) (r : LaunchRecord) : Bool :=
  let l := table.map (·.toNat)
  (l.drop 6).all (· = 0) && levelsOk (l.take 6) r.trips r.qmask

/-- Reserved fields of a record are zero (R134). -/
def LaunchRecord.reservedZero (r : LaunchRecord) : Bool :=
  r.field 28 1 / 4 % 4 = 0 && r.field 29 1 / 32 = 0 && r.field 62 2 = 0 && r.field 76 4 = 0 && r.field 97 7 = 0 &&
    r.field 112 16 = 0

/-- The interval exponent is in range (R109, R134). -/
def LaunchRecord.ieOk (r : LaunchRecord) : Bool :=
  let e := r.field 31 1
  e = 0 || (r.det && decide (10 ≤ e) && decide (e ≤ 30))

/-- The mode, the masks, the counts and the reserved fields are in order (R134, R135). -/
def LaunchRecord.modeOk (r : LaunchRecord) : Bool :=
  !(r.recording && r.replay) && r.ieOk && (r.field 80 8 != 0) == (r.recording || r.replay) &&
    (r.grant &&& r.handover) == 0#48 && r.reservedZero && (r.det || (r.field 88 8 = 0 && r.field 96 1 = 0)) &&
    decide (r.field 96 1 ≤ 8) && r.field 60 2 % 32 = 0 && decide (r.field 60 2 ≤ 512)

/-- Every feature that a launch's mode or its object needs is accepted (R135, R153, R340). -/
def featuresOk (accepted : BitVec 128) (r : LaunchRecord) (o : Object) : Bool :=
  (!r.det || accepted.getLsbD 2) && (!(r.recording || r.replay) || accepted.getLsbD 3) && o.features &&& ~~~accepted == 0#128

/-- The first status of R135 that a record earns, where `owner` is the tenant that must hold it; NOROOM is found when
its turn comes (R142). -/
def State.launchStatus (s : State) (r : LaunchRecord) (owner : Nat) : Option Nat :=
  match (s.object r.object).filter fun o => o.tenant = r.tenant with
  | none => some 2
  | some o =>
    if r.tenant != owner || r.qmask = 0#4 then some 7
    else if !loopsOk o.loops r then some 8
    else if !r.modeOk then some 0x0A
    else if !featuresOk ((s.acceptedFor owner).getD 0#128) r o then some 6
    else none

/-- A report can be written: aligned, long enough, and its first 64 bytes translate with WR (R135). -/
def State.reportWritable (s : State) (r : LaunchRecord) : Bool :=
  r.report.toNat % 64 = 0 && decide (64 ≤ r.replen) && decide (r.report.toNat < 2 ^ 55) &&
    match s.walk r.tenant r.report.toNat with
    | .ok e _ => e.perms.getLsbD 3
    | _ => false

/-- A launch enters the device, in admission order (R141). -/
def State.admitLaunch (s : State) (l : Launch) : State :=
  { s with launches := fput s.launches s.launchSeq l, launchSeq := s.launchSeq + 1 }

/-- The levels of the object a record names. -/
def State.levelsFor (s : State) (r : LaunchRecord) : List Nat :=
  match s.object r.object with
  | some o => (o.loops.map (·.toNat)).take 6
  | none => []

/-- The front end checks a record and admits or refuses its launch (R135, R141). -/
def State.frontEnd (s : State) (r : LaunchRecord) (queue owner : Nat) : State :=
  if !s.reportWritable r then s.unreported r.tenant queue r.report
  else
    let n := s.launchSeq
    let t := s.admitLaunch (s.launchOf r (s.levelsFor r) queue)
    match s.launchStatus r owner with
    | some status => t.refuseLaunch n status
    | none => t

/-- LAUNCH_TAKE (R135, R147, R148, R340): the next slot, once committed, is copied and freed, and its record checked. -/
def execLaunchTake (queue : Nat) (s : State) : Host.Outcome State Fault Refusal :=
  let q := s.queue queue
  if !(q.mapped && s.takeable queue) then .next s
  else
    match (Ticket.ofBytes q.desc).takeSlot with
    | (_, none) => .next s
    | (_, some slot) =>
      let b := s.readBytes (q.ring + 128 * slot) 128
      let s := b.2.operateQueue queue fun t => t.takeSlot.1.release
      .next (s.frontEnd { bytes := b.1 } queue q.tenant)

/-! ## Early reading (R150) -/

/-- A line of code enters a core's L1I before a commit: nothing else changes. -/
def State.warmQuietly (s : State) (core tenant : Nat) (va : Nat) : State :=
  match s.walk tenant va with
  | .ok e _ =>
    let pa := e.pa va
    if e.perms.getLsbD 4 && s.backed pa && !s.poisoned pa then
      s.modCore core fun k => { k with l1i := fput k.l1i (lineKey tenant va) (pa / 128, mread s.mem (pa / 128 * 128) 128) }
    else s
  | _ => s

/-- The cores that units of a launch would be installed on one after the other, were they installed now (R141). -/
def State.coresFor (n : Nat) (o : Object) : List Nat → State → List Nat
  | [], _ => []
  | t :: l, s =>
    match s.installUnit n t o with
    | some u => (((u.launch n).unitOf t).map fun x => coreOf ((u.launch n).team x).ctx) ++ State.coresFor n o l u
    | none => State.coresFor n o l s

/-- The cores on which the front end expects a launch's teams (R141, R150). -/
def State.expectedCores (s : State) (l : Launch) (o : Object) : List Nat :=
  (State.coresFor s.launchSeq o l.units (s.admitLaunch l)).eraseDups

/-- EARLY_LAUNCH_READ (R146, R150): a slot of a mapped queue in device memory has its object handle. -/
def execEarlyLaunchRead (queue slot : Nat) (s : State) : Host.Outcome State Fault Refusal :=
  let q := s.queue queue
  let pa := q.ring + 128 * slot
  let inDevice := match region pa with | .hbm => true | .cxl _ => true | _ => false
  if !(q.mapped && inDevice && decide (slot < 2 ^ q.lg)) then .next s
  else
    let r : LaunchRecord := { bytes := mread s.mem pa 128 }
    match s.object r.object with
    | none => .next s
    | some o =>
      let l := s.launchOf r (s.levelsFor r) queue
      .next ((s.expectedCores l o).foldl (fun s n =>
        (List.range 128).foldl (fun s i => s.warmQuietly n o.tenant (o.start.toNat + 128 * i)) s) s)

end Sys2Proof.Machine
end

