-- ==== Sys2Proof/Machine/Host.lean ====
section
/-!
DEFINITION. Host functions and firmware's commands (R22, R23, R36, R38, R49, R83, R335–R347): the mailbox, each command of
R339, resets, the key store, the management port and the making of tenant spaces.
-/

namespace Sys2Proof.Machine

/-! ## The mailbox (R337, R338) -/

/-- A command's code. -/
def HostFn.code (f : HostFn) : Nat := (f.cmd.extractLsb' 0 8).toNat

/-- An argument of a command. -/
def HostFn.arg (f : HostFn) (n : Nat) : Word := fget 0#64 f.args n

/-- The mailbox's state register (R337, R343): where the boot stopped it reads done, BADOBJ and tag 0. -/
def State.mailboxState (s : State) (fn : Nat) : Word :=
  if s.pf.boot = 2 then BitVec.ofNat 64 (2 + 2 * 2 ^ 8)
  else
    let f := s.fn fn
    BitVec.ofNat 64 (f.st + (if f.overrun then 4 else 0) + f.status * 2 ^ 8 + f.tag * 2 ^ 16)

/-- A bell is rung: ignored while a command runs, and then noted (R338). -/
def HostFn.ring (f : HostFn) : HostFn :=
  if f.st = 1 then { f with overrun := true }
  else { f with st := 1, overrun := false, status := 0, tag := (f.cmd.extractLsb' 16 16).toNat, outcome := none, began := none }

/-- A write to a mailbox register (R337, R338). -/
def HostFn.write (f : HostFn) (off : Nat) (value : Word) : HostFn :=
  if off = 0x38 then (if value = 1#64 then f.ring else f)
  else if f.st = 1 then f
  else if off = 0 then { f with cmd := value &&& 0xFFFF00FF#64 }
  else if off % 8 = 0 && decide (off ≤ 0x30) then { f with args := fput f.args (off / 8 - 1) value }
  else f

/-- What a read of the mailbox returns: nothing says what the bell and what lies past the results read as (R337; assumption
log, 13). -/
def State.mailboxWord (s : State) (fn off : Nat) : Word :=
  let f := s.fn fn
  let n := off / 8
  if n = 0 then f.cmd
  else if n ≤ 6 then f.arg (n - 1)
  else if n = 8 then s.mailboxState fn
  else if 9 ≤ n && n ≤ 12 then fget 0#64 f.res (n - 9)
  else Config.freeWord s.fresh

/-- The host reads 8 bytes of BAR 0: a register of a mailbox, or of the MSI-X table at 0x8000 (R40, R335, R337). -/
def State.mailboxRead (s : State) (fn off : Nat) : State :=
  if (s.fn fn).aborted then s.reply fn 0 true
  else if decide (0x8000 ≤ off) && decide (off < 0x10000) then
    s.reply fn (fget 0#64 (s.fn fn).msixTable ((off - 0x8000) / 8)).toNat false
  else ({ s with fresh := s.fresh + 1 }).reply fn (s.mailboxWord fn off).toNat false

/-- The host writes a word of a function's MSI-X table, at BAR 0 offset 0x8000 (R335). -/
def State.msixWrite (s : State) (fn off : Nat) (value : Word) : State :=
  if (s.fn fn).aborted then s.reply fn 0 true
  else if decide (0x8000 ≤ off) && decide (off < 0x10000) then
    s.modFn fn fun f => { f with msixTable := fput f.msixTable ((off - 0x8000) / 8) value }
  else s

/-- BAR 4 is from 1 GiB to 1 TiB (R335). -/
def State.barResize (s : State) (fn lg : Nat) : State :=
  if decide (30 ≤ lg) && decide (lg ≤ 40) then s.modFn fn fun f => { f with barSize := 2 ^ lg } else s

/-- MAILBOX_REGISTER_WRITE (R40, R337, R338). -/
def execMailboxRegisterWrite (fn off : Nat) (value : Word) (s : State) : Host.Outcome State Fault Refusal :=
  if (s.fn fn).aborted then .next (s.reply fn 0 true)
  else .next (s.modFn fn fun f => f.write off value)

/-- A function's command of a code runs and has no outcome yet (R338). -/
def State.running (s : State) (fn code : Nat) : Bool :=
  let f := s.fn fn
  s.pf.boot = 1 && f.st = 1 && f.outcome.isNone && f.code = code

/-- A command has its status and results (R338, R339). -/
def State.outcome (s : State) (fn status : Nat) (res : List Word) : State :=
  s.modFn fn fun f => { f with outcome := some (status, res) }

/-- The command codes of R339. -/
def codeDefined (code : Nat) : Bool := decide (1 ≤ code) && decide (code ≤ 0x13)

/-- MAILBOX_COMMAND_DONE (R338, R339): results, then state, then MSI-X vector 0; a reserved code ends with BADARG. -/
def execMailboxCommandDone (fn : Nat) (s : State) : Host.Outcome State Fault Refusal :=
  let f := s.fn fn
  if s.pf.boot != 1 || f.st != 1 then .next s
  else
    let done (status : Nat) (res : List Word) : State :=
      s.modFn fn fun f =>
        { f with res := res.zipIdx.foldl (fun m (x : Word × Nat) => fput m x.2 x.1) f.res
                 st := 2, status := status, outcome := none, began := none, msix := f.msix + 1 }
    match f.outcome with
    | some r => .next (done r.1 r.2)
    | none => if codeDefined f.code then .next s else .next (done 0x11 [])

/-- A command runs to its outcome, unless a check refuses it first. -/
def State.command (s : State) (fn code : Nat) (refuse : Option Nat) (f : State → State) : Host.Outcome State Fault Refusal :=
  if !s.running fn code then .next s
  else match refuse with
    | some status => .next (s.outcome fn status [])
    | none => .next (f s)

/-- The first status whose condition holds. -/
def firstStatus : List (Bool × Nat) → Option Nat
  | [] => none
  | (b, n) :: l => if b then some n else firstStatus l

/-- A feature bit is not accepted (R340). -/
def HostFn.lacks (f : HostFn) (bit : Nat) : Bool := match f.accepted with | some v => !v.getLsbD bit | none => true

/-- A tenant is not one that the function holds (R339). -/
def HostFn.foreign (f : HostFn) (tenant : Word) : Bool := !(f.tenants.contains tenant.toNat)

/-- A host physical range is out of the host window's reach (R16, R339). -/
def outOfHost (a : Word) (n : Nat) : Bool := decide (0x1000000000000 < a.toNat + n)

/-- The physical address of a host physical address (R16). -/
def hostPa (a : Word) : Nat := 0x1000000000000 + a.toNat

/-- Bytes read over the host link. -/
def State.hostRead (s : State) (a : Word) (n : Nat) : List Byte := mread s.mem (hostPa a) n

/-! ## FEATURES, ACCEPT (R340) -/

/-- FEATURES. -/
def execFeatures (fn : Nat) (s : State) : Host.Outcome State Fault Refusal :=
  s.command fn 0x01 none fun s =>
    s.outcome fn 1 [Config.offeredFeatures.extractLsb' 0 64, Config.offeredFeatures.extractLsb' 64 64]

/-- ACCEPT. -/
def execAccept (fn : Nat) (s : State) : Host.Outcome State Fault Refusal :=
  let f := s.fn fn
  let v : BitVec 128 := f.arg 1 ++ f.arg 0
  s.command fn 0x02 (firstStatus [(f.accepted.isSome, 0x11), (v &&& ~~~Config.offeredFeatures != 0#128, 0x11)]) fun s =>
    (s.modFn fn fun f => { f with accepted := some v }).outcome fn 1 []

/-! ## Code objects (R129–R132, R346) -/

/-- A section-table entry or a note as the loader reads it (R130, R131). -/
structure Piece where
  type : Nat
  flags : Nat
  off : Nat
  size : Nat
  deriving DecidableEq, Repr

/-- Entry i of the section table (R130). -/
def sectionAt (b : List Byte) (i : Nat) : Piece :=
  let at' := field b 12 4 + 32 * i
  { type := field b at' 2, flags := field b (at' + 2) 2, off := field b (at' + 8) 8, size := field b (at' + 16) 8 }

/-- Alignment of a section's offset (R130). -/
def sectionAlign (type : Nat) : Nat :=
  match type with
  | 1 => 32 | 2 => 4 | 3 => 32 | 4 => 8 | 5 => 8 | 6 => 4 | 7 => 8 | _ => 1

/-- The sections of an object. -/
def sectionsOf (b : List Byte) : List Piece := (List.range (field b 8 4)).map (sectionAt b)

/-- Notes one after another from an offset, and whether the last one read overruns the object: its payload does, while the
padding after it may (R131; assumption log, 36). -/
def notesAt (b : List Byte) : (count off : Nat) → List Piece × Bool
  | 0, _ => ([], false)
  | n + 1, off =>
    if b.length < off + 8 then ([], true)
    else
      let p : Piece := { type := field b off 2, flags := field b (off + 2) 2, off := off + 8, size := field b (off + 4) 4 }
      if b.length < off + 8 + p.size then ([p], true)
      else
        let r := notesAt b n (off + 8 + (p.size + 7) / 8 * 8)
        (p :: r.1, r.2)

/-- The notes of an object. -/
def notesOf (b : List Byte) : List Piece × Bool := notesAt b (field b 16 4) (field b 20 4)

/-- The first row of R132: the header, the alignment of offsets, sections inside the object, reserved fields. -/
def headerGood (b : List Byte) (length : Nat) : Bool :=
  let n := field b 8 4
  decide (64 ≤ b.length) && field b 0 4 = 0x004E4843 && field b 4 2 = 1 && field b 48 8 = length && decide (1 ≤ n) &&
    decide (n ≤ 64) && decide (field b 16 4 ≤ 256) && field b 12 4 % 32 = 0 && field b 20 4 % 8 = 0 && field b 24 8 % 32 = 0 &&
    field b 56 8 = 0 && decide (field b 12 4 + 32 * n ≤ b.length) &&
    (List.range n).all (fun i =>
      let at' := field b 12 4 + 32 * i
      let p := sectionAt b i
      field b (at' + 4) 4 = 0 && field b (at' + 24) 8 = 0 && decide (p.flags ≤ 1) && p.off % sectionAlign p.type = 0 &&
        decide (p.off + p.size ≤ b.length)) &&
    (notesOf b).1.all fun p => decide (p.flags ≤ 1)

/-- The sections of a type. -/
def ofType (l : List Piece) (type : Nat) : List Piece := l.filter fun p => p.type = type

/-- The bytes of the first section of a type. -/
def sectionBytes (b : List Byte) (type : Nat) : List Byte :=
  match (ofType (sectionsOf b) type).head? with
  | some p => (b.drop p.off).take p.size
  | none => []

/-- Records of the operator table: index and entry (R130). -/
def optabOf (b : List Byte) : List (Nat × BitVec 64) :=
  (List.range (b.length / 16)).map fun i => (field b (16 * i) 1, BitVec.ofNat 64 (field b (16 * i + 8) 8))

/-- The operator table is within its limits (R130). -/
def optabGood (b : List Byte) : Bool :=
  let l := optabOf b
  b.length % 16 = 0 && decide (l.length ≤ 8) && l.all (fun e => decide (8 ≤ e.1) && decide (e.1 ≤ 15)) && (l.map (·.1)).Nodup &&
    (List.range l.length).all fun i => field b (16 * i + 1) 7 = 0

/-- The third row of R132: unknown, missing and repeated sections, limits, the entry. -/
def sectionsGood (b : List Byte) : Bool :=
  let l := sectionsOf b
  l.all (fun p => (decide (1 ≤ p.type) && decide (p.type ≤ 8)) || p.flags = 1) &&
    (ofType l 1).length = 1 && (ofType l 4).length = 1 &&
    (ofType l 1).all (fun p => p.size % 32 = 0 && decide (field b 24 8 + 32 ≤ p.size)) &&
    (ofType l 2).all (fun p => p.size % 4 = 0) &&
    (ofType l 3).all (fun p => p.size % 32 = 0 && decide (p.size ≤ 32 * 512)) &&
    (ofType l 4).all (fun p => p.size = 8) && (ofType l 5).all (fun p => optabGood ((b.drop p.off).take p.size)) &&
    (ofType l 6).all fun p => p.size = 64

/-- The fourth row of R132. -/
def notesGood (b : List Byte) : Bool :=
  let r := notesOf b
  !r.2 && r.1.all fun p => p.type = 1 || p.type = 2 || p.flags = 0

/-- The features an object needs (R129). -/
def featuresOf (b : List Byte) : BitVec 128 := BitVec.ofNat 128 (field b 32 16)

/-- A signature of the manual's scheme over the digest of some bytes (R343, R346). -/
def signed (key message signature : List Byte) : Bool := Config.slhVerify key (toBytes 32 (shake256 message).toNat) signature

/-- Bytes of a signature (R343). -/
def signatureSize : Nat := 29792

/-- An object verifies under a key of the sealed key store (R346). -/
def State.verifies (s : State) (key : Nat) (b signature : List Byte) : Bool :=
  match fget none s.pf.keyStore key with
  | some k => signed k b signature
  | none => false

/-- The checks of R132 in their order, where `verified` says how the second comes out. -/
def objectStatus (b : List Byte) (length : Nat) (verified : Bool) (accepted : BitVec 128) : Option Nat :=
  firstStatus [(!headerGood b length, 2), (!verified, 2), (!sectionsGood b, 3), (!notesGood b, 4), (field b 6 2 != 1, 5),
    (featuresOf b &&& ~~~accepted != 0#128, 6)]

/-! ## Placing an object (R16, R132, R339) -/

/-- The next 64 KiB boundary. -/
def roundUp (n : Nat) : Nat := (n + 0xFFFF) / 0x10000 * 0x10000

/-- The pages of an object's sections: 64 KiB each, from the bundles to the end of the control words (R339). -/
def pagesOf (bundles literals words : Nat) : Nat :=
  (roundUp (roundUp bundles + literals) + words + 0xFFFF) / 0x10000

/-- The HBM4E granules that are unassigned (R17). -/
def State.freeGranules (s : State) : List Nat := (List.range 1536).filter fun n => s.granule n = 0x1F#8

/-- The lowest HBM4E granule that is unassigned (R17). -/
def State.freeGranule (s : State) : Option Nat := s.freeGranules.head?

/-- A granule is taken, zeroed, for an owner (R19). -/
def State.takeGranule (s : State) (n : Nat) (owner : BitVec 5) : State := s.endGranule n owner

/-- Firmware has a page for one more page table, if it needs one (R12, R18). -/
def State.newTable (s : State) : Option (Nat × State) :=
  if s.pf.tablePage % granuleSize = 0 then
    s.freeGranule.map fun n =>
      let s := s.takeGranule n 0x10#5
      (n * granuleSize, s.modPf fun p => { p with tablePage := n * granuleSize + 0x10000 })
  else some (s.pf.tablePage, s.modPf fun p => { p with tablePage := p.tablePage + 0x10000 })

/-- The table that an entry points to, made where the entry is not valid (R13). -/
def State.tableAt (s : State) (entry : Nat) : Option (Nat × State) :=
  let e := BitVec.ofNat 64 (mnat s.mem entry 8)
  if e.getLsbD 0 then some (Sys2Proof.Machine.entryBase e, s)
  else s.newTable.map fun r => (r.1, r.2.deviceWrite entry (toBytes 8 (r.1 + 1)))

/-- A page is mapped with RD and EX set and WR clear (R132). -/
def State.mapPage (s : State) (root va pa : Nat) : Option State :=
  (s.tableAt (root + 8 * (va / 2 ^ 42 % 8192))).bind fun a =>
    (a.2.tableAt (a.1 + 8 * (va / 2 ^ 29 % 8192))).map fun b =>
      b.2.deviceWrite (b.1 + 8 * (va / 2 ^ 16 % 8192)) (toBytes 8 (pa + 0x17))

/-- Pages are mapped, each virtual address to its physical one. -/
def State.mapPages (s : State) (root : Nat) : List (Nat × Nat) → Option State
  | [] => some s
  | x :: l => (s.mapPage root x.1 x.2).bind fun t => t.mapPages root l

/-- Nothing is mapped at an address (R14). -/
def State.unmapped (s : State) (tenant va : Nat) : Bool :=
  match s.walk tenant va with
  | .fault r => r = 2 || r = 3 || r = 4
  | _ => false

/-- The object that a file's bytes make at an address (R129, R130, R132). -/
def objectOf (b : List Byte) (handle : Word) (tenant va : Nat) (home : List Nat) : Object :=
  let bundles := sectionBytes b 1
  let literals := sectionBytes b 2
  let words := sectionBytes b 3
  let lit := va + roundUp bundles.length
  let fmt := sectionBytes b 6
  { handle := handle, tenant := tenant, bundleVa := va, bundleLen := bundles.length, litVa := lit, litLen := literals.length
    cwtVa := roundUp (lit + literals.length)
    cwt := (List.range (words.length / 32)).map fun i => BitVec.ofNat 256 (field words (32 * i) 32)
    entry := field b 24 8, loops := sectionBytes b 4
    optab := (optabOf (sectionBytes b 5)).foldl (fun m e => fput m e.1 e.2) []
    fmtab := (List.range (fmt.length / 4)).map fun i => BitVec.ofNat 32 (field fmt (4 * i) 4)
    features := featuresOf b, home := home, pages := pagesOf bundles.length literals.length words.length }

/-- The physical address of a byte of an object, by its offset from the bundles (R132). -/
def Object.pa (o : Object) (off : Nat) : Nat := o.home.getD (off / granuleSize) 0 * granuleSize + off % granuleSize

/-- The pages of an object: virtual and physical addresses. -/
def Object.map (o : Object) : List (Nat × Nat) := (List.range o.pages).map fun i => (o.bundleVa + 0x10000 * i, o.pa (0x10000 * i))

/-- Bytes of a section are stored from an offset of the object on, page by page. -/
def State.storeSection (s : State) (o : Object) (off : Nat) (b : List Byte) : State :=
  (List.range ((b.length + 0xFFFF) / 0x10000)).foldl (fun s i =>
    s.deviceWrite (o.pa (off + 0x10000 * i)) ((b.drop (0x10000 * i)).take 0x10000)) s

/-- A virtual line lies in an object's range. -/
def Object.holds (o : Object) (tenant line : Nat) : Bool :=
  tenant = o.tenant && decide (o.bundleVa ≤ line * 128) && decide (line * 128 < o.bundleVa + o.pages * 0x10000)

/-- An object's sections are in memory and mapped, and the fetch levels hold none of its lines (R63, R132). -/
def State.placeObject (s : State) (o : Object) (b : List Byte) (root : Nat) : Option State :=
  let s := o.home.foldl (fun s n => s.takeGranule n (BitVec.ofNat 5 o.tenant)) s
  (s.mapPages root o.map).map fun s =>
    let s := s.storeSection o 0 (sectionBytes b 1)
    let s := s.storeSection o (o.litVa - o.bundleVa) (sectionBytes b 2)
    let s := s.storeSection o (o.cwtVa - o.bundleVa) (sectionBytes b 3)
    (s.dropFetch o.holds).modPf fun p => { p with objects := p.objects ++ [o], objectSeq := p.objectSeq + 1 }

/-- The handle of the next object: the model numbers the lower half, so no two agree (R132). -/
def State.nextHandle (s : State) : Word := Config.handleValue s.pf.objectSeq ++ BitVec.ofNat 32 s.pf.objectSeq

/-- A range of pages lies in the tenant space and is not mapped. -/
def State.vacant (s : State) (tenant va pages : Nat) : Bool :=
  decide (va + pages * 0x10000 ≤ 2 ^ 55) && (List.range pages).all fun i => s.unmapped tenant (va + 0x10000 * i)

/-- The loader's own choice of a place: the first vacant one, from a page of its own on (R339; assumption log, 36). -/
def State.loaderChoice (s : State) (tenant pages : Nat) : (fuel : Nat) → (page : Nat) → Option Nat
  | 0, _ => none
  | n + 1, page =>
    if s.vacant tenant (page % 2 ^ 39 * 0x10000) pages then some (page % 2 ^ 39 * 0x10000) else s.loaderChoice tenant pages n (page + 1)

/-- A checked object is placed, at the address required or one of the loader's (R132, R339): a range past the end of the
space is refused, and one that is mapped already; the place of one that memory has no room for is not stated (assumption
log, 36). -/
def State.loadObject (s : State) (fn tenant required : Nat) (b : List Byte) : State :=
  let size (type : Nat) : Nat := (sectionBytes b type).length
  let pages := pagesOf (size 1) (size 2) (size 3)
  let granules := (pages + 8191) / 8192
  let va := if required = 0 then s.loaderChoice tenant pages (2 ^ 39) (Config.loaderPlace s.pf.objectSeq)
    else if s.vacant tenant required pages then some required
    else none
  match fget none s.ms.xlbase tenant, va with
  | none, _ => s.outcome fn 0x11 []
  | some _, none => s.outcome fn (if 2 ^ 55 < required + pages * 0x10000 then 0x11 else 0x10) []
  | some root, some va =>
    let o := objectOf b s.nextHandle tenant va (s.freeGranules.take granules)
    match (if o.home.length = granules then s.placeObject o b root else none) with
    | some t => t.outcome fn 1 [o.handle, BitVec.ofNat 64 o.bundleVa, BitVec.ofNat 64 o.litVa, BitVec.ofNat 64 o.cwtVa]
    | none => s.outcome fn 0x10 []

/-- LOAD (R132, R339, R340, R346). -/
def execLoad (fn : Nat) (s : State) : Host.Outcome State Fault Refusal :=
  let f := s.fn fn
  let n := (f.arg 1).toNat
  let refuse := firstStatus [(f.accepted.isNone, 0x12), (f.foreign (f.arg 4), 0x11), (decide (32 ≤ (f.arg 3).toNat), 0x11),
    ((f.arg 5).toNat % 0x10000 != 0, 0x11), (decide (2 ^ 55 ≤ (f.arg 5).toNat), 0x11), (outOfHost (f.arg 0) n, 0x11),
    (outOfHost (f.arg 2) signatureSize, 0x11)]
  s.command fn 0x03 refuse fun s =>
    let b := s.hostRead (f.arg 0) n
    let verified := s.verifies (f.arg 3).toNat b (s.hostRead (f.arg 2) signatureSize)
    match objectStatus b n verified (f.accepted.getD 0#128) with
    | some status =>
      let s := if headerGood b n && !verified then s.audit 7 (f.arg 4).toNat 0xFF [f.arg 0, f.arg 3] else s
      s.outcome fn status []
    | none => s.loadObject fn (f.arg 4).toNat (f.arg 5).toNat b

/-! ## UNLOAD (R133) -/

/-- Launches that name an object and have not ended. -/
def State.launchesOf (s : State) (handle : Word) : List Nat :=
  (s.launches.filter fun e => e.2.object = handle && !e.2.ended).map (·.1)

/-- A launch is queued or has teams installed (R133). -/
def State.needsObject (s : State) (n : Nat) : Bool :=
  let l := s.launch n
  !(s.contextsIn n).isEmpty || (List.range l.count).any fun t => (l.team t).st = .waiting || (l.team t).st = .migrating

/-- A launch has saved images. -/
def State.savedImages (s : State) (n : Nat) : Bool :=
  let l := s.launch n
  (List.range l.count).any fun t => (l.team t).st = .saved

/-- Every saved image of a launch is marked orphaned. -/
def State.orphan (s : State) (n : Nat) : State :=
  s.modLaunch n fun l => { l with teams := l.teams.map fun (e : Nat × Team) => (e.1, { e.2 with orphan := e.2.orphan || e.2.st = .saved }) }

/-- A translation lies in a virtual range of a tenant space. -/
def Tlb.within (e : Tlb) (tenant base len : Nat) : Bool :=
  let size := if e.big then granuleSize else 0x10000
  e.tenant = tenant && decide (e.page * size < base + len) && decide (base < e.page * size + size)

/-- The leaf entry of a page is cleared (R14). -/
def State.unmapPage (s : State) (tenant va : Nat) : State :=
  match s.walk tenant va with
  | .ok _ entry => s.deviceWrite entry (toBytes 8 0)
  | _ => s

/-- An object goes: its name, its pages, its translations and its lines; its granules are on their way to being unassigned
(R19, R133). -/
def State.removeObject (s : State) (o : Object) : State :=
  let s := o.map.foldl (fun s x => s.unmapPage o.tenant x.1) s
  let s := (s.dropTlbs fun e => e.within o.tenant o.bundleVa (o.pages * 0x10000)).dropFetch o.holds
  let s := o.home.foldl State.beginGranule s
  s.modPf fun p => { p with objects := p.objects.filter fun x => x.handle != o.handle }

/-- A launch record that a queue holds, committed and not yet taken, names an object (R133, R147). -/
def State.posted (s : State) (handle : Word) : Bool :=
  s.pf.queues.any fun e =>
    let t := Ticket.ofBytes e.2.desc
    e.2.bound && (List.range (2 ^ t.lg)).any fun n =>
      (t.commit / 2 ^ n % 2 = 1 || e.2.stored.contains n) && mnat s.mem (e.2.ring + 128 * n) 8 = handle.toNat

/-- UNLOAD (R19, R133, R339): once what was translated into the object's memory has performed, it is zeroed and given
up. -/
def execUnload (fn : Nat) (s : State) : Host.Outcome State Fault Refusal :=
  let f := s.fn fn
  let o := (s.object (f.arg 0)).filter fun o => f.tenants.contains o.tenant
  let l := s.launchesOf (f.arg 0)
  let refuse := firstStatus [(o.isNone, 0x11), (l.any s.needsObject || s.posted (f.arg 0), 0x10),
    (!(f.arg 1).getLsbD 0 && l.any s.savedImages, 0x10)]
  s.command fn 0x04 (if f.began.isSome then none else refuse) fun s =>
    match f.began, o with
    | some _, _ =>
      if f.removing.any fun n => s.outstanding (n * granuleSize) granuleSize then s
      else ((f.removing.foldl (fun s n => s.endGranule n 0x1F#5) s).modFn fn fun f => { f with removing := [] }).outcome fn 1 []
    | none, some o =>
      ((l.foldl State.orphan s).removeObject o).modFn fn fun f => { f with began := some s.cycle, removing := f.removing ++ o.home }
    | none, none => s

/-! ## INVAL (R22–R24) -/

/-- The length of a request's range in bytes: zero stands for the whole space. -/
def invalLength (n : Word) : Nat := if n = 0#64 then 2 ^ 55 else n.toNat * 0x10000

/-- An access of a tenant to a virtual range, issued by a cycle, a write of an engine to it, or a line's read that an engine began
by then has not performed (R11, R23). -/
def State.oldAccess (s : State) (tenant base len cycle : Nat) : Bool :=
  (s.ctxs.any fun e => e.2.tenant = tenant && e.2.accesses.any fun a =>
    a.global && decide (a.issueCycle ≤ cycle) && decide (base ≤ a.va.toNat) && decide (a.va.toNat < base + len)) ||
    (s.ms.sent.any fun x => x.tenant = tenant && decide (base ≤ x.va.toNat) && decide (x.va.toNat < base + len)) ||
    s.readsLine fun c h => c.tenant = tenant && decide (h.since ≤ cycle) && decide (base < h.line * 256 + 256) &&
      decide (h.line * 256 < base + len)

/-- What walks refused a dray command of a tenant is forgotten. -/
def Dray.forget (d : Dray) (tenant : Nat) : Dray :=
  let f (y : DrayCmd) : DrayCmd := if y.tenant = tenant then { y with walkFail := [] } else y
  { d with running := d.running.map f, shadow := d.shadow.map f }

/-- The translations of a range go, with the lines fetched through them, and what walks refused is asked for anew (R23). -/
def State.invalidate (s : State) (tenant base len : Nat) : State :=
  let s := (s.dropTlbs fun e => e.within tenant base len).dropFetch fun t n =>
    t = tenant && decide (base ≤ n * 128) && decide (n * 128 < base + len)
  { s with ctxs := s.ctxs.map fun (e : Nat × Ctx) => if e.2.tenant = tenant then (e.1, { e.2 with walkFail := [] }) else e
           cores := s.cores.map fun (e : Nat × CoreState) =>
             (e.1, { e.2 with drays := e.2.drays.map fun (d : Nat × Dray) => (d.1, d.2.forget tenant) }) }

/-- INVAL (R23, R339): done when what was translated before has performed. -/
def execInval (fn : Nat) (s : State) : Host.Outcome State Fault Refusal :=
  let f := s.fn fn
  let tenant := (f.arg 0).toNat
  let base := if f.arg 2 = 0#64 then 0 else (f.arg 1).toNat
  let len := invalLength (f.arg 2)
  let refuse := firstStatus [(f.foreign (f.arg 0), 0x11), ((f.arg 1).toNat % 0x10000 != 0, 0x11), (decide (2 ^ 55 < base + len), 0x11)]
  s.command fn 0x05 refuse fun s =>
    match f.began with
    | none => (s.invalidate tenant base len).modFn fn fun f => { f with began := some s.cycle }
    | some n => if s.oldAccess tenant base len n then s else s.outcome fn 1 []

/-! ## DEPOTLAT, OVLCHK, QRESET, COLLGRP, PEERSET, BINDQ -/

/-- The Depot latency table (R49). -/
def latencyTable : List Byte :=
  (List.range 192).flatMap fun c => (List.range 256).map fun d => Config.depotLatency c d

/-- DEPOTLAT. -/
def execDepotlat (fn : Nat) (s : State) : Host.Outcome State Fault Refusal :=
  let a := (s.fn fn).arg 0
  s.command fn 0x06 (firstStatus [(outOfHost a 49152, 0x11)]) fun s => (s.deviceWrite (hostPa a) latencyTable).outcome fn 1 []

/-- OVLCHK (R83, R340). -/
def execOvlchk (fn : Nat) (s : State) : Host.Outcome State Fault Refusal :=
  let f := s.fn fn
  let t := (f.arg 0).toNat
  s.command fn 0x07 (firstStatus [(f.lacks 4, 0x12), (f.foreign (f.arg 0), 0x11)]) fun s =>
    (s.modMs fun m =>
      let others := m.ovl.filter (· != t)
      { m with ovl := if (f.arg 1).getLsbD 0 then t :: others else others }).outcome fn 1 []

/-- QRESET (R339): slots committed and not taken are forgotten, those stored for a mapping too. -/
def execQreset (fn : Nat) (s : State) : Host.Outcome State Fault Refusal :=
  let f := s.fn fn
  let q := (f.arg 0).toNat
  s.command fn 0x08 (firstStatus [(!s.pageLive fn q, 0x11)]) fun s =>
    (s.modQueue q fun x =>
      let t := Ticket.ofBytes x.desc
      { x with desc := { t with resv := t.take, commit := 0, free := 2 ^ t.lg : Ticket }.toBytes, stored := [] }).outcome fn 1 []

/-- Bytes of an entry of a member table, whose layout is not published (assumption log, 18). -/
def memberBytes : Nat := Config.memberSize % 256 + 1

/-- The members of a group on this device: rank and tenant (R319, R339). -/
def State.membersHere (s : State) (table : Word) (n : Nat) : List (Nat × Nat) :=
  ((List.range n).map fun i => Config.memberOf (s.hostRead (table + BitVec.ofNat 64 (memberBytes * i)) memberBytes)).filterMap fun m =>
    if m.1 = s.pf.device then some (m.2.1, m.2.2) else none

/-- COLLGRP (R319, R340). -/
def execCollgrp (fn : Nat) (s : State) : Host.Outcome State Fault Refusal :=
  let f := s.fn fn
  let n := (f.arg 2).toNat
  let m := s.membersHere (f.arg 1) n
  let refuse := firstStatus [(f.lacks 1, 0x12), (decide (2 ^ 32 ≤ (f.arg 0).toNat), 0x11), (decide (n < 2) || decide (4096 < n), 0x11),
    (outOfHost (f.arg 1) (n * memberBytes), 0x11), (m.any fun x => !f.tenants.contains x.2, 0x11)]
  s.command fn 0x09 refuse fun s =>
    (s.modPf fun p => { p with groups := fput p.groups (f.arg 0).toNat { size := n, members := m } }).outcome fn 1 []

/-- Some launch is installed (R341). -/
def State.installed (s : State) : Bool := s.ctxs.any fun e => e.2.st != .free

/-- PEERSET (R340, R341). -/
def execPeerset (fn : Nat) (s : State) : Host.Outcome State Fault Refusal :=
  let f := s.fn fn
  s.command fn 0x0A (firstStatus [(f.lacks 1, 0x12), (decide (64 ≤ (f.arg 1).toNat), 0x11), (s.installed, 0x10)]) fun s =>
    (s.modPf fun p => { p with domain := (f.arg 0).toNat, device := (f.arg 1).toNat }).outcome fn 1 []

/-- The physical address of a ring: host memory, or device memory that the function's window shows there (R16, R150,
R336, R339). -/
def HostFn.ringAt (f : HostFn) (fn : Nat) (a : Word) : Option Nat :=
  let bar := Config.bar4Base fn
  if decide (bar ≤ a.toNat) && decide (a.toNat < bar + f.barSize) then
    let o := a.toNat - bar
    (fget none f.winmap (o / granuleSize)).map fun base => base + o % granuleSize
  else if outOfHost a 1 then none
  else some (hostPa a)

/-- A queue with a fresh descriptor (R147). -/
def freshQueue (tenant ring lg : Nat) : Queue :=
  { bound := true, tenant := tenant, ring := ring, lg := lg
    desc := { resv := 0, take := 0, free := 2 ^ lg, lg := lg, zero := true, commit := 0 : Ticket }.toBytes }

/-- BINDQ (R146, R147, R339). -/
def execBindq (fn : Nat) (s : State) : Host.Outcome State Fault Refusal :=
  let f := s.fn fn
  let lg := (f.arg 3).toNat
  let ring := f.ringAt fn (f.arg 2)
  let refuse := firstStatus [(decide (4096 ≤ (f.arg 0).toNat), 0x11), (f.foreign (f.arg 1), 0x11), (decide (lg < 1) || decide (8 < lg), 0x11),
    (ring.isNone, 0x11)]
  s.command fn 0x0B refuse fun s =>
    (s.modQueue (f.arg 0).toNat fun _ => freshQueue (f.arg 1).toNat (ring.getD 0) lg).outcome fn 1 []

/-! ## Keys and the end of a tenant space (R36–R38) -/

/-- KEYIMPORT (R36, R37): a key that does not unwrap is refused; the same key again keeps its counter. -/
def execKeyimport (fn : Nat) (s : State) : Host.Outcome State Fault Refusal :=
  let f := s.fn fn
  let t := (f.arg 0).toNat
  let key := Config.unwrapKey (s.hostRead (f.arg 1) 40)
  s.command fn 0x0C (firstStatus [(f.foreign (f.arg 0), 0x11), (outOfHost (f.arg 1) 40, 0x11), (key.isNone, 0x11)]) fun s =>
    let old : KeySlot := fget {} s.pf.keys t
    let s := s.modPf fun p => { p with keys := fput p.keys t (if old.key = key then old else { key := key, counter := 0 }) }
    (s.audit 5 t 0xFF []).outcome fn 1 []

/-- The granules a tenant space owns (R17). -/
def State.granulesOf (s : State) (tenant : Nat) : List Nat :=
  (s.ms.owners.filter fun e => (e.2.extractLsb' 0 5).toNat = tenant).map (·.1)

/-- Everything a tenant space owned becomes unassigned and is zeroed (R19, R33, R38). -/
def State.disown (s : State) (t : Nat) : State :=
  let s := (s.granulesOf t).foldl (fun s n => (s.beginGranule n).endGranule n 0x1F#5) s
  let s := (s.ms.windows.filter fun w => w.owner = t).foldl (fun s w => (s.beginWindow w.base w.length).endWindow w.base w.length 0x1F#5) s
  (s.ms.grants.filter fun e => (e.2.extractLsb' 0 5).toNat = t).foldl (fun s e => s.grantBlock (e.1 / 28) (e.1 % 28) 0x1F#5) s

/-- Launches of a tenant space that have not ended. -/
def State.launchesIn (s : State) (t : Nat) : List Nat := (s.launches.filter fun e => e.2.tenant = t && !e.2.ended).map (·.1)

/-- A tenant's work is over: no launch is left, and no context of it. -/
def State.tenantIdle (s : State) (t : Nat) : Bool :=
  (s.launchesIn t).isEmpty && s.ctxs.all fun e => e.2.st = .free || e.2.tenant != t

/-- Steps 2 to 5 of R38: the key, the memory, the translations and the record. -/
def State.retireTenant (s : State) (t : Nat) : State :=
  let s := s.modPf fun p => { p with keys := fput p.keys t {}, objects := p.objects.filter fun o => o.tenant != t }
  let s := ((s.disown t).invalidate t 0 (2 ^ 55)).dropFetch fun u _ => u = t
  let s := (s.modMs fun m => { m with xlbase := fput m.xlbase t none, ovl := m.ovl.filter (· != t) }).modPf fun p =>
    { p with fns := p.fns.map fun (e : Nat × HostFn) => (e.1, { e.2 with tenants := e.2.tenants.filter (· != t) }) }
  s.audit 4 t 0xFF []

/-- The first step of R38: the tenant's launches are ended, and its queues post no more. -/
def State.endLaunches (s : State) (t : Nat) : State :=
  ((s.launchesIn t).foldl State.condemn s).modPf fun p =>
    { p with queues := p.queues.map fun (e : Nat × Queue) => if e.2.tenant = t then (e.1, { e.2 with bound := false, mapped := false }) else e }

/-- TENANTEND (R38). -/
def execTenantend (fn : Nat) (s : State) : Host.Outcome State Fault Refusal :=
  let f := s.fn fn
  let t := (f.arg 0).toNat
  s.command fn 0x0D (firstStatus [(f.foreign (f.arg 0), 0x11)]) fun s =>
    match f.began with
    | none => (s.endLaunches t).modFn fn fun f => { f with began := some s.cycle }
    | some _ => if s.tenantIdle t then (s.retireTenant t).outcome fn 1 [] else s

/-! ## MEASURE, ATTEST, AUDITREAD (R344, R345, R347) -/

/-- The eight measurement registers. -/
def State.mregs (s : State) : List Byte := (List.range 8).flatMap fun i => toBytes 32 (fget 0#256 s.pf.mreg i).toNat

/-- What MEASURE writes (R344). -/
def State.measurement (s : State) : List Byte := (s.mregs ++ Config.attestCert).take 4096

/-- A quote over a nonce (R345). -/
def State.quote (s : State) (nonce : List Byte) : List Byte :=
  let b := toBytes 4 0x544F5551 ++ toBytes 2 1 ++ toBytes 2 0 ++ nonce ++ s.mregs ++ toBytes 8 s.pf.auditCounter ++
    toBytes 8 s.tick ++ (List.range 64).map Config.attestKey
  b ++ (List.range signatureSize).map (Config.attestSign b)

/-- The 128 bytes of an audit record (R347). -/
def Audit.bytes (a : Audit) : List Byte := auditHead a.counter a.time a.type a.tenant a.master a.detail ++ toBytes 32 a.chain.toNat

/-- Records of the audit log from a counter value on (R347). -/
def State.auditFrom (s : State) (first n : Nat) : List Audit := (s.pf.audit.filter fun a => decide (first ≤ a.counter)).take n

/-- MEASURE. -/
def execMeasure (fn : Nat) (s : State) : Host.Outcome State Fault Refusal :=
  let a := (s.fn fn).arg 0
  s.command fn 0x0E (firstStatus [(outOfHost a 4096, 0x11)]) fun s => (s.deviceWrite (hostPa a) s.measurement).outcome fn 1 []

/-- ATTEST. -/
def execAttest (fn : Nat) (s : State) : Host.Outcome State Fault Refusal :=
  let f := s.fn fn
  s.command fn 0x0F (firstStatus [(outOfHost (f.arg 0) 32, 0x11), (outOfHost (f.arg 1) 0x8000, 0x11)]) fun s =>
    (s.deviceWrite (hostPa (f.arg 1)) (s.quote (s.hostRead (f.arg 0) 32))).outcome fn 1 [BitVec.ofNat 64 30168]

/-- AUDITREAD. -/
def execAuditread (fn : Nat) (s : State) : Host.Outcome State Fault Refusal :=
  let f := s.fn fn
  let l := s.auditFrom (f.arg 0).toNat (f.arg 1).toNat
  s.command fn 0x10 (firstStatus [(outOfHost (f.arg 2) (128 * l.length), 0x11)]) fun s =>
    (s.deviceWrite (hostPa (f.arg 2)) (l.flatMap Audit.bytes)).outcome fn 1 [BitVec.ofNat 64 l.length]

/-! ## UPDATE (R342) -/

/-- A measurement register is extended with an image (R344). -/
def State.extend (s : State) (i : Nat) (image : List Byte) : State :=
  s.modPf fun p =>
    { p with mreg := fput p.mreg i (shake256 (toBytes 32 (fget 0#256 p.mreg i).toNat ++ toBytes 32 (shake256 image).toNat)) }

/-- An image is told from the signature at its end (R343; assumption log, 27). -/
def imageParts (b : List Byte) : List Byte × List Byte := (b.take (b.length - signatureSize), b.drop (b.length - signatureSize))

/-- UPDATE, up to the takeover: the standby complex boots the image and imports the state table. -/
def execUpdate (fn : Nat) (s : State) : Host.Outcome State Fault Refusal :=
  let f := s.fn fn
  let n := (f.arg 1).toNat
  let refuse := firstStatus [(f.lacks 6, 0x12), (outOfHost (f.arg 0) n, 0x11), (s.pf.updating.isSome && s.pf.updating != some fn, 0x10)]
  s.command fn 0x11 refuse fun s =>
    if s.pf.updating = some fn then s
    else
      let p := imageParts (s.hostRead (f.arg 0) n)
      if !signed Config.vendorKey p.1 p.2 then s.outcome fn 2 []
      else
        let s := s.extend 2 p.1
        if !Config.stateTableAccepted p.1 then s.outcome fn 0x13 []
        else s.modPf fun q => { q with updating := some fn }

/-- No mailbox command is part done, but for the update itself (R342). -/
def State.boundary (s : State) (fn : Nat) : Bool :=
  s.pf.fns.all fun e => e.1 = fn || e.2.st != 1 || (e.2.outcome.isNone && e.2.began.isNone)

/-- UPDATE_TAKEOVER (R342): launches, teams and rung bells are as they were. -/
def execUpdateTakeover (s : State) : Host.Outcome State Fault Refusal :=
  match s.pf.updating with
  | none => .next s
  | some fn =>
    if s.boundary fn then
      let s := s.modPf fun p => { p with active := 1 - p.active, updating := none }
      .next ((s.audit 6 0xFF 0xFF []).outcome fn 1 [])
    else .next s

/-! ## IMGADOPT (R191) -/

/-- The counters a table gives, by team; a team it does not list has none. -/
def State.counters (s : State) (table : Word) (n : Nat) : List Nat :=
  (List.range n).map fun t => ofBytes (s.hostRead (table + BitVec.ofNat 64 (8 * t)) 8)

/-- The launch that adoption admits, its teams saved or waiting (R191). -/
def adopted (l : Launch) (counters : List Nat) : Launch :=
  { l with teams := (counters.zipIdx.filter fun e => e.1 != 0).map fun e => (e.2, { st := .saved, counter := e.1 }) }

/-- An image of a launch resumes outside its object's bundles (R191). -/
def State.imageAstray (s : State) (n t : Nat) (o : Object) : Bool :=
  match s.openTeam n t with
  | .ok im => !(decide (o.bundleVa ≤ im.ctx.pc.toNat) && decide (im.ctx.pc.toNat < o.bundleVa + o.bundleLen))
  | _ => false

/-- IMGADOPT (R135, R191): the record's object is the one named. -/
def execImgadopt (fn : Nat) (s : State) : Host.Outcome State Fault Refusal :=
  let f := s.fn fn
  let o := (s.object (f.arg 0)).filter fun o => f.tenants.contains o.tenant
  let n := (f.arg 3).toNat
  let bytes := toBytes 8 (f.arg 0).toNat ++ (s.hostRead (f.arg 1) 128).drop 8
  let r : LaunchRecord := { bytes := bytes }
  let l := adopted (s.launchOf r (s.levelsFor r) 0xFFFF) (s.counters (f.arg 2) n)
  let t := s.admitLaunch l
  let astray := match o with
    | some o => l.teams.any fun e => t.imageAstray s.launchSeq e.1 o
    | none => false
  let refuse := firstStatus [(o.isNone, 0x11), (outOfHost (f.arg 1) 128, 0x11), (outOfHost (f.arg 2) (8 * n), 0x11),
    (!s.reportWritable r, 0x11), ((s.launchStatus r (match o with | some o => o.tenant | none => 0x10)).isSome, 0x11), (decide (l.count < n), 0x11),
    (astray, 0x11)]
  s.command fn 0x12 refuse fun s =>
    ((s.admitLaunch l).audit Config.adoptAuditType r.tenant 0xFF [BitVec.ofNat 64 l.teams.length]).outcome fn 1
      [BitVec.ofNat 64 s.launchSeq]

/-! ## WINMAP (R35, R336) -/

/-- A granule may be shown in a function's window. -/
def State.mappable (s : State) (f : HostFn) (base : Nat) : Bool :=
  base % granuleSize = 0 && granuleExists (base / granuleSize) &&
    match s.tenantAt base with
    | some t => f.tenants.contains t
    | none => false

/-- WINMAP: a base in register space is a violation of the function as well, and its audit record names the first tenant
space that the function holds (R35, R40; assumption log, 13). -/
def execWinmap (fn : Nat) (s : State) : Host.Outcome State Fault Refusal :=
  let f := s.fn fn
  let e := (f.arg 0).toNat
  let base := f.arg 1
  s.command fn 0x13 (firstStatus [(decide (f.barSize / granuleSize ≤ e), 0x11)]) fun s =>
    if base = 0xFFFFFFFFFFFFFFFF#64 then (s.modFn fn fun f => { f with winmap := fput f.winmap e none }).outcome fn 1 []
    else if s.mappable f base.toNat then (s.modFn fn fun f => { f with winmap := fput f.winmap e (some base.toNat) }).outcome fn 1 []
    else if region base.toNat = .registers && decide (base.toNat < 2 ^ 52) then
      (((s.audit 2 (f.tenants.headD 0xFF) 3 [base]).notice 2 3 4 base.toNat).modFn fn fun f => { f with aborted := true }).outcome fn 0x11 []
    else s.outcome fn 0x11 []

/-! ## Resets and boot (R40, R336, R340, R343, R344) -/

/-- FUNCTION_LEVEL_RESET: the function's mailbox, window map, accepted features and abort go; a command that ran is
lost. -/
def execFunctionLevelReset (fn : Nat) (s : State) : Host.Outcome State Fault Refusal :=
  let s := s.modFn fn fun f => { tenants := f.tenants, barSize := f.barSize, msix := f.msix, removing := f.removing }
  .next (s.modPf fun p =>
    { p with updating := if p.updating = some fn then none else p.updating
             queues := p.queues.map fun (e : Nat × Queue) => (e.1, { e.2 with waiting := e.2.waiting.filter (· != fn) }) })

/-- Memory that is not the device's own keeps its bytes over a reset. -/
def keepsOverReset (pa : Nat) : Bool := match region pa with | .host => true | .peer _ => true | _ => false

/-- The machine as a reset leaves it before the boot: what the root of trust and the board hold stays. -/
def State.cleared (s : State) : State :=
  { State.reset with
    cycle := s.cycle, tick := s.tick, frac := s.frac, fracDen := s.fracDen, mem := s.mem.filter fun e => keepsOverReset e.1
    agenda := s.agenda, fresh := s.fresh
    pf := { audit := s.pf.audit, auditCounter := s.pf.auditCounter, chain := s.pf.chain, keyStore := s.pf.keyStore
            keys := s.pf.keys, cxl := s.pf.cxl, peers := s.pf.peers, peerDomains := s.pf.peerDomains } }

/-- DEVICE_RESET (R343, R344): each image is verified, then measured, then run; the boot stops at one that fails. -/
def execDeviceReset (firmware kernel firmwareSig kernelSig : List Byte) (s : State) : Host.Outcome State Fault Refusal :=
  let s := s.cleared
  if !signed Config.vendorKey firmware firmwareSig then .next (s.modPf fun p => { p with boot := 2 })
  else
    let s := s.extend 0 firmware
    if !signed Config.vendorKey kernel kernelSig then .next (s.modPf fun p => { p with boot := 2 })
    else .next (((s.extend 1 kernel).audit 1 0xFF 0xFF []).modPf fun p => { p with boot := 1 })

/-- KEY_STORE_CHANGE (R344, R346): a change signed by the owner key; an empty key empties its place. -/
def execKeyStoreChange (index : Nat) (key signature : List Byte) (s : State) : Host.Outcome State Fault Refusal :=
  let change := toBytes 1 index ++ key
  if s.pf.boot = 1 && decide (index < 32) && signed Config.ownerKey change signature then
    .next ((s.modPf fun p => { p with keyStore := fput p.keyStore index (if key.isEmpty then none else some key) }).extend 3 change)
  else .next s

/-! ## The management port, and tenant spaces (R8, R12, R342) -/

/-- Where answers to the management port go. -/
def managementPort : Nat := 0x10002

/-- MANAGEMENT_PORT_REQUEST (R342, R344, R345, R347): the answer's bytes as one number. -/
def execManagementPortRequest (ask : ManagementAsk) (s : State) : Host.Outcome State Fault Refusal :=
  if s.pf.boot != 1 then .next s
  else
    let b := match ask with
      | .measurement => s.measurement
      | .attestation nonce => s.quote (toBytes 32 nonce.toNat)
      | .audit first n => (s.auditFrom first n).flatMap Audit.bytes
    .next (s.reply managementPort (ofBytes b) false)

/-- TENANT_SPACE_CREATE (R8, R11, R12): firmware installs the root and assigns the space to a function. -/
def execTenantSpaceCreate (tenant root fn : Nat) (s : State) : Host.Outcome State Fault Refusal :=
  if s.pf.boot = 1 && decide (tenant < 16) && root % 0x10000 = 0 && decide (root < 2 ^ 52) && (fget none s.ms.xlbase tenant).isNone then
    .next ((s.modMs fun m => { m with xlbase := fput m.xlbase tenant (some root) }).modFn fn fun f =>
      { f with tenants := f.tenants ++ [tenant] })
  else .next s

end Sys2Proof.Machine
end

