-- ==== Sys2Proof/Machine/Power.lean ====
section
/-!
DEFINITION. Islands, trace sinks and watchpoints as firmware sets them (R54, R348–R356).
-/

namespace Sys2Proof.Machine

/-! ## The trace ring (R348) -/

/-- The 32 bytes of a trace record (R348). -/
def TraceRec.bytes (r : TraceRec) : List Byte :=
  toBytes 4 (r.type % 256 + r.slot % 8 * 2 ^ 8 + r.ctx % 4 * 2 ^ 11 + r.core % 256 * 2 ^ 13) ++ toBytes 4 (r.delta % 2 ^ 32) ++
    toBytes 8 r.addr.toNat ++ toBytes 16 r.payload.toNat

/-- A record is written at the next place of the ring. -/
def State.writeTrace (s : State) (quarter : Nat) (r : TraceRec) : State :=
  let k := (s.quarter quarter).sink
  let s := s.deviceWrite (k.base + k.written * 32 % k.size) r.bytes
  s.modQuarter quarter fun q => { q with sink := { q.sink with written := q.sink.written + 1 } }

/-- A sink writes its oldest record (R350). -/
def State.drainSink (s : State) (quarter : Nat) : State :=
  match (s.quarter quarter).sink.buffer with
  | [] => s
  | r :: l => (s.modQuarter quarter fun q => { q with sink := { q.sink with buffer := l } }).writeTrace quarter r

/-- TRACE_SINK_ENABLE (R340, R348, R350, R351): the ring lies in firmware's memory and holds whole records. -/
def execTraceSinkEnable (quarter : Nat) (lossless : Bool) (base size : Nat) (s : State) : Host.Outcome State Fault Refusal :=
  let accepted := s.pf.fns.any fun e => !e.2.lacks 7
  if accepted && decide (quarter < 4) && decide (0 < size) && size % 32 = 0 && s.owner base size = some 0x10 then
    .next (s.modQuarter quarter fun q =>
      { q with sink := { enabled := true, lossless := lossless, base := base, size := size, needTime := true, prev := s.tick } })
  else .next s

/-! ## Watchpoints (R353) -/

/-- WATCHPOINT_PROGRAM: the registers of one watchpoint. -/
def execWatchpointProgram (quarter n : Nat) (control : Word) (unit : Nat) (value mask : BitVec 128) (s : State) :
    Host.Outcome State Fault Refusal :=
  if decide (quarter < 4) && decide (n < 4) then
    let w : Watchpoint :=
      { mode := (control.extractLsb' 0 2).toNat, tenant := (control.extractLsb' 2 4).toNat, bytes := control.extractLsb' 8 16
        unit := unit % 2 ^ 48, value := value, mask := mask }
    .next (s.modQuarter quarter fun q => { q with watch := fput q.watch n w })
  else .next s

/-! ## Islands (R351, R356) -/

/-- The Quarter of an island; the hub's are of none (R356). -/
def islandQuarter (i : Nat) : Option Nat :=
  if i < 216 then some (i / 54)
  else if i < 240 then some ((i - 216) / 6)
  else if i < 252 then some ((i - 240) / 3)
  else none

/-- A core whose Quarter's sink takes an island's records: the island's own, or the first of its part (R348, R356). -/
def islandCore (i : Nat) : Nat :=
  if i < 216 then i else if i < 240 then (i - 216) * 9 else (i - 240) / 3 * 54

/-- ISLAND_CLOCK_CHANGE (R349, R351): a FREQ record names the island and its new frequency. -/
def execIslandClockChange (island mhz : Nat) (s : State) : Host.Outcome State Fault Refusal :=
  if decide (256 ≤ island) || mhz = 0 then .next s
  else
    let s := s.modPf fun p => { p with islandMHz := fput p.islandMHz island mhz }
    match islandQuarter island with
    | some _ => .next (s.trace (islandCore island) 6 7 0 0#64 (BitVec.ofNat 128 (island % 256 + mhz % 2 ^ 16 * 2 ^ 16)))
    | none => .next s

/-- A record was made in a Plaza, as it names its logical core (R49, R348). -/
def TraceRec.inPlaza (r : TraceRec) (plaza : Nat) : Bool := r.core / 8 = plaza

/-- Records that a record stands for: a GAP record counts those dropped before. -/
def TraceRec.weight (r : TraceRec) : Nat := if r.type = 4 then r.payload.toNat else 1

/-- A buffer without some of its records, and the ticks from its last record to the last one discarded: what stays counts
from the record that now stands before it, and a TIME record's own delta stays zero (R351). -/
def discardRecords (gone : TraceRec → Bool) : (carry : Nat) → List TraceRec → List TraceRec × Nat
  | n, [] => ([], n)
  | n, r :: l =>
    if gone r then discardRecords gone (n + r.delta) l
    else
      let x := discardRecords gone 0 l
      ((if r.type = 5 then r else { r with delta := r.delta + n }) :: x.1, x.2)

/-- A sink writes its n oldest records. -/
def State.drainRecords (s : State) (quarter n : Nat) : State := (List.range n).foldl (fun s _ => s.drainSink quarter) s

/-- A lossy sink discards a Plaza's records, and one GAP record counts them (R350, R351). -/
def Sink.discardPlaza (k : Sink) (plaza tick : Nat) : Sink :=
  let gone (r : TraceRec) : Bool := r.inPlaza plaza && r.type != 5
  let kept := discardRecords gone 0 k.buffer
  let since := tick - k.prev + kept.2
  let late := k.needTime || decide (2 ^ 32 ≤ since)
  let mark (type delta payload : Nat) : TraceRec :=
    { type := type, slot := 7, ctx := 0, core := 8 * plaza, delta := delta, addr := 0, payload := BitVec.ofNat 128 payload }
  { k with buffer := kept.1 ++ (if late then [mark 5 0 tick] else []) ++
             [mark 4 (if late then 0 else since) (k.dropped + ((k.buffer.filter gone).map TraceRec.weight).sum)]
           prev := tick, dropped := 0, needTime := false }

/-- Before a Plaza is gated, the sink writes the records that it has buffered, those before them first; a lossy sink
discards them, and writes a GAP record that counts them (R351). -/
def State.settlePlaza (s : State) (plaza : Nat) : State :=
  let q := plaza / 6
  let k := (s.quarter q).sink
  let after := k.buffer.reverse.takeWhile fun r => !r.inPlaza plaza
  if !k.buffer.any fun r => r.inPlaza plaza then s
  else if k.lossless then s.drainRecords q (k.buffer.length - after.length)
  else
    let s := s.modQuarter q fun x => { x with sink := x.sink.discardPlaza plaza s.tick }
    s.drainRecords q (s.quarter q).sink.buffer.length

/-- The clocks of an island have stopped: its Quarter's next record is preceded by a TIME record (R351). -/
def State.clockStopped (s : State) (island : Nat) : State :=
  match islandQuarter island with
  | some q => s.modQuarter q fun x => { x with sink := { x.sink with needTime := true } }
  | none => s

/-- ISLAND_POWER_GATE (R54, R351): a Plaza's records are settled first, and a Depot group's near-buffer lines are
dropped. -/
def execIslandPowerGate (island : Nat) (clockOnly : Bool) (s : State) : Host.Outcome State Fault Refusal :=
  if decide (256 ≤ island) || s.pf.gated.contains island then .next s
  else
    let s := if decide (216 ≤ island) && decide (island < 240) && !clockOnly then s.settlePlaza (island - 216) else s
    let s := if decide (240 ≤ island) && decide (island < 252) && (island - 240) % 3 = 0 then
        s.modMs fun m => { m with near := m.near.filter fun l => l.quarter != (island - 240) / 3 }
      else s
    .next ((s.modPf fun p => { p with gated := island :: p.gated }).clockStopped island)

/-- ISLAND_POWER_RESTORE (R351). -/
def execIslandPowerRestore (island : Nat) (s : State) : Host.Outcome State Fault Refusal :=
  if s.pf.gated.contains island then
    .next ((s.modPf fun p => { p with gated := p.gated.filter (· != island) }).clockStopped island)
  else .next s

end Sys2Proof.Machine
end

