-- ==== Sys2Proof/Machine/Dispatch.lean ====
section
/-!
DEFINITION. The dispatch: one arm for each instruction and event of the opcode table.
-/

namespace Sys2Proof.Machine

/-- The meaning of an instruction or event. -/
def exec (i : Instr) (s : State) : Host.Outcome State Fault Refusal :=
  match i with
  -- scalar slot
  | .nop => Sys2Proof.Machine.execNop s
  | .add d a b g => Sys2Proof.Machine.execAdd d a b g s
  | .sub d a b g => Sys2Proof.Machine.execSub d a b g s
  | .mul d a b g => Sys2Proof.Machine.execMul d a b g s
  | .mulh d a b g => Sys2Proof.Machine.execMulh d a b g s
  | .mulhu d a b g => Sys2Proof.Machine.execMulhu d a b g s
  | .div d a b g => Sys2Proof.Machine.execDiv d a b g s
  | .divu d a b g => Sys2Proof.Machine.execDivu d a b g s
  | .rem d a b g => Sys2Proof.Machine.execRem d a b g s
  | .remu d a b g => Sys2Proof.Machine.execRemu d a b g s
  | .and d a b g => Sys2Proof.Machine.execAnd d a b g s
  | .or d a b g => Sys2Proof.Machine.execOr d a b g s
  | .xor d a b g => Sys2Proof.Machine.execXor d a b g s
  | .shl d a b g => Sys2Proof.Machine.execShl d a b g s
  | .shr d a b g => Sys2Proof.Machine.execShr d a b g s
  | .sra d a b g => Sys2Proof.Machine.execSra d a b g s
  | .min d a b g => Sys2Proof.Machine.execMin d a b g s
  | .minu d a b g => Sys2Proof.Machine.execMinu d a b g s
  | .max d a b g => Sys2Proof.Machine.execMax d a b g s
  | .maxu d a b g => Sys2Proof.Machine.execMaxu d a b g s
  | .sel d a b g f => Sys2Proof.Machine.execSel d a b g f s
  | .clz d a g => Sys2Proof.Machine.execClz d a g s
  | .ctz d a g => Sys2Proof.Machine.execCtz d a g s
  | .popc d a g => Sys2Proof.Machine.execPopc d a g s
  | .addi d a imm => Sys2Proof.Machine.execAddi d a imm s
  | .andi d a imm => Sys2Proof.Machine.execAndi d a imm s
  | .ori d a imm => Sys2Proof.Machine.execOri d a imm s
  | .xori d a imm => Sys2Proof.Machine.execXori d a imm s
  | .shli d a imm => Sys2Proof.Machine.execShli d a imm s
  | .shri d a imm => Sys2Proof.Machine.execShri d a imm s
  | .srai d a imm => Sys2Proof.Machine.execSrai d a imm s
  | .lim d imm => Sys2Proof.Machine.execLim d imm s
  | .lims d a imm => Sys2Proof.Machine.execLims d a imm s
  | .cmpEq d a b g => Sys2Proof.Machine.execCmpEq d a b g s
  | .cmpNe d a b g => Sys2Proof.Machine.execCmpNe d a b g s
  | .cmpLt d a b g => Sys2Proof.Machine.execCmpLt d a b g s
  | .cmpLtu d a b g => Sys2Proof.Machine.execCmpLtu d a b g s
  | .cmpLe d a b g => Sys2Proof.Machine.execCmpLe d a b g s
  | .cmpLeu d a b g => Sys2Proof.Machine.execCmpLeu d a b g s
  | .cmpiEq d a imm => Sys2Proof.Machine.execCmpiEq d a imm s
  | .cmpiLt d a imm => Sys2Proof.Machine.execCmpiLt d a imm s
  | .cmpiLtu d a imm => Sys2Proof.Machine.execCmpiLtu d a imm s
  | .pand d a b g => Sys2Proof.Machine.execPand d a b g s
  | .por d a b g => Sys2Proof.Machine.execPor d a b g s
  | .pxor d a b g => Sys2Proof.Machine.execPxor d a b g s
  | .pandn d a b g => Sys2Proof.Machine.execPandn d a b g s
  | .pnot d a g => Sys2Proof.Machine.execPnot d a g s
  | .pget d a g => Sys2Proof.Machine.execPget d a g s
  | .pset d a g => Sys2Proof.Machine.execPset d a g s
  | .br g pad disp => Sys2Proof.Machine.execBr g pad disp s
  | .brn g pad disp => Sys2Proof.Machine.execBrn g pad disp s
  | .call pad disp => Sys2Proof.Machine.execCall pad disp s
  | .jmp a pad => Sys2Proof.Machine.execJmp a pad s
  | .ret pad => Sys2Proof.Machine.execRet pad s
  | .loop level len a sigma fl => Sys2Proof.Machine.execLoop level len a sigma fl s
  | .lbrk a pad => Sys2Proof.Machine.execLbrk a pad s
  | .lidx d level => Sys2Proof.Machine.execLidx d level s
  | .wait d mask all => Sys2Proof.Machine.execWait d mask all s
  | .bara a id scope => Sys2Proof.Machine.execBara a id scope s
  | .barw id => Sys2Proof.Machine.execBarw id s
  | .span d a eng opn => Sys2Proof.Machine.execSpan d a eng opn s
  | .tclr a kind mask => Sys2Proof.Machine.execTclr a kind mask s
  | .tmask d a kind rot => Sys2Proof.Machine.execTmask d a kind rot s
  | .slack n => Sys2Proof.Machine.execSlack n s
  | .yield => Sys2Proof.Machine.execYield s
  | .getsr d n => Sys2Proof.Machine.execGetsr d n s
  | .setsr a n => Sys2Proof.Machine.execSetsr a n s
  | .trap code => Sys2Proof.Machine.execTrap code s
  | .brkpt code => Sys2Proof.Machine.execBrkpt code s
  | .done => Sys2Proof.Machine.execDone s
  | .mark a => Sys2Proof.Machine.execMark a s
  | .rdtime d => Sys2Proof.Machine.execRdtime d s
  | .tblw a table index => Sys2Proof.Machine.execTblw a table index s
  | .tblr d table index => Sys2Proof.Machine.execTblr d table index s
  | .qpop d q word => Sys2Proof.Machine.execQpop d q word s
  | .xget d bay lane size => Sys2Proof.Machine.execXget d bay lane size s
  | .xput d bay lane size => Sys2Proof.Machine.execXput d bay lane size s
  -- vector slots
  | .vectorCascade u f => Sys2Proof.Machine.execVectorCascade u f s
  | .vmov u dst x xm guard cx => Sys2Proof.Machine.execVmov u dst x xm guard cx s
  | .anc u dst x xm => Sys2Proof.Machine.execAnc u dst x xm s
  | .vzero u dst guard => Sys2Proof.Machine.execVzero u dst guard s
  | .vtclr u dst => Sys2Proof.Machine.execVtclr u dst s
  -- matrix slot
  | .mnop => Sys2Proof.Machine.execMnop s
  | .mmul f => Sys2Proof.Machine.execMmul f s
  | .mwld bb sa k n fmt => Sys2Proof.Machine.execMwld bb sa k n fmt s
  | .mgath lt ix base m fmt => Sys2Proof.Machine.execMgath lt ix base m fmt s
  | .mdrain row m sa ofmt clr => Sys2Proof.Machine.execMdrain row m sa ofmt clr s
  | .mdrainb row dst ofmt => Sys2Proof.Machine.execMdrainb row dst ofmt s
  | .mzero row m opx => Sys2Proof.Machine.execMzero row m opx s
  | .mrel => Sys2Proof.Machine.execMrel s
  | .mwait => Sys2Proof.Machine.execMwait s
  -- copy slots
  | .ldb c w imm base v => Sys2Proof.Machine.execLdb c w imm base v s
  | .stb c w imm base v => Sys2Proof.Machine.execStb c w imm base v s
  | .lds c imm base v => Sys2Proof.Machine.execLds c imm base v s
  | .sts c imm base v => Sys2Proof.Machine.execSts c imm base v s
  | .ldx c w es base ix v => Sys2Proof.Machine.execLdx c w es base ix v s
  | .stx c w es base ix v => Sys2Proof.Machine.execStx c w es base ix v s
  | .ldcw c imm base v => Sys2Proof.Machine.execLdcw c imm base v s
  | .sclq c w imm base => Sys2Proof.Machine.execSclq c w imm base s
  | .bankacq c v => Sys2Proof.Machine.execBankacq c v s
  | .bankrel c v => Sys2Proof.Machine.execBankrel c v s
  | .spzero c w imm base => Sys2Proof.Machine.execSpzero c w imm base s
  | .ldq c cls tk imm base v => Sys2Proof.Machine.execLdq c cls tk imm base v s
  | .ldqv c cls tk w imm base => Sys2Proof.Machine.execLdqv c cls tk w imm base s
  | .stq c cls tk imm base v => Sys2Proof.Machine.execStq c cls tk imm base v s
  | .stqv c cls tk w imm base v => Sys2Proof.Machine.execStqv c cls tk w imm base v s
  | .pref c imm base => Sys2Proof.Machine.execPref c imm base s
  | .atom c cls tk scope rel acq size aop base v => Sys2Proof.Machine.execAtom c cls tk scope rel acq size aop base v s
  | .atomr c cls tk scope rel acq size aop base v => Sys2Proof.Machine.execAtomr c cls tk scope rel acq size aop base v s
  | .cas c cls tk scope rel acq size base v => Sys2Proof.Machine.execCas c cls tk scope rel acq size base v s
  | .atomv c cls tk et aop base v => Sys2Proof.Machine.execAtomv c cls tk et aop base v s
  | .fenceC c mask => Sys2Proof.Machine.execFenceC c mask s
  | .fenceS c scope => Sys2Proof.Machine.execFenceS c scope s
  | .acq c scope => Sys2Proof.Machine.execAcq c scope s
  | .rel c scope => Sys2Proof.Machine.execRel c scope s
  | .xcp c tk scope rel acq base => Sys2Proof.Machine.execXcp c tk scope rel acq base s
  | .xcp2 c tk scope rel acq base => Sys2Proof.Machine.execXcp2 c tk scope rel acq base s
  | .xcoll c tk scope rel acq base => Sys2Proof.Machine.execXcoll c tk scope rel acq base s
  | .xcan c tk => Sys2Proof.Machine.execXcan c tk s
  | .tkres c cls base v => Sys2Proof.Machine.execTkres c cls base v s
  | .tkpost c cls base v => Sys2Proof.Machine.execTkpost c cls base v s
  | .tktake c cls base v => Sys2Proof.Machine.execTktake c cls base v s
  | .tkfree c cls base v => Sys2Proof.Machine.execTkfree c cls base v s
  -- contexts
  | .bundleReoffer c => Sys2Proof.Machine.execBundleReoffer c s
  | .issueSelection core => Sys2Proof.Machine.execIssueSelection core s
  | .forcedYield c => Sys2Proof.Machine.execForcedYield c s
  | .bayLanding c bay => Sys2Proof.Machine.execBayLanding c bay s
  | .scratchpadAccessActs c => Sys2Proof.Machine.execScratchpadAccessActs c s
  | .ldsRegisterWrite c d => Sys2Proof.Machine.execLdsRegisterWrite c d s
  | .vectorPredicateWrite c p => Sys2Proof.Machine.execVectorPredicateWrite c p s
  | .controlWordWrite c => Sys2Proof.Machine.execControlWordWrite c s
  | .scaleQueuePush c => Sys2Proof.Machine.execScaleQueuePush c s
  | .bankOwnershipChange c => Sys2Proof.Machine.execBankOwnershipChange c s
  | .fetchFill c => Sys2Proof.Machine.execFetchFill c s
  | .walkComplete quarter tenant page => Sys2Proof.Machine.execWalkComplete quarter tenant page s
  | .globalLoadPerforms c id near => Sys2Proof.Machine.execGlobalLoadPerforms c id near s
  | .nearBufferExpiry quarter line => Sys2Proof.Machine.execNearBufferExpiry quarter line s
  | .globalStorePerforms c id => Sys2Proof.Machine.execGlobalStorePerforms c id s
  | .atomicPerforms c id => Sys2Proof.Machine.execAtomicPerforms c id s
  | .ticketOpPerforms c id => Sys2Proof.Machine.execTicketOpPerforms c id s
  | .ticketResultReturn c => Sys2Proof.Machine.execTicketResultReturn c s
  | .manifestHeadWrite c => Sys2Proof.Machine.execManifestHeadWrite c s
  | .replayTimeout c => Sys2Proof.Machine.execReplayTimeout c s
  | .intervalClose launch => Sys2Proof.Machine.execIntervalClose launch s
  | .barrierArrival c id => Sys2Proof.Machine.execBarrierArrival c id s
  -- engines
  | .drayCommandStart core d => Sys2Proof.Machine.execDrayCommandStart core d s
  | .drayLineTransfer core d => Sys2Proof.Machine.execDrayLineTransfer core d s
  | .drayCommandComplete core d => Sys2Proof.Machine.execDrayCommandComplete core d s
  | .collectiveComplete quarter => Sys2Proof.Machine.execCollectiveComplete quarter s
  | .collectiveAbort group => Sys2Proof.Machine.execCollectiveAbort group s
  | .engineThaw target => Sys2Proof.Machine.execEngineThaw target s
  | .leaseGrant core => Sys2Proof.Machine.execLeaseGrant core s
  | .leaseScrubDone core => Sys2Proof.Machine.execLeaseScrubDone core s
  | .matrixCommandStart core => Sys2Proof.Machine.execMatrixCommandStart core s
  | .slewStep core => Sys2Proof.Machine.execSlewStep core s
  | .mmulRowWrite core id => Sys2Proof.Machine.execMmulRowWrite core id s
  | .mzeroRowWrite core id => Sys2Proof.Machine.execMzeroRowWrite core id s
  | .mdrainRow core id => Sys2Proof.Machine.execMdrainRow core id s
  | .mdrainbRead core id => Sys2Proof.Machine.execMdrainbRead core id s
  | .porterGatherFill core lt => Sys2Proof.Machine.execPorterGatherFill core lt s
  | .weightLoadFill core bb => Sys2Proof.Machine.execWeightLoadFill core bb s
  | .matrixCommandComplete core id => Sys2Proof.Machine.execMatrixCommandComplete core id s
  | .bankZeroingDone core => Sys2Proof.Machine.execBankZeroingDone core s
  -- the dispatcher and the life of contexts
  | .teamInstall quarter => Sys2Proof.Machine.execTeamInstall quarter s
  | .teamRelease launch quarter => Sys2Proof.Machine.execTeamRelease launch quarter s
  | .preemption quarter => Sys2Proof.Machine.execPreemption quarter s
  | .checkpoint c => Sys2Proof.Machine.execCheckpoint c s
  | .kill launch => Sys2Proof.Machine.execKill launch s
  | .teamRestore quarter => Sys2Proof.Machine.execTeamRestore quarter s
  | .firmwareResume c mask => Sys2Proof.Machine.execFirmwareResume c mask s
  | .firmwareEndTeam c => Sys2Proof.Machine.execFirmwareEndTeam c s
  | .teamFinish c => Sys2Proof.Machine.execTeamFinish c s
  | .scrubComplete c => Sys2Proof.Machine.execScrubComplete c s
  | .launchEnd launch => Sys2Proof.Machine.execLaunchEnd launch s
  | .coreFreeze core damage => Sys2Proof.Machine.execCoreFreeze core damage s
  | .migrationComplete core => Sys2Proof.Machine.execMigrationComplete core s
  -- memory, links and the environment
  | .memoryUncorrectableError line => Sys2Proof.Machine.execMemoryUncorrectableError line s
  | .onchipSoftError site => Sys2Proof.Machine.execOnchipSoftError site s
  | .cxlDeviceFailure port => Sys2Proof.Machine.execCxlDeviceFailure port s
  | .peerLinkDown peer => Sys2Proof.Machine.execPeerLinkDown peer s
  | .peerRequest pa op => Sys2Proof.Machine.execPeerRequest pa op s
  | .lineEviction level line => Sys2Proof.Machine.execLineEviction level line s
  | .granuleReassign target owner => Sys2Proof.Machine.execGranuleReassign target owner s
  | .stagingGrant slice block owner => Sys2Proof.Machine.execStagingGrant slice block owner s
  -- launch queues
  | .reservationRegisterRead fn queue => Sys2Proof.Machine.execReservationRegisterRead fn queue s
  | .commitRegisterWrite fn queue slot => Sys2Proof.Machine.execCommitRegisterWrite fn queue slot s
  | .queueMapping queue => Sys2Proof.Machine.execQueueMapping queue s
  | .earlyLaunchRead queue slot => Sys2Proof.Machine.execEarlyLaunchRead queue slot s
  | .launchTake queue => Sys2Proof.Machine.execLaunchTake queue s
  -- host functions and firmware
  | .windowAccess fn off op => Sys2Proof.Machine.execWindowAccess fn off op s
  | .mailboxRegisterWrite fn off value => Sys2Proof.Machine.execMailboxRegisterWrite fn off value s
  | .mailboxCommandDone fn => Sys2Proof.Machine.execMailboxCommandDone fn s
  | .features fn => Sys2Proof.Machine.execFeatures fn s
  | .accept fn => Sys2Proof.Machine.execAccept fn s
  | .load fn => Sys2Proof.Machine.execLoad fn s
  | .unload fn => Sys2Proof.Machine.execUnload fn s
  | .inval fn => Sys2Proof.Machine.execInval fn s
  | .depotlat fn => Sys2Proof.Machine.execDepotlat fn s
  | .ovlchk fn => Sys2Proof.Machine.execOvlchk fn s
  | .qreset fn => Sys2Proof.Machine.execQreset fn s
  | .collgrp fn => Sys2Proof.Machine.execCollgrp fn s
  | .peerset fn => Sys2Proof.Machine.execPeerset fn s
  | .bindq fn => Sys2Proof.Machine.execBindq fn s
  | .keyimport fn => Sys2Proof.Machine.execKeyimport fn s
  | .tenantend fn => Sys2Proof.Machine.execTenantend fn s
  | .measure fn => Sys2Proof.Machine.execMeasure fn s
  | .attest fn => Sys2Proof.Machine.execAttest fn s
  | .auditread fn => Sys2Proof.Machine.execAuditread fn s
  | .update fn => Sys2Proof.Machine.execUpdate fn s
  | .updateTakeover => Sys2Proof.Machine.execUpdateTakeover s
  | .imgadopt fn => Sys2Proof.Machine.execImgadopt fn s
  | .winmap fn => Sys2Proof.Machine.execWinmap fn s
  | .functionLevelReset fn => Sys2Proof.Machine.execFunctionLevelReset fn s
  | .deviceReset firmware kernel firmwareSig kernelSig => Sys2Proof.Machine.execDeviceReset firmware kernel firmwareSig kernelSig s
  | .keyStoreChange index key signature => Sys2Proof.Machine.execKeyStoreChange index key signature s
  | .watchpointImpreciseStop c => Sys2Proof.Machine.execWatchpointImpreciseStop c s
  | .islandClockChange island mhz => Sys2Proof.Machine.execIslandClockChange island mhz s
  | .islandPowerGate island clockOnly => Sys2Proof.Machine.execIslandPowerGate island clockOnly s
  | .peerLinkUp peer => Sys2Proof.Machine.execPeerLinkUp peer s
  | .islandPowerRestore island => Sys2Proof.Machine.execIslandPowerRestore island s
  | .hostCxlMemAccess pa op => Sys2Proof.Machine.execHostCxlMemAccess pa op s
  | .managementPortRequest ask => Sys2Proof.Machine.execManagementPortRequest ask s
  | .watchpointProgram quarter n control unit value mask => Sys2Proof.Machine.execWatchpointProgram quarter n control unit value mask s
  | .traceSinkEnable quarter lossless base size => Sys2Proof.Machine.execTraceSinkEnable quarter lossless base size s
  | .tenantSpaceCreate tenant root fn => Sys2Proof.Machine.execTenantSpaceCreate tenant root fn s

end Sys2Proof.Machine
end

