-- ==== Sys2Proof/Machine/Policy.lean ====
section
/-!
DEFINITION. The order in which the device's agents act where the agenda leaves it to the step (assumption log, 1): what a
cycle must hold, what may happen at any moment and happens at once, and the passing of a core cycle (R3, R154–R156,
R168).
-/

namespace Sys2Proof.Machine

/-! ## Candidates -/

/-- An event that changes something. -/
def State.tryEvent (s : State) (i : Instr) : Option State :=
  match exec i s with
  | .next t => if t = s then none else some t
  | _ => none

/-- The first event of a list that changes something. -/
def State.tryEvents (s : State) : List Instr → Option State
  | [] => none
  | i :: l => match s.tryEvent i with
    | some t => some t
    | none => s.tryEvents l

/-- Contexts that something has changed. -/
def State.listedCtxs (s : State) : List Nat := s.ctxs.map (·.1)

/-- Cores that something has changed, or one of whose contexts has. -/
def State.activeCores (s : State) : List Nat := (s.listedCores ++ s.listedCtxs.map coreOf).eraseDups

/-- The cores that have a cycle now. -/
def State.clockedCores (s : State) : List Nat := s.activeCores.filter s.beats

/-- The contexts of cores that have a cycle now. -/
def State.clockedCtxs (s : State) : List Nat := s.listedCtxs.filter fun c => s.beats (coreOf c)

/-- The event by which a pending effect takes place. -/
def effectEvent (c : Nat) : Action → Instr
  | .land b _ _ _ _ => .bayLanding c b
  | .untaint b => .bayLanding c b
  | .predWrite p _ _ _ _ => .vectorPredicateWrite c p
  | .regWrite d _ _ => .ldsRegisterWrite c d
  | .spRead _ _ _ => .scratchpadAccessActs c
  | .spWrite _ => .scratchpadAccessActs c
  | .wordWrite _ _ => .controlWordWrite c
  | .scalePush _ _ => .scaleQueuePush c
  | .bankAcq _ => .bankOwnershipChange c
  | .bankRel _ => .bankOwnershipChange c

/-- Effects that may be due in a context. -/
def State.effectEvents (s : State) (c : Nat) : List Instr := (s.ctx c).pend.map fun p => effectEvent c p.act

/-- The engine's events that may be due on a core. -/
def State.engineEvents (s : State) (core : Nat) : List Instr :=
  let k := s.core core
  [.leaseScrubDone core, .leaseGrant core, .porterGatherFill core false, .porterGatherFill core true, .weightLoadFill core false,
    .weightLoadFill core true, .matrixCommandStart core, .slewStep core] ++
    (k.cmds.flatMap fun m => [.mmulRowWrite core m.id, .mzeroRowWrite core m.id, .mdrainRow core m.id, .mdrainbRead core m.id,
      .matrixCommandComplete core m.id]) ++ [.bankZeroingDone core]

/-- What is timed: effects, the engines, the intervals, the replay timeout. -/
def State.timedEvents (s : State) : List Instr :=
  s.clockedCtxs.flatMap s.effectEvents ++ s.clockedCores.flatMap s.engineEvents ++
    ((s.launches.filter fun e => e.2.det && !e.2.replay).map fun e => .intervalClose e.1) ++ s.listedCtxs.map fun c => .replayTimeout c

/-- The event by which an access performs: a load at a near buffer where there is one to use. -/
def accessEvent (c : Nat) (a : Access) : Instr :=
  match a.kind with
  | .load _ => .globalLoadPerforms c a.id true
  | .store _ => .globalStorePerforms c a.id
  | .atomic _ _ _ _ => .atomicPerforms c a.id
  | .cas _ _ _ => .atomicPerforms c a.id
  | .row _ _ _ => .atomicPerforms c a.id
  | .ticket _ _ _ => .ticketOpPerforms c a.id
  | .arrive _ _ _ => .barrierArrival c a.id

/-- What a context's work comes to by itself. -/
def State.contextEvents (s : State) (c : Nat) : List Instr :=
  let x := s.ctx c
  (if x.iss.cause = some .fetch then [Instr.fetchFill c] else []) ++ x.accesses.map (accessEvent c) ++
    [.ticketResultReturn c, .manifestHeadWrite c] ++
    (if x.reports.isEmpty then [] else [.watchpointImpreciseStop c]) ++ (if x.st = .saving || s.chosen c then [.checkpoint c] else []) ++
    (if x.st = .held && !resumable x.fault then [.firmwareEndTeam c] else []) ++ [.teamFinish c, .scrubComplete c]

/-- What a core's drays come to by themselves, and the thaw of one whose blame is over. -/
def drayEvents (core : Nat) : List Instr :=
  [0, 1].flatMap fun d => [.drayCommandStart core d, .drayLineTransfer core d, .drayCommandComplete core d, .engineThaw (.dray core d)]

/-- What a Quarter's walker, dispatcher and engine come to. -/
def State.quarterEvents (s : State) (q : Nat) : List Instr :=
  (s.quarter q).walks.map (fun w => .walkComplete q w.tenant w.page) ++
    [.collectiveComplete q, .engineThaw (.collective q), .teamRestore q, .teamInstall q, .preemption q]

/-- What a launch comes to. -/
def State.launchEvents (s : State) (l : Nat) : List Instr :=
  let x := s.launch l
  if x.ended then []
  else
    (if x.killing then [.kill l] else []) ++ [0, 1, 2, 3].map (fun q => .teamRelease l q) ++
      (if x.replay && (s.contextsIn l).any (fun c => (s.ctx c).accesses.any fun a => a.inBatch) then [.intervalClose l] else []) ++
      [.launchEnd l]

/-- The commands of a mailbox. -/
def commandEvents (fn : Nat) : List Instr :=
  [.features fn, .accept fn, .load fn, .unload fn, .inval fn, .depotlat fn, .ovlchk fn, .qreset fn, .collgrp fn, .peerset fn,
    .bindq fn, .keyimport fn, .tenantend fn, .measure fn, .attest fn, .auditread fn, .update fn, .imgadopt fn, .winmap fn,
    .mailboxCommandDone fn]

/-- What happens by itself at any moment. -/
def State.freeEvents (s : State) : List Instr :=
  [0, 1, 2, 3].flatMap s.quarterEvents ++ s.listedCtxs.flatMap s.contextEvents ++ s.activeCores.flatMap drayEvents ++
    (s.pf.groups.map fun e => .collectiveAbort e.1) ++ (s.launches.map (·.1)).flatMap s.launchEvents ++
    (s.activeCores.filter fun n => (s.core n).frozen).map (fun n => .migrationComplete n) ++
    s.pf.queues.flatMap (fun e => [.queueMapping e.1, .launchTake e.1]) ++
    ((s.pf.fns.filter fun e => e.2.st = 1).flatMap fun e => commandEvents e.1) ++ [.updateTakeover]

/-! ## A cycle -/

/-- Contexts that are to yield (R143). -/
def State.yielders (s : State) : List Instr :=
  (s.clockedCtxs.filter fun c => decide (Config.yieldTurns ≤ (s.ctx c).iss.turns)).map fun c => .forcedYield c

/-- Insert a core by its logical number. -/
def State.insertCore (s : State) (n : Nat) : List Nat → List Nat
  | [] => [n]
  | m :: l => if (s.core n).logical.getD n ≤ (s.core m).logical.getD m then n :: m :: l else m :: s.insertCore n l

/-- The first context that is offered the issue in this cycle, by logical cores: in their order the requests of one cycle
for ramp slots are served (R357). -/
def State.nextOffer (s : State) : Option Nat := (s.clockedCores.foldr s.insertCore []).findSome? s.offered

/-- What this cycle must still hold (R143, R156, R168): yields, the issue, the selector, and what is timed. -/
def State.dueNow (s : State) : Option (Host.Outcome State Fault Refusal) :=
  match s.tryEvents s.yielders with
  | some t => some (.next t)
  | none =>
    match s.nextOffer with
    | some c => some (if (s.ctx c).iss.cause.isSome then exec (.bundleReoffer c) s else .next (s.offer c))
    | none =>
      match s.tryEvents (s.clockedCores.map fun n => .issueSelection n) with
      | some t => some (.next t)
      | none => (s.tryEvents s.timedEvents).map fun t => .next t

/-- A context whose core has no cycle now stays at its phase (R154, R351). -/
def State.holdCtx (s : State) (c : Nat) : State :=
  s.modCtx c fun x =>
    { x with issuedAt := x.issuedAt + 1
             iss := { x.iss with off := (x.iss.off + 31) % 32, notBefore := x.iss.notBefore.map (· + 1), lastIssue := x.iss.lastIssue.map (· + 1) } }

/-- A core that has no cycle now keeps its distance to what it waits for, and to the cycles reserved for its ramps (R3, R357). -/
def State.holdCore (s : State) (core : Nat) : State :=
  let s := s.modMs fun m =>
    { m with ramps := m.ramps.map fun (e : Nat × List RampSlot) =>
        (e.1, e.2.map fun r => if r.core = core then { r with at' := r.at' + 1 } else r) }
  s.modCore core fun k =>
    { k with offerAt := k.offerAt + 1, scrubEnd := if k.scrubEnd = 0 then 0 else k.scrubEnd + 1
             bankZero := k.bankZero.map fun (e : Nat × Nat) => (e.1, e.2 + 1)
             cmds := k.cmds.map fun m => if m.startAt = 0 then m else { m with startAt := m.startAt + 1 } }

/-- The perturbation counter counts a cycle in which a full trace buffer holds the core, and no context of it issues
(R350). -/
def State.perturbed (s : State) (core : Nat) : State :=
  let k := (s.quarter (quarterOf core)).sink
  let l := contextsOf core
  if k.enabled && k.lossless && k.full && l.any (fun c => (s.ctx c).iss.cause = some .trace) &&
      !l.any (fun c => (s.ctx c).iss.lastIssue = some s.cycle) then
    s.modCore core fun k => { k with perturb := k.perturb + 1 }
  else s

/-- Reference time goes on by one cycle: its fractions of a tick are carried exactly, over a denominator that holds every
clock there has been, so that no change of a clock moves the count (R3). -/
def State.advanceTime (s : State) : State :=
  let d := Nat.lcm s.fracDen s.megahertz
  let f := s.frac * (d / s.fracDen) + 1000 * (d / s.megahertz)
  { s with cycle := s.cycle + 1, tick := s.tick + f / d, frac := f % d, fracDen := d }

/-- One cycle of the fastest core clock passes (R3, R40, R124, R154, R155, R279, R350). -/
def State.passCycle (s : State) : State :=
  let cores := s.activeCores
  let s := s.listedCtxs.foldl (fun s c =>
    if s.beats (coreOf c) then (s.nextCycle c).boundaryStop c else s.holdCtx c) s.markHolds
  let s := cores.foldl (fun s n =>
    if s.beats n then ((s.porterTick n).engineTick n).perturbed n else s.holdCore n) s
  s.advanceTime

/-! ## The moves of the agenda -/

/-- A host processor or a peer stores in its own memory (R60, R61). -/
def State.outerStore (s : State) (pa : Nat) (bytes : List Byte) : State :=
  if keepsOverReset pa && keepsOverReset (pa + bytes.length) then { s with mem := mwrite s.mem pa bytes } else s

/-- Firmware programs the decoder range of a port's device, of at most 2 TiB (R58). -/
def State.tierRange (s : State) (port size : Nat) : State :=
  if (ffind s.pf.cxl port).isSome && decide (size ≤ 2 ^ 41) then s.modPf fun p => { p with cxl := fput p.cxl port size } else s

/-- A move of the agenda: a tick waits for what its cycle must hold. -/
def State.move (s : State) (m : Move) (rest : List Move) : Host.Outcome State Fault Refusal :=
  let t := { s with agenda := rest }
  match m with
  | .event i => exec i t
  | .hostStore pa bytes => .next (t.outerStore pa bytes)
  | .sinkWrite q => .next (t.drainSink q)
  | .farDone c id => .next (t.farDone c id)
  | .sentUnit id n => .next (t.sentUnit id n)
  | .sentFar id => .next (t.sentFar id)
  | .collLine g => .next (t.collLine g)
  | .hostAtomics on => .next (t.modPf fun p => { p with hostAtomics := on })
  | .tierRange port size => .next (t.tierRange port size)
  | .peerDomain peer domain => .next (t.modPf fun p => { p with peerDomains := fput p.peerDomains peer domain })
  | .mailboxRead fn off => .next (t.mailboxRead fn off)
  | .msixWrite fn off value => .next (t.msixWrite fn off value)
  | .barResize fn lg => .next (t.barResize fn lg)
  | .replayTimeout n => .next (t.modPf fun p => { p with replayTimeout := n })
  | .drainWindow n => .next (t.modPf fun p => { p with drainWindow := n })
  | .abortBeat g => .next (t.abortBeat g)
  | .tick => match s.dueNow with
    | some r => r
    | none => .next t.passCycle

/-- The Quarters whose sinks hold records. -/
def State.drainable (s : State) : Option Nat := [0, 1, 2, 3].find? fun q => !(s.quarter q).sink.buffer.isEmpty

/-- What is on its way arrives: a part of an engine's write, an answer of the host link or a peer, the next line of a
collective (R67, R75, R79). -/
def State.arrivals (s : State) : List Move :=
  ((s.ms.sent.filter fun x => !x.left.isEmpty).map fun x => .sentUnit x.id 0) ++
    ((s.ms.sent.filter fun x => x.far && x.left.isEmpty).map fun x => .sentFar x.id) ++
    (s.ctxs.flatMap fun e => e.2.far.map fun id => .farDone e.1 id) ++ s.pf.groups.map fun e => .collLine e.1

/-- The first move of a list that changes something. -/
def State.tryMoves (s : State) : List Move → Option State
  | [] => none
  | m :: l => match s.move m s.agenda with
    | .next t => if t = s then s.tryMoves l else some t
    | _ => s.tryMoves l

/-- Nothing is due in this cycle: what happens by itself, what is on its way, a trace record's writing, or the next
cycle. -/
def State.idleMove (s : State) : State :=
  match s.tryEvents s.freeEvents with
  | some t => t
  | none =>
    match s.tryMoves s.arrivals with
    | some t => t
    | none => match s.drainable with
      | some q => s.drainSink q
      | none => s.passCycle

/-! ## A word placed for the next step -/

/-- The bundle of a word of the opcode table: a word that the decoder refuses stands in slot S or M as it is. -/
def tableBundle (nbits w : Nat) : BitVec 256 :=
  let sw := match Decode.tableSlot nbits w with
    | some r => r.1
    | none => if nbits ≤ 32 then ⟨0, 0#4, w⟩ else ⟨3, 0#4, w⟩
  Decode.joinBundle (Decode.singleBundle sw)

/-- A bundle address: aligned, with its top bits zero. -/
def bundleAddress (pc : Word) : Word := pc &&& 0x007FFFFFFFFFFFE0#64

/-- A context that is to issue a bundle in this cycle and holds its line (R62). -/
def Ctx.poised (x : Ctx) (cycle : Nat) (w : BitVec 256) : Ctx :=
  let pc := bundleAddress x.pc
  let b := toBytes 32 w.toNat
  { x with st := .resident, pc := pc, line := some (pc.toNat / 128, b ++ b ++ b ++ b), skip := 0#6, jump := none, doom := []
           reports := [], ticketWait := [], fenceWait := none, fenceFar := false, overlap := [], entry := none, redo := false
           csize := 0
           iss := { x.iss with cause := none, yielding := false, done := false, turns := 0, notBefore := some cycle } }

/-- Context 0 of core 0 has the width and is offered the bundle of a word. -/
def State.poise (s : State) (w : BitVec 256) : State :=
  let s := { s with agenda := [] }.modPf fun p => { p with boot := if p.boot = 2 then 1 else p.boot, gated := [] }
  let s := if s.beats 0 then s else s.modPf fun p => { p with islandMHz := fput p.islandMHz 0 s.megahertz }
  (s.modCtx 0 fun x => x.poised s.cycle w).modCore 0 fun k =>
    { k with width := some 0, offerAt := s.cycle, frozen := false }

end Sys2Proof.Machine
end

