-- ==== Sys2Proof/Machine/Step.lean ====
section
/-!
DEFINITION. The step of the machine: the next move of the agenda, or, where the agenda is empty, what the step's own
policy does next.
-/

namespace Sys2Proof.Machine

/-- One step. After a boot that stopped, only the agenda goes on (R343). -/
def step (s : State) : Host.Outcome State Fault Refusal :=
  match s.agenda with
  | m :: rest => s.move m rest
  | [] =>
    if s.pf.boot = 2 then .fault .bootStopped
    else
      match s.dueNow with
      | some r => r
      | none => .next s.idleMove

/-- The state with a word of the opcode table as the bundle that the next step issues. -/
def State.withFetchWord (s : State) (nbits w : Nat) : State := s.poise (tableBundle nbits w)

end Sys2Proof.Machine
end

