-- ==== Sys2Proof/Safety.lean ====
section
/-!
DEFINITION. What counts as a well-formed machine, and the terms in which the claims say what an instruction completes with,
what it changes and what it leaves as it was.
-/

namespace Sys2Proof.Machine

/-- Every memory of the machine is in canonical form. -/
def State.memoriesOk (s : State) : Bool :=
  Memory.wf s.mem && Memory.wf s.ms.staging && s.cores.all fun e => Memory.wf e.2.scratch

/-! ## Completion -/

/-- An instruction answers a next state, of which a condition holds. -/
def Completes (i : Instr) (s : State) (p : State → Prop) : Prop := ∃ t, exec i s = .next t ∧ p t

/-! ## Frames -/

/-- Every byte of global memory, of Depot staging and of each scratchpad reads as before. -/
def State.SameBytes (s t : State) : Prop :=
  (∀ a, mget t.mem a = mget s.mem a) ∧ (∀ a, mget t.ms.staging a = mget s.ms.staging a) ∧
    ∀ n a, mget (t.core n).scratch a = mget (s.core n).scratch a

/-- Every byte of global memory and of Depot staging reads as before. -/
def State.SameGlobal (s t : State) : Prop :=
  (∀ a, mget t.mem a = mget s.mem a) ∧ ∀ a, mget t.ms.staging a = mget s.ms.staging a

/-- Nothing outside context c differs: no other context, no core, no memory, no queue, no device register. -/
def State.OnlyCtx (s t : State) (c : Nat) : Prop :=
  t = { s with ctxs := t.ctxs } ∧ (∀ d, d ≠ c → t.ctx d = s.ctx d) ∧ s.SameBytes t

/-- Nothing outside the issuing context differs. -/
def State.OnlyMe (s t : State) : Prop := s.OnlyCtx t s.cur

/-- Nothing but one core's own state differs, and global memory is as before. -/
def State.OnlyCore (s t : State) (core : Nat) : Prop :=
  t = { s with cores := t.cores } ∧ (∀ n, n ≠ core → t.core n = s.core n) ∧ s.SameGlobal t

/-- Nothing but the device's own registers (functions, queues, logs, notices) differs. -/
def State.OnlyPlatform (s t : State) : Prop := t = { s with pf := t.pf } ∧ s.SameBytes t

/-- Nothing but translation, ownership and home-slice state differs, and global memory is as before. -/
def State.OnlyMemSys (s t : State) : Prop := t = { s with ms := t.ms } ∧ ∀ a, mget t.mem a = mget s.mem a

/-- Nothing but one Quarter's own state differs. -/
def State.OnlyQuarter (s t : State) (q : Nat) : Prop :=
  t = { s with quarters := t.quarters } ∧ (∀ p, p ≠ q → t.quarter p = s.quarter p) ∧ s.SameBytes t

/-! ## Results of the scalar slot (R229) -/

/-- Register d takes v if bit 0 of p[g] is set and d is not s0; its mask follows R229 from the sources' mask m; no other
register, mask, flag, special register, engine state or byte of memory differs. With g = 0 the write always happens. -/
def State.WritesS (s t : State) (d g : BitVec 5) (v : Word) (m : Mask) : Prop :=
  s.OnlyMe t ∧
    t.me = { s.me with r := { s.me.r with s := t.me.r.s, sT := t.me.r.sT }, wroteS := t.me.wroteS } ∧
    (∀ n, t.me.r.sreg n = if n = d ∧ n ≠ 0#5 ∧ (s.rd.preg g).getLsbD 0 = true then v else s.me.r.sreg n) ∧
    ∀ n, t.me.r.staint n =
      if n = d ∧ n ≠ 0#5 then m ||| s.rd.ptaint g ||| (if g = 0#5 then 0#9 else s.rd.staint d) else s.me.r.staint n

/-- The same for a predicate: p0 discards what is written to it (R233). -/
def State.WritesP (s t : State) (d g : BitVec 5) (v : Pred) (m : Mask) : Prop :=
  s.OnlyMe t ∧
    t.me = { s.me with r := { s.me.r with p := t.me.r.p, pT := t.me.r.pT }, wroteP := t.me.wroteP } ∧
    (∀ n, t.me.r.preg n = if n = d ∧ n ≠ 0#5 ∧ (s.rd.preg g).getLsbD 0 = true then v else s.me.r.preg n) ∧
    ∀ n, t.me.r.ptaint n =
      if n = d ∧ n ≠ 0#5 then m ||| s.rd.ptaint g ||| (if g = 0#5 then 0#9 else s.rd.ptaint d) else s.me.r.ptaint n

/-- `Record` (R176): no flags, no change; else the flags are ORed in, and the address is the bundle's bits [54:5] where no flag
stood before. -/
def Recorded (old new bundle : Word) (f : Flags) : Prop :=
  (f = 0#7 → new = old) ∧
    (f ≠ 0#7 → new.extractLsb' 0 7 = old.extractLsb' 0 7 ||| f ∧
      new.extractLsb' 14 50 = if old.extractLsb' 0 7 = 0#7 then bundle.extractLsb' 5 50 else old.extractLsb' 14 50)

/-- The result of a division form, and the flag that goes to `xrec.s` when the guard lets the result be written (R176, R207,
R229); no other register, record or byte of memory differs. -/
def State.Divides (s t : State) (d a b g : BitVec 5) (v : Word) (f : Flags) : Prop :=
  s.OnlyMe t ∧
    t.me = { s.me with r := { s.me.r with s := t.me.r.s, sT := t.me.r.sT, xrec := t.me.r.xrec }, wroteS := t.me.wroteS } ∧
    (∀ n, t.me.r.sreg n = if n = d ∧ n ≠ 0#5 ∧ (s.rd.preg g).getLsbD 0 = true then v else s.me.r.sreg n) ∧
    (∀ n, t.me.r.staint n = if n = d ∧ n ≠ 0#5 then
      s.rd.staint a ||| s.rd.staint b ||| s.rd.ptaint g ||| (if g = 0#5 then 0#9 else s.rd.staint d) else s.me.r.staint n) ∧
    (∀ n, n ≠ 0 → fget 0#64 t.me.r.xrec n = fget 0#64 s.me.r.xrec n) ∧
    ((s.rd.preg g).getLsbD 0 = true → Recorded (fget 0#64 s.me.r.xrec 0) (fget 0#64 t.me.r.xrec 0) s.me.pc f) ∧
    ((s.rd.preg g).getLsbD 0 = false → fget 0#64 t.me.r.xrec 0 = fget 0#64 s.me.r.xrec 0)

/-- Only the control taint and the transfer of the issuing context differ: the taint gains m, and the next bundle is at
the target, after its pad, where one is given (R93, R164). -/
def State.Transfers (s t : State) (m : Mask) (target : Option (Word × Nat)) : Prop :=
  s.OnlyMe t ∧ t.me = { s.me with r := { s.me.r with ctl := s.me.r.ctl ||| m }, jump := target.or s.me.jump }

/-! ## Stops -/

/-- The issuing context has stopped (R172–R174): its fault registers hold these values, its registers, its program counter
and every byte of memory are as before, and no other context differs. -/
def State.Stopped (s t : State) (fault : Word) (faddr : Word) (slotres : Nat) (donemask : BitVec 6) : Prop :=
  t.me.st = .held ∧ t.me.fault = fault ∧ t.me.faddr = faddr ∧ t.me.slotres = slotres ∧ t.me.donemask = donemask ∧
    t.me.r = s.me.r ∧ t.me.pc = s.me.pc ∧ t.me.pend = s.me.pend ∧ t.me.q0 = s.me.q0 ∧ t.me.q1 = s.me.q1 ∧
    t.cur = s.cur ∧ (∀ c, c ≠ s.cur → t.ctx c = s.ctx c) ∧ s.SameBytes t

/-- The bundle is held back for a cause: nothing else differs (R156). -/
def State.Stalls (s t : State) (w : Wait) : Prop :=
  s.OnlyMe t ∧ t.me = { s.me with iss := { s.me.iss with cause := some w } }

/-- Context c has stopped between bundles, with nothing committed (R172, R173): its registers and program counter, every other
context and every byte of memory are as before. -/
def State.Halts (s t : State) (c : Nat) (fault faddr : Word) : Prop :=
  (t.ctx c).st = .held ∧ (t.ctx c).fault = fault ∧ (t.ctx c).faddr = faddr ∧ (t.ctx c).slotres = 0 ∧
    (t.ctx c).r = (s.ctx c).r ∧ (t.ctx c).pc = (s.ctx c).pc ∧ (∀ d, d ≠ c → t.ctx d = s.ctx d) ∧ s.SameBytes t

/-! ## Operands of the vector slots (R257) -/

/-- A vector operand can be read now: a bay in the slot's read window, or a queue whose oldest entry is filled and sound. -/
def State.Readable (s : State) (slot : Nat) (f : BitVec 6) (mode : BitVec 2) : Prop :=
  (mode = 0#2 → readWindow slot (s.rd.bayOf f) (s.phase s.cur) = true) ∧
  (mode = 2#2 → ∃ e rest, s.me.queue (f.getLsbD 0) = e :: rest ∧ e.filled = true ∧ e.poison = 0 ∧ e.overlap = none)

/-- An operand has been taken: an entry in queue mode is popped, and an anchor, if one is named, holds the operand (R211, R273);
nothing else differs. -/
def State.Takes (s t : State) (f : BitVec 6) (mode : BitVec 2) (anchor : Option Nat) (v : VOperand) : Prop :=
  s.OnlyMe t ∧
    t.me = { s.me with
      r := { s.me.r with a := t.me.r.a, aT := t.me.r.aT }
      q0 := if mode = 2#2 ∧ f.getLsbD 0 = false then s.me.q0.tail else s.me.q0
      q1 := if mode = 2#2 ∧ f.getLsbD 0 = true then s.me.q1.tail else s.me.q1 } ∧
    ∀ n, fget 0#1024 t.me.r.a n = (if anchor = some n then v.value else fget 0#1024 s.me.r.a n) ∧
      fget 0#9 t.me.r.aT n = (if anchor = some n then v.mask else fget 0#9 s.me.r.aT n)

/-! ## Effects left pending (R155, R175) -/

/-- One effect more is pending in the issuing context, due `lat` cycles of κ after its issue; nothing else differs. -/
def State.Leaves (s t : State) (slot lat : Nat) (act : Action) : Prop :=
  s.OnlyMe t ∧
    t.me = { s.me with
      pend := s.me.pend ++ [{ due := s.me.iss.kappa + lat, slot := slot, seq := s.me.seq, bundle := s.me.pc, act := act }]
      seq := s.me.seq + 1 }

/-! ## Accesses of the copy slots (R303, R304) -/

/-- A scratchpad run can be read, or written: aligned, inside the scratchpad, in banks that the context holds and that are not
being zeroed, in deterministic mode within the scalar set, and when it is read free of poison. -/
def State.ScratchOk (s : State) (a : Word) (size align : Nat) (write : Bool) : Prop :=
  a.toNat % align = 0 ∧ a.toNat + size ≤ 0x300000 ∧
    s.holdsBank (bankOf a.toNat) = true ∧ s.holdsBank (bankOf (a.toNat + size - 1)) = true ∧
    (∀ b, b ∈ rangeBanks a.toNat size → s.zeroing (coreOf s.cur) b = false) ∧
    (s.det = true →
      let set := fget 0#48 (if write = true then s.rd.spanW else s.rd.spanR) 0
      set.getLsbD (bankOf a.toNat) = true ∧ set.getLsbD (bankOf (a.toNat + size - 1)) = true) ∧
    (write = false → s.myCore.spPoisoned a.toNat size = false)

/-- A global access finds room in the load-store unit and, where it takes a tag, in its queue; its token idle; its address
aligned; its translation at hand. -/
def State.MayEnter (s : State) (slot : Nat) (tagged : Bool) (tk : BitVec 4) (addr : Word) (align : Nat) (need : Need)
    (pa : Nat) (nb : Bool) : Prop :=
  s.me.outstanding < 64 ∧
    (tagged = true → (s.me.queue (slot = 5)).length < 32) ∧
    (tk.toNat < 8 → (fget {} s.me.tokens tk.toNat : Token).st ≠ 1) ∧ addr.toNat % align = 0 ∧
    s.check (coreOf s.cur) s.me.tenant s.me.walkFail addr need = .ok pa nb

/-- A global access can issue outside record and replay. -/
def State.MayIssue (s : State) (slot : Nat) (tagged : Bool) (tk : BitVec 4) (addr : Word) (align : Nat) (need : Need)
    (pa : Nat) (nb : Bool) : Prop :=
  s.recording s.cur = false ∧ s.replaying s.cur = false ∧ s.MayEnter slot tagged tk addr align need pa nb

/-- A global access has entered the load-store unit, with its dependence on the sources of mask u; its token is busy, and where it
takes a tag its tag is live and its queue has an entry for it. Nothing else differs. -/
def State.Issues (s t : State) (tk : BitVec 4) (u : Mask) (x : Access) : Prop :=
  s.OnlyMe t ∧ x.id = s.me.seq ∧ x.bundle = s.me.pc ∧ x.issueTick = s.tick ∧ x.rcd = none ∧
    x.token = (if tk.toNat < 8 then some tk.toNat else none) ∧
    x.deps = (s.me.dependence (u ||| s.ctaint)).1 ∧ x.dependent = ((u ||| s.ctaint) != 0#9) ∧
    s.me.nearFloor ≤ x.bound ∧
    t.me = { s.me with
      lsu := s.me.lsu ++ [.access x]
      seq := s.me.seq + 1
      tokens := t.me.tokens, tags := t.me.tags, allTop := t.me.allTop, allStamp := t.me.allStamp
      q0 := t.me.q0, q1 := t.me.q1 } ∧
    (∀ n, (fget {} t.me.tokens n : Token) = if tk.toNat < 8 ∧ n = tk.toNat then { st := 1 } else fget {} s.me.tokens n) ∧
    (x.kind.tagged = false → x.tag = none ∧ t.me.tags = s.me.tags ∧ t.me.allTop = s.me.allTop ∧ t.me.allStamp = s.me.allStamp ∧
      t.me.q0 = s.me.q0 ∧ t.me.q1 = s.me.q1) ∧
    (x.kind.tagged = true →
      let tag := s.me.pickTag
      let e : QEntry := { acc := s.me.seq, mask := 1#9 <<< tag }
      x.tag = some tag ∧
        t.me.q0 = s.me.q0 ++ (if x.slot = 5 then [] else [e]) ∧ t.me.q1 = s.me.q1 ++ (if x.slot = 5 then [e] else []) ∧
        (∀ n, n < 8 → (fget {} t.me.tags n : Tag) = if n = tag then { st := 1, holder := s.me.seq } else fget {} s.me.tags n) ∧
        (tag = 8 → t.me.allTop = some s.me.seq) ∧ (tag ≠ 8 → t.me.allTop = s.me.allTop))

/-! ## Records at issue (R120–R125) -/

/-- A recording context can take an index: its ring can be reached and has room, and no access to it has failed. -/
def State.MayRecord (s : State) : Prop :=
  s.recording s.cur = true ∧ s.ringReady s.cur = true ∧ s.ringFull s.cur 1 = false ∧ s.me.man.err = none ∧
    ∃ b, s.tailRead s.cur = .ok b

/-- Nothing of the ring can be taken: the recording context waits for its consumer. -/
def State.RingWaits (s : State) : Prop :=
  s.recording s.cur = true ∧ s.ringReady s.cur = true ∧ s.ringFull s.cur 1 = true

/-- The record r takes the next index, which counts as unwritten. -/
def State.TakesIndex (s t : State) (r : Rec) : Prop :=
  r.index = s.me.man.next ∧ r.order = none ∧ r.bundles = s.me.bundles ∧ t.me.man.next = s.me.man.next + 1 ∧
    t.me.man.unwritten = s.me.man.unwritten ++ [s.me.man.next]

/-- What a record says: its type, the slot, the sub-code, the place and the value. -/
def Rec.Says (r : Rec) (type slot sub : Nat) (place value : Word) : Prop :=
  r.type = type ∧ r.slot = slot ∧ r.sub = sub ∧ r.batched = false ∧ r.place = place ∧ r.value = value

/-- A replaying context can reach its ring, no access to it has failed, and a record is left: the bytes b at the index that
the next recording slot takes. -/
def State.Replays (s : State) (b : List Byte) : Prop :=
  s.recording s.cur = false ∧ s.replaying s.cur = true ∧ s.ringReady s.cur = true ∧ s.me.man.err = none ∧
    s.replayIndex s.cur < s.me.man.head ∧ s.readRecord s.cur (s.replayIndex s.cur) = .ok b

/-- A replaying context has no record left. -/
def State.ReplayEnds (s : State) : Prop :=
  s.recording s.cur = false ∧ s.replaying s.cur = true ∧ s.ringReady s.cur = true ∧ s.me.man.err = none ∧
    s.me.man.head ≤ s.replayIndex s.cur

/-- The first word of recorded bytes names an operation outside batches. -/
def recordNames (b : List Byte) (type sub : Nat) : Prop :=
  field b 0 8 % 256 = type ∧ field b 0 8 / 2 ^ 11 % 8 = sub ∧ field b 0 8 / 2 ^ 14 % 2 = 0

/-- The record r is the recorded one, with its order and its value, and the context has passed its index. -/
def State.TakesRecorded (s t : State) (b : List Byte) (r : Rec) : Prop :=
  r.index = s.replayIndex s.cur ∧ r.order = some (field b 16 8) ∧ r.gen = field b 24 8 ∧
    t.me.man = { s.me.man with next := s.replayIndex s.cur + 1 }

/-! ## Accesses at their homes (R67, R304) -/

/-- An access of context c has performed, or is refused for good: it alone has left the load-store unit, its token, if it names
one, has the state `st`, and nothing else of the program's state in any context differs but what the queues q0 and q1 hold. -/
def State.Performs (s t : State) (c : Nat) (a : Access) (st : Nat) (q0 q1 : List QEntry) : Prop :=
  let x := s.ctx c
  let y := t.ctx c
  y.access a.id = none ∧ (∀ i, i ≠ a.id → (y.access i).isSome = (x.access i).isSome) ∧
    (∀ n, some n = a.token → (fget {} y.tokens n : Token).st = st) ∧
    (∀ n, some n ≠ a.token → (fget {} y.tokens n : Token) = fget {} x.tokens n) ∧
    y.q0 = q0 ∧ y.q1 = q1 ∧ y.r = x.r ∧ y.pc = x.pc ∧ y.st = x.st ∧ y.pend = x.pend ∧ y.bars = x.bars ∧ y.man = x.man ∧
    (∀ d, d ≠ c → t.ctx d = s.ctx d)

/-- Memory holds new bytes from an address on, and reads as before everywhere else; scratchpads and staging are as before. -/
def State.Holds (s t : State) (pa : Nat) (bytes : List Byte) : Prop :=
  (∀ i, i < bytes.length → mget t.mem (pa + i) = bytes.getD i 0#8) ∧
    (∀ n, n < pa ∨ pa + bytes.length ≤ n → mget t.mem n = mget s.mem n) ∧
    (∀ n, mget t.ms.staging n = mget s.ms.staging n) ∧ ∀ n a, mget (t.core n).scratch a = mget (s.core n).scratch a

/-! ## Firmware and the root of trust (R347) -/

/-- One audit record more stands in the log: numbered, stamped and chained as R347 says. -/
def State.Audits (s t : State) (type tenant master : Nat) (detail : List Word) : Prop :=
  ∃ r, t.pf.audit = s.pf.audit ++ [r] ∧ r.counter = s.pf.auditCounter ∧ r.time = s.tick ∧ r.type = type ∧ r.tenant = tenant ∧
    r.master = master ∧ r.detail = detail ∧ t.pf.auditCounter = s.pf.auditCounter + 1 ∧ t.pf.chain = r.chain ∧
    r.chain = shake256 (toBytes 32 s.pf.chain.toNat ++ auditHead r.counter r.time type tenant master detail)

/-- No register, program counter or state of any context differs. -/
def State.SameContexts (s t : State) : Prop := ∀ c, t.ctx c = s.ctx c

/-- A request from outside the cores is answered: with data, or by an error completion, and no other way (R336). -/
def State.Replies (s t : State) (dest data : Nat) (abort : Bool) : Prop :=
  t.pf.replies = s.pf.replies ++ [{ dest := dest, data := data, abort := abort }]

/-! ## The issue of one bundle (R62, R156, R174, R227) -/

/-- Nothing stands before the slots of the issuing context's next bundle, whose pattern is at hand: it holds the line, its last
accesses, its faults and its reports are settled, and it issues for itself. -/
def State.Fetches (s : State) (w : BitVec 256) : Prop :=
  (s.armed s.me.tenant = true → ∀ a, a ∈ s.me.accesses → ¬ (a.global = true ∧ a.writes = true)) ∧ s.me.ticketWait = [] ∧
    s.me.fenceWait = none ∧ s.me.doom = [] ∧ s.me.overdue = none ∧ ((s.launch s.me.launch).team s.me.team).orphan = false ∧
    s.me.csize = 0 ∧ s.traceHolds (coreOf s.cur) (w.getLsbD 14) = false ∧
    ∃ line, s.fetched s.cur s.me.pc = .ok line ∧ bundleOf line s.me.pc = w

/-- The step's next move is the first offer of context c's next bundle. -/
def State.Offers (s : State) (c : Nat) : Prop :=
  s.agenda = [] ∧ s.pf.boot ≠ 2 ∧ s.tryEvents s.yielders = none ∧ s.nextOffer = some c ∧ (s.ctx c).iss.cause = none ∧
    (s.ctx c).iss.yielding = false

end Sys2Proof.Machine
end

