-- ==== Sys2Proof/Certificates/Slice0/Obligations.lean ====
section
/-!
DEFINITION. The statements about the Ramhal that are to be proved: what each instruction and each event of the device completes
with, what it leaves unchanged, where it traps, and what holds of every step.
-/

open Sys2Proof Sys2Proof.Machine

/-! ## The scalar slot -/

/-- R229, R230: the two-source integer forms. R229, R230: shifts by b[5:0], and the smaller and the larger of two. R229,
R230: `sel` by a predicate's bit 0, and the three counts of bits. R231: the immediate forms, which have no guard; `lim`
brings an empty mask. -/
def Obligations.ScalarResults : Prop :=
  (∀ (s : State) (d a b g : BitVec 5), WellFormed.predOk g = true →
    let x := s.rd.sreg a
    let y := s.rd.sreg b
    let writes (v : Word) (t : State) : Prop := s.WritesS t d g v (s.rd.staint a ||| s.rd.staint b)
    Completes (.add d a b g) s (writes (x + y)) ∧
    Completes (.sub d a b g) s (writes (x - y)) ∧
    Completes (.mul d a b g) s (writes (x * y)) ∧
    Completes (.mulh d a b g) s (writes ((x.signExtend 128 * y.signExtend 128).extractLsb' 64 64)) ∧
    Completes (.mulhu d a b g) s (writes ((x.zeroExtend 128 * y.zeroExtend 128).extractLsb' 64 64)) ∧
    Completes (.and d a b g) s (writes (x &&& y)) ∧
    Completes (.or d a b g) s (writes (x ||| y)) ∧
    Completes (.xor d a b g) s (writes (x ^^^ y))) ∧
  (∀ (s : State) (d a b g : BitVec 5), WellFormed.predOk g = true →
    let x := s.rd.sreg a
    let y := s.rd.sreg b
    let n := (y.extractLsb' 0 6).toNat
    let writes (v : Word) (t : State) : Prop := s.WritesS t d g v (s.rd.staint a ||| s.rd.staint b)
    Completes (.shl d a b g) s (writes (x <<< n)) ∧
    Completes (.shr d a b g) s (writes (x >>> n)) ∧
    Completes (.sra d a b g) s (writes (x.sshiftRight n)) ∧
    Completes (.min d a b g) s (writes (if x.toInt ≤ y.toInt then x else y)) ∧
    Completes (.minu d a b g) s (writes (if x.toNat ≤ y.toNat then x else y)) ∧
    Completes (.max d a b g) s (writes (if x.toInt ≤ y.toInt then y else x)) ∧
    Completes (.maxu d a b g) s (writes (if x.toNat ≤ y.toNat then y else x))) ∧
  (∀ (s : State) (d a b g f : BitVec 5), WellFormed.predOk g = true → WellFormed.predOk f = true →
    let x := s.rd.sreg a
    let m := s.rd.staint a
    Completes (.sel d a b g f) s (fun t =>
      s.WritesS t d g (if (s.rd.preg f).getLsbD 0 = true then x else s.rd.sreg b) (m ||| s.rd.staint b ||| s.rd.ptaint f)) ∧
    Completes (.clz d a g) s (fun t => ∃ n, n ≤ 64 ∧ s.WritesS t d g (BitVec.ofNat 64 n) m ∧
      (∀ k, k < n → x.getLsbD (63 - k) = false) ∧ (n < 64 → x.getLsbD (63 - n) = true)) ∧
    Completes (.ctz d a g) s (fun t => ∃ n, n ≤ 64 ∧ s.WritesS t d g (BitVec.ofNat 64 n) m ∧
      (∀ k, k < n → x.getLsbD k = false) ∧ (n < 64 → x.getLsbD n = true)) ∧
    Completes (.popc d a g) s (fun t => s.WritesS t d g (BitVec.ofNat 64 ((List.range 64).countP fun k => x.getLsbD k)) m)) ∧
  (∀ (s : State) (d a : BitVec 5) (imm : BitVec 15) (n : BitVec 6),
    let x := s.rd.sreg a
    let writes (v : Word) (t : State) : Prop := s.WritesS t d 0#5 v (s.rd.staint a)
    Completes (.addi d a imm) s (writes (x + imm.signExtend 64)) ∧
    Completes (.andi d a imm) s (writes (x &&& imm.signExtend 64)) ∧
    Completes (.ori d a imm) s (writes (x ||| imm.signExtend 64)) ∧
    Completes (.xori d a imm) s (writes (x ^^^ imm.signExtend 64)) ∧
    Completes (.shli d a n) s (writes (x <<< n.toNat)) ∧
    Completes (.shri d a n) s (writes (x >>> n.toNat)) ∧
    Completes (.srai d a n) s (writes (x.sshiftRight n.toNat)) ∧
    Completes (.lims d a imm) s (writes ((x <<< 15) ||| imm.zeroExtend 64)) ∧
    Completes (.lim d imm) s (fun t => s.WritesS t d 0#5 (imm.signExtend 64) 0#9))

/-- R207: division truncates toward zero, by zero it gives 0 and the dividend, and its flags are recorded only with the
result. -/
def Obligations.ScalarDivisionResults : Prop :=
  ∀ (s : State) (d a b g : BitVec 5), WellFormed.predOk g = true →
    let x := s.rd.sreg a
    let y := s.rd.sreg b
    let wraps := x = 0x8000000000000000#64 ∧ y = 0xFFFFFFFFFFFFFFFF#64
    let q := if y = 0#64 then 0#64 else if wraps then 0x8000000000000000#64 else BitVec.ofInt 64 (x.toInt.tdiv y.toInt)
    let qu := if y = 0#64 then 0#64 else BitVec.ofNat 64 (x.toNat / y.toNat)
    Completes (.div d a b g) s (fun t =>
      s.Divides t d a b g q (if y = 0#64 then Flag.dz else if wraps then Flag.ovf else Flag.none)) ∧
    Completes (.divu d a b g) s (fun t => s.Divides t d a b g qu (if y = 0#64 then Flag.dz else Flag.none)) ∧
    Completes (.rem d a b g) s (fun t =>
      s.Divides t d a b g (if y = 0#64 then x else if wraps then 0#64 else x - q * y) (if y = 0#64 then Flag.dz else Flag.none)) ∧
    Completes (.remu d a b g) s (fun t =>
      s.Divides t d a b g (if y = 0#64 then x else x - qu * y) (if y = 0#64 then Flag.dz else Flag.none))

/-- R232: a compare writes all ones where its relation holds and zeros where it does not. R233: the predicate forms act lane
by lane; p0 reads all ones and discards. -/
def Obligations.CompareAndPredicateResults : Prop :=
  (∀ (s : State) (d a b g : BitVec 5) (imm : BitVec 15), WellFormed.predOk d = true → WellFormed.predOk g = true →
    let x := s.rd.sreg a
    let y := s.rd.sreg b
    let z : Word := imm.signExtend 64
    let ones (holds : Prop) [Decidable holds] : Pred := if holds then 0xFFFFFFFF#32 else 0#32
    let writes (v : Pred) (t : State) : Prop := s.WritesP t d g v (s.rd.staint a ||| s.rd.staint b)
    let writesI (v : Pred) (t : State) : Prop := s.WritesP t d 0#5 v (s.rd.staint a)
    Completes (.cmpEq d a b g) s (writes (ones (x = y))) ∧
    Completes (.cmpNe d a b g) s (writes (ones (x ≠ y))) ∧
    Completes (.cmpLt d a b g) s (writes (ones (x.toInt < y.toInt))) ∧
    Completes (.cmpLtu d a b g) s (writes (ones (x.toNat < y.toNat))) ∧
    Completes (.cmpLe d a b g) s (writes (ones (x.toInt ≤ y.toInt))) ∧
    Completes (.cmpLeu d a b g) s (writes (ones (x.toNat ≤ y.toNat))) ∧
    Completes (.cmpiEq d a imm) s (writesI (ones (x = z))) ∧
    Completes (.cmpiLt d a imm) s (writesI (ones (x.toInt < z.toInt))) ∧
    Completes (.cmpiLtu d a imm) s (writesI (ones (x.toNat < z.toNat)))) ∧
  (∀ (s : State) (d a b g : BitVec 5), WellFormed.predOk a = true → WellFormed.predOk g = true →
    let x := s.rd.preg a
    let y := s.rd.preg b
    let m := s.rd.ptaint a
    let writes (v : Pred) (t : State) : Prop := s.WritesP t d g v (m ||| s.rd.ptaint b)
    (WellFormed.predOk d = true → WellFormed.predOk b = true →
      Completes (.pand d a b g) s (writes (x &&& y)) ∧
      Completes (.por d a b g) s (writes (x ||| y)) ∧
      Completes (.pxor d a b g) s (writes (x ^^^ y)) ∧
      Completes (.pandn d a b g) s (writes (x &&& ~~~y))) ∧
    (WellFormed.predOk d = true → Completes (.pnot d a g) s (fun t => s.WritesP t d g (~~~x) m)) ∧
    Completes (.pget d a g) s (fun t => s.WritesS t d g (x.zeroExtend 64) m) ∧
    (WellFormed.predOk d = true →
      Completes (.pset d b g) s (fun t => s.WritesP t d g ((s.rd.sreg b).extractLsb' 0 32) (s.rd.staint b))) ∧
    s.rd.preg 0#5 = 0xFFFFFFFF#32 ∧ s.rd.ptaint 0#5 = 0#9)

/-! ## Transfers, loops, tokens and barriers -/

/-- R234, R235: where each transfer goes, what it adds to the control taint, and what `call` writes. R235: a register target
that is no multiple of 32 is fault 0x05 in the S slot with the target in `faddr`, and nothing commits. -/
def Obligations.TransferResults : Prop :=
  (∀ (s : State) (g a pad : BitVec 5) (disp : BitVec 15),
    let target : Option (Word × Nat) := some (s.me.pc + 32#64 * disp.signExtend 64, pad.toNat)
    (WellFormed.predOk g = true →
      Completes (.br g pad disp) s (fun t =>
        s.Transfers t (s.rd.ptaint g) (if (s.rd.preg g).getLsbD 0 = true then target else none)) ∧
      Completes (.brn g pad disp) s (fun t =>
        s.Transfers t (s.rd.ptaint g) (if (s.rd.preg g).getLsbD 0 = true then none else target))) ∧
    Completes (.call pad disp) s (fun t =>
      ∃ u, s.WritesS u 31#5 0#5 (s.me.pc + 32#64) 0#9 ∧ u.Transfers t 0#9 target) ∧
    ((s.rd.sreg a).toNat % 32 = 0 → Completes (.jmp a pad) s (fun t =>
      s.Transfers t (s.rd.staint a) (some (s.rd.sreg a, pad.toNat)))) ∧
    ((s.rd.sreg 31#5).toNat % 32 = 0 → Completes (.ret pad) s (fun t =>
      s.Transfers t (s.rd.staint 31#5) (some (s.rd.sreg 31#5, pad.toNat))))) ∧
  (∀ (s : State) (a pad : BitVec 5),
    ((s.rd.sreg a).toNat % 32 ≠ 0 → Completes (.jmp a pad) s (fun t =>
      s.Stopped t 0x5#64 (s.rd.sreg a) 0 s.me.skip)) ∧
    ((s.rd.sreg 31#5).toNat % 32 ≠ 0 → Completes (.ret pad) s (fun t =>
      s.Stopped t 0x5#64 (s.rd.sreg 31#5) 0 s.me.skip)))

/-- R236, R226: a loop enters its level with its trip count, passes over its body when the count is 0, and is an illegal
bundle with reason 9 where the levels do not nest. R238, R239: `lbrk` drops the innermost level and goes past its body when
its predicate holds; `lidx` reads a level's index. -/
def Obligations.LoopResults : Prop :=
  (∀ (s : State) (level : BitVec 2) (len : BitVec 8) (a sigma : BitVec 5) (fl : Bool), len ≠ 0#8 →
    let l := level.toNat
    let bodyEnd := s.me.pc + 32#64 * len.zeroExtend 64
    let n := (s.rd.sreg a).extractLsb' 0 32
    let nests := (∀ k, k < l → (s.rd.loopLevel k).active = true) ∧
      (∀ k, l ≤ k → k < 4 → (s.rd.loopLevel k).active = false) ∧
      (l ≠ 0 → bodyEnd.toNat ≤ (s.rd.loopLevel (l - 1)).stop.toNat)
    (nests → n = 0#32 → Completes (.loop level len a sigma fl) s (fun t =>
      s.Transfers t (s.rd.staint a) (some (bodyEnd + 32#64, 0)))) ∧
    (nests → n ≠ 0#32 → Completes (.loop level len a sigma fl) s (fun t =>
      s.OnlyMe t ∧
      t.me = { s.me with r := { s.me.r with ctl := s.me.r.ctl ||| s.rd.staint a, loops := t.me.r.loops } } ∧
      ∀ k, t.me.r.loopLevel k = if k = l then
        { active := true, i := 0#32, n := n, sigma := sigma, len := len, start := s.me.pc + 32#64, stop := bodyEnd, fl := fl }
        else s.me.r.loopLevel k)) ∧
    (¬ nests → Completes (.loop level len a sigma fl) s (fun t => s.Stopped t 0x902#64 s.me.pc 0 s.me.skip))) ∧
  (∀ (s : State) (a pad d : BitVec 5) (level : BitVec 2),
    (∀ l, WellFormed.predOk a = true → l < 4 → (s.rd.loopLevel l).active = true →
      (∀ k, l < k → k < 4 → (s.rd.loopLevel k).active = false) →
      ((s.rd.preg a).getLsbD 0 = true → Completes (.lbrk a pad) s (fun t =>
        s.OnlyMe t ∧
        t.me = { s.me with
          r := { s.me.r with ctl := s.me.r.ctl ||| s.rd.ptaint a, loops := t.me.r.loops }
          jump := some ((s.rd.loopLevel l).stop + 32#64, pad.toNat) } ∧
        ∀ k, t.me.r.loopLevel k =
          if k = l then { s.rd.loopLevel l with active := false } else s.me.r.loopLevel k)) ∧
      ((s.rd.preg a).getLsbD 0 = false → Completes (.lbrk a pad) s (fun t => s.Transfers t (s.rd.ptaint a) none))) ∧
    (WellFormed.predOk a = true → (∀ k, k < 4 → (s.rd.loopLevel k).active = false) →
      Completes (.lbrk a pad) s (fun t => s.Stopped t 0x902#64 s.me.pc 0 s.me.skip)) ∧
    Completes (.lidx d level) s (fun t => s.WritesS t d 0#5
      (if (s.rd.loopLevel level.toNat).active = true then (s.rd.loopLevel level.toNat).i.zeroExtend 64 else 0#64) 0#9))

/-- R241, R177: when `wait` may complete, what it writes and which tokens it makes idle; the lowest token in error is
delivered as fault 0x0E detail 2; otherwise the bundle waits. R242, R243, R77: an arrival waits in the load-store unit behind
its `rel`; `barw` acts as `acq` once the generation of the last arrival is over, and waits until then. R122–R125: an arrival
of a recording context takes the next index, or waits for room in the ring; in replay it takes the recorded generation, or
the context stops with code 0x0C, whose detail says how the record differs or that none is left. -/
def Obligations.WaitAndBarrierResults : Prop :=
  (∀ (s : State) (d : BitVec 5) (mask : BitVec 8) (all : Bool), s.me.overlap = [] →
    let tok (n : Nat) : Token := fget {} s.me.tokens n
    let may := if all = true then ∀ n, n < 8 → mask.getLsbD n = true → (tok n).st ≠ 1
      else mask = 0#8 ∨ ∃ n, n < 8 ∧ mask.getLsbD n = true ∧ (tok n).st ≠ 1
    let ends (n : Nat) : Prop := mask.getLsbD n = true ∧ (tok n).st ≠ 1
    (may → (∀ n, n < 8 → ends n → (tok n).st ≠ 3) → Completes (.wait d mask all) s (fun t =>
      s.OnlyMe t ∧
      t.me = { s.me with
        r := { s.me.r with s := t.me.r.s, sT := t.me.r.sT }
        tokens := t.me.tokens, nearFloor := t.me.nearFloor, wroteS := t.me.wroteS } ∧
      (∀ n, n < 8 → (ends n → fget {} t.me.tokens n = ({} : Token)) ∧ (¬ ends n → fget {} t.me.tokens n = tok n)) ∧
      s.me.nearFloor ≤ t.me.nearFloor ∧
      (∀ n, n < 8 → ends n → (tok n).st = 2 → (tok n).rel = true → (tok n).stamp ≤ t.me.nearFloor) ∧
      ∃ v : Word,
        (∀ n, n < 8 → (v.getLsbD n = true ↔ ends n ∧ (tok n).st = 2)) ∧
        (∀ n, n < 8 → (v.getLsbD (8 + n) = true ↔ ends n ∧ (tok n).st = 2 ∧ (tok n).status = 1)) ∧
        (∀ n, n < 8 → (v.getLsbD (16 + n) = true ↔ ends n ∧ (tok n).st = 2 ∧ (tok n).status = 2)) ∧
        (∀ n, 24 ≤ n → v.getLsbD n = false) ∧
        (∀ n, t.me.r.sreg n = if n = d ∧ n ≠ 0#5 then v else s.me.r.sreg n) ∧
        ∀ n, t.me.r.staint n = if n = d ∧ n ≠ 0#5 then 0#9 else s.me.r.staint n)) ∧
    (∀ n, may → n < 8 → ends n → (tok n).st = 3 → (∀ k, k < n → ends k → (tok k).st ≠ 3) →
      Completes (.wait d mask all) s (fun t =>
        s.Stopped t (engineFaultWord 0x0E 2 0 (tok n).err n) (tok n).err.addr 0 s.me.skip ∧
        ∀ k, fget {} t.me.tokens k = if k = n then {} else tok k)) ∧
    (¬ may → Completes (.wait d mask all) s (fun t => s.Stalls t (s.tokenWait mask)))) ∧
  (∀ (s : State) (a : BitVec 5) (id : BitVec 6) (scope : BitVec 3),
    let b : BarRecord := fget {} s.me.bars id.toNat
    (WellFormed.scopeOk scope = true → s.me.outstanding < 64 → s.recording s.cur = false → s.replaying s.cur = false →
      Completes (.bara a id scope) s (fun t =>
        s.OnlyMe t ∧ ∃ x : Access,
          t.me = { s.me with
            lsu := s.me.lsu ++ [.rel s.me.seq scope.toNat, .access x]
            seq := s.me.seq + 2 } ∧
          x.kind = .arrive id.toNat (max ((s.rd.sreg a).toNat % 65536) 1) scope.toNat ∧
          x.id = s.me.seq + 1 ∧ x.bundle = s.me.pc)) ∧
    (WellFormed.scopeOk scope = true → 64 ≤ s.me.outstanding →
      Completes (.bara a id scope) s (fun t => s.Stalls t .accessLimit)) ∧
    (WellFormed.scopeOk scope = true → s.me.outstanding < 64 →
      let stops (detail : Nat) : Prop := Completes (.bara a id scope) s (fun t =>
        s.Stopped t (faultWord 0x0C detail 0) (BitVec.ofNat 64 (s.replayIndex s.cur)) 0 (s.me.doneBelow 0))
      (s.MayRecord → Completes (.bara a id scope) s (fun t => ∃ (x : Access) (r : Rec),
        t.me.lsu = s.me.lsu ++ [.rel s.me.seq scope.toNat, .access x] ∧ x.rcd = some r ∧ s.TakesIndex t r ∧
        r.Says 4 0 scope.toNat (id.zeroExtend 64) 0#64 ∧ ∀ c, c ≠ s.cur → t.ctx c = s.ctx c)) ∧
      (s.RingWaits → Completes (.bara a id scope) s (fun t => s.Stalls t .manifest)) ∧
      (∀ bytes, s.Replays bytes → recordNames bytes 4 scope.toNat →
        (field bytes 8 8 = id.toNat → Completes (.bara a id scope) s (fun t => ∃ (x : Access) (r : Rec),
          t.me.lsu = s.me.lsu ++ [.rel s.me.seq scope.toNat, .access x] ∧ x.rcd = some r ∧ s.TakesRecorded t bytes r ∧
          ∀ c, c ≠ s.cur → t.ctx c = s.ctx c)) ∧
        (field bytes 8 8 ≠ id.toNat → stops 2)) ∧
      (∀ bytes, s.Replays bytes → ¬ recordNames bytes 4 scope.toNat → stops 1) ∧
      (s.ReplayEnds → stops 4)) ∧
    (barrierOver s s.cur id.toNat = true → b.arrived = true → Completes (.barw id) s (fun t =>
      let stamp := max (fget {} s.ms.barriers (barrierKey s.me.launch (coreOf s.cur) id.toNat) : Barrier).stamp b.stamp
      s.OnlyMe t ∧ s.me.nearFloor ≤ t.me.nearFloor ∧ stamp ≤ t.me.nearFloor ∧
      t.me = Ctx.retire { s.me with
        nearFloor := max s.me.nearFloor stamp, lsu := s.me.lsu ++ [.acq s.me.seq b.scope], seq := s.me.seq + 1 })) ∧
    (b.arrived = false → s.me.arriving id.toNat = false → exec (.barw id) s = .next s) ∧
    (barrierOver s s.cur id.toNat = false → Completes (.barw id) s (fun t => s.Stalls t .barrier)))

/-- R114, R115: outside deterministic mode `span` does nothing; inside it declares the engine's sets, unless they meet
another engine's, declared or of a running command: fault 0x0A, detail 1 where the write set meets the other's sets and 2 where
the read set meets its write set, with the lowest bank in common. R99, R100: `tclr` clears the mask's bits and nothing else;
`tmask` reads a mask, or the live tags, into a register. -/
def Obligations.SpanAndTaintResults : Prop :=
  (∀ (s : State) (d a : BitVec 5) (eng : BitVec 3) (opn : Bool), eng.toNat < 4 →
    let r := (s.rd.sreg d).extractLsb' 0 48
    let w := (s.rd.sreg a).extractLsb' 0 48
    let short := (s.rd.sreg d).toNat < 2 ^ 48 ∧ (s.rd.sreg a).toNat < 2 ^ 48
    let declared (n : Nat) : BitVec 48 × BitVec 48 :=
      if opn = true then (0#48, 0#48) else (fget 0#48 s.rd.spanR n, fget 0#48 s.rd.spanW n)
    let meets (o : BitVec 48 × BitVec 48) : Prop := w &&& (o.1 ||| o.2) ≠ 0#48 ∨ r &&& o.2 ≠ 0#48
    let other (o : BitVec 48 × BitVec 48) : Prop :=
      (∃ n, n < 4 ∧ n ≠ eng.toNat ∧ o = declared n) ∨ o ∈ s.runningSpans eng.toNat
    let free := ∀ o, other o → ¬ meets o
    let lowest (m : BitVec 48) (bank : Nat) : Prop := m.getLsbD bank = true ∧ ∀ n, n < bank → m.getLsbD n = false
    (s.det = false → exec (.span d a eng opn) s = .next s) ∧
    (s.det = true → short → free → Completes (.span d a eng opn) s (fun t =>
      s.OnlyMe t ∧ t.me = { s.me with r := { s.me.r with spanR := t.me.r.spanR, spanW := t.me.r.spanW } } ∧
      ∀ n, (fget 0#48 t.me.r.spanR n = if n = eng.toNat then r else if opn = true then 0#48 else fget 0#48 s.me.r.spanR n) ∧
        (fget 0#48 t.me.r.spanW n = if n = eng.toNat then w else if opn = true then 0#48 else fget 0#48 s.me.r.spanW n))) ∧
    (s.det = true → short → ¬ free → Completes (.span d a eng opn) s (fun t =>
      ∃ (o : BitVec 48 × BitVec 48) (bank : Nat), other o ∧ bank < 48 ∧
        (s.Stopped t 0x10A#64 (BitVec.ofNat 64 bank) 0 s.me.skip ∧ lowest (w &&& (o.1 ||| o.2)) bank ∨
          s.Stopped t 0x20A#64 (BitVec.ofNat 64 bank) 0 s.me.skip ∧ lowest (r &&& o.2) bank))) ∧
    (s.det = true → ¬ short → Completes (.span d a eng opn) s (fun t => s.Stopped t 0x30A#64 0#64 0 s.me.skip))) ∧
  (∀ (s : State) (a d : BitVec 5) (mask : BitVec 9) (rot : Bool),
    (a ≠ 0#5 → Completes (.tclr a 0#3 mask) s (fun t =>
      s.OnlyMe t ∧ t.me = { s.me with r := { s.me.r with sT := t.me.r.sT } } ∧
      ∀ n, t.me.r.staint n = if n = a then s.rd.staint a &&& ~~~mask else s.me.r.staint n)) ∧
    (WellFormed.predOk a = true → a ≠ 0#5 → Completes (.tclr a 1#3 mask) s (fun t =>
      s.OnlyMe t ∧ t.me = { s.me with r := { s.me.r with pT := t.me.r.pT } } ∧
      ∀ n, t.me.r.ptaint n = if n = a then s.rd.ptaint a &&& ~~~mask else s.me.r.ptaint n)) ∧
    exec (.tclr 0#5 0#3 mask) s = .next s ∧ exec (.tclr 0#5 1#3 mask) s = .next s ∧
    Completes (.tclr 0#5 2#3 mask) s (fun t =>
      s.OnlyMe t ∧ t.me = { s.me with r := { s.me.r with ctl := s.rd.ctl &&& ~~~mask } }) ∧
    Completes (.tmask d a 0#3 false) s (fun t => s.WritesS t d 0#5 ((s.rd.staint a).zeroExtend 64) 0#9) ∧
    (WellFormed.predOk a = true → Completes (.tmask d a 1#3 false) s (fun t =>
      s.WritesS t d 0#5 ((s.rd.ptaint a).zeroExtend 64) 0#9)) ∧
    Completes (.tmask d 0#5 2#3 false) s (fun t => s.WritesS t d 0#5 (s.rd.ctl.zeroExtend 64) 0#9) ∧
    Completes (.tmask d a 3#3 rot) s (fun t =>
      s.WritesS t d 0#5 ((s.rd.btaint (s.rd.bayOf (Decode.bit rot ++ a))).zeroExtend 64) 0#9) ∧
    Completes (.tmask d 0#5 4#3 false) s (fun t => ∃ v : Word, s.WritesS t d 0#5 v 0#9 ∧
      (∀ n, n < 8 → (v.getLsbD n = true ↔ (fget {} s.me.tags n : Tag).st = 1)) ∧
      v.getLsbD 8 = s.me.allPending ∧ ∀ n, 9 ≤ n → v.getLsbD n = false))

/-! ## System registers, tables and stops -/

/-- R244, R225: `getsr` writes the register as it stands at issue, with an empty mask; what the registers of the team, of its
partitions and of its last fault hold. R244, R245, R246, R8, R40: what `setsr` and `slack` write, register by register; the
tenant register is no program's to write: a permission violation, audited, that ends the launch. -/
def Obligations.SystemRegisterResults : Prop :=
  (∀ (s : State) (d n : BitVec 5), n.toNat < 26 →
    Completes (.getsr d n) s (fun t => s.WritesS t d 0#5 (s.sysReg n) 0#9) ∧
    s.sysReg 0#5 = BitVec.ofNat 64 (s.phase s.cur) ∧
    s.sysReg 2#5 = BitVec.ofNat 64 s.me.tenant ∧
    s.sysReg 3#5 = s.rd.fpctl.zeroExtend 64 ∧
    (∀ k : BitVec 5, 5 ≤ k.toNat → k.toNat ≤ 10 → s.sysReg k = fget 0#64 s.rd.xrec (k.toNat - 5)) ∧
    s.sysReg 12#5 = s.rd.lpc ∧
    s.sysReg 14#5 = BitVec.ofNat 64 s.me.man.next ∧
    s.sysReg 18#5 = s.rd.slack.zeroExtend 64 ∧
    s.sysReg 19#5 = BitVec.ofNat 64 s.me.cwbase ∧ s.sysReg 20#5 = BitVec.ofNat 64 s.me.cwlim ∧
    s.sysReg 21#5 = BitVec.ofNat 64 s.me.accbase ∧ s.sysReg 22#5 = BitVec.ofNat 64 s.me.acclim ∧
    s.sysReg 24#5 = s.me.fault ∧ s.sysReg 25#5 = s.me.faddr) ∧
  (∀ (s : State) (a : BitVec 5) (n : BitVec 8),
    let v := s.rd.sreg a
    Completes (.setsr a 3#5) s (fun t => s.OnlyMe t ∧ t.me = { s.me with r := { s.me.r with fpctl := v.extractLsb' 0 5 } }) ∧
    (∀ k : BitVec 5, 5 ≤ k.toNat → k.toNat ≤ 10 → Completes (.setsr a k) s (fun t =>
      s.OnlyMe t ∧ t.me = { s.me with r := { s.me.r with xrec := t.me.r.xrec } } ∧
      ∀ j, fget 0#64 t.me.r.xrec j =
        if j = k.toNat - 5 then v &&& 0xFFFFFFFFFFFFC07F#64 else fget 0#64 s.me.r.xrec j)) ∧
    Completes (.setsr a 12#5) s (fun t =>
      s.OnlyMe t ∧ t.me = { s.me with r := { s.me.r with lpc := v &&& 0x007FFFFFFFFFFFFC#64 } }) ∧
    Completes (.setsr a 18#5) s (fun t =>
      s.OnlyMe t ∧ t.me = { s.me with r := { s.me.r with slack := v.extractLsb' 0 8 } }) ∧
    Completes (.slack n) s (fun t => s.OnlyMe t ∧ t.me = { s.me with r := { s.me.r with slack := n } }) ∧
    Completes (.setsr a 2#5) s (fun t => s.Stopped t 0x4#64 t.me.faddr 0 s.me.skip ∧
      (t.launch s.me.launch).violated = true ∧ (t.launch s.me.launch).killing = true ∧
      t.pf.auditCounter = s.pf.auditCounter + 1))

/-- R6, R247, R280, R283, R284: table writes and reads; entries 0–7 of the operator table are fixed, and a reserved field of an
entry reads zero. -/
def Obligations.TableReadsAndWrites : Prop :=
  ∀ (s : State) (a d : BitVec 5) (index : BitVec 9), index.toNat < 16 →
    Completes (.tblw a 0#4 index) s (fun t =>
      s.OnlyMe t ∧ t.me = { s.me with r := { s.me.r with fmt := t.me.r.fmt } } ∧
      ∀ n, fget 0#32 t.me.r.fmt n = if n = index.toNat then (s.rd.sreg a).extractLsb' 0 32 else fget 0#32 s.me.r.fmt n) ∧
    (8 ≤ index.toNat → Completes (.tblw a 1#4 index) s (fun t =>
      s.OnlyMe t ∧ t.me = { s.me with r := { s.me.r with opt := t.me.r.opt } } ∧
      ∀ n, fget 0#64 t.me.r.opt n = if n = index.toNat then s.rd.sreg a else fget 0#64 s.me.r.opt n)) ∧
    Completes (.tblr d 0#4 index) s (fun t =>
      s.WritesS t d 0#5 ((fget 0#32 s.rd.fmt index.toNat &&& 0x00003FFF#32).zeroExtend 64) 0#9) ∧
    Completes (.tblr d 1#4 index) s (fun t => s.WritesS t d 0#5
      ((if index.toNat < 8 then fixedOp index.toNat else fget 0#64 s.rd.opt index.toNat) &&& 0xFFFFFFFFFFFF0FFF#64) 0#9)

/-- R250–R254, R169: the instructions that only mark, end or give up: `nop`, `rdtime`, `mark`, `yield`, `done`. R122–R125: a
`mark` takes the next index of a recording context, and in replay compares its value with the recorded one. R252, R172–R174: `trap` and `brkpt` commit and then stop the context: code 0x10 or 0x0F, the instruction's
code as detail, `slotres` 1 and the S slot's bit in `donemask`. -/
def Obligations.StopMarkAndTimeResults : Prop :=
  (∀ (s : State) (a d : BitVec 5),
    exec .nop s = .next s ∧
    Completes (.rdtime d) s (fun t => s.WritesS t d 0#5 (BitVec.ofNat 64 s.tick) 0#9) ∧
    (s.recording s.cur = false → s.replaying s.cur = false → exec (.mark a) s = .next s) ∧
    (s.MayRecord → Completes (.mark a) s (fun t =>
      t.me.man.next = s.me.man.next + 1 ∧ t.me.r = s.me.r ∧ t.me.st = s.me.st ∧ ∀ c, c ≠ s.cur → t.ctx c = s.ctx c)) ∧
    (s.RingWaits → Completes (.mark a) s (fun t => s.Stalls t .manifest)) ∧
    (∀ b, s.Replays b → recordNames b 9 0 → field b 8 8 = 0 →
      (field b 24 8 = (s.rd.sreg a).toNat → Completes (.mark a) s (fun t =>
        t.me = { s.me with man := { s.me.man with next := s.replayIndex s.cur + 1 } } ∧ ∀ c, c ≠ s.cur → t.ctx c = s.ctx c)) ∧
      (field b 24 8 ≠ (s.rd.sreg a).toNat → Completes (.mark a) s (fun t =>
        s.Stopped t (faultWord 0x0C 3 0) (BitVec.ofNat 64 (s.replayIndex s.cur)) 0 (s.me.doneBelow 0)))) ∧
    (s.ReplayEnds → Completes (.mark a) s (fun t =>
      s.Stopped t (faultWord 0x0C 4 0) (BitVec.ofNat 64 (s.replayIndex s.cur)) 0 (s.me.doneBelow 0))) ∧
    Completes .yield s (fun t => s.OnlyMe t ∧ t.me = { s.me with iss := { s.me.iss with yielding := true } }) ∧
    (s.me.overlap = [] → s.replaying s.cur = false → Completes .done s (fun t =>
      s.OnlyMe t ∧ t.me = { s.me with r := { s.me.r with loops := [] }, iss := { s.me.iss with done := true } }))) ∧
  (∀ (s : State) (code : BitVec 8),
    Completes (.trap code) s (fun t =>
      s.Stopped t (0x10#64 ||| code.zeroExtend 64 <<< 8) s.me.pc 1 (1#6 ||| s.me.skip)) ∧
    Completes (.brkpt code) s (fun t =>
      s.Stopped t (0x0F#64 ||| code.zeroExtend 64 <<< 8) s.me.pc 1 (1#6 ||| s.me.skip)))

/-- R248, R57, R180: `qpop` takes the oldest entry's word and mask and removes the entry; it waits while none is filled, and
a poisoned entry faults and stays. R249, R157, R92: `xget` reads a lane of a bay within the S slot's read window, zero-
extended; `xput` lands a lane two cycles later within its write window, and the other bits and the mask's old tags stay. -/
def Obligations.QueuePopAndLaneResults : Prop :=
  (∀ (s : State) (d : BitVec 5) (q : Bool) (word : BitVec 4) (e : QEntry) (rest : List QEntry),
    s.me.queue q = e :: rest →
    (e.filled = true → e.poison = 0 → e.overlap = none → Completes (.qpop d q word) s (fun t =>
      s.OnlyMe t ∧
      t.me = { s.me with
        r := { s.me.r with s := t.me.r.s, sT := t.me.r.sT }
        q0 := if q = true then s.me.q0 else rest
        q1 := if q = true then rest else s.me.q1
        wroteS := t.me.wroteS } ∧
      (∀ n, t.me.r.sreg n =
        if n = d ∧ n ≠ 0#5 then e.data.extractLsb' (64 * word.toNat) 64 else s.me.r.sreg n) ∧
      ∀ n, t.me.r.staint n = if n = d ∧ n ≠ 0#5 then e.mask else s.me.r.staint n)) ∧
    (e.filled = false → Completes (.qpop d q word) s (fun t => s.Stalls t .queueEmpty)) ∧
    (e.filled = true → 0 < e.poison → e.poison < 256 → e.overlap = none → Completes (.qpop d q word) s (fun t =>
      s.Stopped t (0x14#64 ||| BitVec.ofNat 64 (e.poison * 256)) t.me.faddr 0 s.me.skip))) ∧
  (∀ (s : State) (d r : BitVec 5) (bay : BitVec 6) (lane : BitVec 5) (size : BitVec 2),
    WellFormed.laneOk lane size = true →
    let b := s.rd.bayOf bay
    let bits := if size = 0#2 then 32 else if size = 1#2 then 64 else if size = 2#2 then 16 else 8
    (s.readBayCheck 0 bay = none → Completes (.xget d bay lane size) s (fun t => ∃ v : Word,
      s.WritesS t d 0#5 v (s.rd.btaint b) ∧
      (∀ n, n < 64 → v.getLsbD n = (decide (n < bits) && (s.rd.bay b).getLsbD (32 * lane.toNat + n))))) ∧
    (s.landCheck 0 bay 2 = none → Completes (.xput r bay lane size) s (fun t => ∃ v m : Bay,
      s.Leaves t 0 2 (.land b v m (s.rd.staint r) true) ∧
      ∀ n, n < 1024 → (m.getLsbD n = (decide (32 * lane.toNat ≤ n) && decide (n < 32 * lane.toNat + bits))) ∧
        (m.getLsbD n = true → v.getLsbD n = (s.rd.sreg r).getLsbD (n - 32 * lane.toNat)))) ∧
    (readWindow 0 b (s.phase s.cur) = false → Completes (.xget d bay lane size) s (fun t =>
      s.Stopped t (0x01#64 ||| BitVec.ofNat 64 (bay.toNat * 256)) s.me.pc 0 s.me.skip)) ∧
    (writeWindow 0 b (s.phase s.cur + 2) = false → Completes (.xput r bay lane size) s (fun t =>
      s.Stopped t (0x01#64 ||| BitVec.ofNat 64 ((bay.toNat + 64) * 256)) s.me.pc 0 s.me.skip)))

/-! ## The vector slots -/

/-- R257: what an operand field names in each mode: a bay, an anchor of the input's own file, the oldest entry of a queue, or
a register's low bits in every element; each with its taint mask. -/
def Obligations.VectorOperandModes : Prop :=
  ∀ (s : State) (slot input : Nat) (f : BitVec 6) (w : Nat), w = 8 ∨ w = 16 ∨ w = 32 ∨ w = 64 →
    let a := anchorNo slot input (f.toNat % 4)
    s.readOperand slot input f 0#2 w =
      { value := s.rd.bay (s.rd.bayOf f), mask := s.rd.btaint (s.rd.bayOf f) } ∧
    s.readOperand slot input f 1#2 w = { value := fget 0#1024 s.rd.a a, mask := fget 0#9 s.rd.aT a } ∧
    (∀ e rest, s.me.queue (f.getLsbD 0) = e :: rest → s.readOperand slot input f 2#2 w = { value := e.data, mask := e.mask }) ∧
    (s.readOperand slot input f 3#2 w).mask = s.rd.staint (f.extractLsb' 0 5) ∧
    ∀ n, n < 1024 → (s.readOperand slot input f 3#2 w).value.getLsbD n = (s.rd.sreg (f.extractLsb' 0 5)).getLsbD (n % w)

/-- R219, R274, R101, R157: the direct forms. `vmov` and `vzero` land in the guarded lanes six cycles later, `anc` writes an
anchor at issue, `vtclr` empties a bay's mask six cycles later. -/
def Obligations.VectorDirectForms : Prop :=
  ∀ (s : State) (u : VSlot) (dst x : BitVec 6) (xm : BitVec 2) (g : BitVec 5) (cx : Bool) (anchor : BitVec 4),
    let slot := vslot u
    let b := s.rd.bayOf dst
    let v := s.readOperand slot 0 x xm 32
    let guarded (m : Bay) : Prop := ∀ n, n < 1024 → m.getLsbD n = (s.rd.preg g).getLsbD (n / 32)
    ((Instr.vmov u dst x xm g cx).wellFormed = true → s.Readable slot x xm →
      writeWindow slot b (s.phase s.cur + 6) = true →
      Completes (.vmov u dst x xm g cx) s (fun t => ∃ p m,
        s.Takes p x xm (if cx = true then some (anchorNo slot 0 3) else none) v ∧ guarded m ∧
        p.Leaves t slot 6 (.land b (v.value &&& m) m (v.mask ||| s.rd.ptaint g) (g != 0#5)))) ∧
    ((Instr.vmov u dst x xm g cx).wellFormed = true → s.Readable slot x xm →
      writeWindow slot b (s.phase s.cur + 6) = false →
      Completes (.vmov u dst x xm g cx) s (fun t =>
        s.Stopped t (faultWord 1 (dst.toNat + 64) slot) s.me.pc slot (s.me.doneBelow slot))) ∧
    ((Instr.anc u anchor x xm).wellFormed = true → s.Readable slot x xm →
      Completes (.anc u anchor x xm) s (fun t =>
        s.Takes t x xm (some (anchorNo slot (anchor.toNat / 4) (anchor.toNat % 4))) v)) ∧
    (WellFormed.predOk g = true → writeWindow slot b (s.phase s.cur + 6) = true →
      Completes (.vzero u dst g) s (fun t => ∃ m, guarded m ∧
        s.Leaves t slot 6 (.land b 0#1024 m (s.rd.ptaint g) (g != 0#5)))) ∧
    Completes (.vtclr u dst) s (fun t => s.Leaves t slot 6 (.untaint b))

/-- R255, R256, R271, R272, R275: a cascade reads and pops its inputs, records its flags unless nx is set, captures operands,
and leaves its landing and its predicate write pending for six cycles later, in the lanes of the set that the guard or zm
selects. -/
def Obligations.VectorCascadeResults : Prop :=
  ∀ (s : State) (u : VSlot) (f : VFields) (w : CWord) (ops : List (VInput × VOperand)) (p : State),
    let slot := vslot u
    let used := VFields.used f w
    WellFormed.vfieldsOk f = true → s.cword f.cwi = some w → s.cascadeOffences f = [] → s.popGate used = .go →
    s.vectorWindows slot (if w.osel = 3 then none else some f.dst) used = none →
    State.readInputs slot w.et.width used s = .ok (ops, p) →
    let operand (n : Nat) : VOperand := ((ops.find? fun x => x.1.no = n).map (·.2)).getD {}
    let guard := s.rd.preg f.guard
    let taint := ops.foldl (fun m x => m ||| x.2.mask) (s.rd.ptaint f.guard)
    let r := runCascade w (s.modesOf w) guard (w.part (operand 0).value) (w.part (operand 1).value) (w.part (operand 2).value)
    let res := if w.osel = 1 then r.2.1 else if w.osel = 2 then r.1 else r.2.2.1
    let ty := if w.osel = 1 then w.types.2.1 else if w.osel = 2 then w.types.1 else w.types.2.2
    let value := w.place res
    let on (l : Nat) : Bool := w.hasLane l && guardBit guard ty l
    let written (l : Nat) : Bool := on l || (w.hasLane l && w.zm)
    let keeps := w.width != 2 || (f.guard != 0#5 && !w.zm)
    Completes (.vectorCascade u f) s (fun t => ∃ (v m : Bay) (pv pm : Pred),
      s.OnlyMe t ∧
      t.me = { s.me with
        r := { s.me.r with a := t.me.r.a, aT := t.me.r.aT, xrec := t.me.r.xrec }
        q0 := p.me.q0, q1 := p.me.q1
        pend := s.me.pend ++
          (if w.osel = 3 then [] else
            [{ due := s.me.iss.kappa + 6, slot := slot, seq := s.me.seq, bundle := s.me.pc
               act := .land (s.rd.bayOf f.dst) v m taint keeps }]) ++
          (if w.pwe = true then
            [{ due := s.me.iss.kappa + 6, slot := slot, seq := s.me.seq + (if w.osel = 3 then 0 else 1), bundle := s.me.pc
               act := .predWrite w.pidx.toNat pv pm taint keeps }] else [])
        seq := s.me.seq + (if w.osel = 3 then 0 else 1) + (if w.pwe = true then 1 else 0) } ∧
      (∀ n, n < 1024 → m.getLsbD n = written (n / 32) ∧ v.getLsbD n = (on (n / 32) && value.getLsbD n)) ∧
      (∀ l, l < 32 → pm.getLsbD l = written l ∧
        pv.getLsbD l = (on l && value.getLsbD (32 * (if ty = .i64 then l / 2 * 2 else l)))) ∧
      (∀ n, n ≠ slot → fget 0#64 t.me.r.xrec n = fget 0#64 s.me.r.xrec n) ∧
      (f.nx = false → (w.osel ≠ 3 ∨ w.pwe = true) →
        Recorded (fget 0#64 s.me.r.xrec slot) (fget 0#64 t.me.r.xrec slot) s.me.pc r.2.2.2) ∧
      (f.nx = true ∨ w.osel = 3 ∧ w.pwe = false → fget 0#64 t.me.r.xrec slot = fget 0#64 s.me.r.xrec slot) ∧
      (∀ n, (∀ o, o ∈ ops → o.1.capture = true → n ≠ anchorNo slot o.1.no 3) →
        fget 0#1024 t.me.r.a n = fget 0#1024 s.me.r.a n) ∧
      ∀ o, o ∈ ops → o.1.capture = true → fget 0#1024 t.me.r.a (anchorNo slot o.1.no 3) = o.2.value)

/-- R216, R258, R220: an index beyond the context's partition is fault 0x08 with the index in `faddr`; a control word that is not
legal makes the bundle illegal with reason 7. -/
def Obligations.VectorControlWordFaults : Prop :=
  ∀ (s : State) (u : VSlot) (f : VFields), WellFormed.vfieldsOk f = true →
    (s.me.cwlim - s.me.cwbase ≤ f.cwi.toNat → Completes (.vectorCascade u f) s (fun t =>
      s.Stopped t (faultWord 8 0 (vslot u)) (f.cwi.zeroExtend 64) (vslot u) (s.me.doneBelow (vslot u)))) ∧
    (∀ w, s.cword f.cwi = some w → w.legal = false → Completes (.vectorCascade u f) s (fun t =>
      s.Stopped t (faultWord 2 7 (vslot u)) s.me.pc 0 s.me.skip))

/-- R263: integer elements wrap modulo 2^width without a flag when sat is 0; when it is 1 the exact result is clipped to the
signed range and a clip sets of. No other integer operation clips or flags. -/
def Obligations.IntegerElementResults : Prop :=
  ∀ (t : VT) (m : Modes) (a b c : Nat), t.isInt = true →
    let w := t.width
    let x := intOf w a
    let y := intOf w b
    let z := intOf w c
    let lo : Int := -(2 ^ (w - 1))
    let hi : Int := 2 ^ (w - 1) - 1
    let exact : List (Nat × Int) :=
      [(0x01, x + y), (0x02, x - y), (0x03, x * y), (0x04, x * y + z), (0x05, x * y - z), (0x08, |x|), (0x09, -x)]
    (∀ e, e ∈ exact → m.sat = false →
      (elemOp t m e.1 a b c).2 = Flag.none ∧ (((elemOp t m e.1 a b c).1 : Nat) : Int) = e.2 % 2 ^ w) ∧
    (∀ e, e ∈ exact → m.sat = true → lo ≤ e.2 → e.2 ≤ hi →
      (elemOp t m e.1 a b c).2 = Flag.none ∧ (((elemOp t m e.1 a b c).1 : Nat) : Int) = e.2 % 2 ^ w) ∧
    (∀ e, e ∈ exact → m.sat = true → e.2 < lo →
      (elemOp t m e.1 a b c).2 = Flag.ovf ∧ (((elemOp t m e.1 a b c).1 : Nat) : Int) = lo % 2 ^ w) ∧
    (∀ e, e ∈ exact → m.sat = true → hi < e.2 →
      (elemOp t m e.1 a b c).2 = Flag.ovf ∧ (((elemOp t m e.1 a b c).1 : Nat) : Int) = hi) ∧
    ∀ op, (∀ e, e ∈ exact → e.1 ≠ op) → (elemOp t m op a b c).2 = Flag.none ∧
      (elemOp t { m with sat := !m.sat } op a b c).1 = (elemOp t m op a b c).1

/-! ## The matrix slot -/

/-- R277, R287, R297: `mnop` does nothing; `mwait` waits for the context's matrix work; `mrel` gives up a lease that the
context holds, which scrubs the engine for 96 cycles, and is a scale-queue fault while scales are left. R292, R293, R295,
R296: a zeroing or draining command enters the elastic buffer with its operands as they stand at issue, and its context holds
the lease. R289, R290: `mgath` and `mwld` take the lease and leave a fill of a latch or of a B buffer for the Porter or the
loader, which the latch or buffer records at once. -/
def Obligations.MatrixCommandIssue : Prop :=
  (∀ (s : State),
    let k := s.myCore
    exec .mnop s = .next s ∧
    (k.matrixBusy s.cur = false → exec .mwait s = .next s) ∧
    (k.matrixBusy s.cur = true → Completes .mwait s (fun t => s.Stalls t .matrix)) ∧
    (k.lease ≠ some s.cur → exec .mrel s = .next s) ∧
    (k.lease = some s.cur → k.matrixBusy s.cur = false → k.scales = [] → Completes .mrel s (fun t =>
      s.OnlyCore t (coreOf s.cur) ∧
      t.myCore = { k with
        lease := none, scrubEnd := s.cycle + 96
        lat := [], bbuf := [], gathers := [], loads := [], scales := [], scalePoison := false
        lastBundle := none, idleAt := [] })) ∧
    (k.lease = some s.cur → k.matrixBusy s.cur = false → k.scales ≠ [] → Completes .mrel s (fun t =>
      s.Stopped t (faultWord 6 3 3) t.me.faddr 3 (s.me.doneBelow 3)))) ∧
  (∀ (s : State) (row : BitVec 9) (m : BitVec 7) (opx ofmt : BitVec 4) (sa : BitVec 5) (dst : BitVec 6) (clr : Bool),
    let k := s.myCore
    let a := s.rd.sreg sa
    let cmd (kind : MKind) (r w : BitVec 48) : MCmd :=
      { id := k.cmdSeq, owner := s.cur, kind := kind, accbase := s.me.accbase, issue := k.et, issueK := s.me.iss.kappa
        bundle := s.me.pc, slack := s.rd.slack.toNat, tenant := s.me.tenant, phase := s.phase s.cur, spanR := r, spanW := w }
    let enters (c : MCmd) (t : State) : Prop :=
      s.OnlyCore t (coreOf s.cur) ∧
        t.myCore = { k with lease := some s.cur, cmds := k.cmds ++ [c], cmdSeq := k.cmdSeq + 1 }
    let zero := cmd (.mzero row.toNat m.toNat ((s.rd.opEntry opx.toNat).extractLsb' 32 32)) 0#48 0#48
    let drain := cmd (.mdrain row.toNat m.toNat a.toNat ofmt.toNat clr (s.rd.fpctl.extractLsb' 0 2))
      (fget 0#48 s.rd.spanR 1) (fget 0#48 s.rd.spanW 1)
    let drainb := cmd (.mdrainb row.toNat (s.rd.bayOf dst) ofmt.toNat (s.rd.fpctl.extractLsb' 0 2)) 0#48 0#48
    let ranges := [(a.toNat, m.toNat * drainBytes ofmt.toNat)]
    (WellFormed.rowsOk m = true → s.matrixOffences (.mzero row m opx) = [] → s.cmdGate zero = .go →
      Completes (.mzero row m opx) s (enters zero)) ∧
    ((Instr.mdrain row m sa ofmt clr).wellFormed = true → s.matrixOffences (.mdrain row m sa ofmt clr) = [] →
      s.zeroGate ranges = .go → s.cmdGate drain = .go → a.toNat % 16 = 0 → s.rangeBank ranges = none →
      s.rangeSpan 1 true ranges = none → s.rowPoison row.toNat m.toNat = none →
      Completes (.mdrain row m sa ofmt clr) s (enters drain)) ∧
    (WellFormed.outFormatOk ofmt = true → s.matrixOffences (.mdrainb row dst ofmt) = [] → s.cmdGate drainb = .go →
      writeWindow 3 (s.rd.bayOf dst) (s.phase s.cur + 8) = true → s.rowPoison row.toNat 1 = none →
      Completes (.mdrainb row dst ofmt) s (enters drainb)) ∧
    ((Instr.mdrain row m sa ofmt clr).wellFormed = true → s.matrixOffences (.mdrain row m sa ofmt clr) = [] →
      s.zeroGate ranges = .go → s.cmdGate drain = .go → a.toNat % 16 ≠ 0 →
      Completes (.mdrain row m sa ofmt clr) s (fun t => s.Stopped t (faultWord 5 0 3) a 3 (s.me.doneBelow 3)))) ∧
  (∀ (s : State) (lt : Bool) (ix : BitVec 6) (base : BitVec 5) (m n : BitVec 7) (fmt : BitVec 4),
    let k := s.myCore
    let which := if lt = true then 1 else 0
    let a := s.rd.sreg base
    let e : BitVec 32 := fget 0#32 s.rd.fmt fmt.toNat
    let free := k.lease = none ∨ k.lease = some s.cur
    let rows := s.gatherRows ix m.toNat
    let reads := gatherRanges a.toNat (fmtRowBytes (fmtA e)) rows
    let depth := fmtK (fmtB e) m.toNat
    let columns := weightRanges a.toNat (fmtB e) depth (columnsOf n) (fmtBs e)
    let sound (l : List (Nat × Nat)) : Prop := s.zeroGate l = .go ∧ s.rangeBank l = none ∧ s.rangeSpan 1 false l = none ∧
      s.rangePoison l = none
    (WellFormed.rowsOk m = true → s.matrixOffences (.mgath lt ix base m fmt) = [] → free → fget none k.gathers which = none →
      s.readBayCheck 3 ix = none →
      (64 < m.toNat → readWindow 3 ((s.rd.bayOf ix + 1) % 32) (s.phase s.cur) = true) →
      a.toNat % 32 = 0 → sound reads →
      Completes (.mgath lt ix base m fmt) s (fun t => ∃ f : Fill, s.OnlyCore t (coreOf s.cur) ∧
        t.myCore = { k with
          lease := some s.cur, lat := t.myCore.lat, gathers := t.myCore.gathers, fillSeq := k.fillSeq + 1 } ∧
        (∀ j, fget none t.myCore.gathers j = if j = which then some f else fget none k.gathers j) ∧
        f.owner = s.cur ∧ f.idx = rows ∧ f.base = a.toNat ∧ f.n = m.toNat ∧ f.fmt = fmtA e ∧ f.after = k.cmdSeq ∧
        ∀ j, (fget {} t.myCore.lat j : Latch) = if j = which then
          { (fget {} k.lat j : Latch) with gathered := true, af := fmtA e, scaled := fmtAs e, m := m.toNat }
          else fget {} k.lat j)) ∧
    (WellFormed.rowsOk m = true → s.matrixOffences (.mwld lt base m n fmt) = [] → free → fget none k.loads which = none →
      a.toNat % 32 = 0 → sound columns →
      Completes (.mwld lt base m n fmt) s (fun t => ∃ f : Fill, s.OnlyCore t (coreOf s.cur) ∧
        t.myCore = { k with
          lease := some s.cur, bbuf := t.myCore.bbuf, loads := t.myCore.loads, fillSeq := k.fillSeq + 1 } ∧
        (∀ j, fget none t.myCore.loads j = if j = which then some f else fget none k.loads j) ∧
        f.owner = s.cur ∧ f.base = a.toNat ∧ f.k = depth ∧ f.n = columnsOf n ∧ f.fmt = fmtB e ∧ f.after = k.cmdSeq ∧
        ∀ j, (fget {} t.myCore.bbuf j : BBuf) = if j = which then
          { (fget {} k.bbuf j : BBuf) with loaded := true, bf := fmtB e, k := depth, n := columnsOf n, scaled := fmtBs e }
          else fget {} k.bbuf j)))

/-- R286, R291, R293, R299: an `mmul` puts one command at the end of the elastic buffer of each member it runs on, with the
operator entry and the format entry of that member as they stand at issue and the literal word read at `lpc`, takes the lease,
and steps `lpc` over a literal; no other core's commands differ. All its commands take one g and the bundle of the `mmul`, and a
share begins no earlier than 32 cycles a position after the lead's first start. A member's own copy only steps `lpc`. R122: with
an arrival, the lead's command of a recording context takes the next index. -/
def Obligations.MmulIssue : Prop :=
  ∀ (s : State) (f : MmulFields) (line : List Byte),
    (Instr.mmul f).wellFormed = true →
    let lead := s.mmulLead f
    let buf : BBuf := fget {} (s.core (coreOf lead)).bbuf (if f.bb = true then 1 else 0)
    let lit := if f.sp = true then some (literalOf line s.rd.lpc) else none
    let regs (c : Nat) : Regs := if c = s.cur then s.rd else (s.ctx c).r
    let command (x : Nat × Nat) (id g earliest : Nat) : MCmd :=
      { id := id, owner := x.2, accbase := (s.ctx x.2).accbase, issue := (s.core (coreOf x.2)).et
        kind := .mmul f ((regs x.2).opEntry f.opx.toNat) (fget 0#32 (regs x.2).fmt ((regs x.2).fmtIndex f.fmt)) lit
        issueK := (s.ctx x.2).iss.kappa, bundle := s.me.pc, g := g, slack := s.rd.slack.toNat, tenant := (s.ctx x.2).tenant
        phase := s.phase x.2, buf := { k := buf.k, n := buf.n, bf := buf.bf }
        spanR := fget 0#48 (regs x.2).spanR 1, spanW := fget 0#48 (regs x.2).spanW 1
        lead := if x.1 = 0 then none else some (coreOf s.cur, s.myCore.cmdSeq), pos := x.1, earliest := earliest
        feed := if coreOf lead = coreOf x.2 then none else some (coreOf lead) }
    let stepped (t : State) : Prop :=
      t.me = { s.me with r := { s.me.r with lpc := if f.sp = true then s.rd.lpc + 4#64 else s.me.r.lpc } } ∧
        (∀ c, c ≠ s.cur → t.ctx c = s.ctx c) ∧ s.SameBytes t
    let issues := s.me.isCopy f = false ∧ s.matrixOffences (.mmul f) = [] ∧ s.literal f = .ok line ∧ s.mmulGate f = .go ∧
      s.scaleFault (s.mmulCmd f s.cur (s.mmulLead f) none) = none ∧ s.mmulPoison f = none
    (issues → s.recording s.cur = false → s.replaying s.cur = false →
      Completes (.mmul f) s (fun t => stepped t ∧
        t = { s with ctxs := t.ctxs, cores := t.cores, ms := { s.ms with ramps := t.ms.ramps } } ∧
        ∃ (g first : Nat) (own : Nat → Nat), (∀ n, own n = 0 ∨ own n = (s.core n).et + first) ∧ ∀ n,
          let here := (s.mmulMembers f).filter fun x => coreOf x.2 = n
          t.core n = { s.core n with
            cmds := (s.core n).cmds ++ here.zipIdx.map fun x =>
              command x.1 ((s.core n).cmdSeq + x.2) g (if x.1.1 = 0 then own n else (s.core n).et + first + 32 * x.1.1)
            cmdSeq := (s.core n).cmdSeq + here.length
            lease := if n = coreOf s.cur then some s.cur else (s.core n).lease })) ∧
    (issues → f.cbar ≠ 0#6 → s.MayRecord → Completes (.mmul f) s (fun t => ∃ (r : Rec) (m : MCmd),
      s.TakesIndex t r ∧ r.Says 4 3 0 (f.cbar.zeroExtend 64) 0#64 ∧ m ∈ t.myCore.cmds ∧ m.id = s.myCore.cmdSeq ∧
      m.owner = s.cur ∧ m.rcd = some r)) ∧
    (s.me.isCopy f = true → f.cbar = 0#6 → (s.me.hasShare f = true → s.mmulPoison f = none) →
      Completes (.mmul f) s (fun t => s.OnlyMe t ∧ stepped t))

/-! ## The copy slots: scratchpad forms -/

/-- R301, R305: the runs of scratchpad bytes that each form reads or writes two cycles after its issue, and where a read
delivers; at issue nothing but the pending effect is new. R306: the element addresses of the indexed forms, what is skipped,
and the one effect each leaves. -/
def Obligations.ScratchpadIssue : Prop :=
  (∀ (s : State) (c : CSlot) (w : BitVec 2) (imm : BitVec 8) (base r : BitVec 5) (v : BitVec 6),
    let slot := cslot c
    let size := if w = 1#2 then 32 else if w = 2#2 then 64 else 128
    let at_ (n : Nat) : Word := s.rd.sreg base + imm.signExtend 64 * BitVec.ofNat 64 n
    let b := s.rd.bayOf v
    (w ≠ 0#2 →
      (writeWindow slot b (s.phase s.cur + 5) = true → s.ScratchOk (at_ size) size size false →
        Completes (.ldb c w imm base v) s (fun t =>
          s.Leaves t slot 2 (.spRead [some (at_ size).toNat] size (.bay b 3 (s.rd.staint base))))) ∧
      (readWindow slot b (s.phase s.cur) = true → s.ScratchOk (at_ size) size size true →
        Completes (.stb c w imm base v) s (fun t => ∃ bytes, s.Leaves t slot 2 (.spWrite [((at_ size).toNat, bytes)]) ∧
          bytes.length = size ∧ ofBytes bytes = (s.rd.bay b).toNat % 256 ^ size)) ∧
      (s.ScratchOk (at_ size) size size true →
        Completes (.spzero c w imm base) s (fun t =>
          s.Leaves t slot 2 (.spWrite [((at_ size).toNat, List.replicate size 0#8)])))) ∧
    (s.ScratchOk (at_ 8) 8 8 false → Completes (.lds c imm base r) s (fun t =>
      s.Leaves t slot 2 (.spRead [some (at_ 8).toNat] 8 (.reg r.toNat 3 (s.rd.staint base))))) ∧
    (s.ScratchOk (at_ 8) 8 8 true → Completes (.sts c imm base r) s (fun t => ∃ bytes,
      s.Leaves t slot 2 (.spWrite [((at_ 8).toNat, bytes)]) ∧ bytes.length = 8 ∧ ofBytes bytes = (s.rd.sreg r).toNat))) ∧
  (∀ (s : State) (c : CSlot) (w es : BitVec 2) (base : BitVec 5) (ix v : BitVec 6), WellFormed.indexedOk w es = true →
    let slot := cslot c
    let size := if es = 0#2 then 4 else if es = 1#2 then 8 else if es = 2#2 then 16 else 128
    let count := (if w = 1#2 then 32 else if w = 2#2 then 64 else 128) / size
    let index (i : Nat) : Word := ((s.rd.bay (s.rd.bayOf ix)).extractLsb' (32 * i) 32).zeroExtend 64
    let at_ (i : Nat) : Option Word :=
      if index i = 0xFFFFFFFF#64 then none else some (s.rd.sreg base + BitVec.ofNat 64 size * index i)
    let sound (write : Bool) : Prop :=
      (s.rd.sreg base).toNat % size = 0 ∧ ∀ i a, i < count → at_ i = some a → s.ScratchOk a size 1 write
    readWindow slot (s.rd.bayOf ix) (s.phase s.cur) = true →
    (writeWindow slot (s.rd.bayOf v) (s.phase s.cur + 7) = true → sound false →
      Completes (.ldx c w es base ix v) s (fun t =>
        s.Leaves t slot 2 (.spRead ((List.range count).map fun i => (at_ i).map BitVec.toNat) size
          (.bay (s.rd.bayOf v) 5 (s.rd.staint base ||| s.rd.btaint (s.rd.bayOf ix)))))) ∧
    (readWindow slot (s.rd.bayOf v) (s.phase s.cur) = true → sound true →
      Completes (.stx c w es base ix v) s (fun t => ∃ parts, s.Leaves t slot 2 (.spWrite parts) ∧
        parts.map (·.1) = ((List.range count).filterMap at_).map BitVec.toNat ∧
        ∀ i a, i < count → at_ i = some a → ∃ bytes, (a.toNat, bytes) ∈ parts ∧ bytes.length = size ∧
          ofBytes bytes = (s.rd.bay (s.rd.bayOf v)).toNat / 256 ^ (size * i) % 256 ^ size)))

/-- R303, R114, R116, R158, R181: the order of the checks of the five forms that act on one run of the scratchpad: the window
of the bay that `ldb` lands in or `stb` reads, the alignment, the bank, the set of the scalar slots in deterministic mode, and,
for a read, poison. None of these forms names a token. A faulting slot leaves nothing behind. -/
def Obligations.ScratchpadFaults : Prop :=
  ∀ (s : State) (c : CSlot) (w : BitVec 2) (imm : BitVec 8) (base r : BitVec 5) (v : BitVec 6), w ≠ 0#2 →
    let slot := cslot c
    let size := accessSize w
    let lands := writeWindow slot (s.rd.bayOf v) (s.phase s.cur + 5)
    let reads := readWindow slot (s.rd.bayOf v) (s.phase s.cur)
    let stops (i : Instr) (fault addr : Word) : Prop :=
      Completes i s (fun t => s.Stopped t fault addr slot (s.me.doneBelow slot))
    let free (n : Nat) : Prop := s.zeroGate [((s.cmAddr base imm n).toNat, n)] = .go
    let run (i : Instr) (n : Nat) (write : Bool) : Prop :=
      let a := s.cmAddr base imm n
      let set := fget 0#48 (if write = true then s.rd.spanW else s.rd.spanR) 0
      let held := a.toNat + n ≤ 0x300000 ∧ s.holdsBank (bankOf a.toNat) = true ∧ s.holdsBank (bankOf (a.toNat + n - 1)) = true
      let declared := s.det = true → set.getLsbD (bankOf a.toNat) = true ∧ set.getLsbD (bankOf (a.toNat + n - 1)) = true
      (a.toNat % n ≠ 0 → stops i (faultWord 5 0 slot) a) ∧
      (a.toNat % n = 0 → ¬ held → stops i (faultWord 9 0 slot) a) ∧
      (a.toNat % n = 0 → held → ¬ declared → stops i (faultWord 0x0B 0 slot) a) ∧
      (a.toNat % n = 0 → held → declared → write = false → s.myCore.spPoisoned a.toNat n = true →
        Completes i s (fun t => s.Stopped t (faultWord 0x14 4 slot) t.me.faddr slot (s.me.doneBelow slot)))
    (free size →
      (lands = false → stops (.ldb c w imm base v) (faultWord 1 (v.toNat + 64) slot) s.me.pc) ∧
      (lands = true → run (.ldb c w imm base v) size false) ∧
      (reads = false → stops (.stb c w imm base v) (faultWord 1 v.toNat slot) s.me.pc) ∧
      (reads = true → run (.stb c w imm base v) size true) ∧
      run (.spzero c w imm base) size true) ∧
    (free 8 → run (.lds c imm base r) 8 false ∧ run (.sts c imm base r) 8 true)

/-- R307, R308: a control word and scales leave the scratchpad for the context's partition and for the scale queue. R151,
R309: banks change hands by a pending effect; `bankacq` names only banks of the team's handover set, and waits until they are
released; `bankrel` names only banks held; of the banks that offend, the lowest is reported. -/
def Obligations.TableAndBankIssue : Prop :=
  (∀ (s : State) (c : CSlot) (w : BitVec 2) (imm : BitVec 8) (base v : BitVec 5),
    let slot := cslot c
    let k := s.myCore
    let at_ (n : Nat) : Word := s.cmAddr base imm n
    let size := accessSize w
    let entry := (s.rd.sreg v).toNat % 512
    (entry < s.me.cwlim - s.me.cwbase → s.ScratchOk (at_ 32) 32 32 false → Completes (.ldcw c imm base v) s (fun t =>
      s.Leaves t slot 2 (.spRead [some (at_ 32).toNat] 32 (.word (s.me.cwbase + entry) 1)))) ∧
    (s.me.cwlim - s.me.cwbase ≤ entry → s.zeroGate [((at_ 32).toNat, 32)] = .go → Completes (.ldcw c imm base v) s (fun t =>
      s.Stopped t (faultWord 8 0 slot) (BitVec.ofNat 64 entry) slot (s.me.doneBelow slot))) ∧
    (w ≠ 0#2 → k.lease = none ∨ k.lease = some s.cur → k.scales.length + s.me.scalesInFlight.1 + size ≤ 4096 →
      s.ScratchOk (at_ size) size size false → Completes (.sclq c w imm base) s (fun t => ∃ u : State,
        s.OnlyCore u (coreOf s.cur) ∧ u.myCore = { k with lease := some s.cur } ∧
        u.Leaves t slot 2 (.scalePush (at_ size).toNat size))) ∧
    (w ≠ 0#2 → (∃ h, k.lease = some h ∧ h ≠ s.cur) → Completes (.sclq c w imm base) s (fun t => s.Stalls t .lease))) ∧
  (∀ (s : State) (c : CSlot) (v : BitVec 5),
    let slot := cslot c
    let m := (s.rd.sreg v).extractLsb' 0 48
    let outside := m &&& ~~~s.me.handover
    let all (p : Nat → Prop) : Prop := ∀ b, b < 48 → m.getLsbD b = true → p b
    (outside = 0#48 → all (fun b => s.acquirable b = true) → Completes (.bankacq c v) s (fun t =>
      s.Leaves t slot 2 (.bankAcq m))) ∧
    (outside = 0#48 → ¬ all (fun b => s.acquirable b = true) → Completes (.bankacq c v) s (fun t => s.Stalls t .bank)) ∧
    (outside ≠ 0#48 → Completes (.bankacq c v) s (fun t => ∃ b : Nat, outside.getLsbD b = true ∧
      (∀ n, n < b → outside.getLsbD n = false) ∧ s.Stopped t (faultWord 9 0 slot) (BitVec.ofNat 64 b) slot (s.me.doneBelow slot))) ∧
    (all (fun b => s.holdsBank b = true ∧ b ∉ s.banksInUse) → Completes (.bankrel c v) s (fun t =>
      s.Leaves t slot 2 (.bankRel m))) ∧
    (all (fun b => s.holdsBank b = true) → ¬ all (fun b => b ∉ s.banksInUse) → Completes (.bankrel c v) s (fun t =>
      s.Stalls t .bankUse)) ∧
    (¬ all (fun b => s.holdsBank b = true) → Completes (.bankrel c v) s (fun t => ∃ b : Nat, m.getLsbD b = true ∧
      s.holdsBank b = false ∧ (∀ n, n < b → m.getLsbD n = true → s.holdsBank n = true) ∧ s.Stopped t (faultWord 9 0 slot) (BitVec.ofNat 64 b) slot (s.me.doneBelow slot))))

/-! ## The copy slots: global forms -/

/-- R311–R313: loads and stores enter the load-store unit at the physical address their translation gives, and `pref` changes
nothing. -/
def Obligations.GlobalLoadStoreIssue : Prop :=
  ∀ (s : State) (c : CSlot) (cls tk : BitVec 4) (w : BitVec 2) (imm : BitVec 8) (base r : BitVec 5) (v : BitVec 6) (pa : Nat)
    (nb : Bool),
    let slot := cslot c
    let size := accessSize w
    let b := s.rd.bayOf v
    let enters (kind : AccKind) (va : Word) (u : Mask) (t : State) : Prop := ∃ x : Access, s.Issues t tk u x ∧
      x.kind = kind ∧ x.slot = slot ∧ x.cls = cls.toNat ∧ x.va = va ∧ x.pa = pa ∧ x.nb = nb
    let indexed := s.rd.sreg base + s.rd.sreg r + imm.signExtend 64 * 8#64
    WellFormed.tokenOk tk = true →
    (s.MayIssue slot true tk indexed 8 { rd := true } pa nb → Completes (.ldq c cls tk imm base r) s
      (enters (.load 8) indexed (s.rd.staint base ||| s.rd.staint r))) ∧
    (w ≠ 0#2 → s.MayIssue slot true tk (s.cmAddr base imm size) size { rd := true } pa nb →
      Completes (.ldqv c cls tk w imm base) s (enters (.load size) (s.cmAddr base imm size) (s.rd.staint base))) ∧
    (s.MayIssue slot false tk (s.cmAddr base imm 8) 8 { wr := true } pa nb → Completes (.stq c cls tk imm base r) s
      (enters (.store (toBytes 8 (s.rd.sreg r).toNat)) (s.cmAddr base imm 8) (s.rd.staint base ||| s.rd.staint r))) ∧
    (w ≠ 0#2 → readWindow slot b (s.phase s.cur) = true →
      s.MayIssue slot false tk (s.cmAddr base imm size) size { wr := true } pa nb →
      Completes (.stqv c cls tk w imm base v) s (enters (.store (toBytes size (s.rd.bay b).toNat)) (s.cmAddr base imm size)
        (s.rd.staint base ||| s.rd.btaint b))) ∧
    exec (.pref c imm base) s = .next s

/-- R104, R107, R314, R315: the atomics enter the load-store unit with their operand cut to their size; with `rel` set a
waiting mixed-size overlap would be raised first. R122–R125: outside deterministic mode, an `atom` of a recording context takes
the next index, or waits for room in the ring; in replay it takes the recorded order, or stops the context with code 0x0C. -/
def Obligations.AtomicIssue : Prop :=
  ∀ (s : State) (c : CSlot) (cls tk aop : BitVec 4) (scope : BitVec 3) (rel acq : Bool) (size et : BitVec 2) (base r : BitVec 5)
    (v : BitVec 6) (pa : Nat) (nb : Bool),
    let slot := cslot c
    let n := if size = 0#2 then 4 else if size = 1#2 then 8 else 16
    let va := s.rd.sreg base
    let operand := (s.rd.sreg r).toNat % 256 ^ n
    let b := s.rd.bayOf v
    let enters (kind : AccKind) (u : Mask) (a l : Bool) (sc : Nat) (t : State) : Prop := ∃ x : Access, s.Issues t tk u x ∧
      x.kind = kind ∧ x.slot = slot ∧ x.cls = cls.toNat ∧ x.va = va ∧ x.pa = pa ∧ x.nb = nb ∧ x.acq = a ∧ x.rel = l ∧ x.scope = sc
    (rel = true → s.me.overlap = []) →
    ((Instr.atom c cls tk scope rel acq size aop base r).wellFormed = true → s.det = false →
      s.MayEnter slot false tk va n { wr := true, at' := true } pa nb →
      let i := Instr.atom c cls tk scope rel acq size aop base r
      let enters (recorded : State → Rec → Prop) : Prop := Completes i s (fun t => ∃ (x : Access) (q : Rec),
        t.me.lsu = s.me.lsu ++ [.access x] ∧ x.kind = .atomic aop.toNat n (BitVec.ofNat 64 operand) false ∧ x.pa = pa ∧
        x.rcd = some q ∧ recorded t q ∧ ∀ d, d ≠ s.cur → t.ctx d = s.ctx d)
      let stops (detail : Nat) : Prop := Completes i s (fun t =>
        s.Stopped t (faultWord 0x0C detail slot) (BitVec.ofNat 64 (s.replayIndex s.cur)) slot (s.me.doneBelow slot))
      (s.MayRecord → enters fun t q => s.TakesIndex t q ∧ q.Says 2 slot 0 va (BitVec.ofNat 64 operand)) ∧
      (s.RingWaits → Completes i s (fun t => s.Stalls t .manifest)) ∧
      (∀ bytes, s.Replays bytes →
        (recordNames bytes 2 0 → field bytes 8 8 = va.toNat → field bytes 24 8 = operand →
          enters fun t q => s.TakesRecorded t bytes q) ∧
        (¬ recordNames bytes 2 0 → stops 1) ∧
        (recordNames bytes 2 0 → field bytes 8 8 ≠ va.toNat → stops 2) ∧
        (recordNames bytes 2 0 → field bytes 8 8 = va.toNat → field bytes 24 8 ≠ operand → stops 3)) ∧
      (s.ReplayEnds → stops 4)) ∧
    ((Instr.atom c cls tk scope rel acq size aop base r).wellFormed = true →
      s.MayIssue slot false tk va n { wr := true, at' := true } pa nb →
      Completes (.atom c cls tk scope rel acq size aop base r) s
        (enters (.atomic aop.toNat n (BitVec.ofNat 64 operand) false) (s.rd.staint base ||| s.rd.staint r) acq rel scope.toNat)) ∧
    ((Instr.atomr c cls tk scope rel acq size aop base r).wellFormed = true →
      s.MayIssue slot true tk va n { rd := true, wr := true, at' := true } pa nb →
      Completes (.atomr c cls tk scope rel acq size aop base r) s
        (enters (.atomic aop.toNat n (BitVec.ofNat 64 operand) true) (s.rd.staint base ||| s.rd.staint r) acq rel scope.toNat)) ∧
    ((Instr.cas c cls tk scope rel acq size base r).wellFormed = true →
      s.MayIssue slot true tk va n { rd := true, wr := true, at' := true } pa nb →
      Completes (.cas c cls tk scope rel acq size base r) s (fun t => ∃ cmp new u,
        enters (.cas n cmp new) (s.rd.staint base ||| u) acq rel scope.toNat t ∧
        (n ≠ 16 → cmp = (s.rd.sreg r).toNat % 256 ^ n ∧ new = (s.rd.sreg (r + 1#5)).toNat % 256 ^ n ∧
          u = s.rd.staint r ||| s.rd.staint (r + 1#5)) ∧
        (n = 16 → cmp = (s.rd.sreg r).toNat + (s.rd.sreg (r + 1#5)).toNat * 2 ^ 64 ∧
          new = (s.rd.sreg (r + 2#5)).toNat + (s.rd.sreg (r + 3#5)).toNat * 2 ^ 64))) ∧
    ((Instr.atomv c cls tk et aop base v).wellFormed = true → readWindow slot b (s.phase s.cur) = true →
      s.MayIssue slot false tk va 128 { wr := true, at' := true } pa nb →
      Completes (.atomv c cls tk et aop base v) s
        (enters (.row aop.toNat et.toNat (s.rd.bay b)) (s.rd.staint base ||| s.rd.btaint b) false false 0))

/-- R303, R25–R27, R177, R71, R156: where the four loads and stores and an `atomr` stop, in the order of the checks, and where
they wait: a bay outside its window, a busy token, an address that is misaligned, does not translate or has a walk outstanding, a
full load-store unit or queue. -/
def Obligations.GlobalAccessStopsAndWaits : Prop :=
  ∀ (s : State) (c : CSlot) (cls tk aop : BitVec 4) (scope : BitVec 3) (rel acq : Bool) (w width : BitVec 2) (imm : BitVec 8)
    (base r : BitVec 5) (v : BitVec 6),
    WellFormed.tokenOk tk = true → w ≠ 0#2 →
    let slot := cslot c
    let size := accessSize w
    let busy := tk.toNat < 8 ∧ (fget {} s.me.tokens tk.toNat : Token).st = 1
    let stops (i : Instr) (fault addr : Word) : Prop :=
      Completes i s (fun t => s.Stopped t fault addr slot (s.me.doneBelow slot))
    let access (i : Instr) (tagged : Bool) (a : Word) (align : Nat) (need : Need) : Prop :=
      let room := s.me.outstanding < 64 ∧ (tagged = true → (s.me.queue (slot = 5)).length < 32)
      let check := s.check (coreOf s.cur) s.me.tenant s.me.walkFail a need
      (64 ≤ s.me.outstanding → Completes i s (fun t => s.Stalls t .accessLimit)) ∧
      (s.me.outstanding < 64 → tagged = true → 32 ≤ (s.me.queue (slot = 5)).length →
        Completes i s (fun t => s.Stalls t .queueFull)) ∧
      (room → busy → Completes i s (fun t =>
        s.Stopped t (faultWord 0x0E 1 slot) t.me.faddr slot (s.me.doneBelow slot))) ∧
      (room → ¬ busy → a.toNat % align ≠ 0 → stops i (faultWord 5 0 slot) a) ∧
      (∀ code reason, room → ¬ busy → a.toNat % align = 0 → check = .fault code reason →
        stops i (faultWord code reason slot) a) ∧
      (room → ¬ busy → a.toNat % align = 0 → check = .miss → Completes i s (fun t =>
        t.me = { s.me with asked := some (a.toNat / 0x10000), iss := { s.me.iss with cause := some .walk } } ∧
        (∀ d, d ≠ s.cur → t.ctx d = s.ctx d) ∧ s.SameBytes t ∧
        ∃ q, q ∈ (t.quarter (quarterOf (coreOf s.cur))).walks ∧ q.tenant = s.me.tenant ∧ q.page = a.toNat / 0x10000)) ∧
      (2 ^ 55 ≤ a.toNat → check = .fault 3 1)
    let indexed := s.rd.sreg base + s.rd.sreg r + imm.signExtend 64 * 8#64
    let store := Instr.stqv c cls tk w imm base v
    let atomic := Instr.atomr c cls tk scope rel acq width aop base r
    access (.ldq c cls tk imm base r) true indexed 8 { rd := true } ∧
    access (.ldqv c cls tk w imm base) true (s.cmAddr base imm size) size { rd := true } ∧
    access (.stq c cls tk imm base r) false (s.cmAddr base imm 8) 8 { wr := true } ∧
    (readWindow slot (s.rd.bayOf v) (s.phase s.cur) = true →
      access store false (s.cmAddr base imm size) size { wr := true }) ∧
    (readWindow slot (s.rd.bayOf v) (s.phase s.cur) = false → s.me.outstanding < 64 →
      stops store (faultWord 1 v.toNat slot) s.me.pc) ∧
    (atomic.wellFormed = true → s.recording s.cur = false → s.replaying s.cur = false → (rel = true → s.me.overlap = []) →
      access atomic true (s.rd.sreg base) (atomSize width) { rd := true, wr := true, at' := true })

/-- R73–R75: the fences enter the load-store unit in program order and go when nothing is left for them to hold; `fence.s`
holds the bundle while an earlier access has not performed, or at scope 5 is not far done. R77, R321: the four ticket operations
are accesses of the Quarter's scope: reserve and take acquire and return a slot number; post and free come after a `rel`. -/
def Obligations.FenceAndTicketIssue : Prop :=
  (∀ (s : State) (c : CSlot) (mask : BitVec 16) (scope : BitVec 3), s.me.overlap = [] →
    let added (item : LsuItem) (t : State) : Prop :=
      s.OnlyMe t ∧ t.me = Ctx.retire { s.me with lsu := s.me.lsu ++ [item], seq := s.me.seq + 1 } ∧
        (s.me.lsu = [] → s.me.far = [] → t.me.lsu = [])
    let answered := scope = 5#3 → s.me.far = []
    let earlier (a : Access) : Prop := .access a ∈ s.me.lsu ∧ a.global = true ∧ s.fromThisBundle a = false
    Completes (.fenceC c mask) s (added (.fenceC s.me.seq mask)) ∧
    (WellFormed.scopeOk scope = true →
      Completes (.acq c scope) s (added (.acq s.me.seq scope.toNat)) ∧
      Completes (.rel c scope) s (added (.rel s.me.seq scope.toNat)) ∧
      ((∃ a, earlier a) ∨ ¬ answered → Completes (.fenceS c scope) s (fun t => s.Stalls t .fenceS)) ∧
      (answered → (∀ a, .access a ∉ s.me.lsu) → exec (.fenceS c scope) s = .next s) ∧
      (answered → (∀ a, ¬ earlier a) → Completes (.fenceS c scope) s (fun t => s.OnlyMe t ∧
        (t.me = s.me ∨ t.me = { s.me with fenceWait := some s.me.seq, fenceFar := decide (scope = 5#3) }))))) ∧
  (∀ (s : State) (c : CSlot) (cls : BitVec 4) (base r : BitVec 5) (pa : Nat) (nb : Bool),
    let slot := cslot c
    let va := s.rd.sreg base
    let released := s.modMe fun y => { y with lsu := y.lsu ++ [.rel y.seq 4], seq := y.seq + 1 }
    let enters (op : Nat) (value : Word) (u : Mask) (a l : Bool) (t : State) : Prop := ∃ x : Access,
      (if l = true then released else s).Issues t 8#4 u x ∧ x.kind = .ticket op value r.toNat ∧ x.slot = slot ∧ x.cls = cls.toNat ∧ x.va = va ∧ x.pa = pa ∧ x.acq = a ∧ x.rel = l ∧
      x.scope = 4
    s.MayIssue slot false 8#4 va 64 { rd := true, wr := true, at' := true } pa nb →
    Completes (.tkpost c cls base r) s (enters 1 (s.rd.sreg r) (s.rd.staint base ||| s.rd.staint r) false true) ∧
    Completes (.tkfree c cls base r) s (enters 3 (s.rd.sreg r) (s.rd.staint base ||| s.rd.staint r) false true) ∧
    Completes (.tkres c cls base r) s (fun t => ∃ u, enters 0 0#64 (s.rd.staint base) true false u ∧
      t = u.modMe fun y => { y with ticketWait := s.me.ticketWait ++ [s.me.seq] }) ∧
    Completes (.tktake c cls base r) s (fun t => ∃ u, enters 2 0#64 (s.rd.staint base) true false u ∧
      t = u.modMe fun y => { y with ticketWait := s.me.ticketWait ++ [s.me.seq] }))

/-- R34, R316–R319: an engine command is put into its dray, or into the place behind a running one, and its token is busy; a
third command waits. What `xcp` takes from its four registers. R122: an `xcoll` of a recording context takes the next index.
R178, R320: `xcan` cancels the command of its own dray that the token names. A waiting one is dropped and its token done with
status CANCELLED; a running one that has not started goes likewise, and one that has started is to stop between two lines with
that status, its token busy until then; with a running one the context's own waiting command is discarded too, done with status
CANCELLED. Where no command of the context has the token, nothing happens. -/
def Obligations.DrayCommandIssue : Prop :=
  (∀ (s : State) (c : CSlot) (tk scope : BitVec 3) (rel acq : Bool) (base : BitVec 5),
    WellFormed.flagScopeOk scope rel acq = true → (fget {} s.me.tokens tk.toNat : Token).st ≠ 1 →
    let core := coreOf s.cur
    let d := cslot c - 4
    let dray := s.myCore.dray d
    let a := s.rd.sreg base
    let room := dray.frozen = false ∧ (dray.running = none ∨ dray.shadow = none)
    let rowOk := a.toNat % 64 = 0 ∧ s.bankFault a 64 = none
    let enters (kind : Nat) (x : DrayCmd) (t : State) : Prop :=
      x.kind = kind ∧ x.owner = s.cur ∧ x.token = tk.toNat ∧ x.issueK = s.me.iss.kappa ∧ x.issueSeq = s.me.seq ∧
      x.acq = acq ∧ x.rel = rel ∧ x.scope = scope.toNat ∧ x.started = false ∧
      t.me = { s.me with tokens := t.me.tokens } ∧
      (∀ n, (fget {} t.me.tokens n : Token) = if n = tk.toNat then { st := 1, owner := d + 1, rel := rel, scope := scope.toNat }
        else fget {} s.me.tokens n) ∧
      (∀ n, n ≠ s.cur → t.ctx n = s.ctx n) ∧ (∀ n, n ≠ core → t.core n = s.core n) ∧ s.SameBytes t ∧
      t.core core = { s.myCore with drays := (t.core core).drays } ∧
      (∀ n, n ≠ d → (t.core core).dray n = s.myCore.dray n) ∧
      (t.core core).dray d =
        if dray.running = none then { dray with running := some x } else { dray with shadow := some x }
    (base.toNat ≤ 28 → room → Completes (.xcp c tk scope rel acq base) s (fun t => ∃ x, enters 0 x t ∧
      x.src = a ∧ x.dst = s.rd.sreg (base + 1#5) ∧ x.len = s.rd.sreg (base + 2#5) ∧ x.flags = s.rd.sreg (base + 3#5) ∧
      x.zero = x.flags.getLsbD 0 ∧ x.bad = xcpBad x.src x.dst x.len x.flags)) ∧
    (room → rowOk → Completes (.xcp2 c tk scope rel acq base) s (fun t => ∃ x, enters 1 x t ∧ x.row = a.toNat)) ∧
    (room → rowOk → s.recording s.cur = false → s.replaying s.cur = false →
      Completes (.xcoll c tk scope rel acq base) s (fun t => ∃ x, enters 2 x t ∧ x.row = a.toNat ∧ x.rcd = none)) ∧
    (room → rowOk → s.MayRecord → Completes (.xcoll c tk scope rel acq base) s (fun t => ∃ (x : DrayCmd) (r : Rec),
      x.kind = 2 ∧ x.row = a.toNat ∧ x.rcd = some r ∧ r.type = 7 ∧ r.slot = cslot c ∧ s.TakesIndex t r ∧
      (t.core core).dray d = if dray.running = none then { dray with running := some x } else { dray with shadow := some x })) ∧
    (room → s.RingWaits → Completes (.xcoll c tk scope rel acq base) s (fun t => s.Stalls t .manifest)) ∧
    (base.toNat ≤ 28 → ¬ room → Completes (.xcp c tk scope rel acq base) s (fun t => s.Stalls t .shadow)) ∧
    (room → a.toNat % 64 ≠ 0 → Completes (.xcp2 c tk scope rel acq base) s (fun t =>
      s.Stopped t (faultWord 5 0 (cslot c)) a (cslot c) (s.me.doneBelow (cslot c))))) ∧
  (∀ (s : State) (c : CSlot) (tk : BitVec 3),
    let d := cslot c - 4
    let core := coreOf s.cur
    let x := s.myCore.dray d
    let mine (y : DrayCmd) : Prop := y.owner = s.cur ∧ y.token = tk.toNat
    let cancelled (n : Nat) (t : State) : Prop := (fget {} t.me.tokens n : Token).st = 2 ∧ (fget {} t.me.tokens n : Token).status = 2
    let kept (p : Nat → Prop) (t : State) : Prop := ∀ n, ¬ p n → fget {} t.me.tokens n = (fget {} s.me.tokens n : Token)
    let only (t : State) : Prop := t.me = { s.me with tokens := t.me.tokens } ∧ (∀ n, n ≠ d → (t.core core).dray n = s.myCore.dray n) ∧
      s.SameBytes t
    let own (y : DrayCmd) : Prop := x.shadow = some y ∧ y.owner = s.cur ∧ y.token ≠ tk.toNat
    let others : Prop := ∀ y, x.shadow = some y → y.owner ≠ s.cur
    ((∀ y, x.running = some y ∨ x.shadow = some y → ¬ mine y) → exec (.xcan c tk) s = .next s) ∧
    (∀ y z, x.shadow = some y → x.running = some z → mine y → Completes (.xcan c tk) s (fun t => cancelled tk.toNat t ∧
      (t.core core).dray d = { x with shadow := none } ∧ only t ∧ kept (fun n => n = tk.toNat) t)) ∧
    (∀ z, x.running = some z → mine z → z.ending = none → z.started = false ∨ z.bad = true →
      (others → Completes (.xcan c tk) s (fun t => cancelled tk.toNat t ∧
        (t.core core).dray d = { x with running := x.shadow, shadow := none } ∧ only t ∧ kept (fun n => n = tk.toNat) t)) ∧
      ∀ y, own y → Completes (.xcan c tk) s (fun t => cancelled tk.toNat t ∧ cancelled y.token t ∧
        (t.core core).dray d = { x with running := none, shadow := none } ∧ only t ∧
        kept (fun n => n = tk.toNat ∨ n = y.token) t)) ∧
    (∀ z, x.running = some z → mine z → z.ending = none → z.started = true → z.bad = false →
      let stopping : DrayCmd := { z with ending := some (.done 2) }
      (others → Completes (.xcan c tk) s (fun t =>
        (t.core core).dray d = { x with running := some stopping } ∧ only t ∧ kept (fun _ => False) t)) ∧
      ∀ y, own y → Completes (.xcan c tk) s (fun t => cancelled y.token t ∧
        (t.core core).dray d = { x with running := some stopping, shadow := none } ∧ only t ∧ kept (fun n => n = y.token) t)))

/-! ## Events of a context -/

/-- R140, R143, R156, R164, R168, R169, R174: what an offer of the issue comes to, whom the selector chooses, who offers again
where it can choose none, and the forced yield. Of the contexts that gave up the width in this cycle only the last is passed over
(assumption log, 16: the rule leaves this open). -/
def Obligations.IssueEvents : Prop :=
  ∀ (s : State) (c core d : Nat) (u : State) (w : Wait) (word : BitVec 256) (l : List (Nat × Instr)),
    let x := s.ctx c
    let k := s.core core
    let due := s.offered (coreOf c) = some c ∧ x.iss.cause.isSome = true
    (¬ due → exec (.bundleReoffer c) s = .next s) ∧
    (due → x.iss.yielding = true → Completes (.bundleReoffer c) s (fun t =>
      (∀ n, n ≠ c → t.ctx n = s.ctx n) ∧ t.ctx c = { x with iss := { x.iss with cause := some .width, yielding := false } } ∧
        (∀ n, n ≠ coreOf c → t.core n = s.core n) ∧
        t.core (coreOf c) = { s.core (coreOf c) with width := none, giver := some c, offerAt := s.cycle } ∧ s.SameBytes t)) ∧
    (due → x.iss.yielding = false → (s.taken c).front = .wait w u → Completes (.bundleReoffer c) s (fun t =>
      (∀ n, n ≠ c → t.ctx n = s.ctx n) ∧ (t.ctx c).iss.cause = some w ∧ (t.ctx c).r = x.r ∧ (t.ctx c).pend = x.pend ∧
        (t.ctx c).bundles = x.bundles ∧ (t.core (coreOf c)).width = none ∧ s.SameBytes t)) ∧
    (due → x.iss.yielding = false → (s.taken c).front = .issue u word l →
      let v := ((u.point word).modMe fun y => { y with words := word, fenceWait := none, fenceFar := false }).runSlots l
      exec (.bundleReoffer c) s = .next (if v.me.st = .resident then v.complete else v.stopped)) ∧
    (s.selection core = none → s.reoffer core = none → exec (.issueSelection core) s = .next s) ∧
    (s.selection core = none → s.reoffer core = some d →
      k.width = none ∧ k.giver = some d ∧ k.offerAt = s.cycle ∧
      Completes (.issueSelection core) s (fun t =>
        t = { s with cores := t.cores } ∧ (∀ n, n ≠ core → t.core n = s.core n) ∧
          t.core core = { k with width := some d, giver := none, offerAt := s.cycle + s.turnDelay d })) ∧
    (s.selection core = some d →
      k.width = none ∧ k.frozen = false ∧ d ∈ contextsOf core ∧ s.ready d = true ∧ (k.giver = some d → k.offerAt ≠ s.cycle) ∧
      (∀ e, e ∈ contextsOf core → s.ready e = true → (k.giver = some e → k.offerAt ≠ s.cycle) →
        s.classOf e ≤ s.classOf d ∧ (s.classOf e = s.classOf d → s.gapOf d ≤ s.gapOf e)) ∧
      Completes (.issueSelection core) s (fun t =>
        t = { s with cores := t.cores, quarters := t.quarters } ∧ (∀ n, n ≠ core → t.core n = s.core n) ∧
          t.core core = { k with width := some d, giver := none, lastHeld := some d, offerAt := s.cycle + s.issueDelay d })) ∧
    (4096 ≤ x.iss.turns → s.phase c = 0 → x.st = .resident → Completes (.forcedYield c) s (fun t =>
      s.OnlyCtx t c ∧ t.ctx c = { x with iss := { x.iss with yielding := true, turns := 0 } })) ∧
    (x.iss.turns < 4096 ∨ s.phase c ≠ 0 ∨ x.st ≠ .resident → exec (.forcedYield c) s = .next s)

/-- R21, R27, R62–R64, R125, R355: a missing line arrives for the context that waits for it, once no write has left a bundle of it
in the middle, or its fetch fails, or its page is asked of the walker; an engine's watchpoint report and an overdue replayed
operation stop their context, one whose core has failed once it has moved, and what replay holds is withdrawn. That a poisoned line
fails the fetch with code 0x14 and detail 2, and memory that is not there with detail 3, is the model's choice (assumption log,
30). -/
def Obligations.FetchAndStopEvents : Prop :=
  ∀ (s : State) (c pa code detail i : Nat) (nb : Bool) (va : Word) (r : Report),
    let x := s.ctx c
    let core := coreOf c
    let key := plazaKey core x.tenant va.toNat
    let asks := x.iss.cause = some .fetch ∧ s.fetchNeed c = some va
    let check := s.check core x.tenant x.walkFail va { ex := true }
    let fills (line : List Byte) (t : State) : Prop :=
      t.fetched c va = .ok line ∧ (t.ctx c).iss.cause = none ∧ (t.ctx c).r = x.r ∧ (t.ctx c).pc = x.pc ∧ t.mem = s.mem ∧
        (∀ n, n ≠ c → t.ctx n = s.ctx n)
    let fails (code detail : Nat) (t : State) : Prop :=
      t.fetched c va = .fault code detail ∧ (t.ctx c).iss.cause = none ∧ (∀ n, n ≠ c → t.ctx n = s.ctx n)
    (x.iss.cause ≠ some .fetch ∨ s.fetchNeed c = none → exec (.fetchFill c) s = .next s) ∧
    (asks → check = .ok pa nb →
      (∀ line, ffind s.ms.plaza key = some (pa / 128, line) → Completes (.fetchFill c) s (fills line)) ∧
      ((∀ line, ffind s.ms.plaza key ≠ some (pa / 128, line)) →
        (s.backed pa = true → s.poisoned pa = false →
          (s.halfWritten (pa / 128 * 128) 128 = false →
            Completes (.fetchFill c) s (fills (mread s.mem (pa / 128 * 128) 128))) ∧
          (s.halfWritten (pa / 128 * 128) 128 = true → exec (.fetchFill c) s = .next s)) ∧
        (s.backed pa = true → s.poisoned pa = true → Completes (.fetchFill c) s (fails 0x14 2)) ∧
        (s.backed pa = false → Completes (.fetchFill c) s (fails 0x14 3)))) ∧
    (asks → check = .fault code detail → Completes (.fetchFill c) s (fails code detail)) ∧
    (asks → check = .miss → Completes (.fetchFill c) s (fun t => (∀ n, n ≠ c → t.ctx n = s.ctx n) ∧
      t.ctx c = { x with asked := some (va.toNat / 0x10000) } ∧ s.SameBytes t ∧
      ∃ q, q ∈ (t.quarter (quarterOf core)).walks ∧ q.tenant = x.tenant ∧ q.page = va.toNat / 0x10000)) ∧
    ((x.reports.find? fun r => r.code = 0x11) = some r → x.st = .resident → Completes (.watchpointImpreciseStop c) s (fun t =>
      s.Halts t c (engineFaultWord 0x11 r.detail 0 { engid := r.engid } 0) r.addr ∧ (t.ctx c).reports = dropReport r x.reports)) ∧
    ((x.reports.find? fun r => r.code = 0x11) = none → exec (.watchpointImpreciseStop c) s = .next s) ∧
    (s.overdue c = some i → x.st = .resident ∨ x.st = .saving ∨ x.st = .held → Completes (.replayTimeout c) s (fun t =>
      s.Halts t c (faultWord 0x0C 6 0) (BitVec.ofNat 64 i) ∧ (t.ctx c).lsu = withdrawn x.lsu)) ∧
    (s.overdue c = some i → x.st = .frozen → Completes (.replayTimeout c) s (fun t =>
      t.ctx c = { x with lsu := withdrawn x.lsu, doom := (0x0C, 6, 0, BitVec.ofNat 64 i) :: x.doom } ∧
        (∀ n, n ≠ c → t.ctx n = s.ctx n) ∧ s.SameBytes t)) ∧
    (∀ y : Access, .access y ∈ withdrawn x.lsu → LsuItem.replayed (.access y) = false) ∧
    (s.overdue c = none → exec (.replayTimeout c) s = .next s)

/-- R92, R101, R159, R160: what is due for a bay lands in the bits it writes, with its mask; of two landings the higher slot's is
kept, then the later-issued one, and the other sets its slot's lost-landing flag; what is not due lands nothing. -/
def Obligations.BayLandings : Prop :=
  ∀ (s : State) (c bay : Nat) (kept lost : Pending) (v bits : Bay) (m : Mask) (unite : Bool),
    let x := s.ctx c
    let due (f : Action → Bool) : List Pending := x.pend.filter fun y => f y.act && s.acts c y
    let cleared := due (Action.clears bay)
    let lands (t : State) : Prop :=
      let y := t.ctx c
      s.OnlyCtx t c ∧
        y = { x with
          r := { x.r with b := y.r.b, bT := y.r.bT, xrec := y.r.xrec }
          pend := x.pend.filter fun y => !((y.act.landsIn bay || y.act.clears bay) && s.acts c y) } ∧
        ∀ n, n ≠ bay → y.r.bay n = x.r.bay n ∧ y.r.btaint n = x.r.btaint n
    let holds (t : State) : Prop := lands t ∧
      (t.ctx c).r.bay bay = (x.r.bay bay &&& ~~~bits) ||| (v &&& bits) ∧
      (t.ctx c).r.btaint bay = if cleared ≠ [] then 0#9 else if unite = true then x.r.btaint bay ||| m else m
    (due (Action.landsIn bay) = [] → cleared = [] → exec (.bayLanding c bay) s = .next s) ∧
    (due (Action.landsIn bay) = [] → cleared ≠ [] → Completes (.bayLanding c bay) s (fun t =>
      lands t ∧ (t.ctx c).r.bay bay = x.r.bay bay ∧ (t.ctx c).r.btaint bay = 0#9 ∧ (t.ctx c).r.xrec = x.r.xrec)) ∧
    (kept.act = .land bay v bits m unite →
      (due (Action.landsIn bay) = [kept] → Completes (.bayLanding c bay) s (fun t =>
        holds t ∧ (t.ctx c).r.xrec = x.r.xrec)) ∧
      (due (Action.landsIn bay) = [kept, lost] ∨ due (Action.landsIn bay) = [lost, kept] →
        lost.slot < kept.slot ∨ (lost.slot = kept.slot ∧ lost.seq < kept.seq) → Completes (.bayLanding c bay) s (fun t =>
        holds t ∧ (∀ n, n ≠ lost.slot → fget 0#64 (t.ctx c).r.xrec n = fget 0#64 x.r.xrec n) ∧
          Recorded (fget 0#64 x.r.xrec lost.slot) (fget 0#64 (t.ctx c).r.xrec lost.slot) lost.bundle Flag.ll)))

/-- R91, R211, R272, R305, R321: the register of an `lds`, the predicate of a vector slot and the slot number of a ticket
operation arrive; of two results that are due together the higher slot's is kept, then the later-issued one, and the other sets
its slot's lost-landing flag; the later slot's result is kept where the S slot wrote the same one in this cycle, whose own is
lost whole, and the S slot's record sets lost landing. The address that this record takes is that of the bundle last issued
(R176; assumption log, 35). -/
def Obligations.RegisterAndPredicateLandings : Prop :=
  ∀ (s : State) (c d id dest : Nat) (p q : Pending) (v w : Word) (pv bits : Pred) (m : Mask) (unite : Bool)
    (l : List (Nat × Nat × Word)), d < 32 →
    let x := s.ctx c
    let due (f : Action → Bool) : List Pending := x.pend.filter fun y => f y.act && s.acts c y
    let others (f : Action → Bool) : List Pending := x.pend.filter fun y => !(f y.act && s.acts c y)
    let before : Pred × Mask := fget (x.r.preg (BitVec.ofNat 5 d), x.r.ptaint (BitVec.ofNat 5 d)) x.wroteP d
    let beats := q.slot < p.slot ∨ q.slot = p.slot ∧ q.seq < p.seq
    let loses (t : State) : Prop :=
      Recorded (fget 0#64 x.r.xrec q.slot) (fget 0#64 (t.ctx c).r.xrec q.slot) q.bundle Flag.ll ∧
        ∀ n, n ≠ q.slot → fget 0#64 (t.ctx c).r.xrec n = fget 0#64 x.r.xrec n
    let writes (t : State) : Prop :=
      let y := t.ctx c
      s.OnlyCtx t c ∧
        y = { x with r := { x.r with s := y.r.s, sT := y.r.sT, xrec := y.r.xrec }, pend := others (Action.writesReg d) } ∧
        ∀ n : BitVec 5, y.r.sreg n = (if n.toNat = d ∧ d ≠ 0 then v else x.r.sreg n) ∧
          y.r.staint n = (if n.toNat = d ∧ d ≠ 0 then m else x.r.staint n)
    let writesP (t : State) : Prop :=
      let y := t.ctx c
      s.OnlyCtx t c ∧
        y = { x with
          r := { x.r with p := y.r.p, pT := y.r.pT, xrec := y.r.xrec }
          pend := others (Action.writesPred d), wroteP := fdel x.wroteP d } ∧
        ∀ n : BitVec 5,
          y.r.preg n = (if n.toNat = d ∧ d ≠ 0 then (before.1 &&& ~~~bits) ||| (pv &&& bits) else x.r.preg n) ∧
          y.r.ptaint n = (if n.toNat = d ∧ d ≠ 0 then (if unite = true then before.2 ||| m else m) else x.r.ptaint n)
    let clashes (wrote : Bool) (t : State) : Prop :=
      (∀ n, n ≠ 0 → fget 0#64 (t.ctx c).r.xrec n = fget 0#64 x.r.xrec n) ∧
        (if wrote = true ∧ d ≠ 0 then
          Recorded (fget 0#64 x.r.xrec 0) (fget 0#64 (t.ctx c).r.xrec 0) x.lastPc Flag.ll
        else (t.ctx c).r.xrec = x.r.xrec)
    (due (Action.writesReg d) = [] → exec (.ldsRegisterWrite c d) s = .next s) ∧
    (due (Action.writesReg d) = [p] → p.act = .regWrite d v m → Completes (.ldsRegisterWrite c d) s (fun t =>
      writes t ∧ clashes (x.wroteS.contains d) t)) ∧
    (due (Action.writesReg d) = [p, q] ∨ due (Action.writesReg d) = [q, p] → beats → p.act = .regWrite d v m →
      x.wroteS.contains d = false → Completes (.ldsRegisterWrite c d) s (fun t => writes t ∧ loses t)) ∧
    (due (Action.writesPred d) = [] → exec (.vectorPredicateWrite c d) s = .next s) ∧
    (due (Action.writesPred d) = [p] → p.act = .predWrite d pv bits m unite → Completes (.vectorPredicateWrite c d) s (fun t =>
      writesP t ∧ clashes (ffind x.wroteP d).isSome t)) ∧
    (due (Action.writesPred d) = [p, q] ∨ due (Action.writesPred d) = [q, p] → beats → p.act = .predWrite d pv bits m unite →
      (ffind x.wroteP d).isSome = false → Completes (.vectorPredicateWrite c d) s (fun t => writesP t ∧ loses t)) ∧
    (x.ticketDone = (id, dest, w) :: l → dest < 32 → Completes (.ticketResultReturn c) s (fun t =>
      let y := t.ctx c
      s.OnlyCtx t c ∧
        y = { x with r := { x.r with s := y.r.s, sT := y.r.sT }, ticketDone := l
                     ticketWait := x.ticketWait.filter fun i => i != id } ∧
        ∀ n : BitVec 5, y.r.sreg n = (if n.toNat = dest ∧ dest ≠ 0 then w else x.r.sreg n) ∧
          y.r.staint n = (if n.toNat = dest ∧ dest ≠ 0 then 0#9 else x.r.staint n))) ∧
    (x.ticketDone = [] → exec (.ticketResultReturn c) s = .next s)

/-- R43, R44, R46, R181, R305: scratchpad accesses act in issue order, on the bytes of their runs alone; the two of one bundle are
unordered, and a 16-byte unit that both write whole holds one's data. -/
def Obligations.ScratchpadActs : Prop :=
  ∀ (s : State) (c : Nat) (p q : Pending) (a b es : Nat) (xs ys : List Byte) (dest : ReadDest), s.memoriesOk = true →
    let x := s.ctx c
    let core := coreOf c
    let old := (s.core core).scratch
    let due := x.pend.filter fun y => y.act.access && s.acts c y
    let rest := x.pend.filter fun y => !(y.act.access && s.acts c y)
    let within (a : Nat) (l : List Byte) (n : Nat) : Prop := a ≤ n ∧ n < a + l.length
    let acts (t : State) : Prop :=
      (∀ n, n ≠ c → t.ctx n = s.ctx n) ∧ (∀ n, n ≠ core → t.core n = s.core n) ∧ s.SameGlobal t ∧
        t.core core = { s.core core with scratch := (t.core core).scratch, spPoison := (t.core core).spPoison } ∧
        t.ctx c = { x with pend := (t.ctx c).pend }
    (due = [] → exec (.scratchpadAccessActs c) s = .next s) ∧
    (due = [p] → p.act = .spWrite [(a, xs)] → Completes (.scratchpadAccessActs c) s (fun t =>
      acts t ∧ (t.ctx c).pend = rest ∧
        (∀ n, within a xs n → mget (t.core core).scratch n = xs.getD (n - a) 0#8) ∧
        (∀ n, ¬ within a xs n → mget (t.core core).scratch n = mget old n) ∧
        ∀ u, u ∈ (t.core core).spPoison ↔ u ∈ (s.core core).spPoison ∧ ¬ (a ≤ u * 16 ∧ u * 16 + 16 ≤ a + xs.length))) ∧
    (due = [p] → p.act = .spRead [some a] es dest → Completes (.scratchpadAccessActs c) s (fun t =>
      acts t ∧ (t.ctx c).pend = rest ++ [deliverRead p (ofBytes (mread old a es)) dest] ∧
        (t.core core).scratch = old ∧ (t.core core).spPoison = (s.core core).spPoison)) ∧
    (due = [p, q] → p.act = .spWrite [(a, xs)] → q.act = .spWrite [(b, ys)] →
      (p.due ≠ q.due ∨ p.bundle ≠ q.bundle → Completes (.scratchpadAccessActs c) s (fun t =>
        acts t ∧ (t.ctx c).pend = rest ∧
          (∀ n, within b ys n → mget (t.core core).scratch n = ys.getD (n - b) 0#8) ∧
          (∀ n, ¬ within b ys n → within a xs n → mget (t.core core).scratch n = xs.getD (n - a) 0#8) ∧
          ∀ n, ¬ within b ys n → ¬ within a xs n → mget (t.core core).scratch n = mget old n)) ∧
      (p.due = q.due → p.bundle = q.bundle → Completes (.scratchpadAccessActs c) s (fun t =>
        acts t ∧ (t.ctx c).pend = rest ∧
          (∀ u, (∀ i, i < 16 → within a xs (16 * u + i) ∧ within b ys (16 * u + i)) →
            (∀ i, i < 16 → mget (t.core core).scratch (16 * u + i) = xs.getD (16 * u + i - a) 0#8) ∨
            ∀ i, i < 16 → mget (t.core core).scratch (16 * u + i) = ys.getD (16 * u + i - b) 0#8) ∧
          ∀ n, ¬ within b ys n → ¬ within a xs n → mget (t.core core).scratch n = mget old n))) ∧
    (due = [p, q] → p.act = .spWrite [(a, xs)] → q.act = .spRead [some b] es dest →
      p.due ≠ q.due ∨ p.bundle ≠ q.bundle ∨ (∀ n, within a xs n → n / 16 + 1 ≤ b / 16 ∨ (b + es - 1) / 16 < n / 16) →
      Completes (.scratchpadAccessActs c) s (fun t => acts t ∧
        ∃ bytes, (t.ctx c).pend = rest ++ [deliverRead q (ofBytes bytes) dest] ∧ bytes.length = es ∧
          ∀ i, i < es → bytes.getD i 0#8 = if within a xs (b + i) then xs.getD (b + i - a) 0#8 else mget old (b + i)))

/-- R32, R151, R211, R287, R307–R309: what leaves the scratchpad for the tables and the scale queue arrives, banks change hands,
and the zeroing of a bank ends. That a push which acts after its context has lost the lease reaches no queue is the model's
choice (assumption log, 35). -/
def Obligations.TableAndBankEvents : Prop :=
  ∀ (s : State) (c core entry a n : Nat) (p : Pending) (word : BitVec 256) (m : BitVec 48),
    let x := s.ctx c
    let k := s.core (coreOf c)
    let due (f : Action → Bool) : List Pending := x.pend.filter fun y => f y.act && s.acts c y
    let isWord (y : Action) : Bool := match y with | .wordWrite _ _ => true | _ => false
    let isPush (y : Action) : Bool := match y with | .scalePush _ _ => true | _ => false
    let isBank (y : Action) : Bool := match y with | .bankAcq _ => true | .bankRel _ => true | _ => false
    let acts (f : Action → Bool) (t : State) : Prop :=
      t = { s with ctxs := t.ctxs, cores := t.cores } ∧ (∀ i, i ≠ c → t.ctx i = s.ctx i) ∧
        (∀ i, i ≠ coreOf c → t.core i = s.core i) ∧ (t.core (coreOf c)).scratch = k.scratch ∧
        t.ctx c = { x with pend := x.pend.filter fun y => !(f y.act && s.acts c y) }
    (due isWord = [p] → p.act = .wordWrite entry word → Completes (.controlWordWrite c) s (fun t =>
      acts isWord t ∧ t.core (coreOf c) = { k with cwt := (t.core (coreOf c)).cwt } ∧
        ∀ i, fget 0#256 (t.core (coreOf c)).cwt i = if i = entry then word else fget 0#256 k.cwt i)) ∧
    (due isPush = [p] → p.act = .scalePush a n → Completes (.scaleQueuePush c) s (fun t =>
      acts isPush t ∧ t.core (coreOf c) =
        { k with scales := k.scales ++ if k.lease = some c then mread k.scratch a n else [] })) ∧
    (due isBank = [p] → p.act = .bankAcq m → Completes (.bankOwnershipChange c) s (fun t =>
      acts isBank t ∧
        t.core (coreOf c) = { k with bankOwner := (t.core (coreOf c)).bankOwner, released := (t.core (coreOf c)).released } ∧
        ∀ b, let taken := b < 48 ∧ m.getLsbD b = true
          fget 0 (t.core (coreOf c)).bankOwner b = (if taken then c + 1 else fget 0 k.bankOwner b) ∧
          fget 0 (t.core (coreOf c)).released b = if taken then 0 else fget 0 k.released b)) ∧
    (due isBank = [p] → p.act = .bankRel m → Completes (.bankOwnershipChange c) s (fun t =>
      acts isBank t ∧
        t.core (coreOf c) = { k with bankOwner := (t.core (coreOf c)).bankOwner, released := (t.core (coreOf c)).released } ∧
        ∀ b, let given := b < 48 ∧ m.getLsbD b = true
          fget 0 (t.core (coreOf c)).bankOwner b = (if given then 0 else fget 0 k.bankOwner b) ∧
          fget 0 (t.core (coreOf c)).released b = if given then x.tenant + 1 else fget 0 k.released b)) ∧
    Completes (.bankZeroingDone core) s (fun t => s.OnlyCore t core ∧
      t.core core = { s.core core with bankZero := (t.core core).bankZero } ∧
      (∀ e, e ∈ (t.core core).bankZero ↔ e ∈ (s.core core).bankZero ∧ s.cycle < e.2) ∧
      ∀ b, s.zeroing core b = true → t.zeroing core b = true)

/-! ## Events at the home slices -/

/-- R51, R53–R55, R57, R59, R67, R68, R72, R81, R83: a load delivers what its home, or a near-buffer line young enough, holds at
this moment; a store writes its own bytes; one wider than 16 bytes does so unit by unit, in an order that is open; either fails
alone where memory is missing or poisoned. What an overlap in mixed sizes gives is R82's, and is not said here (`unmixed`). That
an access that the mixed-size check refuses completes its token done is the model's choice (assumption log, 23). -/
def Obligations.LoadsAndStoresPerform : Prop :=
  ∀ (s : State) (c id n d unit quarter line : Nat) (a : Access) (near : Bool) (l : NearLine) (bytes : List Byte),
    let x := s.ctx c
    let q := quarterOf (coreOf c)
    let first := a.unitsDone = []
    let part (u : Nat) (e : QEntry) : QEntry :=
      { e with data := e.data ||| (BitVec.ofNat 1024 (ofBytes (mread s.mem (a.pa + 16 * u) 16)) <<< (128 * u)) }
    let goesOn (t : State) (u : Nat) : Prop := u ∈ a.unitsLeft ∧ (∀ i, i ≠ c → t.ctx i = s.ctx i) ∧
      (t.ctx c).access id = some { a with unitsDone := u :: a.unitsDone } ∧ (t.ctx c).tokens = x.tokens
    let noCopy (t : State) : Prop := homeQuarter a.pa ≠ q → ∀ l, l ∈ t.ms.near → ¬ (l.quarter = q ∧ l.line = a.pa / 256)
    let fill (f : QEntry → QEntry) (t : State) : Prop := s.SameBytes t ∧
      s.Performs t c a 2 (x.q0.map fun e => if e.acc = a.id then { f e with filled := true } else e)
        (x.q1.map fun e => if e.acc = a.id then { f e with filled := true } else e)
    (s.performable c id = none →
      exec (.globalLoadPerforms c id near) s = .next s ∧ exec (.globalStorePerforms c id) s = .next s) ∧
    (s.performable c id = some a → a.kind = .load n →
      (near = true → first → s.nearHit c a = some l → Completes (.globalLoadPerforms c id near) s
        (fill fun e => { e with data := BitVec.ofNat 1024 (ofBytes ((l.bytes.drop (a.pa % 256)).take n)) })) ∧
      (near = false ∨ ¬ first ∨ s.nearHit c a = none →
        (first → s.accessOverlaps c a = true → Completes (.globalLoadPerforms c id near) s
          (fill fun e => { e with overlap := some a.va })) ∧
        ((first → s.accessOverlaps c a = false) →
          (s.homeError a.pa = some d → Completes (.globalLoadPerforms c id near) s (fill fun e => { e with poison := d })) ∧
          (s.homeError a.pa = none → s.unmixed c a = true →
            (n / 16 < 2 → Completes (.globalLoadPerforms c id near) s
              (fill fun e => { e with data := BitVec.ofNat 1024 (ofBytes (mread s.mem a.pa n)) })) ∧
            (2 ≤ n / 16 → a.unitsLeft = [unit] → Completes (.globalLoadPerforms c id near) s (fill (part unit))) ∧
            (2 ≤ n / 16 → 2 ≤ a.unitsLeft.length → Completes (.globalLoadPerforms c id near) s (fun t => s.SameBytes t ∧
              ∃ u, goesOn t u ∧ (t.ctx c).q0 = (x.q0.map fun e => if e.acc = a.id then part u e else e) ∧
                (t.ctx c).q1 = x.q1.map fun e => if e.acc = a.id then part u e else e)))))) ∧
    (s.nearHit c a = some l → a.nb = true ∧ homeQuarter a.pa ≠ q ∧ l.quarter = q ∧ l.line = a.pa / 256 ∧
      s.tick < l.stamp + 16384 ∧ a.bound ≤ l.stamp ∧ (fget (0, 0) x.seen (seenKey a.cls a.pa)).2 ≤ l.seq) ∧
    (s.performable c id = some a → a.kind = .store bytes →
      (first → s.accessOverlaps c a = true → Completes (.globalStorePerforms c id) s (fun t =>
        s.SameBytes t ∧ s.Performs t c a 2 x.q0 x.q1 ∧ (t.ctx c).overlap = x.overlap ++ [a.va] ∧ noCopy t)) ∧
      ((first → s.accessOverlaps c a = false) →
        (s.backed a.pa = false → Completes (.globalStorePerforms c id) s (fun t =>
          s.SameBytes t ∧ s.Performs t c a 3 x.q0 x.q1 ∧ noCopy t ∧
            (t.quarter (homeQuarter a.pa)).discards = (s.quarter (homeQuarter a.pa)).discards + 1)) ∧
        (s.backed a.pa = true → s.memoriesOk = true → s.unmixed c a = true →
          (bytes.length / 16 < 2 → Completes (.globalStorePerforms c id) s (fun t =>
            s.Holds t a.pa bytes ∧ s.Performs t c a 2 x.q0 x.q1 ∧ t.ms.poison = s.ms.poison ∧ noCopy t)) ∧
          (2 ≤ bytes.length / 16 → a.unitsLeft = [unit] → Completes (.globalStorePerforms c id) s (fun t =>
            s.Holds t (a.pa + 16 * unit) ((bytes.drop (16 * unit)).take 16) ∧ s.Performs t c a 2 x.q0 x.q1 ∧
              t.ms.poison = s.ms.poison ∧ noCopy t)) ∧
          (2 ≤ bytes.length / 16 → 2 ≤ a.unitsLeft.length → Completes (.globalStorePerforms c id) s (fun t =>
            t.ms.poison = s.ms.poison ∧ noCopy t ∧
              ∃ u, goesOn t u ∧ s.Holds t (a.pa + 16 * u) ((bytes.drop (16 * u)).take 16)))))) ∧
    Completes (.nearBufferExpiry quarter line) s (fun t =>
      t = { s with ms := { s.ms with near := t.ms.near } } ∧
        ∀ l, l ∈ t.ms.near ↔ l ∈ s.ms.near ∧ ¬ (l.quarter = quarter ∧ l.line = line ∧ l.stamp + 16384 ≤ s.tick))

/-- R57, R59, R60, R67, R104, R106, R107, R110, R112, R315: an atomic reads and writes its bytes in one operation and returns what
stood there, a 128-byte row 16 bytes at a time; to the host window, where the link carries no AtomicOp, it reads first and writes
at a later moment; a batched add joins its batch and changes no memory. What an overlap in mixed sizes gives is R82's (`unmixed`).
That the units of a row perform in an open order is the model's reading (assumption log, 23), and so is what one that fails does
(41). -/
def Obligations.AtomicsPerform : Prop :=
  ∀ (s : State) (c id aop n et i d unit : Nat) (a : Access) (v : Word) (r : Bool) (data : Bay) (expect new : Nat) (rmw : HostRmw),
    s.performable c id = some a → s.accessOverlaps c a = false → s.memoriesOk = true →
    let x := s.ctx c
    let m := ofBytes (mread s.mem a.pa n)
    let entries (f : QEntry → QEntry) (l : List QEntry) : List QEntry :=
      l.map fun e => if e.acc = a.id then { f e with filled := true } else e
    let returned (old : Nat) (e : QEntry) : QEntry := { e with data := BitVec.ofNat 1024 old }
    let same (q : List QEntry) : List QEntry := q
    let performs (f : List QEntry → List QEntry) (t : State) : Prop := s.Performs t c a 2 (f x.q0) (f x.q1)
    let writes (pa k new : Nat) (t : State) : Prop := s.Holds t pa (toBytes k new) ∧ t.ms.poison = s.ms.poison
    let combines (k m v new : Nat) : Prop :=
      let signed (x : Nat) : Int := intOf (8 * k) x
      let float (op : Nat) : Nat := (elemOp .f32 { rm := 0#2, daz := false, ftz := false, sat := false } op m v 0).1 % 2 ^ 32
      (aop = 0 → new = (m + v) % 2 ^ (8 * k)) ∧
      (k = 4 → (aop = 1 → new = float 0x01) ∧ (aop = 6 → new = float 0x06) ∧ (aop = 7 → new = float 0x07)) ∧
      (aop = 2 → new = if signed v < signed m then v else m) ∧ (aop = 3 → new = min m v) ∧
      (aop = 4 → new = if signed m < signed v then v else m) ∧ (aop = 5 → new = max m v) ∧
      (aop = 8 → new = m &&& v) ∧ (aop = 9 → new = m ||| v) ∧ (aop = 10 → new = m ^^^ v) ∧ (aop = 11 → new = v)
    let w := if et = 1 then 64 else 32
    let rowPart (u : Nat) (t : State) : Prop := ∃ new, new < 2 ^ 128 ∧ writes (a.pa + 16 * u) 16 new t ∧
      ∀ e, e < 128 / w → combines (w / 8) (ofBytes (mread s.mem (a.pa + 16 * u) 16) / 2 ^ (w * e) % 2 ^ w)
        (data.toNat / 2 ^ (128 * u) / 2 ^ (w * e) % 2 ^ w) (new / 2 ^ (w * e) % 2 ^ w)
    let mine := s.ms.hostRmw = some rmw ∧ rmw.ctx = c ∧ rmw.id = a.id
    let idle := ∀ y, s.ms.hostRmw = some y → ¬ (y.ctx = c ∧ y.id = a.id)
    (a.interval = none → a.rcd = none → s.homeError a.pa = none → s.unmixed c a = true →
      (idle → s.splitAtHost a = false →
        (a.kind = .atomic aop n v r → Completes (.atomicPerforms c id) s (fun t => ∃ new,
          performs (if r = true then entries (returned m) else same) t ∧ writes a.pa n new t ∧ combines n m v.toNat new)) ∧
        (a.kind = .cas n expect new → Completes (.atomicPerforms c id) s (fun t => performs (entries (returned m)) t ∧
          (m = expect → writes a.pa n new t) ∧ (m ≠ expect → s.SameBytes t))) ∧
        (a.kind = .row aop et data → a.unitsLeft = [unit] → Completes (.atomicPerforms c id) s (fun t =>
          performs same t ∧ rowPart unit t)) ∧
        (a.kind = .row aop et data → 2 ≤ a.unitsLeft.length → Completes (.atomicPerforms c id) s (fun t => ∃ u,
          u ∈ a.unitsLeft ∧ rowPart u t ∧ (t.ctx c).access id = some { a with unitsDone := u :: a.unitsDone } ∧
            (t.ctx c).tokens = x.tokens ∧ ∀ i, i ≠ c → t.ctx i = s.ctx i))) ∧
      (idle → s.splitAtHost a = true → a.kind.isAtomic = true → Completes (.atomicPerforms c id) s (fun t =>
        s.SameBytes t ∧ s.SameContexts t ∧ ∃ y, t.ms.hostRmw = some y ∧ y.ctx = c ∧ y.id = a.id ∧
          (a.wide = false → y.unit = 0 ∧ y.old = mread s.mem a.pa a.size) ∧
          (a.wide = true → a.unitsLeft ≠ [] → y.unit ∈ a.unitsLeft ∧ y.old = mread s.mem (a.pa + 16 * y.unit) 16))) ∧
      (mine → rmw.unit = 0 → a.kind = .atomic aop n v r → Completes (.atomicPerforms c id) s (fun t =>
        ∃ new, performs (if r = true then entries (returned (ofBytes rmw.old)) else same) t ∧ writes a.pa n new t ∧
          t.ms.hostRmw = none ∧ combines n (ofBytes rmw.old) v.toNat new))) ∧
    (a.interval = none → a.rcd = none → s.homeError a.pa = some d → a.kind.isAtomic = true →
      (a.kind.tagged = true → Completes (.atomicPerforms c id) s (fun t =>
        s.SameBytes t ∧ performs (entries fun e => { e with poison := d }) t)) ∧
      (a.kind.tagged = false → Completes (.atomicPerforms c id) s (fun t =>
        s.SameBytes t ∧ s.Performs t c a 3 x.q0 x.q1 ∧
          (t.quarter (homeQuarter a.pa)).discards = (s.quarter (homeQuarter a.pa)).discards + 1))) ∧
    (a.interval = some i → a.kind.isAtomic = true → Completes (.atomicPerforms c id) s (fun t =>
      s.SameBytes t ∧ (∀ n, n ≠ c → t.ctx n = s.ctx n) ∧ t.ctx c = { x with lsu := (t.ctx c).lsu } ∧
        ∃ b, (t.ctx c).access id = some b ∧ b = { a with inBatch := true, interval := b.interval, early := b.early } ∧
          ∃ j, b.interval = some j ∧ i ≤ j ∧ (s.launch x.launch).closed ≤ j))

/-- R77, R147, R242, R300, R321: one indivisible ticket operation on the descriptor, one that fails at its home, and an arrival at
a barrier. What an overlap in mixed sizes gives is R82's (`unmixed`). -/
def Obligations.TicketsAndArrivalsPerform : Prop :=
  ∀ (s : State) (c id op dest n need scope d : Nat) (v : Word) (a : Access),
    let x := s.ctx c
    let old := Ticket.ofBytes (mread s.mem a.pa 64)
    let returns := op = 0 ∨ op = 2
    let result (w : Option Nat) (t : State) : Prop := s.Performs t c a 2 x.q0 x.q1 ∧
      (t.ctx c).ticketDone = x.ticketDone ++
        if returns then [(a.id, dest, match w with | some n => BitVec.ofNat 64 n | none => 0xFFFFFFFFFFFFFFFF#64)] else []
    let slots := 2 ^ old.lg
    let does (new : Ticket) (w : Option Nat) : Prop :=
      Completes (.ticketOpPerforms c id) s (fun t => result w t ∧
        (new ≠ old → s.Holds t a.pa new.toBytes) ∧ (new = old → s.SameBytes t))
    (s.performable c id = some a → a.kind = .ticket op v dest → a.token = none → a.rcd = none →
      s.accessOverlaps c a = false → s.homeError a.pa = none → s.memoriesOk = true → s.unmixed c a = true →
      (old.malformed = true → Completes (.ticketOpPerforms c id) s (fun t => s.SameBytes t ∧ result none t ∧
        (t.quarter (homeQuarter a.pa)).malformed = (s.quarter (homeQuarter a.pa)).malformed + 1)) ∧
      (old.malformed = false →
        (op = 0 → old.free = 0 → does old none) ∧
        (op = 0 → old.free ≠ 0 → does { old with resv := old.resv + 1, free := old.free - 1 } (some (old.resv % slots))) ∧
        (op = 1 → old.committed (v.toNat % slots) = true → does old none) ∧
        (op = 1 → old.committed (v.toNat % slots) = false →
          does { old with commit := old.commit + 2 ^ (v.toNat % slots) } none) ∧
        (op = 2 → old.committed (old.take % slots) = false → does old none) ∧
        (op = 2 → old.committed (old.take % slots) = true →
          does { old with take := old.take + 1, commit := old.commit - 2 ^ (old.take % slots) } (some (old.take % slots))) ∧
        (op = 3 → does { old with free := min (old.free + 1) slots } none))) ∧
    (s.performable c id = some a → a.kind = .ticket op v dest → a.token = none → a.rcd = none → s.accessOverlaps c a = false →
      s.homeError a.pa = some d →
      (returns → Completes (.ticketOpPerforms c id) s (fun t => s.SameBytes t ∧ s.Performs t c a 2 x.q0 x.q1 ∧
        (t.ctx c).doom = x.doom ++ [(0x14, d, a.slot, a.va)] ∧
        (t.ctx c).ticketWait = x.ticketWait.filter fun i => i != a.id)) ∧
      (¬ returns → Completes (.ticketOpPerforms c id) s (fun t => s.SameBytes t ∧ s.Performs t c a 2 x.q0 x.q1 ∧
        (t.quarter (homeQuarter a.pa)).discards = (s.quarter (homeQuarter a.pa)).discards + 1))) ∧
    (s.performable c id = none → exec (.atomicPerforms c id) s = .next s ∧ exec (.ticketOpPerforms c id) s = .next s) ∧
    (x.access id = some a → a.kind = .arrive n need scope → a.rcd = none → x.mayPerform a = true →
      let key := barrierKey x.launch (coreOf c) n
      let b : Barrier := fget {} s.ms.barriers key
      let total := if b.count = 0 then need else b.need
      Completes (.barrierArrival c id) s (fun t =>
        s.SameBytes t ∧ (t.ctx c).access id = none ∧ (t.ctx c).r = x.r ∧ (t.ctx c).pc = x.pc ∧
        (∀ d, d ≠ c → t.ctx d = s.ctx d) ∧
        (∀ k, k ≠ key → (fget {} t.ms.barriers k : Barrier) = fget {} s.ms.barriers k) ∧
        (fget {} t.ms.barriers key : Barrier) =
          (if total ≤ b.count + 1 then { gen := b.gen + 1, count := 0, need := 0, stamp := s.tick }
            else { b with count := b.count + 1, need := total }) ∧
        (a.slot ≠ 3 → (fget {} (t.ctx c).bars n : BarRecord).arrived = true ∧ (fget {} (t.ctx c).bars n : BarRecord).gen = b.gen ∧
          (fget {} (t.ctx c).bars n : BarRecord).scope = scope) ∧
        (a.slot = 3 → (fget {} (t.ctx c).bars n : BarRecord).arrived = (fget {} x.bars n : BarRecord).arrived ∧
          (fget {} (t.ctx c).bars n : BarRecord).gen = (fget {} x.bars n : BarRecord).gen)))

/-! ## Events of the drays and the collective engines -/

/-- R11, R21, R28, R40, R67, R78, R79, R81, R83, R177, R178, R316–R318: when a command of a dray starts, how its lines move, 16 bytes
at a time within a line, a source line being translated and compared once; how a line to global memory is sent, and what it leaves
at its home, unless the check refuses it there; how a command that fails or is cancelled stops, and how its token then completes;
the thaw of an engine. What an overlap of source and destination leaves is R317's free choice, and is not said here. The address in
the record of a malformed command (assumption log, 9), the ascending order of lines and the open choice of the lines that a
stopping command still moves (19) are the model's choices. -/
def Obligations.DrayEvents : Prop :=
  ∀ (s : State) (core d q pa n unit off : Nat) (nb : Bool) (c : DrayCmd) (o : Sent) (b : List Byte) (h : HeldLine) (z : DrayEnd),
    let x := (s.core core).dray d
    let k := s.core core
    let e := c.engine core d
    let descriptor : Span := { kind := 1, addr := c.row, size := 64 }
    let row := mread k.scratch c.row 64
    let waits := (s.ctx c.owner).engineK < c.issueK + 3 ∨ (c.kind ≠ 0 ∧ s.spanServed core d descriptor = false)
    let runs (c' : DrayCmd) (t : State) : Prop := t.core core = { k with
      drays := fput k.drays d { x with running := some c' }, port := (t.core core).port, scratch := (t.core core).scratch
      spPoison := (t.core core).spPoison }
    let reads (c' : DrayCmd) (t : State) : Prop := s.SameBytes t ∧ s.SameContexts t ∧ runs c' t
    let tok : Token := fget {} (s.ctx c.owner).tokens c.token
    let record (code detail : Nat) (addr : Word) : EngineFault := { engid := d, code := code, detail := detail, addr := addr }
    let ends (z : DrayEnd) (t : State) : Prop :=
      (fget {} (t.ctx c.owner).tokens c.token : Token) =
        (match z with
          | .done status => { tok with st := 2, status := status, stamp := s.tick }
          | .error f => { tok with st := 3, err := f, stamp := s.tick }) ∧
      (t.core core).dray d = { x with running := x.shadow, shadow := none } ∧
      (∀ n, n ≠ c.owner → t.ctx n = s.ctx n) ∧ s.SameBytes t
    let stops (code detail : Nat) (addr : Word) (t : State) : Prop :=
      reads (DrayCmd.advance { c with ending := some (.error (record code detail addr)) }) t
    let toRead := (List.range (c.lineSize / 16)).filter fun u => (ffind c.got u).isNone
    let toWrite := (List.range (c.lineSize / 16)).filter fun u => !c.unitsDone.contains u
    let apart (p : Span) : Prop := c.zero = true ∨ locKind c.src ≠ locKind c.dst ∨
      ∀ i : Nat, i < p.size → c.inSource (p.addr + i) = false
    let held := s.acqHolds c = true ∨ s.depHolds c = true ∨ s.watchHolds d c = true
    let settled := (c.rel = true → s.sentPerformed core d c = true) ∧
      (s.ms.ovl.contains c.tenant = true → ∀ y, y ∈ s.ms.sent → y.isOf core d c = true → y.compared = true)
    let unmixed (pa size : Nat) : Prop := c.mixed = [] ∧ s.rivals none pa 16 size false = [] ∧ s.sentOver none pa 16 size = []
    (x.running = none → exec (.drayCommandStart core d) s = .next s ∧ exec (.drayLineTransfer core d) s = .next s ∧
      exec (.drayCommandComplete core d) s = .next s) ∧
    (x.running = some c → c.started = false → x.frozen = false → c.ending = none →
      exec (.drayLineTransfer core d) s = .next s ∧
      (waits → exec (.drayCommandStart core d) s = .next s) ∧
      (¬ waits → c.kind = 0 → Completes (.drayCommandStart core d) s (fun t =>
        s.OnlyCore t core ∧ runs { c with started := true } t ∧ (t.core core).scratch = k.scratch)) ∧
      (¬ waits → c.kind ≠ 0 → s.pieceFault e descriptor false = some (n, unit) → n ≠ 4 →
        Completes (.drayCommandStart core d) s (ends (.error (record n unit (BitVec.ofNat 64 c.row))))) ∧
      (¬ waits → c.kind = 1 → s.pieceFault e descriptor false = none →
        Completes (.drayCommandStart core d) s (fun t => s.SameBytes t ∧ ∃ c', runs c' t ∧ c'.started = true ∧
          c'.src = BitVec.ofNat 64 (ofBytes (row.take 8)) ∧ c'.dst = BitVec.ofNat 64 (ofBytes ((row.drop 8).take 8)) ∧
          c'.rowlen = ofBytes ((row.drop 16).take 4) ∧ c'.rows = ofBytes ((row.drop 20).take 4) ∧
          c'.sstride = (BitVec.ofNat 64 (ofBytes ((row.drop 24).take 8))).toInt ∧
          c'.dstride = (BitVec.ofNat 64 (ofBytes ((row.drop 32).take 8))).toInt ∧ c'.owner = c.owner ∧ c'.token = c.token))) ∧
    (x.running = some c → c.started = true → x.frozen = false → c.kind ≠ 2 → c.ending = none →
      (c.bad = true → Completes (.drayLineTransfer core d) s
        (ends (.error (record 2 0 (if c.kind = 0 then c.src else BitVec.ofNat 64 c.row))))) ∧
      (c.bad = false → c.moved = true → exec (.drayLineTransfer core d) s = .next s ∧
        (settled → Completes (.drayCommandComplete core d) s (ends (.done 0))) ∧
        (¬ settled → exec (.drayCommandComplete core d) s = .next s)) ∧
      (c.bad = false → held → exec (.drayLineTransfer core d) s = .next s) ∧
      (c.bad = false → c.moved = false → ¬ held → s.memoriesOk = true →
        (c.lineRead = false →
          let u := s.pickUnit toRead
          let p := c.lineSrc.unit u
          let word := BitVec.ofInt 64 p.addr
          (toRead ≠ [] → u ∈ toRead) ∧
          (s.spanServed core d p = false → exec (.drayLineTransfer core d) s = .next s) ∧
          (s.spanServed core d p = true → p.kind = 1 → s.pieceFault e p false = none →
            Completes (.drayLineTransfer core d) s (reads { c with got := fput c.got u (mread k.scratch p.addr.toNat 16) })) ∧
          (s.spanServed core d p = true → p.kind = 1 → s.pieceFault e p false = some (n, unit) → n ≠ 4 →
            Completes (.drayLineTransfer core d) s (stops n unit word)) ∧
          (p.kind = 0 → (c.held.find? fun h => (h.line : Int) = p.addr / 256) = some h →
            let pa := h.pa + (p.addr % 256).toNat
            s.hostHeld none pa = false → s.backed pa = true →
              (s.poisoned pa = true → Completes (.drayLineTransfer core d) s (stops 0x14 2 word)) ∧
              (s.poisoned pa = false → unmixed pa h.size →
                Completes (.drayLineTransfer core d) s (reads { c with got := fput c.got u (mread s.mem pa 16) }))) ∧
          (p.kind = 0 → (c.held.find? fun h => (h.line : Int) = p.addr / 256) = none → 0 ≤ p.addr → p.addr < 2 ^ 55 →
            (s.engineCheck e word { rd := true } = .miss →
              Completes (.drayLineTransfer core d) s (fun t => reads { c with asked := some (word.toNat / 0x10000) } t ∧
                ∃ w, w ∈ (t.quarter (quarterOf core)).walks ∧ w.tenant = c.tenant ∧ w.page = word.toNat / 0x10000)) ∧
            (s.engineCheck e word { rd := true } = .ok pa nb → s.backed pa = true → s.hostHeld none pa = false →
              (p.addr % 256).toNat ≤ pa →
              let whole := c.lineSrc.inLine p.addr
              let lo := (whole.addr % 256).toNat
              let base := pa - (p.addr % 256).toNat
              let line : HeldLine := { line := p.addr.toNat / 256, pa := base, lo := lo, size := whole.size, since := s.cycle }
              let refused := s.overlapFires c.tenant (base + lo) whole.size e.master 0
              (refused = true → Completes (.drayLineTransfer core d) s (stops 0x0D 0 word)) ∧
              (refused = false → s.poisoned pa = true → Completes (.drayLineTransfer core d) s (stops 0x14 2 word)) ∧
              (refused = false → s.poisoned pa = false → unmixed pa whole.size →
                Completes (.drayLineTransfer core d) s
                  (reads { c with got := fput c.got u (mread s.mem pa 16), held := c.held ++ [line] }))))) ∧
        (c.lineRead = true → locKind c.dst = 1 →
          let u := s.pickUnit toWrite
          let p := c.lineDst.unit u
          let new := (c.lineBytes.drop (16 * u)).take 16
          s.spanServed core d p = true → s.pieceFault e p true = none → apart p → new.length = 16 →
          Completes (.drayLineTransfer core d) s (fun t => s.SameGlobal t ∧
            runs (if toWrite.length ≤ 1 then c.advance else { c with unitsDone := u :: c.unitsDone }) t ∧
            (∀ i, i < 16 → mget (t.core core).scratch (p.addr.toNat + i) = new.getD i 0#8) ∧
            ∀ i, i < p.addr.toNat ∨ p.addr.toNat + 16 ≤ i → mget (t.core core).scratch i = mget k.scratch i)) ∧
        (c.lineRead = true → locKind c.dst = 0 → 0 ≤ c.lineDst.addr → c.lineDst.addr < 2 ^ 55 → apart c.lineDst →
          c.lineBytes.length = c.lineSize →
          s.engineCheck e (BitVec.ofInt 64 c.lineDst.addr) { wr := true } = .ok pa nb → s.backed pa = true →
          Completes (.drayLineTransfer core d) s (fun t => s.SameBytes t ∧ runs c.advance t ∧
            ∃ y, t.ms.sent = s.ms.sent ++ [y] ∧ y.pa = pa ∧ y.size = c.lineSize ∧ y.owner = c.owner ∧ y.cmd = c.issueSeq ∧
              y.left = (unitParts c.lineDst.addr c.lineSize).map fun z => (z.1, (c.lineBytes.drop z.1).take z.2))))) ∧
    (x.running = some c → c.started = true → c.bad = false → c.kind ≠ 2 → c.ending = some z →
      (c.moved = true → settled → Completes (.drayCommandComplete core d) s (ends z)) ∧
      (c.moved = true → ¬ settled → exec (.drayCommandComplete core d) s = .next s) ∧
      (c.moved = false → ¬ held → c.unitsDone = [] → c.chosen = false → Completes (.drayLineTransfer core d) s (fun t =>
        reads { c.advance with atRow := c.rows } t ∨ reads c.advance t ∨ reads { c with chosen := true } t)) ∧
      (c.moved = false → held → c.unitsDone = [] → Completes (.drayLineTransfer core d) s
        (reads { c.advance with atRow := c.rows }))) ∧
    (s.ms.sent = [o] → o.left[unit]? = some (off, b) → s.hostHeld none o.pa = false →
      let refused := s.overlapFires o.tenant o.pa o.size (0x10000 + o.core * 4 + o.engid) 0
      (o.compared = true ∨ refused = false → s.backed (o.pa + off) = true → o.mixed = [] →
        s.rivals none (o.pa + off) b.length o.size true = [] → s.memoriesOk = true →
        s.Holds (s.sentUnit o.id unit) (o.pa + off) b) ∧
      (o.compared = true ∨ refused = false → s.backed (o.pa + off) = false → s.SameBytes (s.sentUnit o.id unit) ∧
        ((s.sentUnit o.id unit).quarter (homeQuarter (o.pa + off))).discards =
          (s.quarter (homeQuarter (o.pa + off))).discards + 1) ∧
      (o.compared = false → refused = true → o.engid ≠ 2 →
        s.SameBytes (s.sentUnit o.id unit) ∧ (s.sentUnit o.id unit).ms.sent = [])) ∧
    (x.frozen = true → (s.launch x.blame).ended = true → (s.launch x.blame).status = 0x0C →
      Completes (.engineThaw (.dray core d)) s (fun t =>
        s.OnlyCore t core ∧ t.core core = { k with drays := fput k.drays d { x with frozen := false } })) ∧
    (x.frozen = false ∨ (s.launch x.blame).ended = false ∨ (s.launch x.blame).status ≠ 0x0C →
      exec (.engineThaw (.dray core d)) s = .next s) ∧
    ((s.quarter q).collFrozen = true → (s.launch (s.quarter q).collBlame).ended = true →
      (s.launch (s.quarter q).collBlame).status = 0x0C → Completes (.engineThaw (.collective q)) s (fun t =>
        s.OnlyQuarter t q ∧ t.quarter q = { s.quarter q with collFrozen := false }))

/-- R28, R113, R185, R319: the operation of a group: what it reads and what it writes, how it completes, how it stops where its
source fails, finds its descriptors at odds, or is aborted, once it has not begun or has come to its end; what a reduction of
32-bit integers, a gather and a broadcast leave. That it reads every
source before it writes, and that what ranks elsewhere contribute is free, is the model's choice (assumption log, 18). -/
def Obligations.CollectiveEvents : Prop :=
  ∀ (s u : State) (quarter g : Nat) (x : Group) (p : Part') (f : EngineFault) (r : CollRun) (piece : CollLine) (b : List Byte)
    (src : List (Nat × List Nat)) (y : Coll) (fresh rank e pa : Nat) (nb : Bool),
    let z := collOf p.2.2.desc
    let a := collEngine p
    let token (q : Part') (t : State) : Token := fget {} (t.ctx q.2.2.owner).tokens q.2.2.token
    let run (t : State) (r : CollRun) : Prop := ∃ y, ffind t.pf.groups g = some y ∧ y.run = some r ∧ y.members = x.members ∧
      y.done = x.done
    let source (q : Nat) : List Nat := (sourceElems src fresh q y.count).map fun v => v % 2 ^ (8 * y.elemSize)
    let running (t : State) (q : Part') : Option DrayCmd := ((t.core q.1).dray q.2.1).running
    (s.collGroup quarter = none → exec (.collectiveComplete quarter) s = .next s) ∧
    (s.collGroup quarter = some (g, x) →
      (x.run = some r → (∀ q, q ∈ s.runParts r → q.2.2.rcd = none) →
        ((s.runParts r).Pairwise fun q q' => q.2.2.owner = q'.2.2.owner → q.2.2.token ≠ q'.2.2.token) →
        Completes (.collectiveComplete quarter) s (fun t => s.SameBytes t ∧ r.reads = [] ∧ r.writes = some [] ∧
          ∀ q, q ∈ s.runParts r → token q t = match q.2.2.ending with
            | some (.error f) => { token q s with st := 3, err := f, stamp := s.tick }
            | some (.done status) => { token q s with st := 2, status := status, stamp := s.tick }
            | none => { token q s with st := 2, status := 0, stamp := s.tick })) ∧
      (x.run = none → Completes (.collectiveComplete quarter) s (fun t => s.SameBytes t ∧
        ∀ q, q ∈ s.participants g → (token q t).st = 3 ∧ (token q t).err.engid = 2 ∧ (token q t).err.code = 2))) ∧
    (ffind s.pf.groups g = some x →
      (x.run = none → s.collReady g x = true → mismatched (s.participants g) = false →
        run (s.collLine g)
          { parts := (s.participants g).map fun q => (q.1, q.2.1), reads := (s.participants g).flatMap sourcePieces }) ∧
      (x.run = some r → r.reads = [piece] → s.pieceOwner piece = some p →
        (s.readPiece a piece.span (sourceSpan p) = (.ok b, u) →
          run (s.collLine g) { r with reads := [], got := r.got ++ [(piece, b)] } ∧ s.SameBytes (s.collLine g)) ∧
        (∀ q, s.readPiece a piece.span (sourceSpan p) = (.fail f, u) → r.stopped = false → u.runParts r = [q] → q.1 = p.1 →
          q.2.1 = p.2.1 → q.2.2.ending = none → f.code ≠ 4 →
          s.SameBytes (s.collLine g) ∧ running (s.collLine g) q = some { q.2.2 with ending := some (.error f) } ∧
            ∃ y r', ffind (s.collLine g).pf.groups g = some y ∧ y.done = x.done + 1 ∧ y.run = some r' ∧ r'.stopped = true)) ∧
      (x.run = some r → r.stopped = false → r.reads = [] → r.writes = none → s.runParts r = [p] → overlaid [p] p = false →
        ∃ w, run (s.collLine g) { r with writes := some w } ∧ w.map (·.1) = destPieces p ∧
          w.flatMap (·.2) = (elemBytes z.elemSize
            (z.result (s.launch p.2.2.launch).det (r.sources [p]) s.fresh z.rank)).take ((destPieces p).map (·.size)).sum ∧
          s.SameBytes (s.collLine g)) ∧
      (x.run = some r → r.reads = [] → r.writes = some [(piece, b)] → s.pieceOwner piece = some p → s.watchHolds 2 p.2.2 = false →
        (piece.kind = 2 → s.granted p.2.2.tenant piece.span = true → s.memoriesOk = true →
          run (s.collLine g) { r with writes := some [] } ∧ (∀ n, mget (s.collLine g).mem n = mget s.mem n) ∧
            (∀ i, i < b.length → mget (s.collLine g).ms.staging (piece.addr + i) = b.getD i 0#8) ∧
            ∀ n, n < piece.addr ∨ piece.addr + b.length ≤ n → mget (s.collLine g).ms.staging n = mget s.ms.staging n) ∧
        (piece.kind = 0 → piece.addr < 2 ^ 55 → s.engineCheck a (BitVec.ofNat 64 piece.addr) { wr := true } = .ok pa nb →
          s.backed pa = true →
          run (s.collLine g) { r with writes := some [] } ∧ s.SameBytes (s.collLine g) ∧
            ∃ y, (s.collLine g).ms.sent = s.ms.sent ++ [y] ∧ y.pa = pa ∧
              y.left = (unitParts piece.addr piece.size).map fun z => (z.1, (b.drop z.1).take z.2)))) ∧
    (ffind s.pf.groups g = none → exec (.collectiveAbort g) s = .next s) ∧
    (ffind s.pf.groups g = some x → x.run = some r → exec (.collectiveAbort g) s = .next s) ∧
    (ffind s.pf.groups g = some x → x.run = none → Completes (.collectiveAbort g) s (fun t => s.SameBytes t ∧ s.SameContexts t ∧
      ∀ q, q ∈ s.participants g → x.aborts.contains (rankOf q) = true → running s q = some q.2.2 →
        running t q = some { q.2.2 with ending := some (q.2.2.ending.getD (.done 1)) })) ∧
    (y.op = 0 → y.type = 2 → y.red = 0 → e < y.count → (y.result true src fresh rank).getD e 0 =
      ((List.range y.size).map fun q => (source q).getD e 0).sum % 2 ^ 32) ∧
    (y.op = 1 → y.type = 2 → y.red = 0 → e < y.count / y.size → (y.result true src fresh rank).getD e 0 =
      ((List.range y.size).map fun q => (source q).getD (rank * (y.count / y.size) + e) 0).sum % 2 ^ 32) ∧
    (y.op = 2 → y.result true src fresh rank = ((List.range y.size).map source).flatten) ∧
    (y.op = 3 → 0 < y.size → y.result true src fresh rank = source 0)

/-! ## Walks, the Manifest, interval closes and evictions -/

/-- R14, R15, R20, R21, R27, R51, R62, R123: a page walk ends and reaches those that wait for it, the head word of a Manifest is
written, and a line is evicted, from a home with every copy that an L1I fetched from it. -/
def Obligations.WalkHeadAndEvictionEvents : Prop :=
  ∀ (s u : State) (quarter tenant page entry reason c pa core line code detail dray : Nat) (nb : Bool) (w : Walk) (e : Tlb)
    (cmd : DrayCmd),
    let q := s.quarter quarter
    let found := ((q.walks.take 64).find? fun w => w.tenant = tenant && w.page = page) = some w
    let walked := s.walk tenant (page * 0x10000)
    let finished (t : State) : Prop := (t.quarter quarter).walks = (q.walks.filter fun v => v != w) ∧
      (∀ n, n ∉ s.walkWaiters quarter w → t.ctx n = s.ctx n) ∧
      ∀ n, n ∈ s.walkWaiters quarter w → (t.ctx n).r = (s.ctx n).r ∧ (t.ctx n).pc = (s.ctx n).pc ∧ (t.ctx n).asked = none
    let awaits := quarterOf core = quarter ∧ ((s.core core).dray dray).running = some cmd ∧ cmd.tenant = tenant ∧
      cmd.asked = some page
    let fails (code reason : Nat) (t : State) : Prop := finished t ∧ s.SameBytes t ∧ (t.quarter quarter).tlb = q.tlb ∧
      (∀ n, n ∈ s.walkWaiters quarter w →
        (t.ctx n).walkFail.head? = some (page, code, reason) ∧ (t.ctx n).iss.cause = none) ∧
      (awaits → ((t.core core).dray dray).running =
        some { cmd with asked := none, walkFail := (page, code, reason) :: cmd.walkFail })
    let x := s.ctx c
    let evicted (n : Nat) : Prop := ∃ l, (s.ctx n).line = some l ∧ (s.ctx n).tenant * 2 ^ 64 + l.1 = line
    ((∀ w, w ∈ q.walks.take 64 → ¬ (w.tenant = tenant ∧ w.page = page)) →
      exec (.walkComplete quarter tenant page) s = .next s) ∧
    (found → walked = .ok e entry → s.memoriesOk = true → Completes (.walkComplete quarter tenant page) s (fun t =>
      let dirty := w.write && e.perms.getLsbD 3
      finished t ∧ (t.quarter quarter).tlb.head? = some { e with dirty := e.dirty || dirty } ∧
        (∀ n, n ∈ s.walkWaiters quarter w → (t.core (coreOf n)).tlb.head? = some { e with dirty := e.dirty || dirty } ∧
          (t.ctx n).iss.cause = if (s.ctx n).iss.cause = some .walk then none else (s.ctx n).iss.cause) ∧
        (awaits → ((t.core core).dray dray).running = some { cmd with asked := none }) ∧
        (awaits → cmd.kind ≠ 2 → (t.core core).tlb.head? = some { e with dirty := e.dirty || dirty }) ∧
        mget t.mem entry = mget s.mem entry ||| (if dirty = true then 0xC0#8 else 0x40#8) ∧
        ∀ n, n ≠ entry → mget t.mem n = mget s.mem n)) ∧
    (found → walked = .fault reason → Completes (.walkComplete quarter tenant page) s (fails 3 reason)) ∧
    (found → walked = .violation → Completes (.walkComplete quarter tenant page) s (fails 4 0)) ∧
    let publishes := s.recording c = true ∧ x.man.published < x.man.lowest ∧ x.st ≠ .free ∧
      s.mayTranslate (coreOf c) x.tenant x.man.ctl { rd := true, wr := true } = true
    (publishes → s.translateNow (coreOf c) x.tenant x.man.ctl { rd := true, wr := true } = (.ok pa nb, u) →
      u.memoriesOk = true → Completes (.manifestHeadWrite c) s (fun t =>
        (u.backed pa = true → u.Holds t pa (toBytes 8 x.man.lowest)) ∧ (u.backed pa = false → u.SameBytes t) ∧
          t.ctx c = { x with man := { x.man with published := x.man.lowest } } ∧ ∀ n, n ≠ c → t.ctx n = s.ctx n)) ∧
    (publishes → s.translateNow (coreOf c) x.tenant x.man.ctl { rd := true, wr := true } = (.fault code detail, u) →
      Completes (.manifestHeadWrite c) s (fun t => (∀ n, n ≠ c → t.ctx n = s.ctx n) ∧
        t.ctx c = { x with man := { x.man with
          published := x.man.lowest, err := some { code := code, detail := detail, addr := x.man.ctl } } })) ∧
    (¬ publishes → exec (.manifestHeadWrite c) s = .next s) ∧
    Completes (.lineEviction (.l1i core) line) s (fun t =>
      s.SameBytes t ∧ t.ms = s.ms ∧ (t.core core).l1i = ((s.core core).l1i.filter fun e => e.1 != line) ∧
        (∀ n, n ≠ core → t.core n = s.core n) ∧
        ∀ n, (coreOf n = core → evicted n → (t.ctx n).line = none) ∧
          t.ctx n = { s.ctx n with line := (t.ctx n).line } ∧ (coreOf n ≠ core ∨ ¬ evicted n → t.ctx n = s.ctx n)) ∧
    Completes (.lineEviction (.plaza core) line) s (fun t =>
      t = { s with ms := { s.ms with plaza := t.ms.plaza } } ∧
        ∀ e, e ∈ t.ms.plaza ↔ e ∈ s.ms.plaza ∧ ¬ (e.1 % 32 = core ∧ e.1 / 32 = line)) ∧
    Completes (.lineEviction .home line) s (fun t => s.SameBytes t ∧ t.ms = s.ms ∧
      (∀ n e, e ∈ (t.core n).l1i → e ∈ (s.core n).l1i ∧ e.2.1 / 2 ≠ line) ∧
      ∀ n, t.ctx n = { s.ctx n with line := (t.ctx n).line })

/-- R60, R109, R110, R117: when an interval of a deterministic launch closes; the order of its batch, by launch admission, then
team, then program order; and what the batch leaves in memory, each operation on what the one before it left. Where the batch is
to be read in the host window first, or a record of it cannot be written yet (assumption log, 31), the close comes later. What an
overlap in mixed sizes gives is R82's, and is not said here (`alone`). -/
def Obligations.IntervalCloses : Prop :=
  ∀ (s : State) (l c d tm tm2 n t0 l1 l2 : Nat) (ls : List Nat) (o : BatchOp) (a b : Access) (v w : Word) (r r' : Bool),
    let x := s.launch l
    let u := (s.closesWith l).foldl (fun s l => s.gatherBatch l (s.launch l).closed) s
    let ops := u.batch (s.closesWith l)
    let m := ofBytes (mread s.mem a.pa n)
    let closes (t : State) : Prop := (t.launch l).closed = x.closed + 1 ∧ (t.launch l).roots.length = x.roots.length + 1
    let ready := s.closable l = true ∧ u.closeReady (s.closesWith l) ops = true
    let goes := ready ∧ u.hostUnread l ops = []
    let alone (u : State) (a : Access) : Prop := a.mixed = [] ∧ u.rivals none a.pa n n true = [] ∧ u.sentOver none a.pa n n = [] ∧
      u.ms.hostBatch = none
    (x.det = true → x.ended = false → x.replay = false → x.t0 = some t0 →
      (s.closeDue l = true ↔ t0 + (x.closed + 1) * 2 ^ x.ie ≤ s.tick)) ∧
    (x.det = false ∨ x.t0 = none ∨ x.ended = true → s.closable l = false) ∧
    (s.closable l = false → exec (.intervalClose l) s = .next s) ∧
    (s.closable l = true → u.closeReady (s.closesWith l) ops = false → exec (.intervalClose l) s = .next s) ∧
    (ready → u.hostUnread l ops ≠ [] → (u.ms.hostBatch = none → ∀ a, a ∈ u.hostUnread l ops → u.hostHeld none a = false) →
      Completes (.intervalClose l) s (fun t => s.SameBytes t ∧ (t.launch l).closed = x.closed ∧
        ∃ read, t.ms.hostBatch = some (l, read) ∧ ∀ a, a ∈ u.hostUnread l ops → (a, mget s.mem a) ∈ read)) ∧
    (goes → Completes (.intervalClose l) s closes) ∧
    (goes → ops = [] → Completes (.intervalClose l) s (fun t => s.SameBytes t ∧ closes t)) ∧
    ((s.batch ls).Pairwise fun p q => p.1.1 < q.1.1 ∨ (p.1.1 = q.1.1 ∧ (p.2.1 < q.2.1 ∨ (p.2.1 = q.2.1 ∧ p.2.2.id ≤ q.2.2.id)))) ∧
    (o ∈ s.batch ls ↔ ∃ k, k ∈ ls ∧ o ∈ s.batchOf k (s.launch k).closed) ∧
    (goes → ops = [((l1, c), tm, a)] → a.kind = .atomic 0 n v r → a.rcd = none → s.homeError a.pa = none → alone u a →
      s.recording c = false → s.memoriesOk = true → Completes (.intervalClose l) s (fun t =>
        s.Holds t a.pa (toBytes n ((m + v.toNat) % 2 ^ (8 * n))) ∧ closes t)) ∧
    (goes → ops = [((l1, c), tm, a), ((l2, d), tm2, b)] → a.kind = .atomic 0 n v r →
      b.kind = .atomic 0 n w r' → a.pa = b.pa → alone u a → b.mixed = [] → a.rcd = none → b.rcd = none → s.homeError a.pa = none →
      s.recording c = false → s.recording d = false → s.memoriesOk = true → Completes (.intervalClose l) s (fun t =>
        s.Holds t a.pa (toBytes n ((m + v.toNat + w.toNat) % 2 ^ (8 * n))) ∧ closes t)) ∧
    (c ≠ d → r' = true → b.kind = .atomic 0 n w r' → a.kind = .atomic 0 n v r → a.pa = b.pa → alone s a → b.mixed = [] →
      s.homeError a.pa = none → s.memoriesOk = true →
      let t := s.applyBatches [((l1, c), tm, a), ((l2, d), tm2, b)]
      (t.ctx d).q0 = (s.ctx d).q0.map fun e => if e.acc = b.id then
        { e with data := BitVec.ofNat 1024 ((m + v.toNat) % 2 ^ (8 * n)), filled := true } else e)

/-! ## Events of the matrix engine -/

/-- R168, R277, R279, R287, R289, R290, R293, R299, R357: the lease, the start of a command, of a gang's share too, which takes the B
operand of the core that feeds it as it stands then, its scales, the slew level, and the filling of a latch and of a B buffer. That all rows of a latch and all columns of a B buffer are taken at the moment the fill
ends is the model's choice (assumption log, 21). -/
def Obligations.MatrixStartsAndFills : Prop :=
  ∀ (s : State) (core c : Nat) (m : MCmd) (f : Fill) (mf : MmulFields) (entry : BitVec 64) (fmt : BitVec 32)
    (lit : Option (BitVec 32)) (lt bb : Bool) (lead : Nat × Nat),
    let k := s.core core
    let start (g : Nat) (x : MCmd) : MCmd := { x with start := some (k.et + g), startAt := s.cycle + g }
    (k.lease = none → k.scrubEnd ≤ s.cycle → k.frozen = false → s.selectFrom (s.leaseWaiters core) = some c →
      c ∈ s.leaseWaiters core ∧ (∀ d, d ∈ s.leaseWaiters core → s.classOf d ≤ s.classOf c) ∧
      Completes (.leaseGrant core) s (fun t =>
        t = { s with cores := t.cores, ctxs := t.ctxs } ∧ t.core core = { k with lease := some c } ∧
          (∀ n, n ≠ core → t.core n = s.core n) ∧ (∀ n, n ≠ c → t.ctx n = s.ctx n) ∧
          t.ctx c = { s.ctx c with iss := { (s.ctx c).iss with cause := none } })) ∧
    (k.lease ≠ none ∨ s.cycle < k.scrubEnd ∨ k.frozen = true ∨ s.leaseWaiters core = [] → exec (.leaseGrant core) s = .next s) ∧
    Completes (.leaseScrubDone core) s (fun t => s.OnlyCore t core ∧
      t.core core = { k with scrubEnd := if k.scrubEnd ≤ s.cycle then 0 else k.scrubEnd }) ∧
    (k.scaleTaker = some m → Completes (.matrixCommandStart core) s (fun t => s.OnlyCore t core ∧
      t.core core = { k with
        scales := k.scales.drop m.need
        cmds := k.cmds.map fun x => if x.id = m.id then { x with scales := k.scales.take m.need } else x })) ∧
    (k.scaleTaker = none → (k.nextCmd = none ∨ (k.nextCmd = some m ∧ s.startable core m = false)) →
      exec (.matrixCommandStart core) s = .next s) ∧
    (k.scaleTaker = none → k.nextCmd = some m → s.startable core m = true → m.isMmul = false →
      Completes (.matrixCommandStart core) s (fun t => s.OnlyCore t core ∧
        t.core core = { k with cmds := k.cmds.map fun x => if x.id = m.id then start 0 x else x })) ∧
    (k.scaleTaker = none → k.nextCmd = some m → s.startable core m = true → m.kind = .mmul mf entry fmt lit →
      let level := k.levelAt k.et
      let ramp := if level = 0 then 6 else if level = 1 then 3 else if level = 2 then 1 else 0
      let fed := (s.core (m.feed.getD core)).bbuf
      let starts (g : Nat) : Prop := Completes (.matrixCommandStart core) s (fun t =>
        t = { s with cores := t.cores, ms := { s.ms with ramps := t.ms.ramps } } ∧ (∀ n, n ≠ core → t.core n = s.core n) ∧
        (0 < level → t.ms.ramps = s.ms.ramps) ∧
        t.core core = { k with
          rampFrom := k.et + g - ramp, rampLevel := level, rowsEnd := k.et + g + mf.m.toNat
          cmds := k.cmds.map fun x => if x.id = m.id then { start g x with
              g := g
              ramp := ramp
              lat := fget {} k.lat (if mf.lt = true then 1 else 0)
              buf := { (fget {} fed (if mf.bb = true then 1 else 0) : BBuf) with k := m.buf.k, n := m.buf.n } } else x })
      (m.lead = none → s.shares core m.id = [] → k.rowsEnd ≤ k.et → starts ramp) ∧
      (m.lead = some lead → starts (max (m.startAt - s.cycle) ramp))) ∧
    Completes (.slewStep core) s (fun t => s.OnlyCore t core ∧
      t.core core = { k with level := if s.engineRuns core = true then k.levelAt k.et else k.level }) ∧
    (s.fillReady core true lt = none → exec (.porterGatherFill core lt) s = .next s) ∧
    (s.fillReady core true lt = some f → Completes (.porterGatherFill core lt) s (fun t =>
      let n := if lt = true then 1 else 0
      let l : Latch := fget {} (t.core core).lat n
      s.OnlyCore t core ∧ t.core core = { k with lat := (t.core core).lat, gathers := fput k.gathers n none } ∧
        (∀ i, i ≠ n → (fget {} (t.core core).lat i : Latch) = fget {} k.lat i) ∧
        l = { (fget {} k.lat n : Latch) with rows := l.rows, poisoned := l.poisoned } ∧
        (l.poisoned = true ↔ ∃ r, r ∈ gatherRanges f.base (fmtRowBytes f.fmt) f.idx ∧ k.spPoisoned r.1 r.2 = true) ∧
        (∀ i, f.idx[i]? = some none → fget (.bytes []) l.rows i = .padding) ∧
        ∀ i j, f.idx[i]? = some (some j) →
          fget (.bytes []) l.rows i = .bytes (mread k.scratch (f.base + 128 * j) (fmtRowBytes f.fmt)))) ∧
    (s.fillReady core false bb = none → exec (.weightLoadFill core bb) s = .next s) ∧
    (s.fillReady core false bb = some f → Completes (.weightLoadFill core bb) s (fun t =>
      let n := if bb = true then 1 else 0
      let l : BBuf := fget {} (t.core core).bbuf n
      let stride := columnStride f.fmt f.k
      let blocks := (f.k + 31) / 32
      s.OnlyCore t core ∧ t.core core = { k with bbuf := (t.core core).bbuf, loads := fput k.loads n none } ∧
        (∀ i, i ≠ n → (fget {} (t.core core).bbuf i : BBuf) = fget {} k.bbuf i) ∧
        l = { (fget {} k.bbuf n : BBuf) with cols := l.cols, scales := l.scales, poisoned := l.poisoned } ∧
        (l.poisoned = true ↔ ∃ r, r ∈ weightRanges f.base f.fmt f.k f.n f.scaled ∧ k.spPoisoned r.1 r.2 = true) ∧
        (∀ j, j < f.n → fget [] l.cols j = mread k.scratch (f.base + j * stride) (columnBytes f.fmt f.k)) ∧
        (f.scaled = true → ∀ j, j < f.n →
          fget [] l.scales j = mread k.scratch (f.base + f.n * stride + j * blocks) blocks)))

/-- R176, R181, R202, R291, R292, R294–R296, R300: what each row of a command leaves, at its fixed engine time, and what the
command's end leaves; the exact integer sum of an element. Which rows of accumulators a fill or a command takes at which moment
is the model's choice where the rules leave it (assumption log, 21). -/
def Obligations.MatrixRowEvents : Prop :=
  ∀ (s : State) (core id t0 : Nat) (m : MCmd) (f : MmulFields) (entry : BitVec 64) (fmt v : BitVec 32)
    (lit : Option (BitVec 32)) (row n addr ofmt bay : Nat) (clr init : Bool) (rm : BitVec 2) (x : MCtx) (ident : BitVec 32)
    (a : Option (List Nat)) (cols : List (List Nat × List Nat)) (sa as bs : List Nat) (old : BitVec 4096) (j z : Nat),
    let k := s.core core
    let runs := k.cmd id = some m ∧ m.start = some t0 ∧ s.engineRuns core = true
    let kept (row : Nat) : Prop := ∀ w old, ffind k.accWas row = some (w, old) → w ≤ id
    let next (t : State) (g : MCmd → MCmd) : Prop :=
      (t.core core).cmds = k.cmds.map (fun y => if y.id = id then g y else y) ∧
        t.core core = { k with cmds := (t.core core).cmds, acc := (t.core core).acc, accWas := (t.core core).accWas
                               accPoison := (t.core core).accPoison, scratch := (t.core core).scratch
                               spPoison := (t.core core).spPoison }
    let writes (t : State) (row : Nat) (v : BitVec 4096) : Prop :=
      (kept row → fget 0#4096 (t.core core).acc row = v) ∧
        (¬ kept row → fget 0#4096 (t.core core).acc row = fget 0#4096 k.acc row) ∧
        ∀ i, i ≠ row → fget 0#4096 (t.core core).acc i = fget 0#4096 k.acc i ∧
          (i ∈ (t.core core).accPoison ↔ i ∈ k.accPoison)
    let width := if ofmt = 0 then 4 else if ofmt = 1 ∨ ofmt = 2 ∨ ofmt = 7 then 8 else if ofmt = 6 ∨ ofmt = 8 then 16
      else if ofmt = 11 then 1 else 32
    (runs → m.kind = .mmul f entry fmt lit → t0 + 20 + m.done ≤ k.et → m.done < f.m.toNat →
      let r := m.accbase + f.row.toNat + m.done
      let y := mctxOf f entry fmt
      let sa := if fmtAs fmt = true then ((m.scales.drop (m.done * blocksOf m.buf.k)).take (blocksOf m.buf.k)).map BitVec.toNat
        else []
      let w := mRow y (decide (f.mode = 1#2)) (y.op.start y.pair y.cf) (m.lat.row m.done y.af m.buf.k)
        (m.buf.columns y.bf (fmtBs fmt)) sa (k.accRead r)
      (m.lat.poisoned = false → m.buf.poisoned = false → m.badFrom = none → Completes (.mmulRowWrite core id) s (fun t =>
        s.OnlyCore t core ∧ writes t r w.1 ∧ next t (fun y => { y with done := y.done + 1, flags := y.flags ||| w.2 }) ∧
          (kept r → f.mode = 1#2 → r ∉ (t.core core).accPoison))) ∧
      (m.lat.poisoned = true ∨ m.buf.poisoned = true ∨ (∃ n, m.badFrom = some n ∧ n ≤ m.done) → Completes (.mmulRowWrite core id) s (fun t =>
        s.OnlyCore t core ∧ writes t r 0#4096 ∧ next t (fun y => { y with done := y.done + 1 }) ∧
          (kept r → r ∈ (t.core core).accPoison)))) ∧
    (runs → m.kind = .mzero row n v → t0 + 2 + m.done ≤ k.et → m.done < n → Completes (.mzeroRowWrite core id) s (fun t =>
      let r := m.accbase + row + m.done
      s.OnlyCore t core ∧ writes t r (fillRow v) ∧ next t (fun y => { y with done := y.done + 1 }) ∧
        (kept r → r ∉ (t.core core).accPoison))) ∧
    (j < 128 → rowElem (fillRow v) j = v.toNat) ∧
    (runs → m.kind = .mdrain row n addr ofmt clr rm → clr = true → m.cleared < m.done → t0 + 5 + m.cleared ≤ k.et →
      Completes (.mdrainRow core id) s (fun t => s.OnlyCore t core ∧ writes t (m.accbase + row + m.cleared) 0#4096 ∧
        next t (fun y => { y with cleared := y.cleared + 1 }) ∧ (t.core core).scratch = k.scratch)) ∧
    (runs → m.kind = .mdrain row n addr ofmt clr rm → clr = false ∨ m.done ≤ m.cleared ∨ k.et < t0 + 5 + m.cleared →
      m.done < n → t0 + 4 + m.done ≤ k.et → ofmt < 3 ∨ 5 < ofmt → s.memoriesOk = true → Completes (.mdrainRow core id) s (fun t =>
        let out := drainRow ofmt rm (k.accRead (m.accbase + row + m.done)) 128
        let at_ := addr + m.done * (16 * width)
        s.OnlyCore t core ∧ (t.core core).acc = k.acc ∧ (t.core core).accPoison = k.accPoison ∧
          next t (fun y => { y with done := y.done + 1, flags := y.flags ||| out.2 }) ∧
          mread (t.core core).scratch at_ (16 * width) = toBytes (16 * width) out.1 ∧
          ∀ i, i < at_ ∨ at_ + 16 * width ≤ i → mget (t.core core).scratch i = mget k.scratch i)) ∧
    (runs → m.kind = .mdrainb row bay ofmt rm → t0 + 1 ≤ k.et → m.done = 0 → ofmt < 3 ∨ 5 < ofmt → Completes (.mdrainbRead core id) s (fun t =>
      let out := drainRow ofmt rm (k.accRead (m.accbase + row)) 128
      let o := s.ctx m.owner
      next t (fun y => { y with done := 1, flags := y.flags ||| out.2, landSeq := some o.seq }) ∧ s.SameBytes t ∧
        (∀ i, i ≠ m.owner → t.ctx i = s.ctx i) ∧ ∃ p : Pending,
          t.ctx m.owner = { o with pend := o.pend ++ [p], seq := o.seq + 1 } ∧ p.slot = 3 ∧ p.bundle = m.bundle ∧
            p.act = .land bay (BitVec.ofNat 1024 out.1) allBits 0#9 false ∧ m.issueK + 8 + (t0 - m.issue) ≤ p.due)) ∧
    (k.cmd id = none → exec (.mmulRowWrite core id) s = .next s ∧ exec (.mzeroRowWrite core id) s = .next s ∧
      exec (.mdrainRow core id) s = .next s ∧ exec (.mdrainbRead core id) s = .next s ∧
      exec (.matrixCommandComplete core id) s = .next s) ∧
    (k.cmd id = some m → s.cmdOver m = true → k.frozen = false → Completes (.matrixCommandComplete core id) s (fun t =>
      let o := s.ctx m.owner
      let y := t.ctx m.owner
      s.SameBytes t ∧ (∀ i, i ≠ m.owner → t.ctx i = s.ctx i) ∧ (∀ i, i ≠ core → t.core i = s.core i) ∧
        t.core core = { k with
          cmds := k.cmds.filter (fun x => x.id != id), idleAt := fdel k.idleAt m.bundle.toNat, lastBundle := some m.bundle } ∧
        y = { o with r := { o.r with xrec := y.r.xrec }, lsu := y.lsu, seq := y.seq } ∧
        Recorded (fget 0#64 o.r.xrec 3) (fget 0#64 y.r.xrec 3) m.bundle m.flags ∧
        (∀ i, i ≠ 3 → fget 0#64 y.r.xrec i = fget 0#64 o.r.xrec i) ∧
        (m.kind = .mmul f entry fmt lit → f.cbar ≠ 0#6 → ∃ b : Access, y.lsu = o.lsu ++ [.access b] ∧ b.slot = 3 ∧ b.rcd = m.rcd ∧
          b.kind = .arrive f.cbar.toNat 2 0) ∧
        (m.isMmul = false → y.lsu = o.lsu))) ∧
    (j < 128 → cols.length ≤ j → rowElem (mRow x init ident a cols sa old).1 j = rowElem old j) ∧
    (x.pair = .int → x.op.sat = false → as.length = bs.length → (mElem x false (some as) bs [] [] z).1 =
      bitsOf 32 (intOf 32 z + ((as.zip bs).map fun p => intOf (fmtWidth x.af) p.1 * intOf (fmtWidth x.bf) p.2).sum))

/-! ## Events of teams and launches -/

/-- R32, R109, R138, R139, R141, R142, R144, R146, R165: the installation of a team and the state it starts in, and the release of a
pass; the contexts that a co-resident launch waits for are held for it, and drains for a launch end where its teams are installed.
What selects the head of a queue, beyond its class and age, is the model's choice (assumption log, 16). -/
def Obligations.TeamStarts : Prop :=
  ∀ (s u : State) (quarter n t core : Nat) (o : Object),
    let l := s.launch n
    let need := l.room o
    let c := (s.freeOn core).headD (4 * core)
    let i := indicesOf l.spatial t
    let word (x : Nat) : Word := BitVec.ofNat 64 x
    let free := s.unclaimed n
    let drains (u v : State) : Prop := v = { u with launches := v.launches } ∧ ∀ m, v.launch m = { u.launch m with
      drained := (u.launch m).drained.map fun d => (d.1, d.2.filter fun x =>
        x != n || ((u.launch n).teamsIn d.1).any fun t => ((u.launch n).team t).queued) }
    let ready := s.schedsReady n quarter = true
    (s.queueHead quarter = none → exec (.teamInstall quarter) s = .next s) ∧
    (s.queueHead quarter = some (n, t) → (l.team t).st ≠ .waiting ∨ ¬ ready → exec (.teamInstall quarter) s = .next s) ∧
    (l.recording = false → ready) ∧
    (s.queueHead quarter = some (n, t) → s.object l.object = some o → (l.team t).st = .waiting →
      l.cores = false ∨ l.untouched = false → l.recording = false → l.replay = false → l.gangSize = 1 →
      (s.places (l.quarterOf t) 1 (fun c => s.hasRoom c need) = none → Completes (.teamInstall quarter) s (drains s)) ∧
      (s.places (l.quarterOf t) 1 (fun c => s.hasRoom c need) = some [core] → coreOf c = core →
        Completes (.teamInstall quarter) s (fun v =>
          let y := v.ctx c
          (∀ d, d ≠ c → v.ctx d = s.ctx d) ∧ ((v.launch n).team t).st = .resident ∧ ((v.launch n).team t).ctx = c ∧
          y.st = .resident ∧ y.launch = n ∧ y.team = t ∧ y.tenant = l.tenant ∧ y.pc = BitVec.ofNat 64 (o.bundleVa + o.entry) ∧
          y.r.sreg 1#5 = word (i.getD 0 0) ∧ y.r.sreg 2#5 = word (i.getD 1 0) ∧ y.r.sreg 3#5 = word (i.getD 2 0) ∧
          y.r.sreg 4#5 = word (i.getD 3 0) ∧ y.r.sreg 5#5 = word t ∧ y.r.sreg 6#5 = word l.count ∧ y.r.sreg 7#5 = l.args ∧
          y.r.sreg 8#5 = 0#64 ∧ y.r.sreg 9#5 = word (l.temporal.getD 0 0) ∧ y.r.sreg 13#5 = 0#64 ∧
          (∀ j, y.r.staint j = 0#9 ∧ y.r.ptaint j = 0#9 ∧ (j ≠ 0#5 → y.r.preg j = 0#32)) ∧
          (∀ j, y.r.bay j = 0#1024 ∧ y.r.btaint j = 0#9 ∧ fget 0#1024 y.r.a j = 0#1024) ∧ y.r.ctl = 0#9 ∧
          y.bundles = 0 ∧ y.iss.kappa = 0 ∧ y.q0 = [] ∧ y.q1 = [] ∧ y.lsu = [] ∧ y.pend = [] ∧ y.tokens = [] ∧
          (∀ b, b < 48 → l.grant.getLsbD b = true →
            fget 0 (v.core core).bankOwner b = c + 1 ∧ fget 0 (v.core core).bankZero b = s.cycle + 512) ∧
          y.acclim = y.accbase + l.accrows ∧ y.cwlim = y.cwbase + (o.cwt.length + 31) / 32 * 32))) ∧
    (s.queueHead quarter = some (n, t) → s.object l.object = some o → (l.team t).st = .waiting → l.cores = true → l.untouched = true → ready →
      (free = { s with launches := free.launches } ∧ free.launch n = { l with claiming := false, claims := [] }) ∧
      (State.installAll n o l.units free = some u → Completes (.teamInstall quarter) s (drains u)) ∧
      (State.installAll n o l.units free = none → l.claiming = true → Completes (.teamInstall quarter) s (drains s)) ∧
      (State.installAll n o l.units free = none → l.claiming = false →
        State.installAll n o l.units (s.afterPreemption n) = some u → Completes (.teamInstall quarter) s (fun v =>
          v = { s with launches := v.launches } ∧ v.launch n = { l with
            claiming := true, claims := (u.launch n).teams.map (fun e => e.2.ctx), drained := (v.launch n).drained } ∧
          ∀ d, d ∈ (u.launch n).teams.map (fun e => e.2.ctx) → v.claimed d = true ∧ ∀ core, d ∉ v.freeOn core)) ∧
      (State.installAll n o l.units free = none → l.claiming = false → State.installAll n o l.units (s.afterPreemption n) = none →
        Completes (.teamInstall quarter) s (fun v => (v.launch n).ended = true ∧ (v.launch n).status = 9 ∧
          (v.launch n).claiming = false ∧ ∀ d, v.ctx d = s.ctx d))) ∧
    ((∀ x, x ∈ l.pass → l.quarterOf x ≠ quarter) → exec (.teamRelease n quarter) s = .next s) ∧
    ((l.pass.filter fun x => l.quarterOf x = quarter) = [t] → Completes (.teamRelease n quarter) s (fun v =>
      let c := (l.team t).ctx
      (∀ d, d ≠ c → v.ctx d = s.ctx d) ∧ v.phase c = 0 ∧ (v.ctx c).iss.nextPhase = 0 ∧
        (v.ctx c).iss.notBefore = some (s.cycle + 32 * (s.ctx c).cpos) ∧ (v.ctx c).r = (s.ctx c).r ∧
        (v.launch n).t0 = (match l.t0 with | some x => some x | none => some s.tick) ∧
        (∀ x, x ∈ (v.launch n).pass ↔ x ∈ l.pass ∧ l.quarterOf x ≠ quarter)))

/-- R29, R39, R40, R140, R145, R153, R171, R174, R185, R186, R253, R277: resumption, the ends of a team and of its Caravan, the
scrub of its context, and the end and the status of its launch. That a Caravan whose member ends is killed with it, and when, is
the model's reading (assumption log, 38); the states and causes that the rules leave to the reader are named in log entry 16. -/
def Obligations.TeamEnds : Prop :=
  ∀ (s : State) (c b n : Nat) (mask : BitVec 6) (l : Launch),
    let x := s.ctx c
    let k := s.core (coreOf c)
    let code := (x.fault.extractLsb' 0 8).toNat
    let detail := (x.fault.extractLsb' 8 8).toNat
    let violates (x : Ctx) : Prop := ∃ r, r ∈ x.reports ∧ r.code = 4
    let resumes := code ≠ 4 ∧ code ≠ 0x0C ∧ code ≠ 0x12 ∧ code ≠ 0x14
    let left (t : State) : Prop := (t.ctx c).st = .releasing ∧ (t.ctx c).pend = [] ∧ (∀ d, d ≠ c → t.ctx d = s.ctx d)
    let ended (st : TeamState) (cause : Cause) (t : State) : Prop := left t ∧
      ((t.launch x.launch).team x.team).st = st ∧ ((t.launch x.launch).team x.team).cause = cause ∧
      ((t.launch x.launch).team x.team).mstall = x.man.mstall ∧ (t.core (coreOf c)).lease ≠ some c
    (x.st = .held → resumes → k.frozen = false → Completes (.firmwareResume c mask) s (fun t => s.OnlyCtx t c ∧
      t.ctx c = { x with st := .resident, skip := x.donemask ||| mask, donemask := x.donemask ||| mask
                         iss := { x.iss with cause := none } })) ∧
    (x.st ≠ .held ∨ ¬ resumes ∨ k.frozen = true → exec (.firmwareResume c mask) s = .next s) ∧
    (x.st ≠ .held → exec (.firmwareEndTeam c) s = .next s) ∧
    (x.st = .held → (∃ d, d ∈ s.gangOf c ∧ d ≠ c ∧ s.stranded d = true) → exec (.firmwareEndTeam c) s = .next s) ∧
    (x.st = .held → (s.gangOf c).filter (fun d => d != c) = [b] → s.stranded b = false → s.drayCmds c = [] → s.drayCmds b = [] →
      let y := s.ctx b
      y.st = .resident → ¬ violates y → Completes (.firmwareEndTeam c) s (fun t =>
        (t.ctx c).st = .releasing ∧ (t.ctx b).st = .releasing ∧ ((t.launch y.launch).team y.team).st = .ended ∧
          ((t.launch y.launch).team y.team).cause = .killed ∧ ∀ d, d ≠ c → d ≠ b → t.ctx d = s.ctx d)) ∧
    (x.st = .held → x.csize = 0 → s.drayCmds c = [] →
      (code = 4 ∨ violates x → Completes (.firmwareEndTeam c) s (fun t =>
        ended .faulted .violation t ∧ (t.launch x.launch).killing = true)) ∧
      (code = 0x14 → detail = 2 ∨ detail = 3 → ¬ violates x → Completes (.firmwareEndTeam c) s (fun t =>
        ended .faulted .memerr t ∧ (t.launch x.launch).killing = true)) ∧
      (code ≠ 4 → code ≠ 0x14 ∨ (detail ≠ 2 ∧ detail ≠ 3) → ¬ violates x → Completes (.firmwareEndTeam c) s (fun t =>
        ended .faulted .fault t ∧ ((t.launch x.launch).team x.team).fault = x.fault ∧
          ((t.launch x.launch).team x.team).faddr = x.faddr))) ∧
    (x.st = .resident → x.iss.done = true → x.skip = 0#6 → k.lease = some c → k.matrixBusy c = false →
      s.feedsShares (coreOf c) = false →
      Completes (.teamFinish c) s (fun t => s.OnlyCore t (coreOf c) ∧ t.core (coreOf c) = { k with
        lease := none, scrubEnd := s.cycle + 96, lat := [], bbuf := [], gathers := [], loads := [], scales := []
        scalePoison := false, lastBundle := none, idleAt := [] })) ∧
    (s.finishable c = true → k.lease ≠ some c → s.recording c = false → Completes (.teamFinish c) s (fun t =>
      left t ∧ ((t.launch x.launch).team x.team).st = .finished ∧
        ((t.launch x.launch).team x.team).cause = ((s.launch x.launch).team x.team).cause)) ∧
    (s.finishable c = true → x.st = .resident ∧ x.iss.done = true ∧ x.skip = 0#6 ∧ x.accesses = [] ∧ x.pend = [] ∧
      s.drayCmds c = [] ∧ ¬ violates x) ∧
    (x.iss.done = false ∨ x.skip ≠ 0#6 → exec (.teamFinish c) s = .next s) ∧
    (x.st = .releasing → x.accesses = [] → s.drayCmds c = [] → (∀ y, y ∈ s.ms.sent → y.owner ≠ c) → Completes (.scrubComplete c) s (fun t =>
      t.ctx c = { iss := { off := x.iss.off } } ∧ (∀ d, d ≠ c → t.ctx d = s.ctx d) ∧
        (∀ b, fget 0 (t.core (coreOf c)).bankOwner b ≠ c + 1) ∧ (t.core (coreOf c)).lease ≠ some c ∧
        (∀ r, x.accbase ≤ r → r < x.acclim → fget 0#4096 (t.core (coreOf c)).acc r = 0#4096) ∧
        (∀ r, x.cwbase ≤ r → r < x.cwlim → fget 0#256 (t.core (coreOf c)).cwt r = 0#256))) ∧
    (x.st ≠ .releasing ∨ x.accesses ≠ [] ∨ s.drayCmds c ≠ [] ∨ (∃ y, y ∈ s.ms.sent ∧ y.owner = c) → exec (.scrubComplete c) s = .next s) ∧
    (ffind s.launches n = none → exec (.kill n) s = .next s ∧ exec (.launchEnd n) s = .next s) ∧
    (ffind s.launches n = some l → l.ended = false →
      (s.contextsIn n = [] → Completes (.kill n) s (fun t =>
        (t.launch n).killing = true ∧ (t.launch n).claiming = false ∧ (t.launch n).claims = [] ∧ (t.launch n).pass = [] ∧
        ∀ i, i < l.count →
          if (l.team i).st = .waiting ∨ (l.team i).st = .saved then
            ((t.launch n).team i).st = .ended ∧ ((t.launch n).team i).cause = .killed
          else (t.launch n).team i = l.team i)) ∧
      (s.contextsIn n = [c] → x.launch = n → x.team < l.count → x.st = .resident → ¬ violates x → s.drayCmds c = [] →
        Completes (.kill n) s (fun t => ended .ended .killed t ∧ (t.launch n).killing = true)) ∧
      (s.contextsIn n = [c] → x.launch = n → x.team < l.count → x.st = .held ∧ code = 4 ∨ (x.st = .held ∨ x.st = .resident) ∧ violates x →
        s.drayCmds c = [] →
        Completes (.kill n) s (fun t => ended .faulted .violation t ∧ (t.launch n).killing = true)) ∧
      ((∃ i, i < l.count ∧ (l.team i).over = false) ∨ s.underWay n = true → exec (.launchEnd n) s = .next s) ∧
      ((∀ i, i < l.count → (l.team i).over = true) → s.underWay n = false → Completes (.launchEnd n) s (fun t =>
        (∀ d, t.ctx d = s.ctx d) ∧ (t.launch n).ended = true ∧ (t.launch n).tend = s.tick ∧
          (l.violated = true ∨ (∃ e, e ∈ l.teams ∧ e.2.cause = .violation) → (t.launch n).status = 0x0C) ∧
          (l.violated = false → (∀ e, e ∈ l.teams → e.2.cause ≠ .violation) → (∃ e, e ∈ l.teams ∧ e.2.cause = .memerr) →
            (t.launch n).status = 0x0D) ∧
          (l.violated = false → (∀ e, e ∈ l.teams → e.2.cause = .none ∨ e.2.cause = .killed) → (∃ e, e ∈ l.teams ∧ e.2.cause = .killed) →
            (t.launch n).status = 0x0F) ∧
          (l.violated = false → (∀ e, e ∈ l.teams → e.2.cause = .none) → (t.launch n).status = 1))))

/-- R37, R84, R140, R142, R144, R145, R170, R175, R179, R182–R189, R330, R331: a victim of pre-emption, the saving of a context
and its return, the freeze of a core and the move to its spare. The model's own choices are in the assumption log: what a damaged
bay, anchor or control word holds (10), the selection of victims and of savable contexts beyond the rules' words (16), the bytes
of an image's sections (17), and how a Caravan moves together (38). -/
def Obligations.TeamMoves : Prop :=
  ∀ (s : State) (c core quarter n t v p : Nat) (im : Image) (key : BitVec 256) (damage : Damage) (d u : Nat),
    let x := s.ctx c
    let l := s.launch x.launch
    let k := s.core core
    let slot : KeySlot := fget {} s.pf.keys x.tenant
    let others (w : State) : Prop := ∀ e, e ≠ c → w.ctx e = s.ctx e
    let tokens := if s.urgentIn quarter n = true then 16 else (s.launch n).tokens
    let violates := ∃ r, r ∈ x.reports ∧ r.code = 4
    let blocked := s.classHeads quarter = [(n, t)] ∧ s.freeing quarter = false ∧ s.headBlocked quarter n t = true
    -- pre-emption
    (s.queueHead quarter = none → exec (.preemption quarter) s = .next s ∧ exec (.teamRestore quarter) s = .next s) ∧
    (p < 4 → s.headOf quarter ((s.queuedIn quarter).filter fun m => !s.drainedIn m quarter && (s.launch m).prio = p) = some (n, t) →
      (n, t) ∈ s.classHeads quarter) ∧
    (blocked → s.victim n tokens quarter = none → exec (.preemption quarter) s = .next s) ∧
    (blocked → s.victim n tokens quarter = some v → s.actionOn v = some .kill → Completes (.preemption quarter) s (fun w =>
      w = { s with launches := w.launches } ∧ w.launch v = { s.launch v with killing := true })) ∧
    (blocked → s.victim n tokens quarter = some v → s.actionOn v = some .checkpoint →
      (s.launch v).residents ((s.launch v).actedIn quarter) = [c] →
      (s.savable c = true → x.csize = 0 → Completes (.preemption quarter) s (fun w => others w ∧ (w.ctx c).st = .saving ∧
        (w.ctx c).r = x.r ∧ (w.ctx c).pc = x.pc)) ∧
      (s.savable c = false → Completes (.preemption quarter) s (fun w => w = { s with launches := w.launches } ∧
        ∀ e, e ∈ (s.launch v).teams → e.2.st = .resident → (s.launch v).quarterOf e.1 ∈ (s.launch v).actedIn quarter →
          e.1 ∈ (w.launch v).saving))) ∧
    (blocked → s.victim n tokens quarter = some v → s.actionOn v = some .drain → s.schedsReady v quarter = true →
      (∀ e, e ∈ (s.launch v).residents [quarter] → s.recording e = false) → (s.launch v).cores = false → Completes (.preemption quarter) s (fun w =>
        w = { s with launches := w.launches } ∧
        ∀ m, m ∈ (fget [] (w.launch v).drained quarter : List Nat) ↔ m = n ∨ m ∈ (fget [] (s.launch v).drained quarter : List Nat))) ∧
    (blocked → s.victim n tokens quarter = some v → s.actionOn v = some .drain → s.schedsReady v quarter = false →
      exec (.preemption quarter) s = .next s) ∧
    (s.actionOn v = some .drain → (s.launch v).estimate ≠ 0xFFFFFFFF) ∧
    (s.actionOn v = some .kill → (s.launch v).killable = true ∧ s.canCheckpoint v = false) ∧
    -- saving
    (x.st = .resident → s.savable c = true →
      ((∃ e, e ∈ s.gangOf c ∧ s.savable e = false ∧ (s.ctx e).st ≠ .saving ∧ (s.ctx e).st ≠ .releasing) →
        exec (.checkpoint c) s = .next s) ∧
      ((∀ e, e ∈ s.gangOf c → s.savable e = true) → Completes (.checkpoint c) s (fun w =>
        (∀ e, e ∈ s.gangOf c → (w.ctx e).st = .saving ∧ (w.ctx e).r = (s.ctx e).r ∧ (w.ctx e).pc = (s.ctx e).pc) ∧
          ∀ e, e ∉ s.gangOf c → w.ctx e = s.ctx e))) ∧
    (x.st ≠ .saving → s.savable c = false → exec (.checkpoint c) s = .next s) ∧
    (x.st = .resident → s.savable c = true → x.csize = 0 → Completes (.checkpoint c) s (fun w => others w ∧
      w.ctx c = { x with st := .saving, iss := { x.iss with cause := none, active := false } } ∧
        (w.core (coreOf c)).width ≠ some c)) ∧
    (x.st = .saving → (x.reports.find? fun r => r.code = 4) = none → 
      s.quiet c = false ∨ s.fillsSettled c = false ∨ s.schedReady x.launch (quarterOf (coreOf c)) = false → exec (.checkpoint c) s = .next s) ∧
    (x.st = .saving → (x.reports.find? fun r => r.code = 4) = none → s.quiet c = true → s.fillsSettled c = true →
      s.recording c = false → slot.key = some key → s.canSeal x.tenant = true →
      let sealed := s.modPf fun p => { p with keys := fput p.keys x.tenant { key := some key, counter := slot.counter + 1 } }
      let plain := sealed.capture c key []
      sealed.areaFault x.tenant (pagePieces 66 (l.imageAt x.team)
          (sealed.imageBytes { plain with sections := plain.table } key (slot.counter + 1) l.object).length) = none →
      Completes (.checkpoint c) s (fun w => others w ∧ (w.ctx c).st = .releasing ∧
        ((w.launch x.launch).team x.team).st = .saved ∧ ((w.launch x.launch).team x.team).counter = slot.counter + 1 ∧
        (fget {} w.pf.keys x.tenant : KeySlot) = { key := some key, counter := slot.counter + 1 } ∧
        ∃ im, im ∈ w.pf.images ∧ im.key = key ∧ im.ctx.r = x.r ∧ im.ctx.pc = x.pc ∧ im.ctx.pend = x.pend ∧ im.ctx.q0 = x.q0 ∧
          im.ctx.tokens = x.tokens ∧ im.sections = im.table ∧ im.bytes.take 64 =
            imageHeader x (decide ((s.core (coreOf c)).lease = some c)) (slot.counter + 1) im.bytes.length l.object)) ∧
    (∀ e, e ∈ im.table → (1 ≤ e.1 ∧ e.1 ≤ 17) ∧ (e.1 = 17 → im.lease = true)) ∧ im.table.Pairwise (fun a b => a.1 < b.1) ∧
    -- return
    (s.queueHead quarter = some (n, t) → s.unitLeaving n t = true ∨ s.schedReady n quarter = false →
      exec (.teamRestore quarter) s = .next s) ∧
    (s.queueHead quarter = some (n, t) → ((s.launch n).team t).st = .saved → s.unitLeaving n t = false → s.schedReady n quarter = true →
      (s.savedUnit n t = [(t, .nokey)] → Completes (.teamRestore quarter) s (fun w => (∀ e, w.ctx e = s.ctx e) ∧
        ((w.launch n).team t).st = .faulted ∧ ((w.launch n).team t).cause = .nokey)) ∧
      (s.savedUnit n t = [(t, .bad d)] → Completes (.teamRestore quarter) s (fun w => (∀ e, w.ctx e = s.ctx e) ∧
        ((w.launch n).team t).st = .faulted ∧ ((w.launch n).team t).cause = .fault ∧
          ((w.launch n).team t).fault = faultWord 0x14 d 0)) ∧
      (s.savedUnit n t = [(t, .ok im)] → (s.launch n).recording = false → im.ctx.bars = [] → im.drays = [] →
        s.memoriesOk = true → Memory.wf im.scratch = true →
        s.places quarter 1 (fun core => s.eligible n (coreOf ((s.launch n).team t).ctx) im core &&
          (s.unitCores n t).all fun o => plazaOf o = plazaOf core && o != core) = some [core] →
        (s.freeOn core).headD (4 * core) = c → coreOf c = core → Completes (.teamRestore quarter) s (fun w => others w ∧
          ((w.launch n).team t).st = .resident ∧ ((w.launch n).team t).ctx = c ∧ (w.ctx c).st = .resident ∧
          (w.ctx c).r = im.ctx.r ∧ (w.ctx c).pc = im.ctx.pc ∧ (w.ctx c).q0 = im.ctx.q0 ∧ (w.ctx c).tokens = im.ctx.tokens ∧
          (w.ctx c).skip = im.ctx.skip ∧ (w.ctx c).iss.kappa = im.ctx.iss.kappa ∧ (w.ctx c).tenant = (s.launch n).tenant ∧
          (∀ b, b < 48 → im.banks.getLsbD b = true → fget 0 (w.core core).bankOwner b = c + 1 ∧ w.zeroing core b = false ∧
            ∀ a, 0x10000 * b ≤ a → a < 0x10000 * (b + 1) → mget (w.core core).scratch a = mget im.scratch a)))) ∧
    -- freeze and migration
    (216 ≤ core ∨ k.frozen = true ∨ k.retired = true → exec (.coreFreeze core damage) s = .next s) ∧
    (core < 216 → k.frozen = false → k.retired = false → Completes (.coreFreeze core damage) s (fun w =>
      (w.core core).frozen = true ∧ (w.core core).width = none ∧ (∀ e, coreOf e ≠ core → w.ctx e = s.ctx e) ∧
        (∀ a, mget w.mem a = mget s.mem a) ∧
        (coreOf c = core → x.st = .resident ∨ x.st = .saving → (w.ctx c).st = .frozen ∧
          (w.ctx c).r = { x.r with b := (w.ctx c).r.b, a := (w.ctx c).r.a } ∧
          (∀ i, damage = .bay v u → v % 4 ≠ c % 4 ∨ i ≠ u % 32 → fget 0#1024 (w.ctx c).r.b i = fget 0#1024 x.r.b i) ∧
          ((∀ i j, damage ≠ .bay i j) → (w.ctx c).r.b = x.r.b) ∧ ((∀ i j, damage ≠ .anchor i j) → (w.ctx c).r.a = x.r.a) ∧
          ((w.ctx c).fault = faultWord 0x14 1 0 ∨ (w.ctx c).fault = faultWord 0x14 1 3) ∧
          ((w.launch x.launch).team x.team).st = .migrating) ∧
        (coreOf c = core → x.st = .held → (w.ctx c).st = .held ∧ ((w.launch x.launch).team x.team).st = .migrating) ∧
        (coreOf c = core → x.st = .free → (w.ctx c).st = .free) ∧
        (damage = .scratchpad u → (∀ a, 16 * u ≤ a → a < 16 * u + 16 → mget (w.core core).scratch a = 0#8) ∧
          u ∈ (w.core core).spPoison ∧ ∀ a, a < 16 * u ∨ 16 * u + 16 ≤ a → mget (w.core core).scratch a = mget k.scratch a) ∧
        (damage = .accRow u → fget 0#4096 (w.core core).acc u = 0#4096 ∧ u ∈ (w.core core).accPoison))) ∧
    (k.frozen = false ∨ k.retired = true → exec (.migrationComplete core) s = .next s) ∧
    (k.frozen = true → (∃ e, e ∈ s.movers core ∧ (s.quiet e = false ∨ s.schedReady (s.ctx e).launch (quarterOf core) = false)) → exec (.migrationComplete core) s = .next s) ∧
    let moves := k.frozen = true ∧ k.retired = false ∧ s.movers core = [c] ∧ s.quiet c = true ∧ s.schedReady x.launch (quarterOf core) = true
    (moves → l.killing = true → coreOf c = core → s.drayCmds c = [] → Completes (.migrationComplete core) s (fun w =>
      (w.ctx c).st = .releasing ∧ (w.core core).retired = true ∧ (w.core core).logical = none ∧
      (violates → ((w.launch x.launch).team x.team).st = .faulted ∧ ((w.launch x.launch).team x.team).cause = .violation) ∧
      (¬ violates → ((w.launch x.launch).team x.team).st = .ended ∧ ((w.launch x.launch).team x.team).cause = .killed))) ∧
    (moves → l.killing = false → s.spareFree core = false → coreOf c = core → x.csize = 0 → slot.key = none → Completes (.migrationComplete core) s (fun w =>
        (w.ctx c).st = .releasing ∧ (w.core core).retired = true ∧ (w.core core).logical = none ∧
          ((w.launch x.launch).team x.team).st = .faulted ∧ ((w.launch x.launch).team x.team).cause = .fault ∧
          ((w.launch x.launch).team x.team).fault = faultWord 0x14 1 0)) ∧
    (moves → l.killing = false → s.recording c = false → x.bars = [] → s.spareFree core = true → coreOf c = core → spareOf core ≠ core → Completes (.migrationComplete core) s (fun w =>
        let e := spareOf core * 4 + c % 4
        (w.ctx e).st = (if x.st = .held then .held else .resident) ∧ (w.ctx e).r = x.r ∧ (w.ctx e).pc = x.pc ∧
          (w.ctx e).pend = x.pend ∧ (w.ctx e).q0 = x.q0 ∧ (w.ctx e).q1 = x.q1 ∧ (w.ctx e).tokens = x.tokens ∧
          (w.ctx e).tags = x.tags ∧ (w.ctx e).skip = x.skip ∧ (w.ctx e).migrated = true ∧ (w.ctx c).st = .free ∧
          (w.core (spareOf core)).logical = k.logical ∧ (w.core core).logical = none ∧ (w.core core).retired = true ∧
          (w.core (spareOf core)).acc = k.acc ∧ (w.core (spareOf core)).cwt = k.cwt ∧
          ((w.launch x.launch).team x.team).st = .resident ∧ ((w.launch x.launch).team x.team).ctx = e))

/-! ## Memory from outside the cores -/

/-- R22, R35, R40, R51, R57, R59, R61, R83, R104, R107, R336, R341, R354: what requests of host functions, of CXL.mem and of
peers do at a home, and how they are answered. Log entries 13 and 25 say which answers and which requests are the model's. -/
def Obligations.OutsideRequests : Prop :=
  ∀ (s : State) (fn off pa base t n v x y : Nat) (aop : BitVec 4) (op : BusOp),
    let f := s.fn fn
    let posted (op : BusOp) : Bool := busPosted op
    let ones (op : BusOp) : Nat := 2 ^ (8 * busSize op) - 1
    let silent (u : State) : Prop := u.pf.replies = s.pf.replies
    let denied (op : BusOp) (t pa engid : Nat) : Prop :=
      (∃ z, z ∈ linePieces pa (busSize op) ∧ s.overlapFires t z.1 z.2 (0x20000 + engid) 16 = true) ∨ s.backed pa = false ∨ (posted op = false ∧ ∃ l, l ∈ busLines pa (busSize op) ∧ l ∈ s.ms.poison)
    let granted (op : BusOp) (t pa engid : Nat) : Prop :=
      (∀ z, z ∈ linePieces pa (busSize op) → s.overlapFires t z.1 z.2 (0x20000 + engid) 16 = false) ∧ s.backed pa = true ∧ (posted op = false → ∀ l, l ∈ busLines pa (busSize op) → l ∉ s.ms.poison) ∧ s.memoriesOk = true
    let old (pa n : Nat) : Nat := ofBytes (mread s.mem pa n)
    let answers (i : BusOp → Instr) (port engid t pa : Nat) : Prop :=
      (∀ op, busFits pa op = true → denied op t pa engid → Completes (i op) s (fun u => s.SameBytes u ∧ s.SameContexts u ∧
        (posted op = true → silent u) ∧ (posted op = false → s.Replies u port (ones op) true))) ∧
      (busFits pa (.read n) = true → granted (.read n) t pa engid → Completes (i (.read n)) s (fun u => s.OnlyPlatform u ∧
        s.Replies u port (old pa n) false)) ∧
      (busFits pa (.write n v) = true → granted (.write n v) t pa engid → Completes (i (.write n v)) s (fun u =>
        s.Holds u pa (toBytes n v) ∧ s.SameContexts u ∧ silent u)) ∧
      (busFits pa (.atomic n aop v) = true → granted (.atomic n aop v) t pa engid → Completes (i (.atomic n aop v)) s (fun u =>
        s.Holds u pa (toBytes n (atomicNew aop.toNat n (old pa n) v)) ∧ s.SameContexts u ∧ s.Replies u port (old pa n) false)) ∧
      (busFits pa (.cas n x y) = true → granted (.cas n x y) t pa engid → Completes (i (.cas n x y)) s (fun u =>
        (old pa n = x → s.Holds u pa (toBytes n y)) ∧ (old pa n ≠ x → s.OnlyPlatform u) ∧ s.SameContexts u ∧
          s.Replies u port (old pa n) false))
    let violates (i : Instr) (port engid : Nat) : Prop := Completes i s (fun u => s.OnlyPlatform u ∧
      s.Audits u 2 0xFF engid [BitVec.ofNat 64 pa] ∧ s.Replies u port 0 true)
    let empty (i : BusOp → Instr) (port : Nat) : Prop :=
      (posted op = true → exec (i op) s = .next s) ∧
      (posted op = false → Completes (i op) s (fun u => s.OnlyPlatform u ∧ s.Replies u port (ones op) false))
    -- peers
    (busFits pa op = false → exec (.peerRequest pa op) s = .next s ∧ exec (.hostCxlMemAccess pa op) s = .next s) ∧
    ((∀ p, p ∈ s.pf.peers → fget 0 s.pf.peerDomains p ≠ s.pf.domain) → exec (.peerRequest pa op) s = .next s) ∧
    (y ∈ s.pf.peers → fget 0 s.pf.peerDomains y = s.pf.domain → s.tenantAt pa = some t → answers (.peerRequest pa) 0x10000 4 t pa) ∧
    (y ∈ s.pf.peers → fget 0 s.pf.peerDomains y = s.pf.domain → busFits pa op = true → s.tenantAt pa = none → violates (.peerRequest pa op) 0x10000 4) ∧
    -- CXL.mem
    (s.tenantAt pa = some t → answers (.hostCxlMemAccess pa) 0x10001 3 t pa) ∧
    (busFits pa op = true → region pa = .registers → violates (.hostCxlMemAccess pa op) 0x10001 3) ∧
    (busFits pa op = true → region pa ≠ .registers → s.tenantAt pa = none → empty (.hostCxlMemAccess pa) 0x10001) ∧
    -- windows
    (busFits off op = false ∨ f.barSize ≤ off → exec (.windowAccess fn off op) s = .next s) ∧
    (busFits off op = true → off < f.barSize → f.aborted = true → Completes (.windowAccess fn off op) s (fun u =>
      s.OnlyPlatform u ∧ s.Replies u fn 0 true)) ∧
    (busFits off op = true → off < f.barSize → f.aborted = false → fget none f.winmap (off / 0x20000000) = none →
      empty (.windowAccess fn off) fn) ∧
    (off < f.barSize → f.aborted = false → fget none f.winmap (off / 0x20000000) = some base →
      pa = base + off % 0x20000000 → base % 0x1000 = 0 → s.tenantAt pa = some t → t ∈ f.tenants →
      answers (.windowAccess fn off) fn 3 t pa) ∧
    (busFits off op = true → off < f.barSize → f.aborted = false → fget none f.winmap (off / 0x20000000) = some base →
      (∀ t, s.tenantAt (base + off % 0x20000000) = some t → t ∉ f.tenants) → empty (.windowAccess fn off) fn)

/-- R17, R19, R33, R57, R59, R62, R65, R341: errors of memory, devices that fail, links that come and go, and changes of
ownership with their zeroing. -/
def Obligations.ErrorsLinksAndOwnership : Prop :=
  ∀ (s : State) (line core quarter unit port peer n base len slice block : Nat) (owner : BitVec 5) (w : Window),
    let pa := line * 256
    let memory := match region pa with | .hbm => true | .cxl _ => true | _ => false
    let marks (i : Instr) : Prop :=
      (memory = false ∨ line ∈ s.ms.poison → exec i s = .next s) ∧
      (memory = true → line ∉ s.ms.poison → Completes i s (fun t => s.SameBytes t ∧ s.SameContexts t ∧
        t.ms.poison = line :: s.ms.poison ∧ s.Audits t 3 ((s.tenantAt pa).getD 0xFF) 0xFF [BitVec.ofNat 64 pa]))
    let legal : Prop := owner.toNat ≤ 0x10 ∨ owner = 0x1F#5
    let size := 0x20000000
    let lo := n * size
    let device := match region lo with | .hbm => true | .cxl _ => true | _ => false
    let maps (e : Tlb) (b l : Nat) : Prop := e.base < b + l ∧ b < e.base + (if e.big = true then 0x20000000 else 0x10000)
    let forgets (t : State) (b l : Nat) : Prop :=
      (∀ k e, e ∈ (t.core k).tlb ↔ e ∈ (s.core k).tlb ∧ ¬ maps e b l) ∧
      ∀ q e, e ∈ (t.quarter q).tlb ↔ e ∈ (s.quarter q).tlb ∧ ¬ maps e b l
    let wiped (t : State) (b l : Nat) : Prop := (∀ a, b ≤ a → a < b + l → mget t.mem a = 0#8) ∧
      (∀ a, a < b ∨ b + l ≤ a → mget t.mem a = mget s.mem a) ∧ (∀ a, mget t.ms.staging a = mget s.ms.staging a) ∧
      (∀ k, t.core k = s.core k) ∧ s.SameContexts t ∧
      ∀ x, x ∈ t.ms.poison ↔ x ∈ s.ms.poison ∧ ¬ (b ≤ x * 256 ∧ x * 256 < b + l)
    let found := (s.ms.windows.find? fun w => w.base = base && w.length = len) = some w
    let key := slice * 28 + block
    let from' := slice * 0x200000 + block * 0x10000
    -- errors
    marks (.memoryUncorrectableError line) ∧ marks (.onchipSoftError (.dirtyHomeLine line)) ∧
    exec (.onchipSoftError (.cleanHomeLine line)) s = .next s ∧
    exec (.onchipSoftError (.scratchpadUnit core unit)) s = exec (.coreFreeze core (.scratchpad unit)) s ∧
    Completes (.onchipSoftError (.fetchLine core line)) s (fun t => s.SameBytes t ∧
      (∀ e, e ∈ (t.core core).l1i ↔ e ∈ (s.core core).l1i ∧ e.1 ≠ line) ∧ (∀ k, k ≠ core → t.core k = s.core k) ∧
      (∀ c, t.ctx c = { s.ctx c with line := (t.ctx c).line }) ∧
      ∀ e, e ∈ t.ms.plaza ↔ e ∈ s.ms.plaza ∧ ¬ (e.1 % 32 = core / 9 ∧ e.1 / 32 = line)) ∧
    Completes (.onchipSoftError (.nearLine quarter line)) s (fun t => t = { s with ms := { s.ms with near := t.ms.near } } ∧
      ∀ l, l ∈ t.ms.near ↔ l ∈ s.ms.near ∧ ¬ (l.quarter = quarter ∧ l.line = line)) ∧
    Completes (.onchipSoftError .correctable) s (fun t => t = { s with ms := { s.ms with corrected := s.ms.corrected + 1 } }) ∧
    Completes (.onchipSoftError (.stagingUnit unit)) s (fun t =>
      t = { s with ms := { s.ms with stagingPoison := t.ms.stagingPoison } } ∧
        ∀ u, u ∈ t.ms.stagingPoison ↔ u = unit ∨ u ∈ s.ms.stagingPoison) ∧
    -- devices and links
    (ffind s.pf.cxl port = none → exec (.cxlDeviceFailure port) s = .next s) ∧
    (∀ size, ffind s.pf.cxl port = some size → (∀ a, region a = .cxl port → s.backed a = decide (a - cxlBase port < size)) ∧ Completes (.cxlDeviceFailure port) s (fun t => s.OnlyPlatform t ∧
      ∀ a, t.backed a = if region a = .cxl port then false else s.backed a)) ∧
    (peer ∉ s.pf.peers → exec (.peerLinkDown peer) s = .next s) ∧
    (peer ∈ s.pf.peers → Completes (.peerLinkDown peer) s (fun t => s.OnlyPlatform t ∧
      s.Audits t 8 0xFF 0xFF [BitVec.ofNat 64 peer] ∧ ∀ a, t.backed a = if region a = .peer peer then false else s.backed a)) ∧
    (peer ∈ s.pf.peers ∨ 64 ≤ peer → exec (.peerLinkUp peer) s = .next s) ∧
    (peer ∉ s.pf.peers → peer < 64 → Completes (.peerLinkUp peer) s (fun t => s.OnlyPlatform t ∧
      ∀ a, t.backed a = if region a = .peer peer then decide (fget 0 s.pf.peerDomains peer = s.pf.domain) else s.backed a)) ∧
    -- ownership
    (¬ legal ∨ device = false → exec (.granuleReassign (.granule n) owner) s = .next s) ∧
    (legal → device = true →
      ((s.granule n).getLsbD 5 = false → Completes (.granuleReassign (.granule n) owner) s (fun t => s.SameBytes t ∧
        s.SameContexts t ∧ t.granule n = s.granule n ||| 0x20#8 ∧ (∀ m, m ≠ n → t.granule m = s.granule m) ∧
        t.owner lo 1 = none ∧ forgets t lo size ∧ ∀ fn k, fget none (t.fn fn).winmap k ≠ some lo)) ∧
      ((s.granule n).getLsbD 5 = true → s.outstanding lo size = true →
        exec (.granuleReassign (.granule n) owner) s = .next s) ∧
      ((s.granule n).getLsbD 5 = true → s.outstanding lo size = false → Completes (.granuleReassign (.granule n) owner) s (fun t =>
        wiped t lo size ∧ t.granule n = owner.zeroExtend 8 ∧ ∀ m, m ≠ n → t.granule m = s.granule m))) ∧
    (¬ legal ∨ s.windowLegal base len = false → exec (.granuleReassign (.descriptor base len) owner) s = .next s) ∧
    (legal → s.windowLegal base len = true →
      (found → w.zp = false → Completes (.granuleReassign (.descriptor base len) owner) s (fun t => s.SameBytes t ∧
        s.SameContexts t ∧ forgets t base len ∧ ∀ v, v ∈ t.ms.windows → v.base = base → v.length = len → v.zp = true)) ∧
      (found → w.zp = true → s.outstanding base len = true → exec (.granuleReassign (.descriptor base len) owner) s = .next s) ∧
      (found → w.zp = true → s.outstanding base len = false → Completes (.granuleReassign (.descriptor base len) owner) s (fun t =>
        wiped t base len ∧ ∀ v, v ∈ t.ms.windows → v.base = base → v.length = len →
          owner ≠ 0x1F#5 ∧ v.owner = owner.toNat ∧ v.zp = false)) ∧
      ((∀ v, v ∈ s.ms.windows → ¬ (v.base = base ∧ v.length = len)) →
        (256 ≤ s.ms.windows.length → exec (.granuleReassign (.descriptor base len) owner) s = .next s) ∧
        (s.ms.windows.length < 256 → Completes (.granuleReassign (.descriptor base len) owner) s (fun t => s.SameBytes t ∧
          t.ms.windows = s.ms.windows ++ [{ base := base, length := len, owner := 0x1F, zp := true }] ∧ forgets t base len)))) ∧
    (¬ (slice < 256 ∧ block < 28 ∧ legal) → exec (.stagingGrant slice block owner) s = .next s) ∧
    (slice < 256 → block < 28 → legal → Completes (.stagingGrant slice block owner) s (fun t =>
      t = { s with ms := t.ms } ∧ fget 0x1F#8 t.ms.grants key = owner.zeroExtend 8 ∧
      (∀ k, k ≠ key → fget 0x1F#8 t.ms.grants k = fget 0x1F#8 s.ms.grants k) ∧
      ((fget 0x1F#8 s.ms.grants key).extractLsb' 0 5 = owner → t.ms.staging = s.ms.staging) ∧
      ((fget 0x1F#8 s.ms.grants key).extractLsb' 0 5 ≠ owner →
        (∀ a, from' ≤ a → a < from' + 0x10000 → mget t.ms.staging a = 0#8) ∧
        ∀ a, a < from' ∨ from' + 0x10000 ≤ a → mget t.ms.staging a = mget s.ms.staging a)))

/-! ## Launch queues and the mailbox -/

/-- R40, R135, R141, R146–R150, R335: the notify page of a queue, its mapping, the early reading of a slot, and the taking and
checking of a launch record. Log entry 26 says which Quarter maps a queue. -/
def Obligations.QueueEvents : Prop :=
  ∀ (s : State) (fn queue slot m status : Nat) (o : Object),
    let q := s.queue queue
    let old := Ticket.ofBytes q.desc
    let slots := 2 ^ old.lg
    let aborted := (s.fn fn).aborted = true
    let live := (s.fn fn).aborted = false ∧ s.pageLive fn queue = true
    let others (t : State) : Prop := (∀ m, m ≠ queue → t.queue m = s.queue m) ∧ ∀ m, t.fn m = s.fn m
    let quarter := s.mappedIn (queue % 4)
    let posted (slot : Nat) : Ticket :=
      if old.committed (slot % slots) = true then old else { old with commit := old.commit + 2 ^ (slot % slots) }
    let reserved : Ticket := if old.free = 0 then old else { old with resv := old.resv + 1, free := old.free - 1 }
    let answer := if old.free = 0 then 0xFFFFFFFFFFFFFFFF else old.resv % slots
    let taken : Ticket := { old with commit := old.commit - 2 ^ (old.take % slots), take := old.take + 1
                                     free := min (old.free + 1) slots }
    let ready := q.mapped = true ∧ s.takeable queue = true ∧ s.backed (q.ring + 128 * (old.take % slots)) = true ∧
      ∀ l, l ∈ busLines (q.ring + 128 * (old.take % slots)) 128 → l ∉ s.ms.poison
    let r : LaunchRecord := { bytes := mread s.mem (q.ring + 128 * (old.take % slots)) 128 }
    let takes (t : State) : Prop := (t.queue queue).desc = taken.toBytes ∧ s.SameContexts t
    let device := match region (q.ring + 128 * slot) with | .hbm => true | .cxl _ => true | _ => false
    let early : LaunchRecord := { bytes := mread s.mem (q.ring + 128 * slot) 128 }
    -- the notify page
    (aborted → Completes (.reservationRegisterRead fn queue) s (fun t => s.OnlyPlatform t ∧ others t ∧ s.Replies t fn 0 true) ∧
      Completes (.commitRegisterWrite fn queue slot) s (fun t => s.OnlyPlatform t ∧ others t ∧ s.Replies t fn 0 true)) ∧
    ((s.fn fn).aborted = false → s.pageLive fn queue = false →
      Completes (.reservationRegisterRead fn queue) s (fun t =>
        s.OnlyPlatform t ∧ others t ∧ s.Replies t fn 0xFFFFFFFFFFFFFFFF false) ∧
      exec (.commitRegisterWrite fn queue slot) s = .next s) ∧
    (live → q.mapped = true →
      Completes (.reservationRegisterRead fn queue) s (fun t => s.OnlyPlatform t ∧ others t ∧ s.Replies t fn answer false ∧
        t.queue queue = { q with desc := reserved.toBytes, used := s.cycle }) ∧
      Completes (.commitRegisterWrite fn queue slot) s (fun t => s.OnlyPlatform t ∧ others t ∧
        t.pf.replies = s.pf.replies ∧ t.queue queue = { q with desc := (posted slot).toBytes, used := s.cycle })) ∧
    (live → q.mapped = false →
      Completes (.reservationRegisterRead fn queue) s (fun t => s.OnlyPlatform t ∧ others t ∧ t.pf.replies = s.pf.replies ∧
        t.queue queue = { q with waiting := q.waiting ++ [fn] }) ∧
      Completes (.commitRegisterWrite fn queue slot) s (fun t => s.OnlyPlatform t ∧ others t ∧
        t.queue queue = { q with stored := q.stored ++ [slot] })) ∧
    -- mapping
    (s.wantsMapping queue = false → exec (.queueMapping queue) s = .next s) ∧
    (s.wantsMapping queue = true → Completes (.queueMapping queue) s (fun t => s.OnlyPlatform t ∧ (∀ m, t.fn m = s.fn m) ∧
      (t.queue queue).mapped = true ∧ (t.queue queue).stored = [] ∧ (t.queue queue).waiting = [] ∧
      (quarter.length < 64 → others t) ∧
      (64 ≤ quarter.length → ∃ v u, (v, u) ∈ quarter ∧ (∀ e, e ∈ quarter → u ≤ e.2) ∧
        ∀ m, m ≠ queue → t.queue m = if m = v then { s.queue m with mapped := false } else s.queue m) ∧
      (q.waiting = [] → q.stored = [slot] → t.pf.replies = s.pf.replies ∧ (t.queue queue).desc = (posted slot).toBytes) ∧
      (q.waiting = [fn] → q.stored = [] → s.Replies t fn answer false ∧ (t.queue queue).desc = reserved.toBytes))) ∧
    -- early reading
    (q.mapped = false ∨ device = false ∨ 2 ^ q.lg ≤ slot ∨ s.object early.object = none →
      exec (.earlyLaunchRead queue slot) s = .next s) ∧
    (q.mapped = true → device = true → slot < 2 ^ q.lg → s.object early.object = some o →
      Completes (.earlyLaunchRead queue slot) s (fun t => t = { s with cores := t.cores } ∧ s.SameBytes t ∧
        ∀ k, t.core k = { s.core k with l1i := (t.core k).l1i })) ∧
    -- taking a record
    (q.mapped = false ∨ s.takeable queue = false → exec (.launchTake queue) s = .next s) ∧
    (ready → s.reportWritable r = false → Completes (.launchTake queue) s (fun t => takes t ∧ t.launches = s.launches ∧
      s.SameBytes t ∧ s.Audits t 9 r.tenant 0xFF [BitVec.ofNat 64 queue, r.report])) ∧
    (ready → s.reportWritable r = true →
      (s.launchStatus r q.tenant = none → Completes (.launchTake queue) s (fun t => takes t ∧ s.SameBytes t ∧
        t.launchSeq = s.launchSeq + 1 ∧ t.launch s.launchSeq = s.launchOf r (s.levelsFor r) queue ∧
        ∀ m, m ≠ s.launchSeq → t.launch m = s.launch m)) ∧
      (s.launchStatus r q.tenant = some status → Completes (.launchTake queue) s (fun t => takes t ∧
        t.launchSeq = s.launchSeq + 1 ∧ (t.launch s.launchSeq).ended = true ∧ (t.launch s.launchSeq).status = status ∧
        ∀ m, m ≠ s.launchSeq → t.launch m = s.launch m))) ∧
    (s.launchStatus r m = none → s.object r.object ≠ none ∧ r.tenant = m ∧ r.qmask ≠ 0#4 ∧
      ¬ (r.recording = true ∧ r.replay = true) ∧ r.grant &&& r.handover = 0#48)

/-- R40, R337, R338, R339: writes to the mailbox's registers, and the end of a command. That a command runs only once the boot is
done, and what its end leaves where the rules are silent, is the model's (log entry 14). -/
def Obligations.MailboxEvents : Prop :=
  ∀ (s : State) (fn off status : Nat) (value : Word) (res : List Word),
    let f := s.fn fn
    let others (t : State) : Prop := s.OnlyPlatform t ∧ ∀ m, m ≠ fn → t.fn m = s.fn m
    let writes (off : Nat) (value : Word) (g : HostFn) : Prop :=
      Completes (.mailboxRegisterWrite fn off value) s (fun t => others t ∧ t.fn fn = g)
    (f.aborted = true → Completes (.mailboxRegisterWrite fn off value) s (fun t =>
      others t ∧ t.fn fn = f ∧ s.Replies t fn 0 true)) ∧
    (f.aborted = false →
      (f.st = 1 → writes 0x38 1#64 { f with overrun := true }) ∧
      (f.st ≠ 1 → writes 0x38 1#64 { f with st := 1, overrun := false, status := 0, tag := (f.cmd.extractLsb' 16 16).toNat
                                            outcome := none, began := none }) ∧
      (value ≠ 1#64 → writes 0x38 value f) ∧
      (f.st = 1 → off ≠ 0x38 → writes off value f) ∧
      (f.st ≠ 1 → writes 0 value { f with cmd := value &&& 0xFFFF00FF#64 }) ∧
      (f.st ≠ 1 → off % 8 = 0 → 8 ≤ off → off ≤ 0x30 → Completes (.mailboxRegisterWrite fn off value) s (fun t => others t ∧
        t.fn fn = { f with args := (t.fn fn).args } ∧
        ∀ n, (t.fn fn).arg n = if n = off / 8 - 1 then value else f.arg n)) ∧
      (off % 8 ≠ 0 ∨ 0x38 < off → writes off value f)) ∧
    (s.pf.boot ≠ 1 ∨ f.st ≠ 1 → exec (.mailboxCommandDone fn) s = .next s) ∧
    (s.pf.boot = 1 → f.st = 1 →
      (f.outcome = some (status, res) → Completes (.mailboxCommandDone fn) s (fun t => others t ∧
        t.fn fn = { f with res := (t.fn fn).res, st := 2, status := status, outcome := none, began := none, msix := f.msix + 1 } ∧
        ∀ n, fget 0#64 (t.fn fn).res n = if n < res.length then res.getD n 0#64 else fget 0#64 f.res n)) ∧
      (f.outcome = none → 1 ≤ f.code → f.code ≤ 0x13 → exec (.mailboxCommandDone fn) s = .next s) ∧
      (f.outcome = none → f.code = 0 ∨ 0x13 < f.code → Completes (.mailboxCommandDone fn) s (fun t => others t ∧
        t.fn fn = { f with st := 2, status := 0x11, outcome := none, began := none, msix := f.msix + 1 })))

/-! ## Firmware's commands -/

/-- R49, R83, R319, R336–R341, R344, R345, R347: what the commands of a mailbox that concern features, queues, groups, windows,
measurements and logs do, and when each is refused. Log entry 14 says which refusals are the model's order, entry 13 whom a violation
of a window names, and entry 18 what a group's member table holds. -/
def Obligations.MailboxCommands : Prop :=
  ∀ (s : State) (fn c d n : Nat),
    let f := s.fn fn
    let arg (n : Nat) : Nat := (f.arg n).toNat
    let runs (code : Nat) : Prop := s.pf.boot = 1 ∧ f.st = 1 ∧ f.outcome = none ∧ f.code = code
    let frame (t : State) (g : HostFn) : Prop := t.fn fn = g ∧ (∀ m, m ≠ fn → t.fn m = s.fn m) ∧ s.SameContexts t
    let refused (i : Instr) (status : Nat) : Prop :=
      Completes i s (fun t => s.OnlyPlatform t ∧ frame t { f with outcome := some (status, []) })
    let ends (res : List Word) (t : State) : Prop := s.OnlyPlatform t ∧ frame t { f with outcome := some (1, res) }
    let writes (a : Nat) (bytes : List Byte) (res : List Word) (t : State) : Prop :=
      s.Holds t (0x1000000000000 + a) bytes ∧ frame t { f with outcome := some (1, res) }
    let foreign (n : Nat) : Prop := arg n ∉ f.tenants
    let beyond (a n : Nat) : Prop := 0x1000000000000 < a + n
    let lacks (n : Nat) : Prop := ∀ v, f.accepted = some v → v.getLsbD n = false
    let v : BitVec 128 := f.arg 1 ++ f.arg 0
    let e := arg 0
    let queue := s.queue e
    let old := Ticket.ofBytes queue.desc
    let members := s.membersHere (f.arg 1) (arg 2)
    let table := arg 2 * memberBytes
    let records := s.auditFrom e (arg 1)
    -- a command that does not run changes nothing
    (∀ p, p ∈ [(Instr.features fn, 1), (Instr.accept fn, 2), (Instr.depotlat fn, 6), (Instr.ovlchk fn, 7), (Instr.qreset fn, 8),
        (Instr.collgrp fn, 9), (Instr.peerset fn, 0x0A), (Instr.bindq fn, 0x0B), (Instr.measure fn, 0x0E), (Instr.attest fn, 0x0F),
        (Instr.auditread fn, 0x10), (Instr.winmap fn, 0x13)] → ¬ runs p.2 → exec p.1 s = .next s) ∧
    -- features
    (runs 1 → Completes (.features fn) s (ends [0xFF#64, 0#64])) ∧
    (runs 2 → f.accepted ≠ none ∨ 256 ≤ v.toNat → refused (.accept fn) 0x11) ∧
    (runs 2 → f.accepted = none → v.toNat < 256 → Completes (.accept fn) s (fun t =>
      s.OnlyPlatform t ∧ frame t { f with accepted := some v, outcome := some (1, []) })) ∧
    -- the latency table
    (runs 6 → beyond e 49152 → refused (.depotlat fn) 0x11) ∧
    (runs 6 → ¬ beyond e 49152 → s.memoriesOk = true → Completes (.depotlat fn) s (fun t => writes e latencyTable [] t ∧
      (c < 192 → d < 256 → mget t.mem (0x1000000000000 + e + 256 * c + d) = Config.depotLatency c d))) ∧
    -- the mixed-size check
    (runs 7 → lacks 4 → refused (.ovlchk fn) 0x12) ∧ (runs 7 → ¬ lacks 4 → foreign 0 → refused (.ovlchk fn) 0x11) ∧
    (runs 7 → ¬ lacks 4 → ¬ foreign 0 → Completes (.ovlchk fn) s (fun t => frame t { f with outcome := some (1, []) } ∧
      s.SameBytes t ∧ (e ∈ t.ms.ovl ↔ (f.arg 1).getLsbD 0 = true) ∧ ∀ m, m ≠ e → (m ∈ t.ms.ovl ↔ m ∈ s.ms.ovl))) ∧
    -- queues
    (runs 8 → s.pageLive fn e = false → refused (.qreset fn) 0x11) ∧
    (runs 8 → s.pageLive fn e = true → Completes (.qreset fn) s (fun t => ends [] t ∧ (∀ m, m ≠ e → t.queue m = s.queue m) ∧
      t.queue e = { queue with
        desc := { old with resv := old.take, commit := 0, free := 2 ^ old.lg : Ticket }.toBytes, stored := [] })) ∧
    (runs 0x0B → 4096 ≤ e ∨ foreign 1 ∨ arg 3 < 1 ∨ 8 < arg 3 ∨ f.ringAt fn (f.arg 2) = none → refused (.bindq fn) 0x11) ∧
    (runs 0x0B → e < 4096 → ¬ foreign 1 → 1 ≤ arg 3 → arg 3 ≤ 8 → f.ringAt fn (f.arg 2) = some n →
      Completes (.bindq fn) s (fun t => ends [] t ∧ (∀ m, m ≠ e → t.queue m = s.queue m) ∧
        t.queue e = { bound := true, tenant := arg 1, ring := n, lg := arg 3
                      desc := { resv := 0, take := 0, free := 2 ^ arg 3, lg := arg 3, zero := true, commit := 0 : Ticket }.toBytes })) ∧
    -- groups and the domain
    (runs 9 → lacks 1 → refused (.collgrp fn) 0x12) ∧
    (runs 9 → ¬ lacks 1 → 2 ^ 32 ≤ e ∨ arg 2 < 2 ∨ 4096 < arg 2 ∨ beyond (arg 1) table ∨ (∃ m, m ∈ members ∧ m.2 ∉ f.tenants) →
      refused (.collgrp fn) 0x11) ∧
    (runs 9 → ¬ lacks 1 → e < 2 ^ 32 → 2 ≤ arg 2 → arg 2 ≤ 4096 → ¬ beyond (arg 1) table → (∀ m, m ∈ members → m.2 ∈ f.tenants) →
      Completes (.collgrp fn) s (fun t => ends [] t ∧ ffind t.pf.groups e = some { size := arg 2, members := members } ∧
        ∀ m, m ≠ e → ffind t.pf.groups m = ffind s.pf.groups m)) ∧
    (runs 0x0A → lacks 1 → refused (.peerset fn) 0x12) ∧ (runs 0x0A → ¬ lacks 1 → 64 ≤ arg 1 → refused (.peerset fn) 0x11) ∧
    (runs 0x0A → ¬ lacks 1 → arg 1 < 64 → s.installed = true → refused (.peerset fn) 0x10) ∧
    (runs 0x0A → ¬ lacks 1 → arg 1 < 64 → s.installed = false → Completes (.peerset fn) s (fun t =>
      ends [] t ∧ t.pf.domain = e ∧ t.pf.device = arg 1)) ∧
    -- measurements, quotes, the audit log
    (runs 0x0E → beyond e 4096 → refused (.measure fn) 0x11) ∧
    (runs 0x0E → ¬ beyond e 4096 → s.memoriesOk = true → Completes (.measure fn) s (fun t => writes e s.measurement [] t ∧
      (c < 8 → ∀ i, i < 32 → mget t.mem (0x1000000000000 + e + 32 * c + i) = (fget 0#256 s.pf.mreg c).extractLsb' (8 * i) 8))) ∧
    (runs 0x0F → beyond e 32 ∨ beyond (arg 1) 0x8000 → refused (.attest fn) 0x11) ∧
    (runs 0x0F → ¬ beyond e 32 → ¬ beyond (arg 1) 0x8000 → s.memoriesOk = true →
      Completes (.attest fn) s (writes (arg 1) (s.quote (s.hostRead (f.arg 0) 32)) [30168#64])) ∧
    (runs 0x10 → beyond (arg 2) (128 * records.length) → refused (.auditread fn) 0x11) ∧
    (runs 0x10 → ¬ beyond (arg 2) (128 * records.length) → s.memoriesOk = true →
      Completes (.auditread fn) s (writes (arg 2) (records.flatMap Audit.bytes) [BitVec.ofNat 64 records.length])) ∧
    (∀ a, a ∈ s.pf.audit → (a.bytes.take 96 = auditHead a.counter a.time a.type a.tenant a.master a.detail ∧ a.bytes.length = 128)) ∧
    -- windows
    (runs 0x13 → f.barSize / 0x20000000 ≤ e → refused (.winmap fn) 0x11) ∧
    (runs 0x13 → e < f.barSize / 0x20000000 →
      (f.arg 1 = 0xFFFFFFFFFFFFFFFF#64 → Completes (.winmap fn) s (fun t => s.OnlyPlatform t ∧
        frame t { f with winmap := fput f.winmap e none, outcome := some (1, []) })) ∧
      (f.arg 1 ≠ 0xFFFFFFFFFFFFFFFF#64 → arg 1 % 0x20000000 = 0 → s.tenantAt (arg 1) = some c → c ∈ f.tenants →
        Completes (.winmap fn) s (fun t => s.OnlyPlatform t ∧
          frame t { f with winmap := fput f.winmap e (some (arg 1)), outcome := some (1, []) })) ∧
      (f.arg 1 ≠ 0xFFFFFFFFFFFFFFFF#64 → 0xF000000000000 ≤ arg 1 → arg 1 < 2 ^ 52 → Completes (.winmap fn) s (fun t =>
        s.OnlyPlatform t ∧ s.Audits t 2 (f.tenants.headD 0xFF) 3 [f.arg 1] ∧ frame t { f with aborted := true, outcome := some (0x11, []) })) ∧
      (f.arg 1 ≠ 0xFFFFFFFFFFFFFFFF#64 → arg 1 < 0xF000000000000 ∨ 2 ^ 52 ≤ arg 1 →
        arg 1 % 0x20000000 ≠ 0 ∨ (∀ c, s.tenantAt (arg 1) = some c → c ∉ f.tenants) → refused (.winmap fn) 0x11))

/-- R13, R14, R17, R19, R22, R23, R36–R38, R132, R133, R191, R339, R340, R342–R344, R346: what the commands that load and unload code,
invalidate translations, import keys, end a tenant space, adopt images and update firmware do, and when each is refused. The model's
own choices are in the log: the order of refusals (14), firmware's images (27), where the loader places an object and what it answers
without room (36), and what UNLOAD, INVAL and TENANTEND wait for (37). -/
def Obligations.CodeAndTenantCommands : Prop :=
  ∀ (s u : State) (fn root place gr a n : Nat) (o : Object) (key : BitVec 256),
    let f := s.fn fn
    let arg (n : Nat) : Nat := (f.arg n).toNat
    let runs (code : Nat) : Prop := s.pf.boot = 1 ∧ f.st = 1 ∧ f.outcome = none ∧ f.code = code
    let frame (t : State) (g : HostFn) : Prop := t.fn fn = g ∧ ∀ m, m ≠ fn → t.fn m = s.fn m
    let refused (i : Instr) (status : Nat) : Prop :=
      Completes i s (fun t => s.OnlyPlatform t ∧ s.SameContexts t ∧ frame t { f with outcome := some (status, []) })
    let ends (res : List Word) (t : State) : Prop := frame t { f with outcome := some (1, res) }
    let beyond (a n : Nat) : Prop := 0x1000000000000 < a + n
    let lacks (n : Nat) : Prop := ∀ v, f.accepted = some v → v.getLsbD n = false
    let inside (e : Tlb) (tenant base len : Nat) : Prop := let size := if e.big = true then 0x20000000 else 0x10000
      e.tenant = tenant ∧ e.page * size < base + len ∧ base < e.page * size + size
    let forgets (t : State) (tenant base len : Nat) : Prop :=
      (∀ k e, e ∈ (t.core k).tlb → ¬ inside e tenant base len) ∧ ∀ q e, e ∈ (t.quarter q).tlb → ¬ inside e tenant base len
    let lines (w : State) : Prop := ∀ c, w.ctx c = { s.ctx c with line := (w.ctx c).line }
    -- LOAD
    let b := s.hostRead (f.arg 0) (arg 1)
    let verified := s.verifies (arg 3) b (s.hostRead (f.arg 2) 29792)
    let badArgs := arg 4 ∉ f.tenants ∨ 32 ≤ arg 3 ∨ arg 5 % 0x10000 ≠ 0 ∨ 2 ^ 55 ≤ arg 5 ∨ beyond (arg 0) (arg 1) ∨ beyond (arg 2) 29792
    let loads := runs 3 ∧ f.accepted ≠ none ∧ ¬ badArgs
    let checked := headerGood b (arg 1) = true ∧ verified = true ∧ sectionsGood b = true ∧ notesGood b = true ∧
      field b 6 2 = 1 ∧ featuresOf b &&& ~~~(f.accepted.getD 0#128) = 0#128
    let size (type : Nat) : Nat := (sectionBytes b type).length
    let pages := pagesOf (size 1) (size 2) (size 3)
    let granules := (pages + 8191) / 8192
    let homes := s.freeGranules.take granules
    let chosen := s.loaderChoice (arg 4) pages (2 ^ 39) (Config.loaderPlace s.pf.objectSeq)
    let vacant (va : Nat) : Prop := va + pages * 0x10000 ≤ 2 ^ 55 ∧
      ∀ i, i < pages → s.unmapped (arg 4) (va + 0x10000 * i) = true
    let placed (va : Nat) : Prop := (arg 5 = 0 → chosen = some va) ∧ (arg 5 ≠ 0 → va = arg 5 ∧ vacant va)
    let file := objectOf b s.nextHandle (arg 4) place homes
    let words (x : Object) : List Word := [x.handle, BitVec.ofNat 64 x.bundleVa, BitVec.ofNat 64 x.litVa, BitVec.ofNat 64 x.cwtVa]
    -- UNLOAD
    let named := s.object (f.arg 0) = some o ∧ o.tenant ∈ f.tenants
    let busy := (∃ l, l ∈ s.launchesOf (f.arg 0) ∧ s.needsObject l = true) ∨ s.posted (f.arg 0) = true
    let pointed := ∃ l, l ∈ s.launchesOf (f.arg 0) ∧ s.savedImages l = true
    -- INVAL
    let base := if arg 2 = 0 then 0 else arg 1
    let len := if arg 2 = 0 then 2 ^ 55 else arg 2 * 0x10000
    let t := arg 0
    let slot : KeySlot := fget {} s.pf.keys t
    (∀ p, p ∈ [(Instr.load fn, 3), (Instr.unload fn, 4), (Instr.inval fn, 5), (Instr.keyimport fn, 0x0C), (Instr.tenantend fn, 0x0D),
        (Instr.update fn, 0x11), (Instr.imgadopt fn, 0x12)] → ¬ runs p.2 → exec p.1 s = .next s) ∧
    (runs 3 → f.accepted = none → refused (.load fn) 0x12) ∧ (runs 3 → f.accepted ≠ none → badArgs → refused (.load fn) 0x11) ∧
    (loads →
      (headerGood b (arg 1) = false → refused (.load fn) 2) ∧
      (headerGood b (arg 1) = true → verified = false → Completes (.load fn) s (fun w => s.OnlyPlatform w ∧
        s.Audits w 7 (arg 4) 0xFF [f.arg 0, f.arg 3] ∧ frame w { f with outcome := some (2, []) })) ∧
      (headerGood b (arg 1) = true → verified = true →
        (sectionsGood b = false → refused (.load fn) 3) ∧
        (sectionsGood b = true → notesGood b = false → refused (.load fn) 4) ∧
        (sectionsGood b = true → notesGood b = true → field b 6 2 ≠ 1 → refused (.load fn) 5) ∧
        (sectionsGood b = true → notesGood b = true → field b 6 2 = 1 → featuresOf b &&& ~~~(f.accepted.getD 0#128) ≠ 0#128 →
          refused (.load fn) 6)) ∧
      (checked → fget none s.ms.xlbase (arg 4) = none → refused (.load fn) 0x11) ∧
      (checked → fget none s.ms.xlbase (arg 4) = some root →
        (arg 5 ≠ 0 → 2 ^ 55 < arg 5 + pages * 0x10000 → refused (.load fn) 0x11) ∧
        (arg 5 ≠ 0 → arg 5 + pages * 0x10000 ≤ 2 ^ 55 → ¬ vacant (arg 5) → refused (.load fn) 0x10) ∧
        (arg 5 = 0 → chosen = none → pages * 0x10000 ≤ 2 ^ 55 → refused (.load fn) 0x10) ∧
        (placed place → homes.length ≠ granules → refused (.load fn) 0x10) ∧
        (placed place → homes.length = granules → s.placeObject file b root = none → refused (.load fn) 0x10) ∧
        (placed place → homes.length = granules → s.placeObject file b root = some u → s.memoriesOk = true →
          Completes (.load fn) s (fun w => ends (words file) w ∧ lines w ∧
            w.pf.objects = s.pf.objects ++ [file] ∧ w.pf.objectSeq = s.pf.objectSeq + 1 ∧
            (size 2 = 0 → size 3 = 0 → ∀ i, i < 0x10000 → i < size 1 →
              mget w.mem (homes.getD 0 0 * 0x20000000 + i) = (sectionBytes b 1).getD i 0#8))))) ∧
    -- UNLOAD
    (runs 4 → f.began = none → (∀ o, ¬ (s.object (f.arg 0) = some o ∧ o.tenant ∈ f.tenants)) → refused (.unload fn) 0x11) ∧
    (runs 0x12 → (∀ o, ¬ (s.object (f.arg 0) = some o ∧ o.tenant ∈ f.tenants)) → refused (.imgadopt fn) 0x11) ∧
    (runs 4 → f.began = none → named → busy ∨ (pointed ∧ (f.arg 1).getLsbD 0 = false) → refused (.unload fn) 0x10) ∧
    (runs 4 → f.began = none → named → ¬ busy → ¬ pointed ∨ (f.arg 1).getLsbD 0 = true → Completes (.unload fn) s (fun w =>
      w.fn fn = { f with began := some s.cycle, removing := f.removing ++ o.home, winmap := (w.fn fn).winmap } ∧ lines w ∧
      w.object (f.arg 0) = none ∧ (∀ h, h ≠ o.handle → w.object h = s.object h) ∧
      forgets w o.tenant o.bundleVa (o.pages * 0x10000) ∧
      (∀ g, g ∈ o.home → (w.granule g).getLsbD 5 = true ∧ ∀ m k, fget none (w.fn m).winmap k ≠ some (g * 0x20000000)) ∧
      ∀ l, l ∈ s.launchesOf (f.arg 0) → ∀ i, ((s.launch l).team i).st = .saved → ((w.launch l).team i).orphan = true)) ∧
    (runs 4 → f.began = some n → (∃ g, g ∈ f.removing ∧ s.outstanding (g * 0x20000000) 0x20000000 = true) →
      exec (.unload fn) s = .next s) ∧
    (runs 4 → f.began = some n → (∀ g, g ∈ f.removing → s.outstanding (g * 0x20000000) 0x20000000 = false) →
      Completes (.unload fn) s (fun w => frame w { f with removing := [], outcome := some (1, []) } ∧ s.SameContexts w ∧
        (∀ g, g ∈ f.removing → w.granule g = 0x1F#8) ∧ (∀ g, g ∉ f.removing → w.granule g = s.granule g) ∧
        ∀ a, mget w.mem a = if a / 0x20000000 ∈ f.removing then 0#8 else mget s.mem a)) ∧
    -- INVAL
    (runs 5 → arg 0 ∉ f.tenants ∨ arg 1 % 0x10000 ≠ 0 ∨ 2 ^ 55 < base + len → refused (.inval fn) 0x11) ∧
    (runs 5 → arg 0 ∈ f.tenants → arg 1 % 0x10000 = 0 → base + len ≤ 2 ^ 55 →
      (f.began = none → Completes (.inval fn) s (fun w => s.SameBytes w ∧ frame w { f with began := some s.cycle } ∧
        forgets w t base len ∧ (∀ c, w.ctx c = { s.ctx c with line := (w.ctx c).line, walkFail := (w.ctx c).walkFail }) ∧
        (∀ c z y, (w.ctx c).line = some (z, y) → (w.ctx c).tenant = t → ¬ (base ≤ z * 128 ∧ z * 128 < base + len)) ∧
        ∀ k e, e ∈ (w.core k).l1i → e.1 / 2 ^ 64 = t → ¬ (base ≤ e.1 % 2 ^ 64 * 128 ∧ e.1 % 2 ^ 64 * 128 < base + len))) ∧
      (f.began = some n → s.oldAccess t base len n = true → exec (.inval fn) s = .next s) ∧
      (f.began = some n → s.oldAccess t base len n = false → Completes (.inval fn) s (fun w => s.OnlyPlatform w ∧ ends [] w))) ∧
    -- KEYIMPORT
    (runs 0x0C → arg 0 ∉ f.tenants ∨ beyond (arg 1) 40 ∨ Config.unwrapKey (s.hostRead (f.arg 1) 40) = none → refused (.keyimport fn) 0x11) ∧
    (runs 0x0C → arg 0 ∈ f.tenants → ¬ beyond (arg 1) 40 → Config.unwrapKey (s.hostRead (f.arg 1) 40) = some key →
      Completes (.keyimport fn) s (fun w => s.OnlyPlatform w ∧ ends [] w ∧ s.Audits w 5 t 0xFF [] ∧
        (fget {} w.pf.keys t : KeySlot) = (if slot.key = some key then slot else { key := some key, counter := 0 }) ∧
        ∀ m, m ≠ t → (fget {} w.pf.keys m : KeySlot) = fget {} s.pf.keys m)) ∧
    -- TENANTEND
    (runs 0x0D → arg 0 ∉ f.tenants → refused (.tenantend fn) 0x11) ∧
    (runs 0x0D → arg 0 ∈ f.tenants →
      (f.began = none → Completes (.tenantend fn) s (fun w => s.SameBytes w ∧ s.SameContexts w ∧
        frame w { f with began := some s.cycle } ∧ (∀ l, l ∈ s.launchesIn t → (w.launch l).killing = true) ∧
        ∀ q, (s.queue q).bound = true → (s.queue q).tenant = t → (w.queue q).bound = false ∧ (w.queue q).mapped = false)) ∧
      (f.began = some n → s.tenantIdle t = false → exec (.tenantend fn) s = .next s) ∧
      (f.began = some n → s.tenantIdle t = true → t < 16 → Completes (.tenantend fn) s (fun w =>
        s.Audits w 4 t 0xFF [] ∧ (w.fn fn).outcome = some (1, []) ∧ (∀ m, t ∉ (w.fn m).tenants) ∧
        (fget {} w.pf.keys t : KeySlot) = {} ∧ fget none w.ms.xlbase t = none ∧ (∀ x, x ∈ w.pf.objects → x.tenant ≠ t) ∧
        forgets w t 0 (2 ^ 55) ∧
        (((s.granule gr).extractLsb' 0 5).toNat = t → w.granule gr = 0x1F#8 ∧
          (gr * 0x20000000 ≤ a → a < (gr + 1) * 0x20000000 → mget w.mem a = 0#8))))) ∧
    -- UPDATE
    (runs 0x11 → lacks 6 → refused (.update fn) 0x12) ∧
    (runs 0x11 → ¬ lacks 6 → beyond (arg 0) (arg 1) → refused (.update fn) 0x11) ∧
    (runs 0x11 → ¬ lacks 6 → ¬ beyond (arg 0) (arg 1) →
      let p := imageParts b
      (s.pf.updating = some n → n ≠ fn → refused (.update fn) 0x10) ∧
      (s.pf.updating = some fn → exec (.update fn) s = .next s) ∧
      (s.pf.updating = none → signed Config.vendorKey p.1 p.2 = false → refused (.update fn) 2) ∧
      (s.pf.updating = none → signed Config.vendorKey p.1 p.2 = true → Config.stateTableAccepted p.1 = false →
        refused (.update fn) 0x13) ∧
      (s.pf.updating = none → signed Config.vendorKey p.1 p.2 = true → Config.stateTableAccepted p.1 = true →
        Completes (.update fn) s (fun w => s.OnlyPlatform w ∧ s.SameContexts w ∧ frame w f ∧ w.pf.updating = some fn ∧
          fget 0#256 w.pf.mreg 2 = shake256 (toBytes 32 (fget 0#256 s.pf.mreg 2).toNat ++
            toBytes 32 (shake256 p.1).toNat)))) ∧
    (s.pf.updating = none → exec .updateTakeover s = .next s) ∧
    (s.pf.updating = some fn → s.boundary fn = false → exec .updateTakeover s = .next s) ∧
    (s.pf.updating = some fn → s.boundary fn = true → Completes .updateTakeover s (fun w => s.OnlyPlatform w ∧ ends [] w ∧
      s.Audits w 6 0xFF 0xFF [] ∧ w.pf.updating = none ∧ w.pf.active = 1 - s.pf.active)) ∧
    -- IMGADOPT
    (let record : LaunchRecord := { bytes := toBytes 8 (arg 0) ++ (s.hostRead (f.arg 1) 128).drop 8 }
     let l := adopted (s.launchOf record (s.levelsFor record) 0xFFFF) (s.counters (f.arg 2) (arg 3))
     let good := named ∧ ¬ beyond (arg 1) 128 ∧ ¬ beyond (arg 2) (8 * arg 3) ∧ s.reportWritable record = true ∧
       s.launchStatus record o.tenant = none ∧ arg 3 ≤ l.count
     let astray := ∃ e, e ∈ l.teams ∧ (s.admitLaunch l).imageAstray s.launchSeq e.1 o = true
     (runs 0x12 → named → ¬ good ∨ astray → refused (.imgadopt fn) 0x11) ∧
     (runs 0x12 → good → ¬ astray → Completes (.imgadopt fn) s (fun w => ends [BitVec.ofNat 64 s.launchSeq] w ∧ s.SameBytes w ∧
       s.SameContexts w ∧ w.launchSeq = s.launchSeq + 1 ∧ w.launch s.launchSeq = l ∧ (∀ m, m ≠ s.launchSeq → w.launch m = s.launch m) ∧
       ∀ i, (l.team i).st = .saved → (l.team i).counter = ofBytes (s.hostRead (f.arg 2 + BitVec.ofNat 64 (8 * i)) 8))))

/-! ## Resets, keys, tenant spaces, islands, trace and watchpoints -/

/-- R8, R12, R22, R36, R40, R54, R336, R342–R347: what a function-level reset and a device reset leave, the boot, a change of the key
store, the making of a tenant space and what the management port answers. Log entry 15 says what the model keeps over a reset. -/
def Obligations.ResetAndKeyEvents : Prop :=
  ∀ (s : State) (fn index tenant root a : Nat) (firmware kernel firmwareSig kernelSig key signature : List Byte)
    (nonce : BitVec 256) (first count : Nat),
    let f := s.fn fn
    let outer := match region a with | .host => true | .peer _ => true | _ => false
    let extended (old : BitVec 256) (image : List Byte) : BitVec 256 :=
      shake256 (toBytes 32 old.toNat ++ toBytes 32 (shake256 image).toNat)
    let cleared (t : State) : Prop := (∀ c, t.ctx c = {}) ∧ (∀ n, t.core n = freshCore n) ∧ (∀ q, t.quarter q = {}) ∧
      t.launches = [] ∧ t.ms = {} ∧ t.pf.fns = [] ∧ t.pf.queues = [] ∧ t.pf.objects = [] ∧ t.pf.updating = none ∧
      t.cycle = s.cycle ∧ t.tick = s.tick ∧ (∀ a, (match region a with | .host => true | .peer _ => true | _ => false) = false →
        mget t.mem a = 0#8)
    let boots := Completes (.deviceReset firmware kernel firmwareSig kernelSig) s
    let change := toBytes 1 index ++ key
    let stored := s.pf.boot = 1 ∧ index < 32 ∧ signed Config.ownerKey change signature = true
    let makes := s.pf.boot = 1 ∧ tenant < 16 ∧ root % 0x10000 = 0 ∧ root < 2 ^ 52 ∧ fget none s.ms.xlbase tenant = none
    Completes (.functionLevelReset fn) s (fun t => s.OnlyPlatform t ∧ s.SameContexts t ∧ (∀ m, m ≠ fn → t.fn m = s.fn m) ∧
      t.fn fn = { tenants := f.tenants, barSize := f.barSize, msix := f.msix, removing := f.removing } ∧
      (∀ n, (t.queue n).desc = (s.queue n).desc ∧ (t.queue n).stored = (s.queue n).stored ∧ fn ∉ (t.queue n).waiting) ∧
      t.pf.updating ≠ some fn) ∧
    (signed Config.vendorKey firmware firmwareSig = false → boots (fun t => cleared t ∧ t.pf.boot = 2 ∧
      (∀ i, fget 0#256 t.pf.mreg i = 0#256) ∧ t.mailboxState fn = 0x202#64 ∧ (t.agenda = [] → step t = .fault .bootStopped))) ∧
    (signed Config.vendorKey firmware firmwareSig = true → signed Config.vendorKey kernel kernelSig = false → boots (fun t =>
      cleared t ∧ t.pf.boot = 2 ∧ t.mailboxState fn = 0x202#64 ∧
        ∀ i, fget 0#256 t.pf.mreg i = if i = 0 then extended 0#256 firmware else 0#256)) ∧
    (signed Config.vendorKey firmware firmwareSig = true → signed Config.vendorKey kernel kernelSig = true → boots (fun t =>
      cleared t ∧ t.pf.boot = 1 ∧ s.Audits t 1 0xFF 0xFF [] ∧ t.mailboxState fn = 0#64 ∧
        ∀ i, fget 0#256 t.pf.mreg i =
          if i = 0 then extended 0#256 firmware else if i = 1 then extended 0#256 kernel else 0#256)) ∧
    (outer = true → s.memoriesOk = true → boots (fun t => mget t.mem a = mget s.mem a)) ∧
    (¬ stored → exec (.keyStoreChange index key signature) s = .next s) ∧
    (stored → Completes (.keyStoreChange index key signature) s (fun t => s.OnlyPlatform t ∧
      fget none t.pf.keyStore index = (if key = [] then none else some key) ∧
      (∀ n, n ≠ index → fget none t.pf.keyStore n = fget none s.pf.keyStore n) ∧
      ∀ i, fget 0#256 t.pf.mreg i = if i = 3 then extended (fget 0#256 s.pf.mreg 3) change else fget 0#256 s.pf.mreg i)) ∧
    (¬ makes → exec (.tenantSpaceCreate tenant root fn) s = .next s) ∧
    (makes → Completes (.tenantSpaceCreate tenant root fn) s (fun t => s.SameBytes t ∧ s.SameContexts t ∧
      (∀ n, fget none t.ms.xlbase n = if n = tenant then some root else fget none s.ms.xlbase n) ∧
      t.fn fn = { f with tenants := f.tenants ++ [tenant] } ∧ ∀ m, m ≠ fn → t.fn m = s.fn m)) ∧
    (s.pf.boot ≠ 1 → exec (.managementPortRequest .measurement) s = .next s ∧
      exec (.managementPortRequest (.attestation nonce)) s = .next s ∧ exec (.managementPortRequest (.audit first count)) s = .next s) ∧
    (s.pf.boot = 1 →
      Completes (.managementPortRequest .measurement) s (fun t => s.OnlyPlatform t ∧
        s.Replies t 0x10002 (ofBytes s.measurement) false) ∧
      Completes (.managementPortRequest (.attestation nonce)) s (fun t => s.OnlyPlatform t ∧
        s.Replies t 0x10002 (ofBytes (s.quote (toBytes 32 nonce.toNat))) false) ∧
      Completes (.managementPortRequest (.audit first count)) s (fun t => s.OnlyPlatform t ∧
        s.Replies t 0x10002 (ofBytes ((s.auditFrom first count).flatMap Audit.bytes)) false))

/-- R53, R54, R340, R348–R354, R356: islands change their clocks, are gated and restored; a sink is enabled and a watchpoint
programmed; exactly when a write at the home matches one, in either mode. Before a Plaza is gated its records are written; those that a lossy sink discards
are counted by a GAP record. The order of records in a sink's buffer, and what TIME and GAP records name, are the model's (log entry
28). -/
def Obligations.TraceAndPowerEvents : Prop :=
  ∀ (s : State) (island mhz quarter base size n unit pa lo : Nat) (lossless : Bool) (control : Word) (value mask : BitVec 128)
    (before after : Memory),
    let q := if island < 216 then island / 54 else if island < 240 then (island - 216) / 6 else (island - 240) / 3
    let core := if island < 216 then island else if island < 240 then (island - 216) * 9 else (island - 240) / 3 * 54
    let k := (s.quarter q).sink
    let logical := (s.core core).logical.getD 0
    let freq : BitVec 128 := BitVec.ofNat 128 (island + mhz % 2 ^ 16 * 2 ^ 16)
    let made (delta : Nat) : TraceRec := { type := 6, slot := 7, ctx := 0, core := logical, delta := delta, addr := 0, payload := freq }
    let gates (clockOnly : Bool) := Completes (.islandPowerGate island clockOnly) s
    let accepted := ∃ e, e ∈ s.pf.fns ∧ ∃ v, e.2.accepted = some v ∧ v.getLsbD 7 = true
    let legal := accepted ∧ quarter < 4 ∧ 0 < size ∧ size % 32 = 0 ∧ s.owner base size = some 0x10
    let w : Watchpoint :=
      { mode := (control.extractLsb' 0 2).toNat, tenant := (control.extractLsb' 2 4).toNat, bytes := control.extractLsb' 8 16
        unit := unit % 2 ^ 48, value := value, mask := mask }
    -- clocks and gates
    (256 ≤ island ∨ mhz = 0 → exec (.islandClockChange island mhz) s = .next s) ∧
    (island < 256 → mhz ≠ 0 → Completes (.islandClockChange island mhz) s (fun t => s.SameBytes t ∧ s.SameContexts t ∧
      (∀ i, fget Config.nominalMHz t.pf.islandMHz i = if i = island then mhz else fget Config.nominalMHz s.pf.islandMHz i) ∧
      t.cycle = s.cycle ∧ t.tick = s.tick ∧
      (252 ≤ island ∨ k.enabled = false → ∀ p, t.quarter p = s.quarter p) ∧
      (island < 252 → k.enabled = true → k.full = false → k.needTime = false → s.tick < k.prev + 2 ^ 32 → k.dropped = 0 →
        (t.quarter q).sink.buffer = k.buffer ++ [made (s.tick - k.prev)]) ∧
      (island < 252 → k.enabled = true → k.full = true → k.lossless = false → (t.quarter q).sink.buffer = k.buffer ∧
        (t.quarter q).sink.dropped = k.dropped + 1))) ∧
    (256 ≤ island ∨ island ∈ s.pf.gated → exec (.islandPowerGate island true) s = .next s ∧
      exec (.islandPowerGate island false) s = .next s) ∧
    (island < 256 → island ∉ s.pf.gated →
      gates true (fun t => s.SameBytes t ∧ s.SameContexts t ∧ island ∈ t.pf.gated ∧
        (island < 252 → (t.quarter q).sink = { k with needTime := true })) ∧
      gates false (fun t => s.SameContexts t ∧ island ∈ t.pf.gated ∧
        (island < 252 → (t.quarter q).sink.needTime = true) ∧
        (island < 216 ∨ 240 ≤ island ∨ (∀ r, r ∈ k.buffer → r.core / 8 ≠ island - 216) →
          (t.quarter q).sink.buffer = k.buffer ∧ (t.quarter q).sink.written = k.written) ∧
        (216 ≤ island → island < 240 → k.lossless = true → ∃ written, k.buffer = written ++ (t.quarter q).sink.buffer ∧
          (∀ r, r ∈ (t.quarter q).sink.buffer → r.core / 8 ≠ island - 216) ∧
          (∀ r, written.getLast? = some r → r.core / 8 = island - 216) ∧
          (t.quarter q).sink.written = k.written + written.length) ∧
        (216 ≤ island → island < 240 → k.lossless = false → (∃ r, r ∈ k.buffer ∧ r.core / 8 = island - 216) →
          let left := k.discardPlaza (island - 216) s.tick
          (t.quarter q).sink.buffer = [] ∧ (t.quarter q).sink.written = k.written + left.buffer.length ∧
            (t.quarter q).sink.dropped = 0 ∧ (t.quarter q).sink.prev = s.tick ∧
            (∀ r, r ∈ left.buffer → r.core / 8 = island - 216 → r.type = 4 ∨ r.type = 5) ∧
            ∃ r, left.buffer.getLast? = some r ∧ r.type = 4 ∧ r.payload = BitVec.ofNat 128 (k.dropped +
              ((k.buffer.filter fun r => r.inPlaza (island - 216) && r.type != 5).map TraceRec.weight).sum))) ∧
      (240 ≤ island → island < 252 → island % 3 = 0 → gates true (fun t =>
        ∀ l, l ∈ t.ms.near ↔ l ∈ s.ms.near ∧ l.quarter ≠ (island - 240) / 3))) ∧
    (island ∉ s.pf.gated → exec (.islandPowerRestore island) s = .next s) ∧
    (island ∈ s.pf.gated → Completes (.islandPowerRestore island) s (fun t => s.SameBytes t ∧ s.SameContexts t ∧
      (∀ i, i ∈ t.pf.gated ↔ i ∈ s.pf.gated ∧ i ≠ island) ∧ (island < 252 → (t.quarter q).sink = { k with needTime := true }))) ∧
    -- a sink
    (¬ legal → exec (.traceSinkEnable quarter lossless base size) s = .next s) ∧
    (legal → Completes (.traceSinkEnable quarter lossless base size) s (fun t => s.OnlyQuarter t quarter ∧
      t.quarter quarter = { s.quarter quarter with sink := (t.quarter quarter).sink } ∧
      (t.quarter quarter).sink =
        { enabled := true, lossless := lossless, base := base, size := size, needTime := true, prev := s.tick })) ∧
    -- watchpoints
    (4 ≤ quarter ∨ 4 ≤ n → exec (.watchpointProgram quarter n control unit value mask) s = .next s) ∧
    (quarter < 4 → n < 4 → Completes (.watchpointProgram quarter n control unit value mask) s (fun t => s.OnlyQuarter t quarter ∧
      t.quarter quarter = { s.quarter quarter with watch := (t.quarter quarter).watch } ∧
      ∀ m, (fget {} (t.quarter quarter).watch m : Watchpoint) = if m = n then w else fget {} (s.quarter quarter).watch m)) ∧
    (w.mode = 0 ∨ w.mode = 3 → w.hit lo pa size before after = false) ∧
    (let masked (b : Nat) : Prop := b < 16 ∧ w.bytes.getLsbD b = true
     let low (x : BitVec 128) (b : Nat) : Byte := x.extractLsb' (8 * b) 8
     w.hit lo pa size before after = true ↔
      w.tenant = lo ∧ (∃ b, masked b ∧ pa ≤ w.unit * 16 + b ∧ w.unit * 16 + b < pa + size) ∧
      (w.mode = 1 ∧ (∀ b, masked b → mget after (w.unit * 16 + b) &&& low mask b = low value b &&& low mask b) ∨
        w.mode = 2 ∧ ∃ b, masked b ∧ mget before (w.unit * 16 + b) ≠ mget after (w.unit * 16 + b)))

/-! ## The machine as a whole -/

/-- R62, R156, R164, R168, R174, R210, R226, R228, R349: when the bytes at the program counter decode to one instruction, the step is
that instruction, which reads the registers as they stood when its bundle first issued, and the transfer after it; when the
instruction waits, the context gives up its width; where it stops the context, the registers it read are kept for its re-entry; a
refused pattern raises illegal bundle; and an event on the agenda happens. The agenda is the model's own (log entry 1), and so is what
a re-entered bundle reads (log entry 35). -/
def Obligations.StepRunsDecoded : Prop :=
  ∀ (s t : State) (c n slot reason : Nat) (w : BitVec 256) (i : Instr) (rest : List Move) (cause : Wait),
    let u := s.taken c
    let read := (s.ctx c).entry.getD (s.ctx c).r
    let v := (u.point w).modMe fun x => { x with words := w, fenceWait := none, fenceFar := false }
    u = { s with cur := c, snap := some read, ctxs := u.ctxs } ∧
    u.me = { s.ctx c with iss := { (s.ctx c).iss with cause := none } } ∧ u.rd = read ∧
    (w.getLsbD 14 = false ∨ (s.ctx c).entry ≠ none → u.point w = u) ∧
    (s.Offers c → u.Fetches w → u.decode w = .ok [(n, i)] →
      (exec i u = .next t → t.me.iss.cause = some cause → step s = .next ((u.keepWalks t).giveUp c cause)) ∧
      ((∃ x, exec i u = .next x ∧ x.me.iss.cause = none) → exec i v = .next t →
        step s = .next (if t.me.st = .resident then t.complete else t.stopped))) ∧
    (s.Offers c → u.Fetches w → u.decode w = .error (slot, reason) → step s = .next (u.illegal slot reason).settled) ∧
    (t.stopped.me = { t.me with entry := t.snap } ∧ t.stopped.snap = none) ∧
    (t.complete.ctx t.cur).entry = none ∧
    (t.me.jump = none → (t.me.r.loopEnd t.me.pc [3, 2, 1, 0]).2 = none → (t.complete.ctx t.cur).pc = t.me.pc + 32#64) ∧
    (∀ a pad, t.me.jump = some (a, pad) → (t.complete.ctx t.cur).pc = a ∧ (t.complete.ctx t.cur).r = t.me.r) ∧
    (s.agenda = .event i :: rest → step s = exec i { s with agenda := rest }) ∧
    (s.agenda = .tick :: rest → s.dueNow = none → ∃ x, step s = .next x ∧ x.cycle = s.cycle + 1 ∧ x.agenda = rest)

/-- R343: the machine stops only where the boot stopped and nothing is on the agenda; no instruction is refused as having no
meaning. -/
def Obligations.OnlyTheBootStops : Prop :=
  ∀ (s : State) (i : Instr), (∃ t, exec i s = .next t) ∧ (∀ r, step s ≠ .refused r) ∧
    ((∃ f, step s = .fault f) ↔ s.agenda = [] ∧ s.pf.boot = 2) ∧ (s.agenda = [] → s.pf.boot = 2 → step s = .fault .bootStopped)

/-- R226, R227: an instruction whose own fields break a decode rule raises illegal bundle, with its slot, and nothing commits. -/
def Obligations.IllFormedFieldsAreRefused : Prop :=
  ∀ (s : State) (i : Instr) (w : Decode.SlotWord), Decode.encode i = some w → i.wellFormed = false →
    ∃ reason, reason ≠ 0 ∧ exec i s = .next (s.illegal w.slot reason) ∧
      s.Stopped (s.illegal w.slot reason) (faultWord 2 reason w.slot) s.me.pc 0 s.me.skip

/-- R208, R209, R213, R216, R222–R224: the decoder reads back every well-formed instruction from its own encoding, at every value of
its fields, in its slot; and a bundle's fields are read back from its pattern. -/
def Obligations.DecodeReadsEncoding : Prop :=
  (∀ (i : Instr) (w : Decode.SlotWord), i.wellFormed = true → Decode.encode i = some w →
    Decode.decodeSlot w.slot w.cls w.bits = .ok i) ∧
  ∀ (b : Decode.Bundle), Decode.splitBundle (Decode.joinBundle b) = b

/-- R213, R215, R216, R219, R222–R224: words written out from the encoding tables decode to what they stand for. -/
def Obligations.EncodedWordsDecode : Prop :=
  Decode.decodeSlot 0 0#4 0x0018A501 = .ok (.add 10#5 10#5 12#5 0#5) ∧
  Decode.decodeSlot 0 0#4 0x000294A0 = .ok (.addi 9#5 9#5 1#15) ∧
  Decode.decodeSlot 0 0#4 0x00000054 = .ok .done ∧
  Decode.decodeSlot 0 0#4 0x000204A7 = .ok (.lim 9#5 1#15) ∧
  Decode.decodeSlot 4 0#4 0x8000E010 = .ok (.ldq .c0 0#4 8#4 0#8 7#5 0#5) ∧
  Decode.decodeSlot 5 0#4 0x00000222 = .ok (.acq .c1 4#3) ∧
  Decode.decodeSlot 4 3#4 0x8020C499 = .ok (.atomr .c0 3#4 8#4 0#3 false false 1#2 0#4 12#5 9#5) ∧
  Decode.decodeSlot 4 0#4 0x0C318D05 = .ok (.ldx .c0 3#2 0#2 6#5 12#6 26#6) ∧
  Decode.decodeSlot 3 0#4 7 = .ok .mrel ∧
  Decode.decodeSlot 1 0#4 0xBFB = .ok (.vtclr .v0 5#6) ∧
  Decode.decodeSlot 0 0#4 0x5A = .error 1

/-- Every step keeps the canonical form of every memory, so that equal memories are equal data. The canonical form is the model's own
representation of memory (assumption log, 2) and no rule of the specification: R1, R16 and R30 give only the address spaces that it
stands for. -/
def Obligations.StepKeepsMemoriesCanonical : Prop :=
  ∀ (s t : State), s.memoriesOk = true → step s = .next t → t.memoriesOk = true

/-- R32, R36, R57, R186, R277, R344: the state right after reset. Log entries 2 to 6 name the values that are the model's choice: an
unwritten byte reads zero, no granule is assigned, and no translation is held. -/
def Obligations.ResetState : Prop :=
  ∀ (n c : Nat), let s := State.reset
    s.memoriesOk = true ∧ fget 0#256 s.pf.mreg n = 0#256 ∧ (s.ctx c).st = .free ∧ (s.core n).lease = none ∧
      (s.core n).bankOwner = [] ∧ (s.core n).frozen = false ∧ (fget {} s.pf.keys n : KeySlot).key = none ∧ s.ms.poison = [] ∧
      s.launches = [] ∧ (s.queue n).bound = false ∧ s.mailboxState n = 0#64 ∧ (s.fn n).accepted = none ∧
      (s.core n).tlb = [] ∧ (s.quarter n).tlb = [] ∧ s.granule n = 0x1F#8 ∧ mget s.mem n = 0#8 ∧ mget (s.core c).scratch n = 0#8

/-- R195, R261, R262: floating elements: a compare with a NaN is false; of numbers the compares and the minimum and maximum follow
their order, where −0 equals +0 for a compare and lies below it for the others; a NaN operand makes a sum or product the default
NaN, and one NaN of two gives the other operand of a minimum or maximum; `abs` and `neg` change the sign alone. R268, R269: what a
permutation of kind 0, a rotation, a broadcast, and the reductions and scans of integers leave in each element. -/
def Obligations.FloatElementAndLaneResults : Prop :=
  (∀ (t : VT) (f : FFmt) (m : Modes) (a b c : Nat), t.fmt = some f → a < 2 ^ f.width → b < 2 ^ f.width →
    let nan (x : Nat) : Prop := (decodeF f false x).isNan = true
    let sign := 2 ^ f.signBit
    let zero (x : Nat) : Prop := x % sign = 0
    let below (x y : Nat) : Prop := (x < sign ∧ y < sign ∧ x < y) ∨ (sign ≤ x ∧ (y < sign ∨ y < x))
    let truth (holds : Prop) (r : Nat × Flags) : Prop := r.2 = Flag.none ∧ (holds → r.1 = 2 ^ f.width - 1) ∧ (¬ holds → r.1 = 0)
    let equal := a = b ∨ (zero a ∧ zero b)
    ((nan a ∨ nan b) → ∀ op, op ∈ [0x10, 0x11, 0x12] → elemOp t m op a b c = (0, Flag.none)) ∧
    ((nan a ∨ nan b) → ∀ op, op ∈ [0x01, 0x02, 0x03] → elemOp t m op a b c = (f.nan, Flag.none)) ∧
    (¬ nan a → ¬ nan b → m.daz = false →
      truth equal (elemOp t m 0x10 a b c) ∧ truth (below a b ∧ ¬ equal) (elemOp t m 0x11 a b c) ∧
      truth (below a b ∨ equal) (elemOp t m 0x12 a b c)) ∧
    (nan a → nan b → elemOp t m 0x06 a b c = (f.nan, Flag.none) ∧ elemOp t m 0x07 a b c = (f.nan, Flag.none)) ∧
    (m.daz = false → m.ftz = false → ∀ op, op ∈ [0x06, 0x07] →
      (nan a → ¬ nan b → elemOp t m op a b c = (b, Flag.none)) ∧ (¬ nan a → nan b → elemOp t m op a b c = (a, Flag.none)) ∧
      (¬ nan a → ¬ nan b → elemOp t m op a b c = (a, Flag.none) ∨ elemOp t m op a b c = (b, Flag.none))) ∧
    (m.daz = false → m.ftz = false → ¬ nan a → ¬ nan b → below a b →
      elemOp t m 0x06 a b c = (a, Flag.none) ∧ elemOp t m 0x07 a b c = (b, Flag.none) ∧
      elemOp t m 0x06 b a c = (a, Flag.none) ∧ elemOp t m 0x07 b a c = (b, Flag.none)) ∧
    (nan a → elemOp t m 0x08 a b c = (f.nan, Flag.none) ∧ elemOp t m 0x09 a b c = (f.nan, Flag.none)) ∧
    (¬ nan a → elemOp t m 0x08 a b c = (a % sign, Flag.none) ∧
      elemOp t m 0x09 a b c = (if a < sign then a + sign else a - sign, Flag.none))) ∧
  (∀ (w : CWord) (m : Modes) (guard : Pred) (t : VT) (x y z i sa sb sc : Nat), w.width ≤ 2 → t.isInt = true → m.sat = false →
    let k := t.width
    let n := w.bitsWide / k
    let group := 2 ^ w.gs
    let run (op : Nat) : Nat × Flags := runStage w m guard { op := op, sa := sa, sb := sb, sc := sc } t x y z
    let at_ (v j : Nat) : Nat := v / 2 ^ (k * j) % 2 ^ k
    let mine (l : Nat) : List Nat := (List.range l).map fun j => at_ x (i / group * group + j)
    let extreme (v : Nat) (p : Int → Int → Prop) : Prop := v ∈ mine group ∧ ∀ e, e ∈ mine group → p (intOf k v) (intOf k e)
    i < n → group ≤ n → (∀ op, op ∈ [0x30, 0x31, 0x32, 0x33, 0x34, 0x35, 0x36, 0x37] → (run op).2 = Flag.none) ∧
      (w.perm < 64 → at_ (run 0x30).1 i = at_ x (i ^^^ (w.perm &&& (n - 1))) ∧ at_ (run 0x31).1 ((i + w.perm) % n) = at_ x i) ∧
      at_ (run 0x32).1 i = at_ x (i / group * group + y % 2 ^ k % group) ∧
      at_ (run 0x33).1 i = (mine group).sum % 2 ^ k ∧
      extreme (at_ (run 0x34).1 i) (· ≤ ·) ∧ extreme (at_ (run 0x35).1 i) (· ≥ ·) ∧
      at_ (run 0x36).1 i = (mine (i % group + 1)).sum % 2 ^ k ∧
      at_ (run 0x37).1 i = (mine (i % group + 1)).prod % 2 ^ k)
end

