-- ==== Sys2Proof/Laws/Memory.lean ====
section
/-!
SUPPORT. What the memory operations do: a read after a write, and that each keeps the canonical form.
-/

namespace Sys2Proof.Machine

/-! ## The canonical form -/

theorem wfFrom_mono (m : Memory) : ∀ {lo hi : Nat}, lo ≤ hi → wfFrom hi m = true → wfFrom lo m = true := by
  cases m with
  | nil => intros; rfl
  | cons e l =>
    intro lo hi h w
    simp only [wfFrom, Bool.and_eq_true, decide_eq_true_eq] at w ⊢
    exact ⟨⟨Nat.le_trans h w.1.1, w.1.2⟩, w.2⟩

/-- A byte below every listed address reads as an unlisted one. -/
theorem mget_below (m : Memory) : ∀ {lo : Nat}, wfFrom lo m = true → ∀ a, a < lo → mget m a = unlisted := by
  induction m with
  | nil => intros; rfl
  | cons e l ih =>
    intro lo w a h
    simp only [wfFrom, Bool.and_eq_true, decide_eq_true_eq] at w
    have hne : e.1 ≠ a := by omega
    obtain ⟨x, v⟩ := e
    simp only [mget, if_neg hne]
    exact ih w.2 a (by omega)

theorem wfFrom_mput (m : Memory) : ∀ {lo : Nat} (a : Nat) (v : Byte), wfFrom lo m = true → lo ≤ a →
    wfFrom lo (mput m a v) = true := by
  induction m with
  | nil =>
    intro lo a v _ h
    by_cases hv : v = unlisted <;> simp [mput, wfFrom, hv, h]
  | cons e l ih =>
    intro lo a v w h
    obtain ⟨x, u⟩ := e
    have w' := w
    simp only [wfFrom, Bool.and_eq_true, decide_eq_true_eq] at w
    simp only [mput]
    split
    · next hax =>
      split
      · exact w'
      · next hv =>
        simp only [wfFrom, Bool.and_eq_true, decide_eq_true_eq, bne_iff_ne, ne_eq]
        exact ⟨⟨h, hv⟩, ⟨by omega, by simpa using w.1.2⟩, w.2⟩
    · split
      · next hax =>
        subst hax
        split
        · exact wfFrom_mono l (by omega) w.2
        · next hv =>
          simp only [wfFrom, Bool.and_eq_true, decide_eq_true_eq, bne_iff_ne, ne_eq]
          exact ⟨⟨h, hv⟩, w.2⟩
      · next h1 h2 =>
        simp only [wfFrom, Bool.and_eq_true, decide_eq_true_eq]
        exact ⟨w.1, ih a v w.2 (by omega)⟩

/-- A put keeps the canonical form. -/
theorem wf_mput (m : Memory) (a : Nat) (v : Byte) (h : Memory.wf m = true) : Memory.wf (mput m a v) = true :=
  wfFrom_mput m a v h (Nat.zero_le a)

/-- A write keeps the canonical form. -/
theorem wf_mwrite (bs : List Byte) : ∀ (m : Memory) (a : Nat), Memory.wf m = true → Memory.wf (mwrite m a bs) = true := by
  induction bs with
  | nil => intro m a h; exact h
  | cons b l ih => intro m a h; exact ih _ _ (wf_mput m a b h)

/-- Dropping entries keeps the canonical form. -/
theorem wfFrom_filter (m : Memory) (p : Nat × Byte → Bool) : ∀ {lo : Nat}, wfFrom lo m = true → wfFrom lo (m.filter p) = true := by
  induction m with
  | nil => intros; rfl
  | cons e l ih =>
    intro lo w
    obtain ⟨x, v⟩ := e
    simp only [wfFrom, Bool.and_eq_true, decide_eq_true_eq] at w
    simp only [List.filter_cons]
    split
    · simp only [wfFrom, Bool.and_eq_true, decide_eq_true_eq]
      exact ⟨w.1, ih w.2⟩
    · exact wfFrom_mono _ (by omega) (ih w.2)

theorem wf_filter (m : Memory) (p : Nat × Byte → Bool) (h : Memory.wf m = true) : Memory.wf (m.filter p) = true :=
  wfFrom_filter m p h

/-- Clearing a range keeps the canonical form. -/
theorem wf_mclear (m : Memory) (a n : Nat) (h : Memory.wf m = true) : Memory.wf (mclear m a n) = true := wf_filter m _ h

/-! ## Reads after writes -/

theorem mget_mput_from (m : Memory) : ∀ {lo : Nat} (a : Nat) (v : Byte) (j : Nat), wfFrom lo m = true →
    mget (mput m a v) j = if j = a then v else mget m j := by
  induction m with
  | nil =>
    intro lo a v j _
    by_cases hv : v = unlisted
    · subst hv; simp [mput, mget]
    · by_cases hj : j = a
      · subst hj; simp [mput, mget, hv]
      · simp [mput, mget, hv, hj, Ne.symm hj]
  | cons e l ih =>
    intro lo a v j w
    obtain ⟨x, u⟩ := e
    have w' := w
    simp only [wfFrom, Bool.and_eq_true, decide_eq_true_eq] at w
    simp only [mput]
    split
    · next hax =>
      have hb : j = a → mget ((x, u) :: l) j = unlisted := fun hj =>
        mget_below ((x, u) :: l) (lo := x) (by simp only [wfFrom, Bool.and_eq_true, decide_eq_true_eq]; exact ⟨⟨Nat.le_refl _, w.1.2⟩, w.2⟩)
          j (by omega)
      split
      · next hv =>
        split
        · next hj => rw [hb hj, hv]
        · rfl
      · split
        · next hj => subst hj; simp [mget]
        · next hj =>
          have : a ≠ j := Ne.symm hj
          conv => lhs; rw [mget, if_neg this]
    · split
      · next hax =>
        subst hax
        have hb : mget l a = unlisted := mget_below l w.2 a (by omega)
        split
        · next hv =>
          split
          · next hj => subst hj; rw [hb, hv]
          · next hj =>
            have : a ≠ j := Ne.symm hj
            simp [mget, this]
        · split
          · next hj => subst hj; simp [mget]
          · next hj =>
            have : a ≠ j := Ne.symm hj
            simp [mget, this]
      · next h1 h2 =>
        by_cases hx : x = j
        · subst hx
          have : ¬ x = a := fun e => h2 e.symm
          simp [mget, this]
        · simp only [mget, if_neg hx]
          exact ih a v j w.2

/-- A byte after a put. -/
theorem mget_mput (m : Memory) (a j : Nat) (v : Byte) (h : Memory.wf m = true) :
    mget (mput m a v) j = if j = a then v else mget m j :=
  mget_mput_from m a v j h

/-- A byte outside the bytes written reads as before. -/
theorem mget_mwrite_ne (bs : List Byte) : ∀ (m : Memory) (a j : Nat), Memory.wf m = true → (j < a ∨ a + bs.length ≤ j) →
    mget (mwrite m a bs) j = mget m j := by
  induction bs with
  | nil => intros; rfl
  | cons b l ih =>
    intro m a j h hj
    simp only [List.length_cons] at hj
    have h1 : ¬ j = a := by omega
    rw [mwrite, ih _ _ _ (wf_mput m a b h) (by omega), mget_mput m a j b h, if_neg h1]

/-- The bytes written read back. -/
theorem mread_mwrite (bs : List Byte) : ∀ (m : Memory) (a : Nat), Memory.wf m = true →
    mread (mwrite m a bs) a bs.length = bs := by
  induction bs with
  | nil => intros; rfl
  | cons b l ih =>
    intro m a h
    simp only [List.length_cons, mread, mwrite]
    rw [ih _ _ (wf_mput m a b h), mget_mwrite_ne l _ _ _ (wf_mput m a b h) (Or.inl (Nat.lt_succ_self a)), mget_mput m a a b h, if_pos rfl]

end Sys2Proof.Machine
end

