-- ==== Sys2Proof/Laws/PerInstr.lean ====
section
/-!
SUPPORT. For every instruction: its encoding stands in the slot of its format and fits the slot's bits (R208, R213, R216,
R222, R223); an event row has none.
-/

namespace Sys2Proof.Laws.Fits

/-- An encoding fits the slot it names: 32 bits in S, C0 and C1, 48 bits in V0, V1 and M (R208). -/
def Statement (i : Instr) : Prop :=
  ∀ w, Decode.encode i = some w → w.slot ≤ 5 ∧ w.bits < 2 ^ (if w.slot = 0 ∨ 4 ≤ w.slot then 32 else 48)

theorem of_scalar (i : Instr) (x : BitVec 32) (h : Decode.encode i = some ⟨0, 0#4, x.toNat⟩) : Statement i := by
  intro w hw
  rw [h] at hw
  cases hw
  exact ⟨by simp, x.isLt⟩

theorem of_v0 (i : Instr) (x : BitVec 48) (h : Decode.encode i = some ⟨1, 0#4, x.toNat⟩) : Statement i := by
  intro w hw
  rw [h] at hw
  cases hw
  exact ⟨by simp, x.isLt⟩

theorem of_v1 (i : Instr) (x : BitVec 48) (h : Decode.encode i = some ⟨2, 0#4, x.toNat⟩) : Statement i := by
  intro w hw
  rw [h] at hw
  cases hw
  exact ⟨by simp, x.isLt⟩

theorem of_matrix (i : Instr) (x : BitVec 48) (h : Decode.encode i = some ⟨3, 0#4, x.toNat⟩) : Statement i := by
  intro w hw
  rw [h] at hw
  cases hw
  exact ⟨by simp, x.isLt⟩

theorem of_c0 (i : Instr) (cls : BitVec 4) (x : BitVec 32) (h : Decode.encode i = some ⟨4, cls, x.toNat⟩) : Statement i := by
  intro w hw
  rw [h] at hw
  cases hw
  exact ⟨by simp, x.isLt⟩

theorem of_c1 (i : Instr) (cls : BitVec 4) (x : BitVec 32) (h : Decode.encode i = some ⟨5, cls, x.toNat⟩) : Statement i := by
  intro w hw
  rw [h] at hw
  cases hw
  exact ⟨by simp, x.isLt⟩

theorem of_none (i : Instr) (h : Decode.encode i = none) : Statement i := by
  intro w hw
  rw [h] at hw
  cases hw

theorem nop : Statement (.nop) := of_scalar _ _ rfl
theorem add (d a b g : BitVec 5) : Statement (.add d a b g) := of_scalar _ _ rfl
theorem sub (d a b g : BitVec 5) : Statement (.sub d a b g) := of_scalar _ _ rfl
theorem mul (d a b g : BitVec 5) : Statement (.mul d a b g) := of_scalar _ _ rfl
theorem mulh (d a b g : BitVec 5) : Statement (.mulh d a b g) := of_scalar _ _ rfl
theorem mulhu (d a b g : BitVec 5) : Statement (.mulhu d a b g) := of_scalar _ _ rfl
theorem div (d a b g : BitVec 5) : Statement (.div d a b g) := of_scalar _ _ rfl
theorem divu (d a b g : BitVec 5) : Statement (.divu d a b g) := of_scalar _ _ rfl
theorem rem (d a b g : BitVec 5) : Statement (.rem d a b g) := of_scalar _ _ rfl
theorem remu (d a b g : BitVec 5) : Statement (.remu d a b g) := of_scalar _ _ rfl
theorem and (d a b g : BitVec 5) : Statement (.and d a b g) := of_scalar _ _ rfl
theorem or (d a b g : BitVec 5) : Statement (.or d a b g) := of_scalar _ _ rfl
theorem xor (d a b g : BitVec 5) : Statement (.xor d a b g) := of_scalar _ _ rfl
theorem shl (d a b g : BitVec 5) : Statement (.shl d a b g) := of_scalar _ _ rfl
theorem shr (d a b g : BitVec 5) : Statement (.shr d a b g) := of_scalar _ _ rfl
theorem sra (d a b g : BitVec 5) : Statement (.sra d a b g) := of_scalar _ _ rfl
theorem min (d a b g : BitVec 5) : Statement (.min d a b g) := of_scalar _ _ rfl
theorem minu (d a b g : BitVec 5) : Statement (.minu d a b g) := of_scalar _ _ rfl
theorem max (d a b g : BitVec 5) : Statement (.max d a b g) := of_scalar _ _ rfl
theorem maxu (d a b g : BitVec 5) : Statement (.maxu d a b g) := of_scalar _ _ rfl
theorem sel (d a b g f : BitVec 5) : Statement (.sel d a b g f) := of_scalar _ _ rfl
theorem clz (d a g : BitVec 5) : Statement (.clz d a g) := of_scalar _ _ rfl
theorem ctz (d a g : BitVec 5) : Statement (.ctz d a g) := of_scalar _ _ rfl
theorem popc (d a g : BitVec 5) : Statement (.popc d a g) := of_scalar _ _ rfl
theorem addi (d a : BitVec 5) (imm : BitVec 15) : Statement (.addi d a imm) := of_scalar _ _ rfl
theorem andi (d a : BitVec 5) (imm : BitVec 15) : Statement (.andi d a imm) := of_scalar _ _ rfl
theorem ori (d a : BitVec 5) (imm : BitVec 15) : Statement (.ori d a imm) := of_scalar _ _ rfl
theorem xori (d a : BitVec 5) (imm : BitVec 15) : Statement (.xori d a imm) := of_scalar _ _ rfl
theorem shli (d a : BitVec 5) (imm : BitVec 6) : Statement (.shli d a imm) := of_scalar _ _ rfl
theorem shri (d a : BitVec 5) (imm : BitVec 6) : Statement (.shri d a imm) := of_scalar _ _ rfl
theorem srai (d a : BitVec 5) (imm : BitVec 6) : Statement (.srai d a imm) := of_scalar _ _ rfl
theorem lim (d : BitVec 5) (imm : BitVec 15) : Statement (.lim d imm) := of_scalar _ _ rfl
theorem lims (d a : BitVec 5) (imm : BitVec 15) : Statement (.lims d a imm) := of_scalar _ _ rfl
theorem cmpEq (d a b g : BitVec 5) : Statement (.cmpEq d a b g) := of_scalar _ _ rfl
theorem cmpNe (d a b g : BitVec 5) : Statement (.cmpNe d a b g) := of_scalar _ _ rfl
theorem cmpLt (d a b g : BitVec 5) : Statement (.cmpLt d a b g) := of_scalar _ _ rfl
theorem cmpLtu (d a b g : BitVec 5) : Statement (.cmpLtu d a b g) := of_scalar _ _ rfl
theorem cmpLe (d a b g : BitVec 5) : Statement (.cmpLe d a b g) := of_scalar _ _ rfl
theorem cmpLeu (d a b g : BitVec 5) : Statement (.cmpLeu d a b g) := of_scalar _ _ rfl
theorem cmpiEq (d a : BitVec 5) (imm : BitVec 15) : Statement (.cmpiEq d a imm) := of_scalar _ _ rfl
theorem cmpiLt (d a : BitVec 5) (imm : BitVec 15) : Statement (.cmpiLt d a imm) := of_scalar _ _ rfl
theorem cmpiLtu (d a : BitVec 5) (imm : BitVec 15) : Statement (.cmpiLtu d a imm) := of_scalar _ _ rfl
theorem pand (d a b g : BitVec 5) : Statement (.pand d a b g) := of_scalar _ _ rfl
theorem por (d a b g : BitVec 5) : Statement (.por d a b g) := of_scalar _ _ rfl
theorem pxor (d a b g : BitVec 5) : Statement (.pxor d a b g) := of_scalar _ _ rfl
theorem pandn (d a b g : BitVec 5) : Statement (.pandn d a b g) := of_scalar _ _ rfl
theorem pnot (d a g : BitVec 5) : Statement (.pnot d a g) := of_scalar _ _ rfl
theorem pget (d a g : BitVec 5) : Statement (.pget d a g) := of_scalar _ _ rfl
theorem pset (d a g : BitVec 5) : Statement (.pset d a g) := of_scalar _ _ rfl
theorem br (g pad : BitVec 5) (disp : BitVec 15) : Statement (.br g pad disp) := of_scalar _ _ rfl
theorem brn (g pad : BitVec 5) (disp : BitVec 15) : Statement (.brn g pad disp) := of_scalar _ _ rfl
theorem call (pad : BitVec 5) (disp : BitVec 15) : Statement (.call pad disp) := of_scalar _ _ rfl
theorem jmp (a pad : BitVec 5) : Statement (.jmp a pad) := of_scalar _ _ rfl
theorem ret (pad : BitVec 5) : Statement (.ret pad) := of_scalar _ _ rfl
theorem loop (level : BitVec 2) (len : BitVec 8) (a sigma : BitVec 5) (fl : Bool) : Statement (.loop level len a sigma fl) := of_scalar _ _ rfl
theorem lbrk (a pad : BitVec 5) : Statement (.lbrk a pad) := of_scalar _ _ rfl
theorem lidx (d : BitVec 5) (level : BitVec 2) : Statement (.lidx d level) := of_scalar _ _ rfl
theorem wait (d : BitVec 5) (mask : BitVec 8) (all : Bool) : Statement (.wait d mask all) := of_scalar _ _ rfl
theorem bara (a : BitVec 5) (id : BitVec 6) (scope : BitVec 3) : Statement (.bara a id scope) := of_scalar _ _ rfl
theorem barw (id : BitVec 6) : Statement (.barw id) := of_scalar _ _ rfl
theorem span (d a : BitVec 5) (eng : BitVec 3) (opn : Bool) : Statement (.span d a eng opn) := of_scalar _ _ rfl
theorem tclr (a : BitVec 5) (kind : BitVec 3) (mask : BitVec 9) : Statement (.tclr a kind mask) := of_scalar _ _ rfl
theorem tmask (d a : BitVec 5) (kind : BitVec 3) (rot : Bool) : Statement (.tmask d a kind rot) := of_scalar _ _ rfl
theorem slack (n : BitVec 8) : Statement (.slack n) := of_scalar _ _ rfl
theorem yield : Statement (.yield) := of_scalar _ _ rfl
theorem getsr (d n : BitVec 5) : Statement (.getsr d n) := of_scalar _ _ rfl
theorem setsr (a n : BitVec 5) : Statement (.setsr a n) := of_scalar _ _ rfl
theorem trap (code : BitVec 8) : Statement (.trap code) := of_scalar _ _ rfl
theorem brkpt (code : BitVec 8) : Statement (.brkpt code) := of_scalar _ _ rfl
theorem done : Statement (.done) := of_scalar _ _ rfl
theorem mark (a : BitVec 5) : Statement (.mark a) := of_scalar _ _ rfl
theorem rdtime (d : BitVec 5) : Statement (.rdtime d) := of_scalar _ _ rfl
theorem tblw (a : BitVec 5) (table : BitVec 4) (index : BitVec 9) : Statement (.tblw a table index) := of_scalar _ _ rfl
theorem tblr (d : BitVec 5) (table : BitVec 4) (index : BitVec 9) : Statement (.tblr d table index) := of_scalar _ _ rfl
theorem qpop (d : BitVec 5) (q : Bool) (word : BitVec 4) : Statement (.qpop d q word) := of_scalar _ _ rfl
theorem xget (s : BitVec 5) (bay : BitVec 6) (lane : BitVec 5) (size : BitVec 2) : Statement (.xget s bay lane size) := of_scalar _ _ rfl
theorem xput (s : BitVec 5) (bay : BitVec 6) (lane : BitVec 5) (size : BitVec 2) : Statement (.xput s bay lane size) := of_scalar _ _ rfl
theorem vectorCascade (u : VSlot) (f : VFields) : Statement (.vectorCascade u f) := by
  cases u
  · exact of_v0 _ _ rfl
  · exact of_v1 _ _ rfl
theorem vmov (u : VSlot) (dst x : BitVec 6) (xm : BitVec 2) (guard : BitVec 5) (cx : Bool) : Statement (.vmov u dst x xm guard cx) := by
  cases u
  · exact of_v0 _ _ rfl
  · exact of_v1 _ _ rfl
theorem anc (u : VSlot) (dst : BitVec 4) (x : BitVec 6) (xm : BitVec 2) : Statement (.anc u dst x xm) := by
  cases u
  · exact of_v0 _ _ rfl
  · exact of_v1 _ _ rfl
theorem vzero (u : VSlot) (dst : BitVec 6) (guard : BitVec 5) : Statement (.vzero u dst guard) := by
  cases u
  · exact of_v0 _ _ rfl
  · exact of_v1 _ _ rfl
theorem vtclr (u : VSlot) (dst : BitVec 6) : Statement (.vtclr u dst) := by
  cases u
  · exact of_v0 _ _ rfl
  · exact of_v1 _ _ rfl
theorem mnop : Statement (.mnop) := of_matrix _ _ rfl
theorem mmul (f : MmulFields) : Statement (.mmul f) := of_matrix _ _ rfl
theorem mwld (bb : Bool) (sa : BitVec 5) (k n : BitVec 7) (fmt : BitVec 4) : Statement (.mwld bb sa k n fmt) := of_matrix _ _ rfl
theorem mgath (lt : Bool) (ix : BitVec 6) (base : BitVec 5) (m : BitVec 7) (fmt : BitVec 4) : Statement (.mgath lt ix base m fmt) := of_matrix _ _ rfl
theorem mdrain (row : BitVec 9) (m : BitVec 7) (sa : BitVec 5) (ofmt : BitVec 4) (clr : Bool) : Statement (.mdrain row m sa ofmt clr) := of_matrix _ _ rfl
theorem mdrainb (row : BitVec 9) (dst : BitVec 6) (ofmt : BitVec 4) : Statement (.mdrainb row dst ofmt) := of_matrix _ _ rfl
theorem mzero (row : BitVec 9) (m : BitVec 7) (opx : BitVec 4) : Statement (.mzero row m opx) := of_matrix _ _ rfl
theorem mrel : Statement (.mrel) := of_matrix _ _ rfl
theorem mwait : Statement (.mwait) := of_matrix _ _ rfl
theorem ldb (c : CSlot) (w : BitVec 2) (imm : BitVec 8) (base : BitVec 5) (v : BitVec 6) : Statement (.ldb c w imm base v) := by
  cases c
  · exact of_c0 _ _ _ rfl
  · exact of_c1 _ _ _ rfl
theorem stb (c : CSlot) (w : BitVec 2) (imm : BitVec 8) (base : BitVec 5) (v : BitVec 6) : Statement (.stb c w imm base v) := by
  cases c
  · exact of_c0 _ _ _ rfl
  · exact of_c1 _ _ _ rfl
theorem lds (c : CSlot) (imm : BitVec 8) (base v : BitVec 5) : Statement (.lds c imm base v) := by
  cases c
  · exact of_c0 _ _ _ rfl
  · exact of_c1 _ _ _ rfl
theorem sts (c : CSlot) (imm : BitVec 8) (base v : BitVec 5) : Statement (.sts c imm base v) := by
  cases c
  · exact of_c0 _ _ _ rfl
  · exact of_c1 _ _ _ rfl
theorem ldx (c : CSlot) (w es : BitVec 2) (base : BitVec 5) (ix v : BitVec 6) : Statement (.ldx c w es base ix v) := by
  cases c
  · exact of_c0 _ _ _ rfl
  · exact of_c1 _ _ _ rfl
theorem stx (c : CSlot) (w es : BitVec 2) (base : BitVec 5) (ix v : BitVec 6) : Statement (.stx c w es base ix v) := by
  cases c
  · exact of_c0 _ _ _ rfl
  · exact of_c1 _ _ _ rfl
theorem ldcw (c : CSlot) (imm : BitVec 8) (base v : BitVec 5) : Statement (.ldcw c imm base v) := by
  cases c
  · exact of_c0 _ _ _ rfl
  · exact of_c1 _ _ _ rfl
theorem sclq (c : CSlot) (w : BitVec 2) (imm : BitVec 8) (base : BitVec 5) : Statement (.sclq c w imm base) := by
  cases c
  · exact of_c0 _ _ _ rfl
  · exact of_c1 _ _ _ rfl
theorem bankacq (c : CSlot) (v : BitVec 5) : Statement (.bankacq c v) := by
  cases c
  · exact of_c0 _ _ _ rfl
  · exact of_c1 _ _ _ rfl
theorem bankrel (c : CSlot) (v : BitVec 5) : Statement (.bankrel c v) := by
  cases c
  · exact of_c0 _ _ _ rfl
  · exact of_c1 _ _ _ rfl
theorem spzero (c : CSlot) (w : BitVec 2) (imm : BitVec 8) (base : BitVec 5) : Statement (.spzero c w imm base) := by
  cases c
  · exact of_c0 _ _ _ rfl
  · exact of_c1 _ _ _ rfl
theorem ldq (c : CSlot) (cls tk : BitVec 4) (imm : BitVec 8) (base v : BitVec 5) : Statement (.ldq c cls tk imm base v) := by
  cases c
  · exact of_c0 _ _ _ rfl
  · exact of_c1 _ _ _ rfl
theorem ldqv (c : CSlot) (cls tk : BitVec 4) (w : BitVec 2) (imm : BitVec 8) (base : BitVec 5) : Statement (.ldqv c cls tk w imm base) := by
  cases c
  · exact of_c0 _ _ _ rfl
  · exact of_c1 _ _ _ rfl
theorem stq (c : CSlot) (cls tk : BitVec 4) (imm : BitVec 8) (base v : BitVec 5) : Statement (.stq c cls tk imm base v) := by
  cases c
  · exact of_c0 _ _ _ rfl
  · exact of_c1 _ _ _ rfl
theorem stqv (c : CSlot) (cls tk : BitVec 4) (w : BitVec 2) (imm : BitVec 8) (base : BitVec 5) (v : BitVec 6) : Statement (.stqv c cls tk w imm base v) := by
  cases c
  · exact of_c0 _ _ _ rfl
  · exact of_c1 _ _ _ rfl
theorem pref (c : CSlot) (imm : BitVec 8) (base : BitVec 5) : Statement (.pref c imm base) := by
  cases c
  · exact of_c0 _ _ _ rfl
  · exact of_c1 _ _ _ rfl
theorem atom (c : CSlot) (cls tk : BitVec 4) (scope : BitVec 3) (rel acq : Bool) (size : BitVec 2) (aop : BitVec 4) (base v : BitVec 5) : Statement (.atom c cls tk scope rel acq size aop base v) := by
  cases c
  · exact of_c0 _ _ _ rfl
  · exact of_c1 _ _ _ rfl
theorem atomr (c : CSlot) (cls tk : BitVec 4) (scope : BitVec 3) (rel acq : Bool) (size : BitVec 2) (aop : BitVec 4) (base v : BitVec 5) : Statement (.atomr c cls tk scope rel acq size aop base v) := by
  cases c
  · exact of_c0 _ _ _ rfl
  · exact of_c1 _ _ _ rfl
theorem cas (c : CSlot) (cls tk : BitVec 4) (scope : BitVec 3) (rel acq : Bool) (size : BitVec 2) (base v : BitVec 5) : Statement (.cas c cls tk scope rel acq size base v) := by
  cases c
  · exact of_c0 _ _ _ rfl
  · exact of_c1 _ _ _ rfl
theorem atomv (c : CSlot) (cls tk : BitVec 4) (et : BitVec 2) (aop : BitVec 4) (base : BitVec 5) (v : BitVec 6) : Statement (.atomv c cls tk et aop base v) := by
  cases c
  · exact of_c0 _ _ _ rfl
  · exact of_c1 _ _ _ rfl
theorem fenceC (c : CSlot) (mask : BitVec 16) : Statement (.fenceC c mask) := by
  cases c
  · exact of_c0 _ _ _ rfl
  · exact of_c1 _ _ _ rfl
theorem fenceS (c : CSlot) (scope : BitVec 3) : Statement (.fenceS c scope) := by
  cases c
  · exact of_c0 _ _ _ rfl
  · exact of_c1 _ _ _ rfl
theorem acq (c : CSlot) (scope : BitVec 3) : Statement (.acq c scope) := by
  cases c
  · exact of_c0 _ _ _ rfl
  · exact of_c1 _ _ _ rfl
theorem rel (c : CSlot) (scope : BitVec 3) : Statement (.rel c scope) := by
  cases c
  · exact of_c0 _ _ _ rfl
  · exact of_c1 _ _ _ rfl
theorem xcp (c : CSlot) (tk : BitVec 3) (scope : BitVec 3) (rel acq : Bool) (base : BitVec 5) : Statement (.xcp c tk scope rel acq base) := by
  cases c
  · exact of_c0 _ _ _ rfl
  · exact of_c1 _ _ _ rfl
theorem xcp2 (c : CSlot) (tk : BitVec 3) (scope : BitVec 3) (rel acq : Bool) (base : BitVec 5) : Statement (.xcp2 c tk scope rel acq base) := by
  cases c
  · exact of_c0 _ _ _ rfl
  · exact of_c1 _ _ _ rfl
theorem xcoll (c : CSlot) (tk : BitVec 3) (scope : BitVec 3) (rel acq : Bool) (base : BitVec 5) : Statement (.xcoll c tk scope rel acq base) := by
  cases c
  · exact of_c0 _ _ _ rfl
  · exact of_c1 _ _ _ rfl
theorem xcan (c : CSlot) (tk : BitVec 3) : Statement (.xcan c tk) := by
  cases c
  · exact of_c0 _ _ _ rfl
  · exact of_c1 _ _ _ rfl
theorem tkres (c : CSlot) (cls : BitVec 4) (base v : BitVec 5) : Statement (.tkres c cls base v) := by
  cases c
  · exact of_c0 _ _ _ rfl
  · exact of_c1 _ _ _ rfl
theorem tkpost (c : CSlot) (cls : BitVec 4) (base v : BitVec 5) : Statement (.tkpost c cls base v) := by
  cases c
  · exact of_c0 _ _ _ rfl
  · exact of_c1 _ _ _ rfl
theorem tktake (c : CSlot) (cls : BitVec 4) (base v : BitVec 5) : Statement (.tktake c cls base v) := by
  cases c
  · exact of_c0 _ _ _ rfl
  · exact of_c1 _ _ _ rfl
theorem tkfree (c : CSlot) (cls : BitVec 4) (base v : BitVec 5) : Statement (.tkfree c cls base v) := by
  cases c
  · exact of_c0 _ _ _ rfl
  · exact of_c1 _ _ _ rfl
theorem bundleReoffer (c : Nat) : Statement (.bundleReoffer c) := of_none _ rfl
theorem issueSelection (core : Nat) : Statement (.issueSelection core) := of_none _ rfl
theorem forcedYield (c : Nat) : Statement (.forcedYield c) := of_none _ rfl
theorem bayLanding (c bay : Nat) : Statement (.bayLanding c bay) := of_none _ rfl
theorem scratchpadAccessActs (c : Nat) : Statement (.scratchpadAccessActs c) := of_none _ rfl
theorem ldsRegisterWrite (c d : Nat) : Statement (.ldsRegisterWrite c d) := of_none _ rfl
theorem vectorPredicateWrite (c p : Nat) : Statement (.vectorPredicateWrite c p) := of_none _ rfl
theorem controlWordWrite (c : Nat) : Statement (.controlWordWrite c) := of_none _ rfl
theorem scaleQueuePush (c : Nat) : Statement (.scaleQueuePush c) := of_none _ rfl
theorem bankOwnershipChange (c : Nat) : Statement (.bankOwnershipChange c) := of_none _ rfl
theorem fetchFill (c : Nat) : Statement (.fetchFill c) := of_none _ rfl
theorem walkComplete (quarter tenant page : Nat) : Statement (.walkComplete quarter tenant page) := of_none _ rfl
theorem globalLoadPerforms (c id : Nat) (near : Bool) : Statement (.globalLoadPerforms c id near) := of_none _ rfl
theorem nearBufferExpiry (quarter line : Nat) : Statement (.nearBufferExpiry quarter line) := of_none _ rfl
theorem globalStorePerforms (c id : Nat) : Statement (.globalStorePerforms c id) := of_none _ rfl
theorem atomicPerforms (c id : Nat) : Statement (.atomicPerforms c id) := of_none _ rfl
theorem ticketOpPerforms (c id : Nat) : Statement (.ticketOpPerforms c id) := of_none _ rfl
theorem ticketResultReturn (c : Nat) : Statement (.ticketResultReturn c) := of_none _ rfl
theorem manifestHeadWrite (c : Nat) : Statement (.manifestHeadWrite c) := of_none _ rfl
theorem replayTimeout (c : Nat) : Statement (.replayTimeout c) := of_none _ rfl
theorem intervalClose (launch : Nat) : Statement (.intervalClose launch) := of_none _ rfl
theorem barrierArrival (c id : Nat) : Statement (.barrierArrival c id) := of_none _ rfl
theorem drayCommandStart (core d : Nat) : Statement (.drayCommandStart core d) := of_none _ rfl
theorem drayLineTransfer (core d : Nat) : Statement (.drayLineTransfer core d) := of_none _ rfl
theorem drayCommandComplete (core d : Nat) : Statement (.drayCommandComplete core d) := of_none _ rfl
theorem collectiveComplete (quarter : Nat) : Statement (.collectiveComplete quarter) := of_none _ rfl
theorem collectiveAbort (group : Nat) : Statement (.collectiveAbort group) := of_none _ rfl
theorem engineThaw (target : ThawTarget) : Statement (.engineThaw target) := of_none _ rfl
theorem leaseGrant (core : Nat) : Statement (.leaseGrant core) := of_none _ rfl
theorem leaseScrubDone (core : Nat) : Statement (.leaseScrubDone core) := of_none _ rfl
theorem matrixCommandStart (core : Nat) : Statement (.matrixCommandStart core) := of_none _ rfl
theorem slewStep (core : Nat) : Statement (.slewStep core) := of_none _ rfl
theorem mmulRowWrite (core id : Nat) : Statement (.mmulRowWrite core id) := of_none _ rfl
theorem mzeroRowWrite (core id : Nat) : Statement (.mzeroRowWrite core id) := of_none _ rfl
theorem mdrainRow (core id : Nat) : Statement (.mdrainRow core id) := of_none _ rfl
theorem mdrainbRead (core id : Nat) : Statement (.mdrainbRead core id) := of_none _ rfl
theorem porterGatherFill (core : Nat) (lt : Bool) : Statement (.porterGatherFill core lt) := of_none _ rfl
theorem weightLoadFill (core : Nat) (bb : Bool) : Statement (.weightLoadFill core bb) := of_none _ rfl
theorem matrixCommandComplete (core id : Nat) : Statement (.matrixCommandComplete core id) := of_none _ rfl
theorem bankZeroingDone (core : Nat) : Statement (.bankZeroingDone core) := of_none _ rfl
theorem teamInstall (quarter : Nat) : Statement (.teamInstall quarter) := of_none _ rfl
theorem teamRelease (launch quarter : Nat) : Statement (.teamRelease launch quarter) := of_none _ rfl
theorem preemption (quarter : Nat) : Statement (.preemption quarter) := of_none _ rfl
theorem checkpoint (c : Nat) : Statement (.checkpoint c) := of_none _ rfl
theorem kill (launch : Nat) : Statement (.kill launch) := of_none _ rfl
theorem teamRestore (quarter : Nat) : Statement (.teamRestore quarter) := of_none _ rfl
theorem firmwareResume (c : Nat) (mask : BitVec 6) : Statement (.firmwareResume c mask) := of_none _ rfl
theorem firmwareEndTeam (c : Nat) : Statement (.firmwareEndTeam c) := of_none _ rfl
theorem teamFinish (c : Nat) : Statement (.teamFinish c) := of_none _ rfl
theorem scrubComplete (c : Nat) : Statement (.scrubComplete c) := of_none _ rfl
theorem launchEnd (launch : Nat) : Statement (.launchEnd launch) := of_none _ rfl
theorem coreFreeze (core : Nat) (damage : Damage) : Statement (.coreFreeze core damage) := of_none _ rfl
theorem migrationComplete (core : Nat) : Statement (.migrationComplete core) := of_none _ rfl
theorem memoryUncorrectableError (line : Nat) : Statement (.memoryUncorrectableError line) := of_none _ rfl
theorem onchipSoftError (site : SoftSite) : Statement (.onchipSoftError site) := of_none _ rfl
theorem cxlDeviceFailure (port : Nat) : Statement (.cxlDeviceFailure port) := of_none _ rfl
theorem peerLinkDown (peer : Nat) : Statement (.peerLinkDown peer) := of_none _ rfl
theorem peerRequest (pa : Nat) (op : BusOp) : Statement (.peerRequest pa op) := of_none _ rfl
theorem lineEviction (level : FetchLevel) (line : Nat) : Statement (.lineEviction level line) := of_none _ rfl
theorem granuleReassign (target : GranuleTarget) (owner : BitVec 5) : Statement (.granuleReassign target owner) := of_none _ rfl
theorem stagingGrant (slice block : Nat) (owner : BitVec 5) : Statement (.stagingGrant slice block owner) := of_none _ rfl
theorem reservationRegisterRead (fn queue : Nat) : Statement (.reservationRegisterRead fn queue) := of_none _ rfl
theorem commitRegisterWrite (fn queue slot : Nat) : Statement (.commitRegisterWrite fn queue slot) := of_none _ rfl
theorem queueMapping (queue : Nat) : Statement (.queueMapping queue) := of_none _ rfl
theorem earlyLaunchRead (queue slot : Nat) : Statement (.earlyLaunchRead queue slot) := of_none _ rfl
theorem launchTake (queue : Nat) : Statement (.launchTake queue) := of_none _ rfl
theorem windowAccess (fn off : Nat) (op : BusOp) : Statement (.windowAccess fn off op) := of_none _ rfl
theorem mailboxRegisterWrite (fn off : Nat) (value : Word) : Statement (.mailboxRegisterWrite fn off value) := of_none _ rfl
theorem mailboxCommandDone (fn : Nat) : Statement (.mailboxCommandDone fn) := of_none _ rfl
theorem features (fn : Nat) : Statement (.features fn) := of_none _ rfl
theorem accept (fn : Nat) : Statement (.accept fn) := of_none _ rfl
theorem load (fn : Nat) : Statement (.load fn) := of_none _ rfl
theorem unload (fn : Nat) : Statement (.unload fn) := of_none _ rfl
theorem inval (fn : Nat) : Statement (.inval fn) := of_none _ rfl
theorem depotlat (fn : Nat) : Statement (.depotlat fn) := of_none _ rfl
theorem ovlchk (fn : Nat) : Statement (.ovlchk fn) := of_none _ rfl
theorem qreset (fn : Nat) : Statement (.qreset fn) := of_none _ rfl
theorem collgrp (fn : Nat) : Statement (.collgrp fn) := of_none _ rfl
theorem peerset (fn : Nat) : Statement (.peerset fn) := of_none _ rfl
theorem bindq (fn : Nat) : Statement (.bindq fn) := of_none _ rfl
theorem keyimport (fn : Nat) : Statement (.keyimport fn) := of_none _ rfl
theorem tenantend (fn : Nat) : Statement (.tenantend fn) := of_none _ rfl
theorem measure (fn : Nat) : Statement (.measure fn) := of_none _ rfl
theorem attest (fn : Nat) : Statement (.attest fn) := of_none _ rfl
theorem auditread (fn : Nat) : Statement (.auditread fn) := of_none _ rfl
theorem update (fn : Nat) : Statement (.update fn) := of_none _ rfl
theorem updateTakeover : Statement (.updateTakeover) := of_none _ rfl
theorem imgadopt (fn : Nat) : Statement (.imgadopt fn) := of_none _ rfl
theorem winmap (fn : Nat) : Statement (.winmap fn) := of_none _ rfl
theorem functionLevelReset (fn : Nat) : Statement (.functionLevelReset fn) := of_none _ rfl
theorem deviceReset (firmware kernel firmwareSig kernelSig : List Byte) : Statement (.deviceReset firmware kernel firmwareSig kernelSig) := of_none _ rfl
theorem keyStoreChange (index : Nat) (key signature : List Byte) : Statement (.keyStoreChange index key signature) := of_none _ rfl
theorem watchpointImpreciseStop (c : Nat) : Statement (.watchpointImpreciseStop c) := of_none _ rfl
theorem islandClockChange (island mhz : Nat) : Statement (.islandClockChange island mhz) := of_none _ rfl
theorem islandPowerGate (island : Nat) (clockOnly : Bool) : Statement (.islandPowerGate island clockOnly) := of_none _ rfl
theorem peerLinkUp (peer : Nat) : Statement (.peerLinkUp peer) := of_none _ rfl
theorem islandPowerRestore (island : Nat) : Statement (.islandPowerRestore island) := of_none _ rfl
theorem hostCxlMemAccess (pa : Nat) (op : BusOp) : Statement (.hostCxlMemAccess pa op) := of_none _ rfl
theorem managementPortRequest (ask : ManagementAsk) : Statement (.managementPortRequest ask) := of_none _ rfl
theorem watchpointProgram (quarter n : Nat) (control : Word) (unit : Nat) (value mask : BitVec 128) : Statement (.watchpointProgram quarter n control unit value mask) := of_none _ rfl
theorem traceSinkEnable (quarter : Nat) (lossless : Bool) (base size : Nat) : Statement (.traceSinkEnable quarter lossless base size) := of_none _ rfl
theorem tenantSpaceCreate (tenant root fn : Nat) : Statement (.tenantSpaceCreate tenant root fn) := of_none _ rfl

end Sys2Proof.Laws.Fits
end

