-- ==== Sys2Proof/Laws/State.lean ====
section
/-!
SUPPORT. What each update of the state leaves and changes: tables, the parts of the machine, and the registers of a
context. Every later proof cites these and unfolds no record update.
-/

namespace Sys2Proof.Machine

/-! ## Tables -/

@[simp] theorem fget_fput_same {β : Type} (d : β) (m : FMap β) (k : Nat) (v : β) : fget d (fput m k v) k = v := by
  induction m with
  | nil => simp [fput, fget]
  | cons e l ih =>
    obtain ⟨x, w⟩ := e
    simp only [fput]
    split
    · simp [fget]
    · split
      · simp [fget]
      · simp [fget, *]

theorem fget_fput_ne {β : Type} (d : β) (m : FMap β) (k j : Nat) (v : β) (h : j ≠ k) :
    fget d (fput m k v) j = fget d m j := by
  induction m with
  | nil => simp [fput, fget, Ne.symm h]
  | cons e l ih =>
    obtain ⟨x, w⟩ := e
    simp only [fput]
    split
    · next hx => subst hx; simp [fget, Ne.symm h]
    · split
      · simp [fget, Ne.symm h]
      · simp only [fget, ih]

/-- A table after a put, at any key. -/
theorem fget_fput {β : Type} (d : β) (m : FMap β) (k j : Nat) (v : β) :
    fget d (fput m k v) j = if j = k then v else fget d m j := by
  split
  · next h => subst h; simp
  · next h => exact fget_fput_ne d m k j v h

/-! ## The parts of the machine that an update leaves -/

@[simp] theorem State.setCtx_cycle (s : State) (c : Nat) (x : Ctx) : (s.setCtx c x).cycle = s.cycle := rfl
@[simp] theorem State.setCtx_tick (s : State) (c : Nat) (x : Ctx) : (s.setCtx c x).tick = s.tick := rfl
@[simp] theorem State.setCtx_frac (s : State) (c : Nat) (x : Ctx) : (s.setCtx c x).frac = s.frac := rfl
@[simp] theorem State.setCtx_fracDen (s : State) (c : Nat) (x : Ctx) : (s.setCtx c x).fracDen = s.fracDen := rfl
@[simp] theorem State.setCtx_mem (s : State) (c : Nat) (x : Ctx) : (s.setCtx c x).mem = s.mem := rfl
@[simp] theorem State.setCtx_ms (s : State) (c : Nat) (x : Ctx) : (s.setCtx c x).ms = s.ms := rfl
@[simp] theorem State.setCtx_cores (s : State) (c : Nat) (x : Ctx) : (s.setCtx c x).cores = s.cores := rfl
@[simp] theorem State.setCtx_quarters (s : State) (c : Nat) (x : Ctx) : (s.setCtx c x).quarters = s.quarters := rfl
@[simp] theorem State.setCtx_launches (s : State) (c : Nat) (x : Ctx) : (s.setCtx c x).launches = s.launches := rfl
@[simp] theorem State.setCtx_launchSeq (s : State) (c : Nat) (x : Ctx) : (s.setCtx c x).launchSeq = s.launchSeq := rfl
@[simp] theorem State.setCtx_pf (s : State) (c : Nat) (x : Ctx) : (s.setCtx c x).pf = s.pf := rfl
@[simp] theorem State.setCtx_agenda (s : State) (c : Nat) (x : Ctx) : (s.setCtx c x).agenda = s.agenda := rfl
@[simp] theorem State.setCtx_fresh (s : State) (c : Nat) (x : Ctx) : (s.setCtx c x).fresh = s.fresh := rfl
@[simp] theorem State.setCtx_cur (s : State) (c : Nat) (x : Ctx) : (s.setCtx c x).cur = s.cur := rfl
@[simp] theorem State.setCtx_snap (s : State) (c : Nat) (x : Ctx) : (s.setCtx c x).snap = s.snap := rfl
@[simp] theorem State.setCtx_core (s : State) (c : Nat) (x : Ctx) (d : Nat) : (s.setCtx c x).core d = s.core d := rfl
@[simp] theorem State.setCtx_quarter (s : State) (c : Nat) (x : Ctx) (d : Nat) : (s.setCtx c x).quarter d = s.quarter d := rfl
@[simp] theorem State.setCtx_launch (s : State) (c : Nat) (x : Ctx) (d : Nat) : (s.setCtx c x).launch d = s.launch d := rfl
@[simp] theorem State.setCtx_fn (s : State) (c : Nat) (x : Ctx) (d : Nat) : (s.setCtx c x).fn d = s.fn d := rfl

@[simp] theorem State.setCore_cycle (s : State) (n : Nat) (x : CoreState) : (s.setCore n x).cycle = s.cycle := rfl
@[simp] theorem State.setCore_tick (s : State) (n : Nat) (x : CoreState) : (s.setCore n x).tick = s.tick := rfl
@[simp] theorem State.setCore_frac (s : State) (n : Nat) (x : CoreState) : (s.setCore n x).frac = s.frac := rfl
@[simp] theorem State.setCore_fracDen (s : State) (n : Nat) (x : CoreState) : (s.setCore n x).fracDen = s.fracDen := rfl
@[simp] theorem State.setCore_mem (s : State) (n : Nat) (x : CoreState) : (s.setCore n x).mem = s.mem := rfl
@[simp] theorem State.setCore_ms (s : State) (n : Nat) (x : CoreState) : (s.setCore n x).ms = s.ms := rfl
@[simp] theorem State.setCore_ctxs (s : State) (n : Nat) (x : CoreState) : (s.setCore n x).ctxs = s.ctxs := rfl
@[simp] theorem State.setCore_quarters (s : State) (n : Nat) (x : CoreState) : (s.setCore n x).quarters = s.quarters := rfl
@[simp] theorem State.setCore_launches (s : State) (n : Nat) (x : CoreState) : (s.setCore n x).launches = s.launches := rfl
@[simp] theorem State.setCore_launchSeq (s : State) (n : Nat) (x : CoreState) : (s.setCore n x).launchSeq = s.launchSeq := rfl
@[simp] theorem State.setCore_pf (s : State) (n : Nat) (x : CoreState) : (s.setCore n x).pf = s.pf := rfl
@[simp] theorem State.setCore_agenda (s : State) (n : Nat) (x : CoreState) : (s.setCore n x).agenda = s.agenda := rfl
@[simp] theorem State.setCore_fresh (s : State) (n : Nat) (x : CoreState) : (s.setCore n x).fresh = s.fresh := rfl
@[simp] theorem State.setCore_cur (s : State) (n : Nat) (x : CoreState) : (s.setCore n x).cur = s.cur := rfl
@[simp] theorem State.setCore_snap (s : State) (n : Nat) (x : CoreState) : (s.setCore n x).snap = s.snap := rfl
@[simp] theorem State.setCore_ctx (s : State) (n : Nat) (x : CoreState) (d : Nat) : (s.setCore n x).ctx d = s.ctx d := rfl
@[simp] theorem State.setCore_quarter (s : State) (n : Nat) (x : CoreState) (d : Nat) : (s.setCore n x).quarter d = s.quarter d := rfl
@[simp] theorem State.setCore_launch (s : State) (n : Nat) (x : CoreState) (d : Nat) : (s.setCore n x).launch d = s.launch d := rfl
@[simp] theorem State.setCore_fn (s : State) (n : Nat) (x : CoreState) (d : Nat) : (s.setCore n x).fn d = s.fn d := rfl

@[simp] theorem State.modQuarter_cycle (s : State) (q : Nat) (f : Quarter → Quarter) : (s.modQuarter q f).cycle = s.cycle := rfl
@[simp] theorem State.modQuarter_tick (s : State) (q : Nat) (f : Quarter → Quarter) : (s.modQuarter q f).tick = s.tick := rfl
@[simp] theorem State.modQuarter_frac (s : State) (q : Nat) (f : Quarter → Quarter) : (s.modQuarter q f).frac = s.frac := rfl
@[simp] theorem State.modQuarter_fracDen (s : State) (q : Nat) (f : Quarter → Quarter) : (s.modQuarter q f).fracDen = s.fracDen := rfl
@[simp] theorem State.modQuarter_mem (s : State) (q : Nat) (f : Quarter → Quarter) : (s.modQuarter q f).mem = s.mem := rfl
@[simp] theorem State.modQuarter_ms (s : State) (q : Nat) (f : Quarter → Quarter) : (s.modQuarter q f).ms = s.ms := rfl
@[simp] theorem State.modQuarter_ctxs (s : State) (q : Nat) (f : Quarter → Quarter) : (s.modQuarter q f).ctxs = s.ctxs := rfl
@[simp] theorem State.modQuarter_cores (s : State) (q : Nat) (f : Quarter → Quarter) : (s.modQuarter q f).cores = s.cores := rfl
@[simp] theorem State.modQuarter_launches (s : State) (q : Nat) (f : Quarter → Quarter) : (s.modQuarter q f).launches = s.launches := rfl
@[simp] theorem State.modQuarter_launchSeq (s : State) (q : Nat) (f : Quarter → Quarter) : (s.modQuarter q f).launchSeq = s.launchSeq := rfl
@[simp] theorem State.modQuarter_pf (s : State) (q : Nat) (f : Quarter → Quarter) : (s.modQuarter q f).pf = s.pf := rfl
@[simp] theorem State.modQuarter_agenda (s : State) (q : Nat) (f : Quarter → Quarter) : (s.modQuarter q f).agenda = s.agenda := rfl
@[simp] theorem State.modQuarter_fresh (s : State) (q : Nat) (f : Quarter → Quarter) : (s.modQuarter q f).fresh = s.fresh := rfl
@[simp] theorem State.modQuarter_cur (s : State) (q : Nat) (f : Quarter → Quarter) : (s.modQuarter q f).cur = s.cur := rfl
@[simp] theorem State.modQuarter_snap (s : State) (q : Nat) (f : Quarter → Quarter) : (s.modQuarter q f).snap = s.snap := rfl
@[simp] theorem State.modQuarter_ctx (s : State) (q : Nat) (f : Quarter → Quarter) (d : Nat) : (s.modQuarter q f).ctx d = s.ctx d := rfl
@[simp] theorem State.modQuarter_core (s : State) (q : Nat) (f : Quarter → Quarter) (d : Nat) : (s.modQuarter q f).core d = s.core d := rfl
@[simp] theorem State.modQuarter_launch (s : State) (q : Nat) (f : Quarter → Quarter) (d : Nat) : (s.modQuarter q f).launch d = s.launch d := rfl
@[simp] theorem State.modQuarter_fn (s : State) (q : Nat) (f : Quarter → Quarter) (d : Nat) : (s.modQuarter q f).fn d = s.fn d := rfl

@[simp] theorem State.modLaunch_cycle (s : State) (l : Nat) (f : Launch → Launch) : (s.modLaunch l f).cycle = s.cycle := rfl
@[simp] theorem State.modLaunch_tick (s : State) (l : Nat) (f : Launch → Launch) : (s.modLaunch l f).tick = s.tick := rfl
@[simp] theorem State.modLaunch_frac (s : State) (l : Nat) (f : Launch → Launch) : (s.modLaunch l f).frac = s.frac := rfl
@[simp] theorem State.modLaunch_fracDen (s : State) (l : Nat) (f : Launch → Launch) : (s.modLaunch l f).fracDen = s.fracDen := rfl
@[simp] theorem State.modLaunch_mem (s : State) (l : Nat) (f : Launch → Launch) : (s.modLaunch l f).mem = s.mem := rfl
@[simp] theorem State.modLaunch_ms (s : State) (l : Nat) (f : Launch → Launch) : (s.modLaunch l f).ms = s.ms := rfl
@[simp] theorem State.modLaunch_ctxs (s : State) (l : Nat) (f : Launch → Launch) : (s.modLaunch l f).ctxs = s.ctxs := rfl
@[simp] theorem State.modLaunch_cores (s : State) (l : Nat) (f : Launch → Launch) : (s.modLaunch l f).cores = s.cores := rfl
@[simp] theorem State.modLaunch_quarters (s : State) (l : Nat) (f : Launch → Launch) : (s.modLaunch l f).quarters = s.quarters := rfl
@[simp] theorem State.modLaunch_launchSeq (s : State) (l : Nat) (f : Launch → Launch) : (s.modLaunch l f).launchSeq = s.launchSeq := rfl
@[simp] theorem State.modLaunch_pf (s : State) (l : Nat) (f : Launch → Launch) : (s.modLaunch l f).pf = s.pf := rfl
@[simp] theorem State.modLaunch_agenda (s : State) (l : Nat) (f : Launch → Launch) : (s.modLaunch l f).agenda = s.agenda := rfl
@[simp] theorem State.modLaunch_fresh (s : State) (l : Nat) (f : Launch → Launch) : (s.modLaunch l f).fresh = s.fresh := rfl
@[simp] theorem State.modLaunch_cur (s : State) (l : Nat) (f : Launch → Launch) : (s.modLaunch l f).cur = s.cur := rfl
@[simp] theorem State.modLaunch_snap (s : State) (l : Nat) (f : Launch → Launch) : (s.modLaunch l f).snap = s.snap := rfl
@[simp] theorem State.modLaunch_ctx (s : State) (l : Nat) (f : Launch → Launch) (d : Nat) : (s.modLaunch l f).ctx d = s.ctx d := rfl
@[simp] theorem State.modLaunch_core (s : State) (l : Nat) (f : Launch → Launch) (d : Nat) : (s.modLaunch l f).core d = s.core d := rfl
@[simp] theorem State.modLaunch_quarter (s : State) (l : Nat) (f : Launch → Launch) (d : Nat) : (s.modLaunch l f).quarter d = s.quarter d := rfl
@[simp] theorem State.modLaunch_fn (s : State) (l : Nat) (f : Launch → Launch) (d : Nat) : (s.modLaunch l f).fn d = s.fn d := rfl

@[simp] theorem State.modPf_cycle (s : State) (f : Platform → Platform) : (s.modPf f).cycle = s.cycle := rfl
@[simp] theorem State.modPf_tick (s : State) (f : Platform → Platform) : (s.modPf f).tick = s.tick := rfl
@[simp] theorem State.modPf_frac (s : State) (f : Platform → Platform) : (s.modPf f).frac = s.frac := rfl
@[simp] theorem State.modPf_fracDen (s : State) (f : Platform → Platform) : (s.modPf f).fracDen = s.fracDen := rfl
@[simp] theorem State.modPf_mem (s : State) (f : Platform → Platform) : (s.modPf f).mem = s.mem := rfl
@[simp] theorem State.modPf_ms (s : State) (f : Platform → Platform) : (s.modPf f).ms = s.ms := rfl
@[simp] theorem State.modPf_ctxs (s : State) (f : Platform → Platform) : (s.modPf f).ctxs = s.ctxs := rfl
@[simp] theorem State.modPf_cores (s : State) (f : Platform → Platform) : (s.modPf f).cores = s.cores := rfl
@[simp] theorem State.modPf_quarters (s : State) (f : Platform → Platform) : (s.modPf f).quarters = s.quarters := rfl
@[simp] theorem State.modPf_launches (s : State) (f : Platform → Platform) : (s.modPf f).launches = s.launches := rfl
@[simp] theorem State.modPf_launchSeq (s : State) (f : Platform → Platform) : (s.modPf f).launchSeq = s.launchSeq := rfl
@[simp] theorem State.modPf_agenda (s : State) (f : Platform → Platform) : (s.modPf f).agenda = s.agenda := rfl
@[simp] theorem State.modPf_fresh (s : State) (f : Platform → Platform) : (s.modPf f).fresh = s.fresh := rfl
@[simp] theorem State.modPf_cur (s : State) (f : Platform → Platform) : (s.modPf f).cur = s.cur := rfl
@[simp] theorem State.modPf_snap (s : State) (f : Platform → Platform) : (s.modPf f).snap = s.snap := rfl
@[simp] theorem State.modPf_ctx (s : State) (f : Platform → Platform) (d : Nat) : (s.modPf f).ctx d = s.ctx d := rfl
@[simp] theorem State.modPf_core (s : State) (f : Platform → Platform) (d : Nat) : (s.modPf f).core d = s.core d := rfl
@[simp] theorem State.modPf_quarter (s : State) (f : Platform → Platform) (d : Nat) : (s.modPf f).quarter d = s.quarter d := rfl
@[simp] theorem State.modPf_launch (s : State) (f : Platform → Platform) (d : Nat) : (s.modPf f).launch d = s.launch d := rfl

@[simp] theorem State.modMs_cycle (s : State) (f : MemSys → MemSys) : (s.modMs f).cycle = s.cycle := rfl
@[simp] theorem State.modMs_tick (s : State) (f : MemSys → MemSys) : (s.modMs f).tick = s.tick := rfl
@[simp] theorem State.modMs_frac (s : State) (f : MemSys → MemSys) : (s.modMs f).frac = s.frac := rfl
@[simp] theorem State.modMs_fracDen (s : State) (f : MemSys → MemSys) : (s.modMs f).fracDen = s.fracDen := rfl
@[simp] theorem State.modMs_mem (s : State) (f : MemSys → MemSys) : (s.modMs f).mem = s.mem := rfl
@[simp] theorem State.modMs_ctxs (s : State) (f : MemSys → MemSys) : (s.modMs f).ctxs = s.ctxs := rfl
@[simp] theorem State.modMs_cores (s : State) (f : MemSys → MemSys) : (s.modMs f).cores = s.cores := rfl
@[simp] theorem State.modMs_quarters (s : State) (f : MemSys → MemSys) : (s.modMs f).quarters = s.quarters := rfl
@[simp] theorem State.modMs_launches (s : State) (f : MemSys → MemSys) : (s.modMs f).launches = s.launches := rfl
@[simp] theorem State.modMs_launchSeq (s : State) (f : MemSys → MemSys) : (s.modMs f).launchSeq = s.launchSeq := rfl
@[simp] theorem State.modMs_pf (s : State) (f : MemSys → MemSys) : (s.modMs f).pf = s.pf := rfl
@[simp] theorem State.modMs_agenda (s : State) (f : MemSys → MemSys) : (s.modMs f).agenda = s.agenda := rfl
@[simp] theorem State.modMs_fresh (s : State) (f : MemSys → MemSys) : (s.modMs f).fresh = s.fresh := rfl
@[simp] theorem State.modMs_cur (s : State) (f : MemSys → MemSys) : (s.modMs f).cur = s.cur := rfl
@[simp] theorem State.modMs_snap (s : State) (f : MemSys → MemSys) : (s.modMs f).snap = s.snap := rfl
@[simp] theorem State.modMs_ctx (s : State) (f : MemSys → MemSys) (d : Nat) : (s.modMs f).ctx d = s.ctx d := rfl
@[simp] theorem State.modMs_core (s : State) (f : MemSys → MemSys) (d : Nat) : (s.modMs f).core d = s.core d := rfl
@[simp] theorem State.modMs_quarter (s : State) (f : MemSys → MemSys) (d : Nat) : (s.modMs f).quarter d = s.quarter d := rfl
@[simp] theorem State.modMs_launch (s : State) (f : MemSys → MemSys) (d : Nat) : (s.modMs f).launch d = s.launch d := rfl
@[simp] theorem State.modMs_fn (s : State) (f : MemSys → MemSys) (d : Nat) : (s.modMs f).fn d = s.fn d := rfl

/-! ## What it changes -/

@[simp] theorem State.ctx_setCtx_same (s : State) (c : Nat) (x : Ctx) : (s.setCtx c x).ctx c = x := by
  simp [State.ctx, State.setCtx]

theorem State.ctx_setCtx_ne (s : State) (c d : Nat) (x : Ctx) (h : d ≠ c) : (s.setCtx c x).ctx d = s.ctx d := by
  simp [State.ctx, State.setCtx, fget_fput_ne _ _ _ _ _ h]

theorem State.ctx_setCtx (s : State) (c d : Nat) (x : Ctx) : (s.setCtx c x).ctx d = if d = c then x else s.ctx d := by
  simp [State.ctx, State.setCtx, fget_fput]

@[simp] theorem State.core_setCore_same (s : State) (n : Nat) (x : CoreState) : (s.setCore n x).core n = x := by
  simp [State.core, State.setCore]

theorem State.core_setCore_ne (s : State) (n d : Nat) (x : CoreState) (h : d ≠ n) : (s.setCore n x).core d = s.core d := by
  simp only [State.core, State.setCore]
  rw [fget_fput_ne _ _ _ _ _ h]

@[simp] theorem State.quarter_modQuarter_same (s : State) (q : Nat) (f : Quarter → Quarter) :
    (s.modQuarter q f).quarter q = f (s.quarter q) := by
  simp [State.quarter, State.modQuarter]

theorem State.quarter_modQuarter_ne (s : State) (q d : Nat) (f : Quarter → Quarter) (h : d ≠ q) :
    (s.modQuarter q f).quarter d = s.quarter d := by
  simp [State.quarter, State.modQuarter, fget_fput_ne _ _ _ _ _ h]

@[simp] theorem State.launch_modLaunch_same (s : State) (l : Nat) (f : Launch → Launch) :
    (s.modLaunch l f).launch l = f (s.launch l) := by
  simp [State.launch, State.modLaunch]

theorem State.launch_modLaunch_ne (s : State) (l d : Nat) (f : Launch → Launch) (h : d ≠ l) :
    (s.modLaunch l f).launch d = s.launch d := by
  simp [State.launch, State.modLaunch, fget_fput_ne _ _ _ _ _ h]

@[simp] theorem State.modPf_pf (s : State) (f : Platform → Platform) : (s.modPf f).pf = f s.pf := rfl
@[simp] theorem State.modMs_ms (s : State) (f : MemSys → MemSys) : (s.modMs f).ms = f s.ms := rfl

/-! ## Updates over updates -/

theorem State.modCtx_eq (s : State) (c : Nat) (f : Ctx → Ctx) : s.modCtx c f = s.setCtx c (f (s.ctx c)) := rfl
theorem State.modCore_eq (s : State) (n : Nat) (f : CoreState → CoreState) : s.modCore n f = s.setCore n (f (s.core n)) := rfl
theorem State.modMe_eq (s : State) (f : Ctx → Ctx) : s.modMe f = s.setCtx s.cur (f s.me) := rfl
theorem State.modRegs_eq (s : State) (f : Regs → Regs) : s.modRegs f = s.setCtx s.cur ({ s.me with r := f s.me.r }) := rfl

/-! ## The issuing context -/

@[simp] theorem State.me_modMe (s : State) (f : Ctx → Ctx) : (s.modMe f).me = f s.me := by
  simp [State.modMe, State.modCtx, State.me]

@[simp] theorem State.me_modRegs (s : State) (f : Regs → Regs) : (s.modRegs f).me = { s.me with r := f s.me.r } := by
  simp [State.modRegs]

@[simp] theorem State.modMe_cur (s : State) (f : Ctx → Ctx) : (s.modMe f).cur = s.cur := rfl
@[simp] theorem State.modMe_mem (s : State) (f : Ctx → Ctx) : (s.modMe f).mem = s.mem := rfl
@[simp] theorem State.modMe_core (s : State) (f : Ctx → Ctx) (n : Nat) : (s.modMe f).core n = s.core n := rfl
@[simp] theorem State.modRegs_cur (s : State) (f : Regs → Regs) : (s.modRegs f).cur = s.cur := rfl
@[simp] theorem State.modRegs_mem (s : State) (f : Regs → Regs) : (s.modRegs f).mem = s.mem := rfl
@[simp] theorem State.modRegs_core (s : State) (f : Regs → Regs) (n : Nat) : (s.modRegs f).core n = s.core n := rfl

/-! ## Registers -/

@[simp] theorem Regs.sreg_zero (r : Regs) : r.sreg 0#5 = 0#64 := by simp [Regs.sreg]
@[simp] theorem Regs.preg_zero (r : Regs) : r.preg 0#5 = 0xFFFFFFFF#32 := by simp [Regs.preg]
@[simp] theorem Regs.staint_zero (r : Regs) : r.staint 0#5 = 0#9 := by simp [Regs.staint]
@[simp] theorem Regs.ptaint_zero (r : Regs) : r.ptaint 0#5 = 0#9 := by simp [Regs.ptaint]

theorem Regs.sreg_setS (r : Regs) (d n : BitVec 5) (v : Word) (t : Mask) :
    (r.setS d v t).sreg n = if n = d ∧ n ≠ 0#5 then v else r.sreg n := by
  by_cases hd : d = 0#5
  · subst hd
    by_cases hn : n = 0#5 <;> simp [Regs.setS, hn]
  · by_cases hn : n = 0#5
    · subst hn; simp
    · by_cases h : n = d
      · subst h; simp [Regs.setS, Regs.sreg, hn]
      · have : n.toNat ≠ d.toNat := fun e => h (BitVec.eq_of_toNat_eq e)
        simp [Regs.setS, Regs.sreg, hd, hn, h, fget_fput_ne _ _ _ _ _ this]

theorem Regs.staint_setS (r : Regs) (d n : BitVec 5) (v : Word) (t : Mask) :
    (r.setS d v t).staint n = if n = d ∧ n ≠ 0#5 then t else r.staint n := by
  by_cases hd : d = 0#5
  · subst hd
    by_cases hn : n = 0#5 <;> simp [Regs.setS, hn]
  · by_cases hn : n = 0#5
    · subst hn; simp
    · by_cases h : n = d
      · subst h; simp [Regs.setS, Regs.staint, hn]
      · have : n.toNat ≠ d.toNat := fun e => h (BitVec.eq_of_toNat_eq e)
        simp [Regs.setS, Regs.staint, hd, hn, h, fget_fput_ne _ _ _ _ _ this]

theorem Regs.preg_setP (r : Regs) (d n : BitVec 5) (v : Pred) (t : Mask) :
    (r.setP d v t).preg n = if n = d ∧ n ≠ 0#5 then v else r.preg n := by
  by_cases hd : d = 0#5
  · subst hd
    by_cases hn : n = 0#5 <;> simp [Regs.setP, hn]
  · by_cases hn : n = 0#5
    · subst hn; simp
    · by_cases h : n = d
      · subst h; simp [Regs.setP, Regs.preg, hn]
      · have : n.toNat ≠ d.toNat := fun e => h (BitVec.eq_of_toNat_eq e)
        simp [Regs.setP, Regs.preg, hd, hn, h, fget_fput_ne _ _ _ _ _ this]

theorem Regs.ptaint_setP (r : Regs) (d n : BitVec 5) (v : Pred) (t : Mask) :
    (r.setP d v t).ptaint n = if n = d ∧ n ≠ 0#5 then t else r.ptaint n := by
  by_cases hd : d = 0#5
  · subst hd
    by_cases hn : n = 0#5 <;> simp [Regs.setP, hn]
  · by_cases hn : n = 0#5
    · subst hn; simp
    · by_cases h : n = d
      · subst h; simp [Regs.setP, Regs.ptaint, hn]
      · have : n.toNat ≠ d.toNat := fun e => h (BitVec.eq_of_toNat_eq e)
        simp [Regs.setP, Regs.ptaint, hd, hn, h, fget_fput_ne _ _ _ _ _ this]

/-! ## Firmware, audit -/

@[simp] theorem State.notice_ctx (s : State) (k w c a d : Nat) : (s.notice k w c a).ctx d = s.ctx d := rfl
@[simp] theorem State.notice_mem (s : State) (k w c a : Nat) : (s.notice k w c a).mem = s.mem := rfl
@[simp] theorem State.audit_ctx (s : State) (y t m d : Nat) (l : List Word) : (s.audit y t m l).ctx d = s.ctx d := rfl
@[simp] theorem State.audit_mem (s : State) (y t m : Nat) (l : List Word) : (s.audit y t m l).mem = s.mem := rfl

end Sys2Proof.Machine
end

