-- ==== Sys2Proof/Laws/Scalar.lean ====
section
/-!
SUPPORT. What the shared operations of the scalar slot do, each said once: the gate, the guarded writes, transfers, stops,
stalls and effects left pending.
-/

namespace Sys2Proof.Machine

/-! ## The gate -/

theorem staticGate_of_wellFormed {i : Instr} (h : i.wellFormed = true) : staticGate i = .go := by
  simp [staticGate, h]

@[simp] theorem gated_go (slot : Nat) (f : State → State) (s : State) : gated slot .go f s = .next (f s) := rfl
@[simp] theorem gated_wait (slot : Nat) (w : Wait) (f : State → State) (s : State) :
    gated slot (.wait w) f s = .next (s.stall w) := rfl
@[simp] theorem gated_refuse (slot r : Nat) (f : State → State) (s : State) :
    gated slot (.refuse r) f s = .next (s.illegal slot r) := rfl
@[simp] theorem go_and (g : Gate) : Gate.go.and g = g := rfl
@[simp] theorem wait_and (w : Wait) (g : Gate) : (Gate.wait w).and g = .wait w := rfl
@[simp] theorem refuse_and (r : Nat) (g : Gate) : (Gate.refuse r).and g = .refuse r := rfl
theorem and_go (g : Gate) : g.and .go = g := by cases g <;> rfl
@[simp] theorem refuseIf_false (r : Nat) : refuseIf false r = .go := rfl
@[simp] theorem refuseIf_true (r : Nat) : refuseIf true r = .refuse r := rfl
@[simp] theorem waitIf_false (w : Wait) : waitIf w false = .go := rfl
@[simp] theorem waitIf_true (w : Wait) : waitIf w true = .wait w := rfl

/-- An instruction whose gate lets it pass completes with its effect. -/
theorem completes_go {P : State → Prop} {s : State} {i : Instr} {slot : Nat} {f : State → State} {g : Gate}
    (e : exec i s = gated slot g f s) (h : g = .go) (k : P (f s)) : Completes i s P := ⟨_, by rw [e, h]; rfl, k⟩

theorem completes_wait {P : State → Prop} {s : State} {i : Instr} {slot : Nat} {f : State → State} {g : Gate} {w : Wait}
    (e : exec i s = gated slot g f s) (h : g = .wait w) (k : P (s.stall w)) : Completes i s P := ⟨_, by rw [e, h]; rfl, k⟩

theorem completes_refuse {P : State → Prop} {s : State} {i : Instr} {slot r : Nat} {f : State → State} {g : Gate}
    (e : exec i s = gated slot g f s) (h : g = .refuse r) (k : P (s.illegal slot r)) : Completes i s P :=
  ⟨_, by rw [e, h]; rfl, k⟩

/-- The common case: nothing but the fields' own checks stands before the instruction. -/
theorem completes_static {P : State → Prop} {s : State} {i : Instr} {slot : Nat} {f : State → State}
    (e : exec i s = gated slot (staticGate i) f s) (h : i.wellFormed = true) (k : P (f s)) : Completes i s P :=
  completes_go e (staticGate_of_wellFormed h) k

/-- The fields' own checks pass: what remains of the gate decides. -/
theorem static_and {i : Instr} (h : i.wellFormed = true) (g : Gate) : (staticGate i).and g = g := by
  rw [staticGate_of_wellFormed h]; rfl

/-! ## Frames -/

/-- A change of the issuing context changes nothing else. -/
theorem modMe_onlyMe (s : State) (f : Ctx → Ctx) : s.OnlyMe (s.modMe f) := by
  refine ⟨rfl, fun d h => ?_, fun a => rfl, fun a => rfl, fun n a => rfl⟩
  exact State.ctx_setCtx_ne _ _ _ _ h

theorem modRegs_onlyMe (s : State) (f : Regs → Regs) : s.OnlyMe (s.modRegs f) := modMe_onlyMe s fun c => { c with r := f c.r }

theorem onlyMe_refl (s : State) : s.OnlyMe s := ⟨rfl, fun _ _ => rfl, fun _ => rfl, fun _ => rfl, fun _ _ => rfl⟩

theorem onlyMe_trans {s t u : State} (h : s.OnlyMe t) (k : t.OnlyMe u) : s.OnlyMe u := by
  obtain ⟨a, b, c, d, e⟩ := h
  obtain ⟨a', b', c', d', e'⟩ := k
  have hc : t.cur = s.cur := by rw [a]
  have hm : t.mem = s.mem := by rw [a]
  refine ⟨?_, fun x h => (b' x (by rw [hc]; exact h)).trans (b x h), fun x => (c' x).trans (c x), fun x => (d' x).trans (d x),
    fun n x => (e' n x).trans (e n x)⟩
  rw [a']
  conv_lhs => rw [a]

/-! ## Writes of registers and predicates (R229) -/

theorem writeS_eq (s : State) (d : BitVec 5) (v : Word) (t : Mask) :
    s.writeS d v t = s.modMe fun c =>
      { c with r := c.r.setS d v t, wroteS := if d = 0#5 then c.wroteS else d.toNat :: c.wroteS } := rfl

theorem setS_only (r : Regs) (d : BitVec 5) (v : Word) (t : Mask) :
    r.setS d v t = { r with s := (r.setS d v t).s, sT := (r.setS d v t).sT } := by
  unfold Regs.setS; split <;> rfl

theorem setP_only (r : Regs) (d : BitVec 5) (v : Pred) (t : Mask) :
    r.setP d v t = { r with p := (r.setP d v t).p, pT := (r.setP d v t).pT } := by
  unfold Regs.setP; split <;> rfl

/-- An unguarded write. -/
theorem writeS_writes (s : State) (d : BitVec 5) (v : Word) (m : Mask) : s.WritesS (s.writeS d v m) d 0#5 v m := by
  refine ⟨modMe_onlyMe _ _, ?_, fun n => ?_, fun n => ?_⟩
  · rw [writeS_eq, State.me_modMe]
    by_cases h : d = 0#5 <;> simp [Regs.setS, h]
  · rw [writeS_eq, State.me_modMe]
    simp [Regs.sreg_setS]
  · rw [writeS_eq, State.me_modMe]
    simp [Regs.staint_setS]

/-- The mask alone of a register that its guard keeps. -/
theorem taintS_only (s : State) (d : BitVec 5) (m : Mask) :
    s.OnlyMe (s.taintS d m) ∧ (s.taintS d m).me = { s.me with r := { s.me.r with sT := (s.taintS d m).me.r.sT } } ∧
      (∀ n, (s.taintS d m).me.r.sreg n = s.me.r.sreg n) ∧
      ∀ n, (s.taintS d m).me.r.staint n = if n = d ∧ n ≠ 0#5 then m else s.me.r.staint n := by
  unfold State.taintS
  split
  · rename_i h
    subst h
    refine ⟨onlyMe_refl s, rfl, fun n => rfl, fun n => ?_⟩
    by_cases h : n = 0#5 <;> simp [h]
  · rename_i hd
    refine ⟨modMe_onlyMe _ _, by simp, fun n => by simp [Regs.sreg], fun n => ?_⟩
    have := Regs.staint_setS s.me.r d n 0#64 m
    simp only [Regs.setS, hd, if_false] at this
    simpa [Regs.staint] using this

theorem guardedS_writes (s : State) (d g : BitVec 5) (v : Word) (m : Mask) : s.WritesS (s.guardedS d g v m) d g v m := by
  by_cases hg : (s.rd.preg g).getLsbD 0 = true
  · have h := writeS_writes s d v (m ||| s.rd.ptaint g ||| (if g = 0#5 then 0#9 else s.rd.staint d))
    have e : s.guardedS d g v m = s.writeS d v (m ||| s.rd.ptaint g ||| (if g = 0#5 then 0#9 else s.rd.staint d)) := by
      simp only [State.guardedS, hg, if_true]
    rw [e]
    have p0 : (s.rd.preg 0#5).getLsbD 0 = true := by simp [Regs.preg]
    have q0 : s.rd.ptaint 0#5 = 0#9 := by simp [Regs.ptaint]
    refine ⟨h.1, h.2.1, fun n => ?_, fun n => ?_⟩
    · rw [h.2.2.1 n]; simp only [hg, p0]
    · rw [h.2.2.2 n]; simp [q0]
  · have h := taintS_only s d (m ||| s.rd.ptaint g ||| (if g = 0#5 then 0#9 else s.rd.staint d))
    have e : s.guardedS d g v m = s.taintS d (m ||| s.rd.ptaint g ||| (if g = 0#5 then 0#9 else s.rd.staint d)) := by
      simp only [State.guardedS, hg, if_false, Bool.false_eq_true]
    rw [e]
    refine ⟨h.1, ?_, fun n => by rw [h.2.2.1 n, if_neg fun k => hg k.2.2], h.2.2.2⟩
    have k := h.2.1
    generalize s.taintS d _ = t at k ⊢
    rw [k]

theorem writeP_eq (s : State) (d : BitVec 5) (v : Pred) (t : Mask) :
    s.writeP d v t = s.modMe fun c =>
      { c with r := c.r.setP d v t, wroteP := if d = 0#5 then c.wroteP else fput c.wroteP d.toNat (c.r.preg d, c.r.ptaint d) } := rfl

theorem writeP_writes (s : State) (d : BitVec 5) (v : Pred) (m : Mask) : s.WritesP (s.writeP d v m) d 0#5 v m := by
  refine ⟨modMe_onlyMe _ _, ?_, fun n => ?_, fun n => ?_⟩
  · rw [writeP_eq, State.me_modMe]
    by_cases h : d = 0#5 <;> simp [Regs.setP, h]
  · rw [writeP_eq, State.me_modMe]
    simp [Regs.preg_setP]
  · rw [writeP_eq, State.me_modMe]
    simp [Regs.ptaint_setP]

theorem taintP_only (s : State) (d : BitVec 5) (m : Mask) :
    s.OnlyMe (s.taintP d m) ∧ (s.taintP d m).me = { s.me with r := { s.me.r with pT := (s.taintP d m).me.r.pT } } ∧
      (∀ n, (s.taintP d m).me.r.preg n = s.me.r.preg n) ∧
      ∀ n, (s.taintP d m).me.r.ptaint n = if n = d ∧ n ≠ 0#5 then m else s.me.r.ptaint n := by
  unfold State.taintP
  split
  · rename_i h
    subst h
    refine ⟨onlyMe_refl s, rfl, fun n => rfl, fun n => ?_⟩
    by_cases h : n = 0#5 <;> simp [h]
  · rename_i hd
    refine ⟨modMe_onlyMe _ _, by simp, fun n => by simp [Regs.preg], fun n => ?_⟩
    have := Regs.ptaint_setP s.me.r d n 0#32 m
    simp only [Regs.setP, hd, if_false] at this
    simpa [Regs.ptaint] using this

theorem guardedP_writes (s : State) (d g : BitVec 5) (v : Pred) (m : Mask) : s.WritesP (s.guardedP d g v m) d g v m := by
  by_cases hg : (s.rd.preg g).getLsbD 0 = true
  · have h := writeP_writes s d v (m ||| s.rd.ptaint g ||| (if g = 0#5 then 0#9 else s.rd.ptaint d))
    have e : s.guardedP d g v m = s.writeP d v (m ||| s.rd.ptaint g ||| (if g = 0#5 then 0#9 else s.rd.ptaint d)) := by
      simp only [State.guardedP, hg, if_true]
    rw [e]
    have p0 : (s.rd.preg 0#5).getLsbD 0 = true := by simp [Regs.preg]
    have q0 : s.rd.ptaint 0#5 = 0#9 := by simp [Regs.ptaint]
    refine ⟨h.1, h.2.1, fun n => ?_, fun n => ?_⟩
    · rw [h.2.2.1 n]; simp only [hg, p0]
    · rw [h.2.2.2 n]; simp [q0]
  · have h := taintP_only s d (m ||| s.rd.ptaint g ||| (if g = 0#5 then 0#9 else s.rd.ptaint d))
    have e : s.guardedP d g v m = s.taintP d (m ||| s.rd.ptaint g ||| (if g = 0#5 then 0#9 else s.rd.ptaint d)) := by
      simp only [State.guardedP, hg, if_false, Bool.false_eq_true]
    rw [e]
    refine ⟨h.1, ?_, fun n => by rw [h.2.2.1 n, if_neg fun k => hg k.2.2], h.2.2.2⟩
    have k := h.2.1
    generalize s.taintP d _ = t at k ⊢
    rw [k]

/-! ## The shared forms -/

theorem srForm_completes {i : Instr} (h : i.wellFormed = true) (d a b g : BitVec 5) (f : Word → Word → Word) (s : State) :
    ∃ t, srForm i d a b g f s = .next t ∧
      s.WritesS t d g (f (s.rd.sreg a) (s.rd.sreg b)) (s.rd.staint a ||| s.rd.staint b) :=
  ⟨_, by rw [srForm, staticGate_of_wellFormed h]; rfl, guardedS_writes ..⟩

theorem srForm1_completes {i : Instr} (h : i.wellFormed = true) (d a g : BitVec 5) (f : Word → Word) (s : State) :
    ∃ t, srForm1 i d a g f s = .next t ∧ s.WritesS t d g (f (s.rd.sreg a)) (s.rd.staint a) :=
  ⟨_, by rw [srForm1, staticGate_of_wellFormed h]; rfl, guardedS_writes ..⟩

theorem siForm_completes {i : Instr} (h : i.wellFormed = true) (d a : BitVec 5) (f : Word → Word) (s : State) :
    ∃ t, siForm i d a f s = .next t ∧ s.WritesS t d 0#5 (f (s.rd.sreg a)) (s.rd.staint a) :=
  ⟨_, by rw [siForm, staticGate_of_wellFormed h]; rfl, writeS_writes ..⟩

theorem cmpForm_completes {i : Instr} (h : i.wellFormed = true) (d a b g : BitVec 5) (f : Word → Word → Bool) (s : State) :
    ∃ t, cmpForm i d a b g f s = .next t ∧
      s.WritesP t d g (verdict (f (s.rd.sreg a) (s.rd.sreg b))) (s.rd.staint a ||| s.rd.staint b) :=
  ⟨_, by rw [cmpForm, staticGate_of_wellFormed h]; rfl, guardedP_writes ..⟩

theorem cmpiForm_completes {i : Instr} (h : i.wellFormed = true) (d a : BitVec 5) (imm : BitVec 15) (f : Word → Word → Bool)
    (s : State) :
    ∃ t, cmpiForm i d a imm f s = .next t ∧ s.WritesP t d 0#5 (verdict (f (s.rd.sreg a) (sext64 imm))) (s.rd.staint a) :=
  ⟨_, by rw [cmpiForm, staticGate_of_wellFormed h]; rfl, writeP_writes ..⟩

theorem predForm_completes {i : Instr} (h : i.wellFormed = true) (d a b g : BitVec 5) (f : Pred → Pred → Pred) (s : State) :
    ∃ t, predForm i d a b g f s = .next t ∧
      s.WritesP t d g (f (s.rd.preg a) (s.rd.preg b)) (s.rd.ptaint a ||| s.rd.ptaint b) :=
  ⟨_, by rw [predForm, staticGate_of_wellFormed h]; rfl, guardedP_writes ..⟩

end Sys2Proof.Machine
end

