-- ==== Sys2Proof/Laws/Stops.lean ====
section
/-!
SUPPORT. What the shared operations that stop, hold or defer do, each said once: a fault, an illegal bundle, a stall, an
effect left pending, a token, a record.
-/

namespace Sys2Proof.Machine

/-! ## Parts that a stop leaves -/

theorem traceWith_eq (s : State) (core type slot ctx : Nat) (addr : Word) (p : BitVec 128) (l : List (Nat × Nat)) :
    s.traceWith core type slot ctx addr p l = { s with quarters := (s.traceWith core type slot ctx addr p l).quarters } := by
  unfold State.traceWith
  simp only
  split
  · rfl
  · split <;> rfl

theorem dropWidth_eq (s : State) (c : Nat) : s.dropWidth c = { s with cores := (s.dropWidth c).cores } := by
  unfold State.dropWidth
  split <;> rfl

theorem dropWidth_scratch (s : State) (c n : Nat) : ((s.dropWidth c).core n).scratch = (s.core n).scratch := by
  unfold State.dropWidth
  split
  · by_cases h : n = coreOf c
    · subst h; simp [State.modCore]
    · rw [State.modCore, State.core_setCore_ne _ _ _ _ h]
  · rfl

@[simp] theorem traceWith_ctx (s : State) (a b c d : Nat) (e : Word) (p : BitVec 128) (l : List (Nat × Nat)) (x : Nat) :
    (s.traceWith a b c d e p l).ctx x = s.ctx x := by rw [traceWith_eq]; rfl
@[simp] theorem traceWith_core (s : State) (a b c d : Nat) (e : Word) (p : BitVec 128) (l : List (Nat × Nat)) (x : Nat) :
    (s.traceWith a b c d e p l).core x = s.core x := by rw [traceWith_eq]; rfl
@[simp] theorem traceWith_launch (s : State) (a b c d : Nat) (e : Word) (p : BitVec 128) (l : List (Nat × Nat)) (x : Nat) :
    (s.traceWith a b c d e p l).launch x = s.launch x := by rw [traceWith_eq]; rfl
@[simp] theorem traceWith_cur (s : State) (a b c d : Nat) (e : Word) (p : BitVec 128) (l : List (Nat × Nat)) :
    (s.traceWith a b c d e p l).cur = s.cur := by rw [traceWith_eq]
@[simp] theorem traceWith_mem (s : State) (a b c d : Nat) (e : Word) (p : BitVec 128) (l : List (Nat × Nat)) :
    (s.traceWith a b c d e p l).mem = s.mem := by rw [traceWith_eq]
@[simp] theorem traceWith_ms (s : State) (a b c d : Nat) (e : Word) (p : BitVec 128) (l : List (Nat × Nat)) :
    (s.traceWith a b c d e p l).ms = s.ms := by rw [traceWith_eq]
@[simp] theorem traceWith_pf (s : State) (a b c d : Nat) (e : Word) (p : BitVec 128) (l : List (Nat × Nat)) :
    (s.traceWith a b c d e p l).pf = s.pf := by rw [traceWith_eq]
@[simp] theorem dropWidth_ctx (s : State) (c x : Nat) : (s.dropWidth c).ctx x = s.ctx x := by rw [dropWidth_eq]; rfl
@[simp] theorem dropWidth_launch (s : State) (c x : Nat) : (s.dropWidth c).launch x = s.launch x := by rw [dropWidth_eq]; rfl
@[simp] theorem dropWidth_cur (s : State) (c : Nat) : (s.dropWidth c).cur = s.cur := by rw [dropWidth_eq]
@[simp] theorem dropWidth_mem (s : State) (c : Nat) : (s.dropWidth c).mem = s.mem := by rw [dropWidth_eq]
@[simp] theorem dropWidth_ms (s : State) (c : Nat) : (s.dropWidth c).ms = s.ms := by rw [dropWidth_eq]
@[simp] theorem dropWidth_pf (s : State) (c : Nat) : (s.dropWidth c).pf = s.pf := by rw [dropWidth_eq]

/-! ## A stop -/

theorem stopWith_ctx (s : State) (c : Nat) (word faddr : Word) (slotres : Nat) (donemask : BitVec 6)
    (l : List (Nat × Nat)) (d : Nat) :
    (s.stopWith c word faddr slotres donemask l).ctx d =
      if d = c then
        { s.ctx c with st := .held, fault := word, faddr := faddr, slotres := slotres, donemask := donemask, walkFail := [],
                       asked := none, iss := { (s.ctx c).iss with cause := none, active := false } }
      else s.ctx d := by
  simp only [State.stopWith, traceWith_ctx, State.notice_ctx, dropWidth_ctx, State.ctx_setCtx]

/-- A stop of the issuing context (R172–R174). -/
theorem stopWith_stopped (s : State) (word faddr : Word) (slotres : Nat) (donemask : BitVec 6) (l : List (Nat × Nat)) :
    s.Stopped (s.stopWith s.cur word faddr slotres donemask l) word faddr slotres donemask := by
  have hcur : (s.stopWith s.cur word faddr slotres donemask l).cur = s.cur := by
    simp [State.stopWith, State.notice]
  have h := stopWith_ctx s s.cur word faddr slotres donemask l
  have hme : (s.stopWith s.cur word faddr slotres donemask l).me = { s.me with
      st := .held, fault := word, faddr := faddr, slotres := slotres, donemask := donemask, walkFail := [],
      asked := none, iss := { s.me.iss with cause := none, active := false } } := by
    unfold State.me; rw [hcur, h s.cur, if_pos rfl]
  rw [State.Stopped, hme]
  refine ⟨rfl, rfl, rfl, rfl, rfl, rfl, rfl, rfl, rfl, rfl, hcur, ?_, ?_, ?_, ?_⟩
  · intro c hc; rw [h c, if_neg hc]
  · intro a; simp [State.stopWith]
  · intro a; simp [State.stopWith, State.notice]
  · intro n a
    simp only [State.stopWith, traceWith_core]
    exact congrArg (fun m => mget m a) (dropWidth_scratch _ _ n)

theorem illegal_stopped (s : State) (slot reason : Nat) :
    s.Stopped (s.illegal slot reason) (faultWord 2 reason slot) s.me.pc 0 s.me.skip := stopWith_stopped ..

/-- A stop after a step of the counter of free values. -/
theorem stopped_fresh {s t : State} {w f : Word} {n : Nat} {m : BitVec 6}
    (h : State.Stopped { s with fresh := s.fresh + 1 } t w f n m) : s.Stopped t w f n m := h

/-- Launches, notices and audit records touch nothing that a stop speaks of. -/
theorem stopped_modLaunch {s t : State} {w f : Word} {n : Nat} {m : BitVec 6} (h : s.Stopped t w f n m) (l : Nat)
    (g : Launch → Launch) : s.Stopped (t.modLaunch l g) w f n m := h

theorem stopped_modPf {s t : State} {w f : Word} {n : Nat} {m : BitVec 6} (h : s.Stopped t w f n m)
    (g : Platform → Platform) : s.Stopped (t.modPf g) w f n m := h

/-- Taking a fault (R171–R174). -/
theorem raise_stopped (s : State) (code detail slot : Nat) (addr : Option Word) :
    s.Stopped (s.raise code detail slot addr) (faultWord code detail slot) (addr.getD (Config.freeWord s.fresh)) slot
      (s.me.doneBelow slot) := by
  have h := stopWith_stopped { s with fresh := s.fresh + 1 } (faultWord code detail slot) (addr.getD (Config.freeWord s.fresh))
    slot (s.me.doneBelow slot) ((bundleScopes s.me.words).filter fun e => e.1 = slot)
  unfold State.raise
  simp only [State.faultAddress]
  split
  · exact stopped_modLaunch (stopped_modPf (stopped_modPf (stopped_fresh h) _) _) _ _
  · exact stopped_fresh h

theorem doneBelow_zero (c : Ctx) : c.doneBelow 0 = c.skip := by
  simp [Ctx.doneBelow, slotsBelow]

/-- A fault in the S slot. -/
theorem raise_stopped_s (s : State) (code detail : Nat) (addr : Option Word) :
    s.Stopped (s.raise code detail 0 addr) (faultWord code detail 0) (addr.getD (Config.freeWord s.fresh)) 0 s.me.skip := by
  have h := raise_stopped s code detail 0 addr
  rwa [doneBelow_zero] at h

/-! ## Stalls and effects left pending -/

theorem stall_stalls (s : State) (w : Wait) : s.Stalls (s.stall w) w := ⟨modMe_onlyMe _ _, State.me_modMe ..⟩

theorem later_leaves (s : State) (lat slot : Nat) (act : Action) : s.Leaves (s.later lat slot act) slot lat act :=
  ⟨modMe_onlyMe _ _, State.me_modMe ..⟩

/-! ## Records -/

/-- Outside record and replay modes a recording slot has its effect and no record (R123, R124). -/
theorem withRecord_off (s : State) (type slot sub : Nat) (batched : Bool) (place value : Word)
    (k : Option Rec → State → State) (h : s.recording s.cur = false) (g : s.replaying s.cur = false) :
    s.withRecord type slot sub batched place value k = k none s := by
  simp [State.withRecord, State.takeRecord, h, g]

theorem atOrderingPoint_clear (s : State) (slot : Nat) (k : State → State) (h : s.me.overlap = []) :
    s.atOrderingPoint slot k = k s := by
  simp [State.atOrderingPoint, State.overlapFault, h]

end Sys2Proof.Machine
end

