-- ==== Sys2Proof/Laws/Vector.lean ====
section
/-!
SUPPORT. What the shared operations of the vector and matrix slots do: reading and popping an operand, the bits of a set of
lanes, and the parts of a core.
-/

namespace Sys2Proof.Machine

/-! ## Lists of bits -/

/-- A number made of disjoint fields, one for each place that a test selects. -/
theorem sum_fields (w : Nat) (p : Nat → Bool) (n : Nat) :
    (List.range n).foldl (fun acc k => if p k then acc + (2 ^ w - 1) * 2 ^ (w * k) else acc) 0 < 2 ^ (w * n) ∧
      ∀ i, 0 < w → ((List.range n).foldl (fun acc k => if p k then acc + (2 ^ w - 1) * 2 ^ (w * k) else acc) 0).testBit i =
        (decide (i < w * n) && p (i / w)) := by
  induction n with
  | zero => simp
  | succ n ih =>
    rw [List.range_succ, List.foldl_append]
    simp only [List.foldl_cons, List.foldl_nil]
    generalize hx : (List.range n).foldl (fun acc k => if p k then acc + (2 ^ w - 1) * 2 ^ (w * k) else acc) 0 = x at ih
    have hp : 0 < 2 ^ w := Nat.pos_of_ne_zero (by positivity)
    have hs : 2 ^ (w * (n + 1)) = 2 ^ w * 2 ^ (w * n) := by rw [Nat.mul_succ, Nat.pow_add, Nat.mul_comm]
    have hb : (2 ^ w - 1) * 2 ^ (w * n) + 2 ^ (w * n) = 2 ^ w * 2 ^ (w * n) := by
      have h : (2 ^ w - 1 + 1) * 2 ^ (w * n) = 2 ^ w * 2 ^ (w * n) := by rw [Nat.sub_add_cancel hp]
      rw [← h, Nat.add_mul, Nat.one_mul]
    refine ⟨?_, fun i hw => ?_⟩
    · rw [hs]
      split
      · omega
      · have : 2 ^ (w * n) ≤ 2 ^ w * 2 ^ (w * n) := Nat.le_mul_of_pos_left _ hp
        omega
    · have e : (if p n then x + (2 ^ w - 1) * 2 ^ (w * n) else x) = 2 ^ (w * n) * (if p n then 2 ^ w - 1 else 0) + x := by
        split <;> simp [Nat.add_comm, Nat.mul_comm]
      rw [e, Nat.testBit_two_pow_mul_add _ ih.1, ih.2 i hw]
      have hmul : w * (n + 1) = w * n + w := Nat.mul_succ w n
      by_cases hi : i < w * n
      · simp [hi, show i < w * (n + 1) by omega]
      · simp only [hi, if_false]
        by_cases hi2 : i < w * (n + 1)
        · have hd : i / w = n := by
            apply Nat.div_eq_of_lt_le
            · rw [Nat.mul_comm]; omega
            · rw [Nat.mul_comm]; exact hi2
          by_cases hpn : p n = true
          · simp only [hpn, if_true, hd, Nat.testBit_two_pow_sub_one]; simp [hi2]; omega
          · simp [hpn, hd]
        · simp only [hi2, decide_false, Bool.false_and]
          by_cases hpn : p n = true
          · simp only [hpn, if_true, Nat.testBit_two_pow_sub_one]; simp; omega
          · simp [hpn]

/-- The bits of the lanes that a test selects (R271). -/
theorem lanesWhere_bit (p : Nat → Bool) (n : Nat) (h : n < 1024) : (lanesWhere p).getLsbD n = p (n / 32) := by
  have := (sum_fields 32 p 32).2 n (by decide)
  rw [lanesWhere, BitVec.getLsbD_ofNat]
  simp only [h, decide_true, Bool.true_and]
  rw [this]
  simp [h]

end Sys2Proof.Machine
end

