-- ==== Sys2Proof/Tests/Slice0.lean ====
section
/-!
SUPPORT. Tests: words written out from the encoding tables, ill-formed fields, single steps with results worked from the
manual, and for the statements of Obligations the states and operands that meet their hypotheses.
-/

open Sys2Proof Sys2Proof.Machine

namespace Sys2Proof.Tests

set_option maxRecDepth 20000

/-! ## Helpers -/

/-- A field of the next state. -/
def after {α : Type} (r : Host.Outcome State Fault Refusal) (f : State → α) : Option α :=
  match r with | .next t => some (f t) | _ => none

/-- The machine after reset with one context, context 0 of core 0, at issue. -/
def one (x : Ctx) : State := { State.reset with ctxs := [(0, x)] }

/-- The same with a core. -/
def onCore (x : Ctx) (k : CoreState) : State := { State.reset with ctxs := [(0, x)], cores := [(0, k)] }

/-- Two scalar registers. -/
def regs (a b : Word) : Regs := { s := [(1, a), (2, b)] }

/-- A translation of virtual page 4 to physical 0x50000, with every permission. -/
def page : Tlb := { tenant := 0, page := 4, big := false, base := 0x50000, perms := 0x1FF#9, dirty := true }

/-- A core whose TLB holds it. -/
def mapped : CoreState := { freshCore 0 with tlb := [page] }

/-- The bytes of a record with a first word, a place and a value, with order 7. -/
def recorded (head place value : Nat) : List Byte := toBytes 8 head ++ toBytes 8 place ++ toBytes 8 7 ++ toBytes 8 value

/-- A context of a launch whose ring of two records is in the mapped page at 0x50000, and its tail word at 0x50108. -/
def ringing (l : Launch) (next head : Nat) (b : List Byte) (x : Ctx := {}) (k : CoreState := {}) : State :=
  { onCore { x with man := { base := 0x40000#64, k := 1, ctl := 0x40100#64, next := next, head := head } } { k with tlb := [page] } with
    launches := [(0, l)], mem := mwrite [] 0x50000 b }

/-- It records, with room for n records more; it replays the bytes of one record, or none. -/
def recording (n : Nat) (x : Ctx := {}) (k : CoreState := {}) : State := ringing { recording := true } (2 - n) 0 [] x k
def replaying (b : List Byte) (x : Ctx := {}) (k : CoreState := {}) : State := ringing { replay := true } 0 1 b x k
def replayed (x : Ctx := {}) (k : CoreState := {}) : State := ringing { replay := true } 0 0 [] x k

/-! ## Hypotheses of the statements: the scalar slot -/

theorem witness_ScalarResults : WellFormed.predOk 0#5 = true ∧ WellFormed.predOk 23#5 = true := by decide

theorem witness_ScalarDivisionResults : WellFormed.predOk 23#5 = true ∧ (one { r := regs 7#64 0#64 }).rd.sreg 2#5 = 0#64 ∧
    (one { r := regs 0x8000000000000000#64 0xFFFFFFFFFFFFFFFF#64 }).rd.sreg 1#5 = 0x8000000000000000#64 := by decide

theorem witness_CompareAndPredicateResults : WellFormed.predOk 23#5 = true ∧ WellFormed.predOk 0#5 = true := by decide

theorem witness_TransferResults : ((one { r := regs 64#64 33#64 }).rd.sreg 1#5).toNat % 32 = 0 ∧
    ((one { r := regs 64#64 33#64 }).rd.sreg 2#5).toNat % 32 ≠ 0 ∧ (State.reset.rd.sreg 31#5).toNat % 32 = 0 ∧
    ((one { r := { s := [(31, 1#64)] } }).rd.sreg 31#5).toNat % 32 ≠ 0 ∧ WellFormed.predOk 23#5 = true := by decide

/-- A context with levels 0 to n − 1 active, whose bodies end at 0x40. -/
def looping (n : Nat) : State :=
  one { r := { loops := (List.range n).map fun i => (i, { active := true, n := 3, stop := 0x40 }), s := [(1, 5#64)] } }

theorem witness_LoopResults_nests :
    ((∀ k, k < 1 → ((looping 1).rd.loopLevel k).active = true) ∧
      (∀ k, k < 4 → 1 ≤ k → ((looping 1).rd.loopLevel k).active = false) ∧
      ((looping 1).me.pc + 32#64 * (2#8).zeroExtend 64).toNat ≤ ((looping 1).rd.loopLevel 0).stop.toNat) ∧
    ((looping 1).rd.sreg 1#5).extractLsb' 0 32 ≠ 0#32 ∧ ((looping 1).rd.sreg 2#5).extractLsb' 0 32 = 0#32 ∧
    (∀ k, k < 4 → 0 ≤ k → ((looping 0).rd.loopLevel k).active = false) := by decide

theorem witness_LoopResults_breaks : ¬ (∀ k, k < 1 → ((looping 0).rd.loopLevel k).active = true) ∧
    ((looping 4).rd.loopLevel 3).active = true ∧ (∀ k, k < 4 → 3 < k → ((looping 4).rd.loopLevel k).active = false) ∧
    ((looping 4).rd.preg 0#5).getLsbD 0 = true ∧ ((looping 4).rd.preg 23#5).getLsbD 0 = false := by decide

/-- A context whose tokens 0 to 3 are idle, busy, done and in error. -/
def waiting : State := one { tokens := [(1, { st := 1 }), (2, { st := 2, status := 2, rel := true, stamp := 9 }), (3, { st := 3 })] }

theorem witness_WaitAndBarrierResults_wait : waiting.me.overlap = [] ∧
    (∀ n, n < 8 → (0x04#8).getLsbD n = true → (fget {} waiting.me.tokens n : Token).st ≠ 1) ∧
    (∀ n, n < 8 → (0x04#8).getLsbD n = true ∧ (fget {} waiting.me.tokens n : Token).st ≠ 1 →
      (fget {} waiting.me.tokens n : Token).st ≠ 3) ∧
    (fget {} waiting.me.tokens 3 : Token).st = 3 ∧ (fget {} waiting.me.tokens 1 : Token).st = 1 := by decide

/-- A context with n stores outstanding. -/
def busy (n : Nat) : State :=
  one { lsu := (List.range n).map fun i => .access { id := i, slot := 4, cls := 0, kind := .store [0#8], va := 0x40000, pa := 0x50000 }
        seq := n, pc := 32#64 }

theorem witness_WaitAndBarrierResults_barrier : WellFormed.scopeOk 5#3 = true ∧ (busy 63).me.outstanding < 64 ∧
    64 ≤ (busy 64).me.outstanding ∧ (busy 63).recording 0 = false ∧ (busy 63).replaying 0 = false ∧
    barrierOver (one { bars := [(0, { arrived := true, complete := true })] }) 0 0 = true ∧
    barrierOver (one { bars := [(0, { arrived := true })] }) 0 0 = false ∧ State.reset.me.arriving 0 = false := by decide

theorem witness_WaitAndBarrierResults_records : (recording 2).MayRecord ∧ (recording 0).RingWaits ∧ (recording 2).me.outstanding < 64 ∧
    (∀ b, b = recorded 0x1004 63 0 → (replaying b).Replays b ∧ recordNames b 4 (2#3).toNat ∧ field b 8 8 = (63#6).toNat) ∧
    (∀ b, b = recorded 0x1004 62 0 → (replaying b).Replays b ∧ recordNames b 4 (2#3).toNat ∧ field b 8 8 ≠ (63#6).toNat) ∧
    (∀ b, b = recorded 9 0 5 → (replaying b).Replays b ∧ ¬ recordNames b 4 (2#3).toNat) ∧ replayed.ReplayEnds := by
  refine ⟨⟨by decide, by decide, by decide, by decide, _, rfl⟩, ?_, by decide, ?_, ?_, ?_, ?_⟩ <;> try rintro _ rfl
  all_goals simp only [State.RingWaits, State.Replays, State.ReplayEnds, recordNames]; decide

/-- A launch in deterministic mode with one resident context. -/
def det (x : Ctx) : State := { one { x with st := .resident } with launches := [(0, { det := true })] }

theorem witness_SpanAndTaintResults : State.reset.det = false ∧ (det {}).det = true ∧
    ((det { r := regs 1#64 2#64 }).rd.sreg 1#5).toNat < 2 ^ 48 ∧ ¬ ((det { r := regs 0xFFFFFFFFFFFFFFFF#64 2#64 }).rd.sreg 1#5).toNat < 2 ^ 48 ∧
    ((det { r := regs 1#64 2#64 }).runningSpans 3) = [] ∧
    (2#48 &&& fget 0#48 (det { r := { spanR := [(1, 2#48)] } }).rd.spanR 1 ≠ 0#48) ∧ (3#3).toNat < 4 := by decide

theorem witness_SystemRegisterResults : (25#5).toNat < 26 ∧ 5 ≤ (10#5).toNat ∧ (10#5).toNat ≤ 10 := by decide

theorem witness_TableReadsAndWrites : (15#9).toNat < 16 ∧ 8 ≤ (15#9).toNat := by decide

theorem witness_StopMarkAndTimeResults : State.reset.recording 0 = false ∧ State.reset.replaying 0 = false ∧
    State.reset.me.overlap = [] := by decide

theorem witness_StopMarkAndTimeResults_records : (recording 1).MayRecord ∧ (recording 0).RingWaits ∧ replayed.ReplayEnds ∧
    ∀ b, b = recorded 9 0 5 → (replaying b).Replays b ∧ recordNames b 9 0 ∧ field b 8 8 = 0 ∧
      field b 24 8 = ((replaying b { r := regs 5#64 6#64 }).rd.sreg 1#5).toNat ∧
      field b 24 8 ≠ ((replaying b { r := regs 5#64 6#64 }).rd.sreg 2#5).toNat := by
  refine ⟨⟨by decide, by decide, by decide, by decide, _, rfl⟩, ?_, ?_, ?_⟩ <;> try rintro _ rfl
  all_goals simp only [State.RingWaits, State.Replays, State.ReplayEnds, recordNames]; decide

/-- A context whose queue q0 holds an entry. -/
def queued (e : QEntry) : State := one { q0 := [e] }

theorem witness_QueuePopAndLaneResults : (queued { acc := 0, filled := true }).me.queue false = { acc := 0, filled := true } :: [] ∧
    (queued { acc := 0 }).me.queue false = { acc := 0 } :: [] ∧
    (queued { acc := 0, filled := true, poison := 2 }).me.queue false = { acc := 0, filled := true, poison := 2 } :: [] ∧
    WellFormed.laneOk 31#5 0#2 = true ∧ WellFormed.laneOk 30#5 1#2 = true ∧ State.reset.readBayCheck 0 7#6 = none ∧
    State.reset.landCheck 0 6#6 2 = none ∧ readWindow 0 (State.reset.rd.bayOf 8#6) (State.reset.phase 0) = false ∧
    writeWindow 0 (State.reset.rd.bayOf 14#6) (State.reset.phase 0 + 2) = false := by decide

/-! ## The vector slots -/

theorem witness_VectorOperandModes : (queued { acc := 0 }).me.queue ((0#6).getLsbD 0) = { acc := 0 } :: [] := by decide

theorem witness_VectorDirectForms : (Instr.vmov .v0 10#6 0#6 2#2 23#5 true).wellFormed = true ∧
    (Instr.anc .v1 11#4 3#6 1#2).wellFormed = true ∧ (queued { acc := 0, filled := true }).Readable 1 0#6 2#2 ∧
    State.reset.Readable 1 15#6 0#2 ∧ writeWindow (vslot .v0) (State.reset.rd.bayOf 10#6) (State.reset.phase 0 + 6) = true ∧
    writeWindow (vslot .v0) (State.reset.rd.bayOf 9#6) (State.reset.phase 0 + 6) = false := by
  refine ⟨by decide, by decide, ⟨by decide, fun _ => ⟨{ acc := 0, filled := true }, [], by decide⟩⟩, ⟨by decide, fun h => absurd h (by decide)⟩,
    by decide, by decide⟩

/-- The control word of an f32 addition of X and Y at full width, as a cascade whose stage A passes X (R258). -/
def wordOf (b : BitVec 256) : State := onCore { cwlim := 32 } { freshCore 0 with cwt := [(0, b)] }

/-- The fields of a slot that names word 0 and the bays 0 and 1. -/
def cascade : VFields := ⟨0#9, 10#6, 0#6, 0#6, 0#6, 0#2, 0#2, 0#2, 0#5, false, false, false, false⟩

theorem witness_VectorCascadeResults : WellFormed.vfieldsOk cascade = true ∧
    (wordOf 0).cword cascade.cwi = some (splitWord 0) ∧ (wordOf 0).cascadeOffences cascade = [] ∧
    (wordOf 0).popGate (VFields.used cascade (splitWord 0)) = .go ∧
    (wordOf 0).vectorWindows 1 (some cascade.dst) (VFields.used cascade (splitWord 0)) = none ∧
    ∃ r, State.readInputs 1 32 (VFields.used cascade (splitWord 0)) (wordOf 0) = .ok r :=
  ⟨by decide, by decide, by decide, by decide, by decide, _, rfl⟩

theorem witness_VectorControlWordFaults : WellFormed.vfieldsOk cascade = true ∧
    (one {}).me.cwlim - (one {}).me.cwbase ≤ cascade.cwi.toNat ∧ (wordOf 0x0E).cword cascade.cwi = some (splitWord 0x0E) ∧
    (splitWord 0x0E).legal = false ∧ (splitWord 0).legal = true := by decide

theorem witness_IntegerElementResults : VT.isInt .i8 = true ∧ (intOf 8 100 + intOf 8 28 > 2 ^ 7 - 1) ∧
    (intOf 8 0x80 - intOf 8 1 < -(2 ^ 7)) ∧ (intOf 8 0x80 * intOf 8 0x80 - intOf 8 1 > 2 ^ 7 - 1) ∧
    (-(2 ^ 7) ≤ intOf 8 100 + intOf 8 27 ∧ intOf 8 100 + intOf 8 27 ≤ 2 ^ 7 - 1) ∧ |intOf 64 (2 ^ 63)| > 2 ^ 63 - 1 := by decide

theorem witness_FloatElementAndLaneResults_numbers : VT.fmt .f16 = some .f16 ∧ (0xBC00 : Nat) < 2 ^ FFmt.f16.width ∧
    (decodeF .f16 false 0x7E01).isNan = true ∧ (decodeF .f16 false 0xBC00).isNan = false ∧ (decodeF .f16 false 0x8000).isNan = false ∧
    (decodeF .f16 false 0x7C00).isNan = false ∧ (0x8000 ≤ 0xBC00 ∧ 0x8000 < 0xBC00) ∧ (0xBC00 - 0x3C00 = 0x8000) := by decide

theorem witness_FloatElementAndLaneResults_lanes : (splitWord (BitVec.ofNat 256 (2 ^ 192 * 3 + 2 ^ 120 * 5))).width ≤ 2 ∧
    VT.isInt .i16 = true ∧ (splitWord (BitVec.ofNat 256 (2 ^ 192 * 3 + 2 ^ 120 * 5))).perm = 5 ∧
    2 ^ (splitWord (BitVec.ofNat 256 (2 ^ 192 * 3 + 2 ^ 120 * 5))).gs = 8 ∧
    (15 < (splitWord (BitVec.ofNat 256 (2 ^ 192 * 3 + 2 ^ 120 * 5))).bitsWide / VT.width .i16) ∧
    8 ≤ (splitWord (BitVec.ofNat 256 (2 ^ 192 * 3 + 2 ^ 120 * 5))).bitsWide / VT.width .i16 := by decide

/-! ## The matrix slot -/

/-- A context with 512 accumulator rows and every bank, whose core's engine is in the state given. -/
def engine (k : CoreState) : State :=
  onCore { acclim := 512 } { k with logical := some 0, bankOwner := (List.range 48).map fun b => (b, 1) }

/-- A command that zeroes row 0. -/
def zeroing : MCmd := { id := 0, owner := 0, kind := .mzero 0 1 0, accbase := 0, issue := 0, issueK := 0, bundle := 0, slack := 0 }

theorem witness_MatrixCommandIssue_lease : (engine {}).myCore.matrixBusy 0 = false ∧
    (engine { cmds := [zeroing] }).myCore.matrixBusy 0 = true ∧ (engine {}).myCore.lease ≠ some (engine {}).cur ∧
    (engine { lease := some 0 }).myCore.lease = some (engine {}).cur ∧ (engine { lease := some 0 }).myCore.matrixBusy 0 = false ∧
    (engine { lease := some 0 }).myCore.scales = [] ∧ (engine { lease := some 0, scales := [0] }).myCore.scales ≠ [] := by decide

theorem witness_MatrixCommandIssue_commands : WellFormed.rowsOk 1#7 = true ∧
    (engine {}).matrixOffences (.mzero 511#9 1#7 0#4) = [] ∧ (engine {}).cmdGate zeroing = .go ∧
    (Instr.mdrain 511#9 1#7 3#5 0#4 true).wellFormed = true ∧ (engine {}).matrixOffences (.mdrain 511#9 1#7 3#5 0#4 true) = [] ∧
    (engine {}).zeroGate [(0, 256)] = .go ∧ ((engine {}).rd.sreg 3#5).toNat % 16 = 0 ∧ (engine {}).rangeBank [(0, 256)] = none ∧
    (engine {}).rangeSpan 1 true [(0, 256)] = none ∧ (engine {}).rowPoison 511 1 = none ∧ WellFormed.outFormatOk 0#4 = true ∧
    (engine {}).matrixOffences (.mdrainb 511#9 20#6 0#4) = [] ∧
    writeWindow 3 ((engine {}).rd.bayOf 20#6) ((engine {}).phase 0 + 8) = true ∧
    ((one { r := regs 8#64 0#64 }).rd.sreg 1#5).toNat % 16 ≠ 0 := by decide

theorem witness_MatrixCommandIssue_fills : WellFormed.rowsOk 65#7 = true ∧ WellFormed.rowsOk 64#7 = true ∧
    (engine {}).matrixOffences (.mgath false 8#6 1#5 64#7 0#4) = [] ∧ (engine {}).matrixOffences (.mgath true 8#6 1#5 65#7 0#4) = [] ∧
    (engine {}).matrixOffences (.mwld false 1#5 1#7 1#7 0#4) = [] ∧ (engine {}).myCore.lease = none ∧
    fget none (engine {}).myCore.gathers 1 = none ∧ fget none (engine {}).myCore.loads 0 = none ∧
    (engine {}).readBayCheck 3 8#6 = none ∧ readWindow 3 (((engine {}).rd.bayOf 8#6 + 1) % 32) ((engine {}).phase 0) = true ∧
    ((engine {}).rd.sreg 1#5).toNat % 32 = 0 ∧
    (∀ l, l ∈ [gatherRanges 0 (fmtRowBytes 0) ((engine {}).gatherRows 8#6 1), weightRanges 0 0 (fmtK 0 1) 1 false] →
      (engine {}).zeroGate l = .go ∧ (engine {}).rangeBank l = none ∧ (engine {}).rangeSpan 1 false l = none ∧
        (engine {}).rangePoison l = none) := by decide

/-- An `mmul` of one row with the operator entry 0. -/
def mm : MmulFields := ⟨0#4, 0#5, false, false, 511#9, 1#7, false, 0#2, 0#3, 0#6⟩

/-- An engine whose latch and B buffer are ready for it. -/
def armed : State :=
  { engine { lat := [(0, { gathered := true, m := 1, rows := [(0, .padding)] })], bbuf := [(0, { loaded := true, k := 1, n := 1 })] }
    with ctxs := [(0, { acclim := 512, r := { slack := 255#8, fmt := [(0, 0x900#32)] } }), (4, { cpos := 1, csize := 2 })] }

theorem witness_MmulIssue : (Instr.mmul mm).wellFormed = true ∧ armed.recording 0 = false ∧ armed.replaying 0 = false ∧
    armed.me.isCopy mm = false ∧ armed.matrixOffences (.mmul mm) = [] ∧ armed.literal mm = .ok [] ∧ armed.mmulGate mm = .go ∧
    armed.scaleFault (armed.mmulCmd mm 0 (armed.mmulLead mm) none) = none ∧ armed.mmulPoison mm = none ∧
    (Instr.mmul { mm with gang := 1#3 }).wellFormed = true ∧ (armed.ctx 4).isCopy { mm with gang := 1#3 } = true ∧
    (∀ s, s = ({ armed with cur := 4 } : State) → s.me.isCopy { mm with gang := 1#3 } = true ∧ s.mmulPoison { mm with gang := 1#3 } = none) := by
  and_intros
  all_goals try decide
  rintro _ rfl
  decide

/-- The same in a launch that records. -/
def armedRecording : State :=
  let s := recording 1 { acclim := 512, r := { slack := 255#8, fmt := [(0, 0x900#32)] } }
  { s with cores := armed.cores.map fun (e : Nat × CoreState) => (e.1, { e.2 with tlb := [page] }) }

theorem witness_MmulIssue_records : (∀ f, f = { mm with cbar := 5#6 } → (Instr.mmul f).wellFormed = true ∧
    armedRecording.me.isCopy f = false ∧ armedRecording.matrixOffences (.mmul f) = [] ∧ armedRecording.literal f = .ok [] ∧
    armedRecording.mmulGate f = .go ∧ armedRecording.scaleFault (armedRecording.mmulCmd f 0 (armedRecording.mmulLead f) none) = none ∧
    armedRecording.mmulPoison f = none ∧ f.cbar ≠ 0#6) ∧ armedRecording.MayRecord := by
  refine ⟨?_, by decide, by decide, by decide, by decide, _, rfl⟩
  rintro _ rfl
  decide

/-! ## The copy slots -/

/-- A context that owns banks 0 and 47 of its core. -/
def banks (x : Ctx) (k : CoreState) : State := onCore x { k with bankOwner := [(0, 1), (47, 1)] }

theorem witness_ScratchOk : (banks {} {}).ScratchOk 0#64 128 128 false ∧ (banks {} {}).ScratchOk 0x2FFF80#64 128 128 true ∧
    (banks {} {}).ScratchOk 0x2FFFF8#64 8 8 false ∧ ¬ (banks {} {}).ScratchOk 0x10000#64 8 8 false ∧
    ¬ (banks {} {}).ScratchOk 0x300000#64 8 8 true := by
  unfold State.ScratchOk; decide

theorem witness_ScratchpadIssue : (banks {} {}).ScratchOk ((banks {} {}).cmAddr 0#5 1#8 128) 128 128 true ∧
    (banks {} {}).ScratchOk 4#64 4 1 false ∧ WellFormed.indexedOk 3#2 3#2 = true ∧ WellFormed.indexedOk 1#2 0#2 = true ∧
    (4#64).toNat % 4 = 0 ∧ writeWindow 4 ((banks {} {}).rd.bayOf 24#6) ((banks {} {}).phase 0 + 5) = true ∧
    writeWindow 5 ((banks {} {}).rd.bayOf 17#6) ((banks {} {}).phase 0 + 7) = true ∧
    readWindow 4 ((banks {} {}).rd.bayOf 8#6) ((banks {} {}).phase 0) = true ∧
    readWindow 5 ((banks {} {}).rd.bayOf 23#6) ((banks {} {}).phase 0) = true := by
  unfold State.ScratchOk; decide

theorem witness_ScratchpadFaults : (2#2 ≠ 0#2) ∧ (banks {} {}).zeroGate [(0, 64)] = .go ∧
    writeWindow 4 ((banks {} {}).rd.bayOf 8#6) ((banks {} {}).phase 0 + 5) = false ∧
    (one { r := regs 65#64 0#64 }).cmAddr 1#5 0#8 64 = 65#64 ∧ (65#64).toNat % 64 ≠ 0 ∧
    (one {}).holdsBank 0 = false ∧ (banks {} {}).holdsBank (bankOf 0) = true ∧ (banks {} {}).det = false ∧
    (banks {} { spPoison := [3] }).myCore.spPoisoned 0 64 = true ∧
    ({ banks {} {} with launches := [(0, { det := true })] } : State).det = true ∧
    (fget 0#48 (banks {} {}).rd.spanR 0).getLsbD 0 = false ∧
    writeWindow 4 ((banks {} {}).rd.bayOf 24#6) ((banks {} {}).phase 0 + 5) = true ∧
    readWindow 4 ((banks {} {}).rd.bayOf 8#6) ((banks {} {}).phase 0) = true ∧
    readWindow 4 ((banks {} {}).rd.bayOf 24#6) ((banks {} {}).phase 0) = false ∧ (banks {} {}).zeroGate [(8, 8)] = .go := by decide

/-- A context with a word partition of 32 entries and the banks 0 to 2 for handover. -/
def sharing : Ctx := { cwlim := 32, handover := 7#48, r := { s := [(1, 1#64), (2, 6#64), (3, 8#64), (4, 31#64), (5, 32#64)] } }

theorem witness_TableAndBankIssue : ((banks sharing {}).rd.sreg 4#5).toNat % 512 < sharing.cwlim - sharing.cwbase ∧
    sharing.cwlim - sharing.cwbase ≤ ((banks sharing {}).rd.sreg 5#5).toNat % 512 ∧
    (banks sharing {}).ScratchOk ((banks sharing {}).cmAddr 0#5 1#8 32) 32 32 false ∧
    (banks sharing {}).zeroGate [(32, 32)] = .go ∧ (banks sharing {}).myCore.lease = none ∧
    (banks sharing { scales := List.replicate 32 0#8 }).myCore.scales.length + sharing.scalesInFlight.1 + 128 ≤ 4096 ∧
    (banks sharing { lease := some 1 }).myCore.lease = some 1 ∧ 1 ≠ (banks sharing {}).cur := by
  unfold State.ScratchOk; decide

theorem witness_TableAndBankIssue_banks : ((banks sharing {}).rd.sreg 2#5).extractLsb' 0 48 &&& ~~~sharing.handover = 0#48 ∧
    (∀ b, b < 48 → (1#48).getLsbD b = true → (banks sharing {}).acquirable b = true) ∧
    (banks sharing { released := [(1, 1), (2, 1)] }).acquirable 2 = true ∧ (banks sharing {}).acquirable 1 = false ∧
    ((banks sharing {}).rd.sreg 3#5).extractLsb' 0 48 &&& ~~~sharing.handover ≠ 0#48 ∧
    (banks sharing {}).holdsBank 47 = true ∧ 47 ∉ (banks sharing {}).banksInUse ∧ (banks sharing {}).holdsBank 1 = false ∧
    0 ∈ (banks sharing { cmds := [{ zeroing with kind := .mdrain 0 1 0 0 false 0#2 }] }).banksInUse := by decide

theorem witness_MayIssue : (onCore {} mapped).MayIssue 4 true 8#4 0x40008#64 8 { rd := true } 0x50008 true ∧
    (onCore {} mapped).MayIssue 5 false 7#4 0x4FF80#64 128 { wr := true, at' := true } 0x5FF80 true ∧
    WellFormed.tokenOk 8#4 = true ∧ WellFormed.tokenOk 7#4 = true := by
  unfold State.MayIssue State.MayEnter; decide

/-- The addresses of the global forms reach the mapped page. -/
def global : State := onCore { r := { s := [(1, 0x40000#64), (2, 0x40040#64)] } } mapped

theorem witness_GlobalLoadStoreIssue :
    global.MayIssue 4 true 8#4 (global.rd.sreg 1#5 + global.rd.sreg 0#5 + (1#8).signExtend 64 * 8#64) 8 { rd := true } 0x50008 true ∧
    global.MayIssue 5 true 0#4 (global.cmAddr 1#5 1#8 128) 128 { rd := true } 0x50080 true ∧
    global.MayIssue 4 false 0#4 (global.cmAddr 1#5 0xFF#8 0) 8 { wr := true } 0x50000 true ∧
    readWindow 4 (global.rd.bayOf 8#6) (global.phase 0) = true ∧ WellFormed.tokenOk 8#4 = true := by
  unfold State.MayIssue State.MayEnter; decide

theorem witness_AtomicIssue : global.me.overlap = [] ∧
    (Instr.atom .c0 0#4 8#4 5#3 true true 1#2 10#4 1#5 2#5).wellFormed = true ∧
    (Instr.atomr .c0 0#4 8#4 5#3 true true 1#2 11#4 1#5 2#5).wellFormed = true ∧
    (Instr.cas .c1 0#4 8#4 5#3 true true 2#2 1#5 2#5).wellFormed = true ∧
    (Instr.atomv .c1 0#4 8#4 0#2 0#4 1#5 8#6).wellFormed = true ∧
    global.MayIssue 4 false 8#4 (global.rd.sreg 1#5) 8 { wr := true, at' := true } 0x50000 true ∧
    global.MayIssue 5 true 8#4 (global.rd.sreg 1#5) 16 { rd := true, wr := true, at' := true } 0x50000 true ∧
    global.MayIssue 5 false 8#4 (global.rd.sreg 1#5) 128 { wr := true, at' := true } 0x50000 true ∧
    readWindow 5 (global.rd.bayOf 8#6) (global.phase 0) = true := by
  unfold State.MayIssue State.MayEnter; decide

/-- An atomic at 0x40040 with the operand 5. -/
def operands : Ctx := { r := regs 0x40040#64 5#64 }

theorem witness_AtomicIssue_records : (recording 1 operands).det = false ∧ (recording 1 operands).MayRecord ∧
    (recording 0 operands).RingWaits ∧ (replayed operands).ReplayEnds ∧
    (∀ s, s ∈ [recording 1 operands, recording 0 operands, replayed operands] →
      s.MayEnter 4 false 8#4 (s.rd.sreg 1#5) 8 { wr := true, at' := true } 0x50040 true) ∧
    (∀ b, b ∈ [recorded 2 0x40040 5, recorded 9 0 5, recorded 2 0x40044 5, recorded 2 0x40040 6] → (replaying b operands).Replays b ∧
      (replaying b operands).MayEnter 4 false 8#4 0x40040#64 8 { wr := true, at' := true } 0x50040 true) ∧
    (∀ b, b = recorded 2 0x40040 5 → recordNames b 2 0 ∧ field b 8 8 = (0x40040#64 : Word).toNat ∧ field b 24 8 = 5) ∧
    ¬ recordNames (recorded 9 0 5) 2 0 ∧ field (recorded 2 0x40044 5) 8 8 ≠ (0x40040#64 : Word).toNat ∧
    field (recorded 2 0x40040 6) 24 8 ≠ 5 := by
  refine ⟨by decide, ⟨by decide, by decide, by decide, by decide, _, rfl⟩, ?_, ?_, ?_, ?_, ?_, ?_, by decide, by decide⟩ <;> try rintro _ rfl
  all_goals simp only [State.RingWaits, State.Replays, State.ReplayEnds, State.MayEnter, recordNames]; decide

theorem witness_GlobalAccessStopsAndWaits : WellFormed.tokenOk 1#4 = true ∧ (busy 63).me.outstanding < 64 ∧
    64 ≤ (busy 64).me.outstanding ∧ 32 ≤ ((one { q0 := List.replicate 32 { acc := 0 } }).me.queue (4 = 5)).length ∧
    ((one { q0 := List.replicate 31 { acc := 0 } }).me.queue (4 = 5)).length < 32 ∧
    (fget {} waiting.me.tokens (1#4).toNat : Token).st = 1 ∧ ((one { r := regs 8#64 0#64 }).cmAddr 1#5 0#8 32).toNat % 32 ≠ 0 ∧
    (one {}).check 0 0 [] 0x80000000000000#64 { rd := true } = .fault 3 1 ∧
    (one {}).check 0 0 [] 0x7FFFFFFFFFFFE0#64 { rd := true } = .miss ∧
    (one {}).check 0 0 [(4, 3, 5)] 0x40000#64 { rd := true } = .fault 3 5 ∧
    (Instr.atomr .c0 0#4 1#4 5#3 true true 1#2 11#4 1#5 2#5).wellFormed = true ∧ (one {}).recording 0 = false ∧
    (one {}).replaying 0 = false ∧ (one {}).me.overlap = [] ∧ readWindow 4 ((one {}).rd.bayOf 8#6) ((one {}).phase 0) = true ∧
    readWindow 4 ((one {}).rd.bayOf 24#6) ((one {}).phase 0) = false := by decide

theorem witness_FenceAndTicketIssue : (busy 1).me.overlap = [] ∧ WellFormed.scopeOk 1#3 = true ∧ WellFormed.scopeOk 5#3 = true ∧
    (one {}).me.lsu = [] ∧ (∀ a : Access, .access a ∉ (one {}).me.lsu) ∧
    (∃ a : Access, .access a ∈ (busy 1).me.lsu ∧ a.global = true ∧ (busy 1).fromThisBundle a = false) ∧
    (one {}).me.far = [] ∧ (one { far := [3] }).me.far ≠ [] ∧
    global.MayIssue 4 false 8#4 (global.rd.sreg 2#5) 64 { rd := true, wr := true, at' := true } 0x50040 true := by
  refine ⟨by decide, by decide, by decide, rfl, fun a => List.not_mem_nil, ⟨_, List.mem_cons_self .., by decide, by decide⟩, by decide,
    by decide, ?_⟩
  unfold State.MayIssue State.MayEnter; decide

/-- A command of context 0 in dray 0 under token n, and one more behind it. -/
def drayCmd (n : Nat) : DrayCmd :=
  { owner := 0, token := n, slot := 4, kind := 0, issueK := 0, issueSeq := 0, acq := false, rel := false, scope := 0 }

theorem witness_DrayCommandIssue : WellFormed.flagScopeOk 5#3 true true = true ∧ WellFormed.flagScopeOk 0#3 false false = true ∧
    (fget {} waiting.me.tokens 0 : Token).st ≠ 1 ∧ (28#5).toNat ≤ 28 ∧ (banks {} {}).bankFault 64#64 64 = none ∧
    (64#64).toNat % 64 = 0 ∧ (1#64).toNat % 64 ≠ 0 ∧ (banks {} {}).recording 0 = false ∧ (banks {} {}).replaying 0 = false ∧
    ((banks {} {}).myCore.dray 0).frozen = false ∧ ((banks {} {}).myCore.dray 0).running = none ∧
    (∀ d, d = (banks {} { drays := [(0, { running := some (drayCmd 1), shadow := some (drayCmd 2) })] }).myCore.dray 0 →
      ¬ (d.frozen = false ∧ (d.running = none ∨ d.shadow = none)) ∧ d.shadow = some (drayCmd 2)) ∧
    (drayCmd 2).owner = 0 ∧ (drayCmd 2).token = (2#3).toNat ∧ (drayCmd 1).started = false ∧ (drayCmd 2).token ≠ (1#3).toNat := by
  and_intros
  all_goals try decide
  rintro _ rfl
  decide

theorem witness_DrayCommandIssue_records : (∀ s, s ∈ [recording 1, recording 0] →
      (s.myCore.dray 0).frozen = false ∧ (s.myCore.dray 0).running = none ∧ (fget {} s.me.tokens 2 : Token).st ≠ 1) ∧
    (recording 1 {} { bankOwner := [(0, 1)] }).bankFault 64#64 64 = none ∧ (recording 1 {} { bankOwner := [(0, 1)] }).MayRecord ∧
    (recording 0).RingWaits :=
  ⟨by decide, by decide, ⟨by decide, by decide, by decide, by decide, _, rfl⟩, by unfold State.RingWaits; decide⟩

theorem witness_DrayCommandIssue_cancels :
    (∀ r, r ∈ [drayCmd 1, { drayCmd 1 with started := true }, { drayCmd 1 with bad := true }] → ∀ t, t ∈ [none, some (drayCmd 2)] →
      ((banks {} { drays := [(0, { running := some r, shadow := t })] }).myCore.dray 0).running = some r ∧
      ((banks {} { drays := [(0, { running := some r, shadow := t })] }).myCore.dray 0).shadow = t ∧ r.owner = 0 ∧
      r.token = (1#3).toNat ∧ r.ending = none) ∧
    (drayCmd 1).started = false ∧ ({ drayCmd 1 with started := true } : DrayCmd).bad = false ∧ (drayCmd 2).owner = 0 ∧
    (drayCmd 2).token ≠ (1#3).toNat := by decide

/-! ## Events of a context -/

/-- The machine at the first bundle of a context, `add s10, s10, s12` in its S slot. -/
def first : State := State.reset.withFetchWord 32 0x0018A501

/-- The same, with the bundle already held back once. -/
def held : State := first.modCtx 0 fun x => { x with iss := { x.iss with cause := some .width } }

theorem witness_IssueEvents_offer : held.offered 0 = some 0 ∧ (held.ctx 0).iss.cause.isSome = true ∧
    (held.ctx 0).iss.yielding = false ∧ State.reset.offered 0 = none ∧
    ((held.modCtx 0 fun x => { x with iss := { x.iss with yielding := true } }).ctx 0).iss.yielding = true ∧
    (∃ w u, ((held.modCtx 0 fun x => { x with ticketWait := [3] }).taken 0).front = .wait w u) ∧
    ∃ u word l, (held.taken 0).front = .issue u word l ∧
      (((u.point word).modMe fun y => { y with words := word, fenceWait := none, fenceFar := false }).runSlots l).me.st = .resident := by
  and_intros
  all_goals try decide
  · exact ⟨_, _, rfl⟩
  · exact ⟨_, _, _, rfl, by decide⟩

theorem witness_IssueEvents_selector : State.reset.selection 0 = none ∧ State.reset.reoffer 0 = none ∧
    ({ first with cores := [(0, { logical := some 0 })] } : State).selection 0 = some 0 ∧
    (∀ s, s = ({ onCore { st := .resident, iss := { cause := some .width, notBefore := some 64 } }
        { freshCore 0 with giver := some 0, offerAt := 32 } with cycle := 32 } : State) →
      s.selection 0 = none ∧ s.reoffer 0 = some 0) ∧
    4096 ≤ ((one { st := .resident, iss := { turns := 4096 } }).ctx 0).iss.turns ∧ (one {}).phase 0 = 0 ∧
    (one { iss := { turns := 4095 } }).me.iss.turns < 4096 := by
  refine ⟨by decide, by decide, by decide, ?_, by decide, by decide, by decide⟩
  rintro _ rfl
  decide

/-- A context that waits for a line at 0x40000, which its TLB translates. -/
def asking : State :=
  onCore { pc := 0x40000#64, st := .resident, iss := { cause := some .fetch } } mapped

theorem witness_FetchAndStopEvents_fills : asking.me.iss.cause = some .fetch ∧ asking.fetchNeed 0 = some 0x40000#64 ∧
    asking.check 0 0 asking.me.walkFail 0x40000#64 { ex := true } = .ok 0x50000 true ∧
    ffind asking.ms.plaza (plazaKey 0 0 0x40000) = none ∧ asking.backed 0x50000 = true ∧ asking.poisoned 0x50000 = false ∧
    asking.backed 0x7FFFFFFFFFF00 = false ∧
    ({ asking with ms := { poison := [0x500] } } : State).poisoned 0x50000 = true ∧
    ffind ({ asking with ms := { plaza := [(plazaKey 0 0 0x40000, (0xA00, [1#8]))] } } : State).ms.plaza (plazaKey 0 0 0x40000) =
      some (0x50000 / 128, [1#8]) ∧ State.reset.me.iss.cause ≠ some .fetch ∧ asking.halfWritten (0x50000 / 128 * 128) 128 = false ∧
    (asking.modCtx 4 fun x => { x with lsu := [.access { id := 0, slot := 4, cls := 0, kind := .store (List.replicate 32 1#8)
                                                         va := 0x40000#64, pa := 0x50000, unitsDone := [0] }] }).halfWritten
      (0x50000 / 128 * 128) 128 = true := by decide

/-- A context that waits for a line at 0x40000, which nothing translates. -/
def lost : State := one { pc := 0x40000#64, st := .resident, iss := { cause := some .fetch } }

theorem witness_FetchAndStopEvents_fails : lost.me.iss.cause = some .fetch ∧ lost.fetchNeed 0 = some 0x40000#64 ∧
    lost.check 0 0 lost.me.walkFail 0x40000#64 { ex := true } = .miss ∧
    (one { pc := 0x40000#64, st := .resident, iss := { cause := some .fetch }, walkFail := [(4, 3, 2)] }).check 0 0 [(4, 3, 2)] 0x40000#64
      { ex := true } = .fault 3 2 := by decide

/-- A resident context with one report of a watchpoint. -/
def reported : Ctx := { st := .resident, reports := [{ code := 0x11, engid := 1, addr := 0x40#64 }] }

/-- A replayed operation that its home has held for longer than the limit. -/
def late : State :=
  { one { st := .resident
          lsu := [.access { id := 0, slot := 4, cls := 0, kind := .load 8, va := 0, pa := 0, heldSince := some 0,
                            rcd := some { index := 7, type := 0, slot := 0, sub := 0, bundles := 0, place := 0, value := 0 } }] }
    with launches := [(0, { replay := true })], tick := Config.replayTimeoutDefault + 1 }

theorem witness_FetchAndStopEvents_stops :
    (reported.reports.find? fun r => r.code = 0x11) = some { code := 0x11, engid := 1, addr := 0x40#64 } ∧
    reported.st = .resident ∧ late.overdue 0 = some 7 ∧ (late.ctx 0).st = .resident ∧
    (late.modCtx 0 fun x => { x with st := .frozen }).overdue 0 = some 7 ∧ State.reset.overdue 0 = none := by decide

/-- A context in an issue cycle with effects due. -/
def due (l : List Pending) : State := one { iss := { active := true, kappa := 6 }, pend := l }

/-- An effect of a slot that is due. -/
def eff (slot seq : Nat) (a : Action) : Pending := { due := 6, slot := slot, seq := seq, bundle := 0x40#64, act := a }

theorem witness_BayLandings :
    ((due []).ctx 0).pend = [] ∧
    (((due [eff 1 0 (.untaint 3)]).ctx 0).pend.filter fun y => y.act.clears 3 && (due [eff 1 0 (.untaint 3)]).acts 0 y) ≠ [] ∧
    (∀ l, l = [eff 2 5 (.land 3 1 1 0 true), eff 1 7 (.land 3 2 3 0 false)] →
      (((due l).ctx 0).pend.filter fun y => y.act.landsIn 3 && (due l).acts 0 y) = l) ∧
    (∀ l, l = [eff 2 5 (.land 3 1 1 0 true), eff 2 7 (.land 3 2 3 0 false)] →
      (((due l).ctx 0).pend.filter fun y => y.act.landsIn 3 && (due l).acts 0 y) = l) := by
  refine ⟨by decide, by decide, ?_, ?_⟩ <;> rintro _ rfl <;> decide

theorem witness_RegisterAndPredicateLandings :
    (∀ l, l = [eff 4 5 (.regWrite 31 9#64 0)] →
      (((due l).ctx 0).pend.filter fun y => y.act.writesReg 31 && (due l).acts 0 y) = l) ∧
    (∀ l, l = [eff 1 5 (.predWrite 23 9#32 1#32 0 true)] →
      (((due l).ctx 0).pend.filter fun y => y.act.writesPred 23 && (due l).acts 0 y) = l) ∧
    (∀ l, l = [eff 4 5 (.regWrite 31 9#64 0), eff 5 6 (.regWrite 31 8#64 0)] →
      (((due l).ctx 0).pend.filter fun y => y.act.writesReg 31 && (due l).acts 0 y) = l) ∧
    (∀ l, l = [eff 2 7 (.predWrite 23 9#32 1#32 0 true), eff 2 5 (.predWrite 23 8#32 1#32 0 true)] →
      (((due l).ctx 0).pend.filter fun y => y.act.writesPred 23 && (due l).acts 0 y) = l) ∧
    (one { wroteS := [31] }).me.wroteS.contains 31 = true ∧ (ffind (one { wroteP := [(23, (0#32, 0#9))] }).me.wroteP 23).isSome = true ∧
    (one { ticketDone := [(1, 31, 5#64)] }).me.ticketDone = (1, 31, 5#64) :: [] := by
  refine ⟨?_, ?_, ?_, ?_, by decide, by decide, by decide⟩ <;> rintro _ rfl <;> decide

theorem witness_ScratchpadActs : State.reset.memoriesOk = true ∧
    (∀ l, l = [eff 4 5 (.spWrite [(0, [1#8])]), eff 5 6 (.spRead [some 0] 8 (.reg 1 3 0))] →
      (((due l).ctx 0).pend.filter fun y => y.act.access && (due l).acts 0 y) = l) ∧
    (∀ l, l = [{ eff 4 5 (.spWrite [(0, [1#8])]) with due := 5 }, eff 5 6 (.spWrite [(0, [2#8])])] →
      (((due l).ctx 0).pend.filter fun y => y.act.access && (due l).acts 0 y) = l) ∧
    (∀ l, l = [eff 4 5 (.spRead [some 0x2FFFF8] 8 (.reg 1 3 0))] →
      (((due l).ctx 0).pend.filter fun y => y.act.access && (due l).acts 0 y) = l) := by
  refine ⟨by decide, ?_, ?_, ?_⟩ <;> rintro _ rfl <;> decide

theorem witness_TableAndBankEvents :
    (∀ p, p ∈ [eff 4 0 (.wordWrite 511 5), eff 4 0 (.scalePush 0 32), eff 5 0 (.bankAcq 1), eff 5 0 (.bankRel 0x800000000000)] →
      (due [p]).acts 0 p = true) := by decide

/-! ## Events at the homes -/

/-- A context with one access of a kind at an address of HBM, and nothing before it. -/
def going (kind : AccKind) (pa : Nat) : State :=
  one { lsu := [.access { id := 3, slot := 4, cls := 0, kind := kind, va := 0x40000#64, pa := pa, nb := true }], seq := 4 }

/-- That access. -/
def acc (kind : AccKind) (pa : Nat) : Access := { id := 3, slot := 4, cls := 0, kind := kind, va := 0x40000#64, pa := pa, nb := true }

theorem witness_LoadsAndStoresPerform : State.reset.performable 0 3 = none ∧
    (going (.load 128) 0x50000).performable 0 3 = some (acc (.load 128) 0x50000) ∧
    (going (.store [1#8]) 0x50000).performable 0 3 = some (acc (.store [1#8]) 0x50000) ∧
    (going (.load 8) 0x50000).accessOverlaps 0 (acc (.load 8) 0x50000) = false ∧ State.reset.homeError 0x50000 = none ∧
    (going (.load 8) 0x50000).unmixed 0 (acc (.load 8) 0x50000) = true ∧ (acc (.load 128) 0x50000).unitsLeft.length = 8 ∧
    ({ acc (.load 128) 0x50000 with unitsDone := List.range 7 } : Access).unitsLeft = [7] ∧
    (going (.store [1#8]) 0x50000).unmixed 0 (acc (.store [1#8]) 0x50000) = true ∧
    ({ acc (.store (List.replicate 128 1#8)) 0x50000 with unitsDone := List.range 7 } : Access).unitsLeft = [7] ∧
    ({ State.reset with ms := { poison := [0x500] } } : State).homeError 0x50000 = some 2 ∧
    State.reset.backed 0x7FFFFFFFFFF00 = false ∧ State.reset.homeError 0x7FFFFFFFFFF00 = some 3 ∧ State.reset.memoriesOk = true := by
  decide

/-- An HBM line whose home is another Quarter's. -/
def far : Nat := 0x3000000000

theorem witness_LoadsAndStoresPerform_near : homeQuarter far ≠ quarterOf (coreOf 0) ∧
    (({ going (.load 8) far with ms := { near := [{ quarter := 0, line := far / 256, bytes := [], stamp := 0 }] } } : State).nearHit 0
      (acc (.load 8) far)).isSome = true ∧ (going (.load 8) far).nearHit 0 (acc (.load 8) far) = none := by decide

theorem witness_LoadsAndStoresPerform_overlap :
    ∃ l : LastWrite, ({ going (.load 8) 0x50000 with ms := { ovl := [0], lastWrites := [l] } } : State).accessOverlaps 0
      (acc (.load 8) 0x50000) = true :=
  ⟨{ line := 0x500, lo := 0x50004, size := 4, master := 4, cls := 0, tick := 0 }, by decide⟩

theorem witness_AtomicsPerform : (going (.atomic 11 8 5#64 true) 0x50000).performable 0 3 = some (acc (.atomic 11 8 5#64 true) 0x50000) ∧
    (going (.cas 16 0 1) 0x50000).performable 0 3 = some (acc (.cas 16 0 1) 0x50000) ∧
    (going (.row 0 0 5) 0x50000).performable 0 3 = some (acc (.row 0 0 5) 0x50000) ∧
    (acc (.row 0 0 5) 0x50000).interval = none ∧ (acc (.row 0 0 5) 0x50000).rcd = none ∧
    (acc (.atomic 0 4 5#64 false) 0x50000).kind.isAtomic = true ∧ (acc (.atomic 0 4 5#64 true) 0x50000).kind.tagged = true ∧
    (going (.row 0 0 5) 0x50000).accessOverlaps 0 (acc (.row 0 0 5) 0x50000) = false ∧
    ({ acc (.atomic 0 4 5#64 false) 0x50000 with interval := some 2 } : Access).interval = some 2 ∧
    (going (.row 0 0 5) 0x50000).unmixed 0 (acc (.row 0 0 5) 0x50000) = true ∧ (acc (.row 0 0 5) 0x50000).unitsLeft.length = 8 ∧
    ({ acc (.row 0 0 5) 0x50000 with unitsDone := List.range 7 } : Access).unitsLeft = [7] ∧
    ({ State.reset with ms := { poison := [0x500] } } : State).homeError 0x50000 = some 2 := by decide

/-- An atomic to the host window, and one that has read there. -/
def toHost (op : Option HostRmw) : State := { going (.atomic 0 4 5#64 true) 0x1000000000000 with ms := { hostRmw := op } }

theorem witness_AtomicsPerform_host :
    (toHost none).performable 0 3 = some (acc (.atomic 0 4 5#64 true) 0x1000000000000) ∧ (toHost none).ms.hostRmw = none ∧
    (toHost none).splitAtHost (acc (.atomic 0 4 5#64 true) 0x1000000000000) = true ∧ (toHost none).homeError 0x1000000000000 = none ∧
    (toHost none).unmixed 0 (acc (.atomic 0 4 5#64 true) 0x1000000000000) = true ∧
    (acc (.atomic 0 4 5#64 true) 0x1000000000000).wide = false ∧ (acc (.row 0 0 5) 0x1000000000000).wide = true ∧
    (going (.row 0 0 5) 0x1000000000000).splitAtHost (acc (.row 0 0 5) 0x1000000000000) = true ∧
    (∀ r, r = ({ ctx := 0, id := 3, unit := 0, old := [1#8, 0#8, 0#8, 0#8] } : HostRmw) →
      (toHost (some r)).ms.hostRmw = some r ∧
        (toHost (some r)).performable 0 3 = some (acc (.atomic 0 4 5#64 true) 0x1000000000000) ∧
        (toHost (some r)).unmixed 0 (acc (.atomic 0 4 5#64 true) 0x1000000000000) = true) := by
  and_intros
  all_goals try decide
  rintro _ rfl
  decide

/-- A ticket descriptor of two slots, none of them free. -/
def ticket : Ticket := Ticket.ofBytes (List.replicate 20 0#8 ++ [1#8] ++ List.replicate 43 0#8)

theorem witness_TicketsAndArrivalsPerform :
    (going (.ticket 2 0 31) 0x50000).performable 0 3 = some (acc (.ticket 2 0 31) 0x50000) ∧
    (acc (.ticket 2 0 31) 0x50000).token = none ∧ State.reset.homeError 0x50000 = none ∧
    (going (.ticket 2 0 31) 0x50000).unmixed 0 (acc (.ticket 2 0 31) 0x50000) = true ∧
    ({ going (.ticket 2 0 31) 0x50000 with ms := { poison := [0x500] } } : State).homeError 0x50000 = some 2 ∧
    ticket.malformed = false ∧ ticket.free = 0 ∧ ticket.committed 0 = false ∧
    ({ ticket with commit := 1 } : Ticket).committed 0 = true ∧ (∃ b, (Ticket.ofBytes b).malformed = true) ∧
    ((going (.arrive 63 2 4) 0).ctx 0).access 3 = some (acc (.arrive 63 2 4) 0) ∧
    ((going (.arrive 63 2 4) 0).ctx 0).mayPerform (acc (.arrive 63 2 4) 0) = true := by
  and_intros
  all_goals try decide
  exact ⟨List.replicate 64 0xFF#8, by decide⟩

/-! ## Events of the drays and the collective engines -/

/-- A core whose dray 0 runs a command; bank 0 is context 0's. -/
def draying (c : DrayCmd) (frozen : Bool) : State :=
  onCore { seq := 1, iss := { kappa := 3 } } { mapped with bankOwner := [(0, 1)], drays := [(0, { running := some c, frozen := frozen })] }

/-- A started copy of 16 bytes within the scratchpad, and one within global memory. -/
def copying : DrayCmd := { drayCmd 1 with started := true, rows := 1, rowlen := 16, src := 0x4000000000000000#64, dst := 0x4000000000000010#64 }

theorem witness_DrayEvents_starts : ((draying (drayCmd 1) false).core 0).dray 0 = { running := some (drayCmd 1) } ∧
    ¬ ((draying (drayCmd 1) false).ctx 0).engineK < (drayCmd 1).issueK + 3 ∧ (one {}).me.engineK < (drayCmd 1).issueK + 3 ∧
    (drayCmd 1).kind = 0 ∧ (draying (drayCmd 1) false).spanServed 0 0 { kind := 1, addr := 0, size := 64 } = true ∧
    (draying (drayCmd 1) false).pieceFault ((drayCmd 1).engine 0 0) { kind := 1, addr := 0, size := 64 } false = none ∧
    (draying (drayCmd 1) false).pieceFault ((drayCmd 1).engine 0 0) { kind := 1, addr := 0x10000, size := 64 } false = some (9, 0) ∧
    ((one {}).core 0).dray 0 = {} ∧ (drayCmd 1).ending = none := by decide

/-- The copy once its line has been read. -/
def readOut (c : DrayCmd) : DrayCmd := { c with got := [(0, List.replicate 16 7#8)] }

theorem witness_DrayEvents_lines : copying.started = true ∧ copying.bad = false ∧ copying.kind ≠ 2 ∧ copying.moved = false ∧
    ({ copying with atRow := 1 } : DrayCmd).moved = true ∧ (draying copying false).acqHolds copying = false ∧
    (draying copying false).depHolds copying = false ∧ (draying copying false).watchHolds 0 copying = false ∧
    copying.lineRead = false ∧ copying.lineSize = 16 ∧ (copying.lineSrc.unit 0).kind = 1 ∧
    (draying copying false).spanServed 0 0 (copying.lineSrc.unit 0) = true ∧
    (draying copying false).pieceFault (copying.engine 0 0) (copying.lineSrc.unit 0) false = none ∧
    (draying copying false).pieceFault (copying.engine 0 0) { kind := 1, addr := 0x10000, size := 16 } false = some (9, 0) ∧
    copying.advance.moved = true ∧ (draying copying false).sentPerformed 0 0 copying = true ∧
    (readOut copying).lineRead = true ∧ locKind copying.dst = 1 ∧
    (draying (readOut copying) false).pieceFault (copying.engine 0 0) (copying.lineDst.unit 0) true = none ∧
    (readOut copying).lineBytes.length = 16 ∧ (∀ i : Nat, i < 16 → copying.inSource (copying.lineDst.addr + i) = false) ∧
    copying.rel = false ∧ (draying copying false).ms.ovl.contains copying.tenant = false ∧ copying.chosen = false ∧
    copying.unitsDone = [] ∧ ({ copying with ending := some (.done 2) } : DrayCmd).ending = some (.done 2) ∧
    (going (.store [1#8]) 0x50000).acqHolds { copying with acq := true, issueSeq := 4 } = true := by decide

/-- A smaller write of another master in the line at 0x50000. -/
def clash : LastWrite := { line := 0x500, lo := 0x50004, size := 4, master := 4, cls := 0, tick := 0 }

/-- The copy within global memory, and its second half on its way to its home. -/
def moving : DrayCmd := { copying with src := 0x40000#64, dst := 0x40010#64 }

/-- The line that it is reading. -/
def reading : HeldLine := { line := 0x400, pa := 0x50000, lo := 0, size := 16, since := 0 }

def flying : Sent :=
  { id := 0, core := 0, engid := 0, owner := 0, cmd := 0, launch := 0, tenant := 0, va := 0x40010#64, pa := 0x50010, size := 16
    left := [(0, List.replicate 16 7#8)] }

theorem witness_DrayEvents_global : (moving.lineSrc.unit 0).kind = 0 ∧ locKind moving.dst = 0 ∧ moving.lineRead = false ∧
    (draying moving false).engineCheck (moving.engine 0 0) 0x40000#64 { rd := true } = .ok 0x50000 true ∧
    (draying moving false).engineCheck (moving.engine 0 0) 0x40010#64 { wr := true } = .ok 0x50010 true ∧
    (draying moving false).engineCheck (moving.engine 0 0) 0x80000#64 { rd := true } = .miss ∧
    (draying moving false).hostHeld none 0x50000 = false ∧ (draying moving false).poisoned 0x50000 = false ∧
    (draying moving false).backed 0x50000 = true ∧ (draying moving false).rivals none 0x50000 16 256 false = [] ∧
    (draying moving false).sentOver none 0x50000 16 256 = [] ∧ (draying moving false).memoriesOk = true ∧
    (draying moving false).overlapFires 0 0x50000 16 (moving.engine 0 0).master 0 = false ∧
    (({ draying moving false with ms := { ovl := [0], lastWrites := [clash] } } : State)).overlapFires 0 0x50000 16
      (moving.engine 0 0).master 0 = true ∧ moving.mixed = [] ∧ (moving.lineSrc.inLine (moving.lineSrc.unit 0).addr).size = 16 ∧
    ([reading].find? fun h => (h.line : Int) = (moving.lineSrc.unit 0).addr / 256) = some reading ∧
    ({ draying moving false with ms := { poison := [0x500] } } : State).poisoned 0x50000 = true ∧
    (∀ i : Nat, i < 16 → moving.inSource (moving.lineDst.addr + i) = false) := by decide

/-- The same on its way. -/
def sending : State := { draying moving false with ms := { sent := [flying], sentSeq := 1 } }

theorem witness_DrayEvents_sent : sending.ms.sent = [flying] ∧ flying.left[0]? = some (0, List.replicate 16 7#8) ∧
    sending.backed 0x50010 = true ∧ flying.mixed = [] ∧ sending.hostHeld none flying.pa = false ∧
    sending.rivals none 0x50010 16 16 true = [] ∧ sending.sentPerformed 0 0 { moving with rel := true } = false ∧
    sending.memoriesOk = true ∧ flying.compared = false ∧ sending.overlapFires 0 0x50010 16 0x10000 0 = false ∧
    ({ sending with ms := { sending.ms with ovl := [0], lastWrites := [{ clash with lo := 0x50014 }] } } : State).overlapFires 0
      0x50010 16 0x10000 0 = true ∧ flying.engid ≠ 2 := by decide

/-- An ended launch with a policy violation, whose engines are frozen. -/
def thawing : State :=
  { draying copying true with launches := [(0, { ended := true, status := 0x0C })], quarters := [(3, { collFrozen := true })] }

theorem witness_DrayEvents_thaw : ((thawing.core 0).dray 0).frozen = true ∧ (thawing.launch ((thawing.core 0).dray 0).blame).ended = true ∧
    (thawing.launch 0).status = 0x0C ∧ (thawing.quarter 3).collFrozen = true ∧
    (thawing.launch (thawing.quarter 3).collBlame).ended = true ∧ (State.reset.launch 0).ended = false := by decide

/-- The ranks 0 and 1 of a group, at a gather of i32 elements between blocks of staging, the second on dray 1; the destination of
the first at the address given; and the state with both. -/
def part (rank : Nat) (dst : Word) : Part' := (0, rank, { drayCmd rank with
  kind := 2, started := true
  desc := toBytes 4 1 ++ [2#8, 2#8, 0#8, 0#8] ++ toBytes 8 1 ++ toBytes 8 0x8000000000000000 ++ toBytes 8 dst.toNat ++
    toBytes 4 rank ++ toBytes 4 2 ++ List.replicate 24 0#8 })

/-- Where the results go: to staging, or to global memory. -/
def toStaging : Word := 0x8000000000000100#64
def toMemory : Word := 0x40000#64

/-- A group of two of which rank 0 runs here, in a state of its operation. -/
def gathered (dst : Word) (run : Option CollRun) : State :=
  { draying (part 0 dst).2.2 false with
    ms := { grants := [(0, 0#8)] }
    pf := { groups := [(1, { size := 2, members := [(0, 0)], run := run })] } }

/-- The pieces of it that are read and written. -/
def from' : CollLine := { core := 0, dray := 0, kind := 2, addr := 0, size := 4 }
def onto (dst : Word) : CollLine := { core := 0, dray := 0, kind := locKind dst, addr := locAddr dst, size := 8 }

/-- Its operation before, between and after its reads and writes. -/
def step1 : CollRun := { parts := [(0, 0)], reads := [from'] }
def step2 : CollRun := { parts := [(0, 0)], reads := [], got := [(from', List.replicate 4 1#8)] }
def step3 (dst : Word) : CollRun := { step2 with writes := some [(onto dst, List.replicate 8 1#8)] }
def step4 : CollRun := { step2 with writes := some [] }

theorem witness_CollectiveEvents_completes : State.reset.collGroup 0 = none ∧
    (gathered toStaging (some step4)).collGroup 0 = some (1, { size := 2, members := [(0, 0)], run := some step4 }) ∧
    (gathered toStaging (some step4)).runParts step4 = [part 0 toStaging] ∧ (part 0 toStaging).2.2.rcd = none ∧
    (∀ s, s = ({ State.reset with
        cores := [(0, { freshCore 0 with drays := [(0, { running := some (part 0 toStaging).2.2 }),
          (1, { running := some { (part 1 toStaging).2.2 with desc := (part 1 toStaging).2.2.desc.set 4 1#8 } })] })]
        pf := { groups := [(1, { size := 2, members := [(0, 0), (1, 0)] })] } } : State) →
      s.collGroup 0 = some (1, { size := 2, members := [(0, 0), (1, 0)] }) ∧ (s.participants 1).length = 2) := by
  refine ⟨by decide, by decide, by decide, by decide, ?_⟩
  rintro _ rfl
  decide

theorem witness_CollectiveEvents_pieces : (gathered toStaging none).collReady 1 { size := 2, members := [(0, 0)] } = true ∧
    mismatched ((gathered toStaging none).participants 1) = false ∧
    (gathered toStaging (some step1)).pieceOwner from' = some (part 0 toStaging) ∧
    (gathered toStaging (some step1)).readPiece (collEngine (part 0 toStaging)) from'.span (sourceSpan (part 0 toStaging)) =
      (.ok (List.replicate 4 0#8), gathered toStaging (some step1)) ∧
    (∃ f u, ({ gathered toStaging (some step1) with ms := { grants := [(0, 0#8)], stagingPoison := [0] } } : State).readPiece
      (collEngine (part 0 toStaging)) from'.span (sourceSpan (part 0 toStaging)) = (.fail f, u) ∧
      u.runParts step1 = [part 0 toStaging] ∧ f.code ≠ 4) ∧ step1.stopped = false ∧ (part 0 toStaging).2.2.ending = none ∧
    overlaid [part 0 toStaging] (part 0 toStaging) = false ∧
    (gathered toStaging (some (step3 toStaging))).watchHolds 2 (part 0 toStaging).2.2 = false ∧ (onto toStaging).kind = 2 ∧
    (gathered toStaging (some (step3 toStaging))).granted 0 (onto toStaging).span = true ∧
    (gathered toStaging (some (step3 toStaging))).memoriesOk = true ∧ (onto toMemory).kind = 0 ∧ (onto toMemory).addr < 2 ^ 55 ∧
    ({ gathered toMemory (some (step3 toMemory)) with quarters := [(0, { tlb := [page] })] } : State).engineCheck
      (collEngine (part 0 toMemory)) 0x40000#64 { wr := true } = .ok 0x50000 true := by
  and_intros
  all_goals try decide
  exact ⟨_, _, rfl, by decide, by decide⟩

theorem witness_CollectiveEvents_aborts : ffind State.reset.pf.groups 1 = none ∧
    ((gathered toStaging none).participants 1).filter (fun p =>
      ({ size := 2, members := [(0, 0)], aborts := [0] } : Group).aborts.contains (rankOf p)) = [part 0 toStaging] := by decide

/-! ## Walks, closes and the matrix engine -/

/-- Quarter 0 with a walk of page 4 of tenant 0, whose space has its root at 0x100000. -/
def walking (mem : Memory) (root : Option Nat) : State :=
  { one {} with mem := mem, quarters := [(0, { walks := [{ tenant := 0, page := 4, write := true }] })]
                ms := { xlbase := [(0, root)], owners := [(0, 0#8)] } }

/-- A root, an inner and a leaf entry: valid pointers to 0x110000 and 0x120000, and a writable page at 0x50000. -/
def tables : Memory := [(0x100000, 0x01#8), (0x100002, 0x11#8), (0x110000, 0x01#8), (0x110002, 0x12#8), (0x120020, 0x0F#8), (0x120022, 0x05#8)]

theorem witness_WalkHeadAndEvictionEvents :
    (((walking [] none).quarter 0).walks.take 64).find? (fun w => w.tenant = 0 && w.page = 4) =
      some { tenant := 0, page := 4, write := true } ∧ (walking [] none).walk 0 0x40000 = .fault 2 ∧
    (match (walking tables (some 0x100000)).walk 0 0x40000 with | .ok _ n => decide (n = 0x120020) | _ => false) = true ∧
    (walking tables (some 0x100000)).memoriesOk = true ∧
    (walking [] (some 0xFFFFFFFFFF0000)).walk 0 0x40000 = .violation ∧
    (∀ s, s = { walking [] none with cores := [(0, { drays := [(0, { running := some { drayCmd 1 with asked := some 4 } })] })] } →
      quarterOf 0 = 0 ∧ ((s.core 0).dray 0).running = some { drayCmd 1 with asked := some 4 }) ∧
    (∀ x : Ctx, x = { st := .resident, asked := some 4, iss := { cause := some .walk } } →
      ({ walking [] none with ctxs := [(0, x)] } : State).walkWaiters 0 { tenant := 0, page := 4, write := true } = [0]) := by
  and_intros
  all_goals first | decide | (rintro _ rfl; decide)

/-- A recording context with one record written and none published, whose head word is at 0x40000. -/
def recorder : State :=
  { onCore { st := .resident, man := { ctl := 0x40000#64, next := 1, published := 0 } } mapped with
    launches := [(0, { recording := true })] }

theorem witness_WalkHeadAndEvictionEvents_head : recorder.recording 0 = true ∧ recorder.me.man.published < recorder.me.man.lowest ∧
    recorder.me.st ≠ .free ∧ (∃ pa nb u, recorder.translateNow 0 0 recorder.me.man.ctl { rd := true, wr := true } = (.ok pa nb, u) ∧
      u.memoriesOk = true) ∧ (∃ u, ({ recorder with cores := [] } : State).translateNow 0 0 recorder.me.man.ctl { rd := true, wr := true } =
        (.fault 3 2, u)) ∧ State.reset.recording 0 = false ∧ recorder.mayTranslate 0 0 recorder.me.man.ctl { rd := true, wr := true } = true ∧
    ({ recorder with cores := [] } : State).mayTranslate 0 0 recorder.me.man.ctl { rd := true, wr := true } = true :=
  ⟨by decide, by decide, by decide, ⟨_, _, _, rfl, by decide⟩, ⟨_, rfl⟩, by decide, by decide, by decide⟩

/-- A deterministic launch past its first interval, with batched adds of one or of two contexts. -/
def batched (n : Nat) : State :=
  { State.reset with
    tick := 256
    launches := [(0, { det := true, t0 := some 0, ie := 8, levels := [n], trips := [n]
                       teams := (List.range n).map fun i => (i, { st := .resident, ctx := 4 * i }) })]
    ctxs := (List.range n).map fun i => (4 * i, { st := .resident, team := i, lsu := [.access { acc (.atomic 0 4 5#64 true) 0x50000 with
      interval := some 0, inBatch := true }] }) }

/-- The state at its close, the batch that it applies, and the operation of a context in it. -/
def atClose (s : State) : State := (s.closesWith 0).foldl (fun s l => s.gatherBatch l (s.launch l).closed) s

def opsAt (s : State) : List BatchOp := (atClose s).batch (s.closesWith 0)

def batchOps (n : Nat) : List BatchOp := opsAt (batched n)

/-- The same with its add at the host window; and with a record that no walk can reach. -/
def hostBatched : State := (batched 1).modCtx 0 fun x =>
  { x with lsu := [.access { acc (.atomic 0 4 5#64 true) 0x1000000000000 with interval := some 0, inBatch := true }] }

def unready : State :=
  { (batched 1).modLaunch 0 (fun l => { l with recording := true }) with
    quarters := [(0, { walks := [{ tenant := 0, page := 0, write := true }] })] }

def batchOp (i : Nat) : BatchOp := ((0, 4 * i), i, { acc (.atomic 0 4 5#64 true) 0x50000 with interval := some 0, inBatch := true })

theorem witness_IntervalCloses : (batched 1).closable 0 = true ∧ ((batched 1).launch 0).t0 = some 0 ∧ (batched 0).closable 0 = true ∧
    ((batched 1).launch 0).replay = false ∧ ({ batched 1 with tick := 255 } : State).closable 0 = false ∧
    batchOps 0 = [] ∧ batchOps 1 = [batchOp 0] ∧ batchOps 2 = [batchOp 0, batchOp 1] ∧ (batched 2).homeError 0x50000 = none ∧
    (batched 2).recording 0 = false ∧ (batched 2).recording 4 = false ∧ (batched 2).memoriesOk = true ∧
    (∀ n, n ∈ [0, 1, 2] → (atClose (batched n)).closeReady ((batched n).closesWith 0) (batchOps n) = true ∧
      (atClose (batched n)).hostUnread 0 (batchOps n) = []) ∧
    (∀ s, s ∈ [batched 2, atClose (batched 1), atClose (batched 2)] → s.rivals none 0x50000 4 4 true = [] ∧
      s.sentOver none 0x50000 4 4 = [] ∧ s.ms.hostBatch = none) := by decide

theorem witness_IntervalCloses_waits : unready.closable 0 = true ∧
    (atClose unready).closeReady (unready.closesWith 0) (opsAt unready) = false ∧ hostBatched.closable 0 = true ∧
    (atClose hostBatched).closeReady (hostBatched.closesWith 0) (opsAt hostBatched) = true ∧
    (atClose hostBatched).hostUnread 0 (opsAt hostBatched) ≠ [] ∧ (atClose hostBatched).ms.hostBatch = none ∧
    (∀ a, a ∈ (atClose hostBatched).hostUnread 0 (opsAt hostBatched) → (atClose hostBatched).hostHeld none a = false) := by decide

/-- A running zeroing, and an `mmul` of one row. -/
def running (kind : MKind) : MCmd := { zeroing with kind := kind, start := some 0 }

theorem witness_MatrixStartsAndFills_lease :
    (let s := engine {}; (s.core 0).lease = none ∧ (s.core 0).scrubEnd ≤ s.cycle ∧ (s.core 0).frozen = false ∧ s.leaseWaiters 0 = []) ∧
    (∃ c, ({ first with ctxs := [(0, { (first.ctx 0) with iss := { (first.ctx 0).iss with cause := some .lease } })] } : State).selectFrom
      (({ first with ctxs := [(0, { (first.ctx 0) with iss := { (first.ctx 0).iss with cause := some .lease } })] } : State).leaseWaiters 0) =
        some c) ∧
    ((engine { lease := some 1 }).core 0).lease ≠ none := by
  refine ⟨by decide, ⟨0, by decide⟩, by decide⟩

/-- A command with a scaled operand that its start has not taken, and a started one. -/
def scaledCmd : MCmd := { running (.mmul mm 0 0x1900#32 none) with buf := { k := 1, n := 1 } }

/-- The first command of an engine that holds its lease. -/
def leased (m : MCmd) : CoreState := { (engine {}).core 0 with lease := some 0, cmds := [m], et := 64 }

/-- An engine in the issue cycle of its lease holder. -/
def active (k : CoreState) : State := onCore { st := .resident, iss := { active := true, kappa := 3 }, acclim := 512 } k

theorem witness_MatrixStartsAndFills_starts :
    (leased scaledCmd).scaleTaker.isSome = true ∧ (leased zeroing).scaleTaker = none ∧ (leased zeroing).nextCmd = some zeroing ∧
    (active (leased zeroing)).startable 0 zeroing = true ∧ (engine (leased zeroing)).startable 0 zeroing = false ∧ zeroing.isMmul = false ∧
    (leased (running (.mzero 0 1 0))).nextCmd = none ∧
    (∀ m, m = { zeroing with kind := .mmul mm 0 0x900#32 none } →
      (leased m).scaleTaker = none ∧ (leased m).nextCmd = some m ∧ (active (leased m)).startable 0 m = true ∧ m.lead = none ∧
        (active (leased m)).shares 0 m.id = [] ∧ (leased m).rowsEnd ≤ (leased m).et) ∧
    (∀ m, m = { zeroing with kind := .mmul mm 0 0x900#32 none, lead := some (1, 0), startAt := 6, g := 6 } →
      (leased m).scaleTaker = none ∧ (leased m).nextCmd = some m ∧ (active (leased m)).startable 0 m = true) := by
  and_intros
  all_goals first | decide | (rintro _ rfl; decide)

theorem witness_MatrixStartsAndFills_fills :
    (∀ f, f = { owner := 0, issueK := 0, idx := [none, some 0] } →
      (active { leased zeroing with cmds := [], gathers := [(1, some f)] }).fillReady 0 true true = some f) ∧
    (∀ f, f = { owner := 0, issueK := 0, k := 1, n := 128 } →
      (active { leased zeroing with cmds := [], loads := [(0, some f)] }).fillReady 0 false false = some f) ∧
    State.reset.fillReady 0 true false = none := by
  refine ⟨?_, ?_, by decide⟩ <;> rintro _ rfl <;> decide

theorem witness_MatrixRowEvents : (∀ kind, kind ∈ [MKind.mzero 511 1 0, .mdrain 511 1 0 0 true 0, .mdrain 511 1 0 11 false 0,
      .mdrainb 0 31 1 0, .mmul mm 0 0x900#32 none] →
      (leased (running kind)).cmd 0 = some (running kind) ∧ (running kind).start = some 0 ∧
        (active (leased (running kind))).engineRuns 0 = true ∧ (running kind).done = 0) ∧
    0 + 20 + 0 ≤ (leased zeroing).et ∧ mm.m.toNat = 1 ∧ (running (.mmul mm 0 0x900#32 none)).lat.poisoned = false ∧
    (running (.mmul mm 0 0x900#32 none)).badFrom = none ∧ (∃ n, ({ zeroing with badFrom := some 0 } : MCmd).badFrom = some n ∧ n ≤ zeroing.done) ∧ ({ poisoned := true } : Latch).poisoned = true ∧
    (active (leased (running (.mzero 0 1 0)))).cmdOver { running (.mzero 0 1 0) with done := 1 } = true ∧
    (leased zeroing).frozen = false ∧ (leased zeroing).cmd 1 = none ∧ (0 < 11 → (11 : Nat) < 3 ∨ 5 < (11 : Nat)) ∧
    (∀ w old, ffind (leased zeroing).accWas 0 = some (w, old) → w ≤ 0) ∧
    (mctxOf mm 0x5020000#64 0x933#32).op.sat = false ∧ [7, 255].length = [3, 128].length ∧
    intOf 8 7 * intOf 8 3 + intOf 8 255 * intOf 8 128 = 149 := by
  and_intros
  all_goals try decide
  intro w old h
  cases h

/-! ## Events of teams and launches -/

/-- An object whose code is at 0x40000. -/
def object : Object :=
  { handle := 1, tenant := 0, bundleVa := 0x40000, bundleLen := 0x1000, litVa := 0, litLen := 0, cwtVa := 0, cwt := [0, 0], entry := 0x20
    loops := [], optab := [], fmtab := [], features := 0, home := [], pages := 0 }

/-- A launch of n teams in Quarter 0, with one bank each. -/
def launching (n : Nat) (cores : Bool) : Launch :=
  { object := 1, qmask := 1, levels := [2], trips := [n], accrows := 32, grant := 1, cores := cores }

/-- It waits to be installed; and the same with no core that can take it. -/
def waitingFor (l : Launch) : State := { State.reset with pf := { objects := [object] }, launches := [(0, l)], launchSeq := 1 }

def full (l : Launch) : State := { waitingFor l with cores := (List.range 54).map fun n => (n, { frozen := true }) }

theorem witness_TeamStarts : State.reset.queueHead 0 = none ∧ (waitingFor (launching 1 false)).queueHead 0 = some (0, 0) ∧
    (waitingFor (launching 1 false)).object 1#64 = some object ∧ ((launching 1 false).team 0).st = .waiting ∧
    (launching 1 false).cores = false ∧ (launching 1 false).gangSize = 1 ∧
    (waitingFor (launching 1 false)).places 0 1 (fun c => (waitingFor (launching 1 false)).hasRoom c ((launching 1 false).room object)) =
      some [0] ∧ coreOf (((waitingFor (launching 1 false)).freeOn 0).headD 0) = 0 ∧
    (full (launching 1 false)).queueHead 0 = some (0, 0) ∧
    (full (launching 1 false)).places 0 1 (fun c => (full (launching 1 false)).hasRoom c ((launching 1 false).room object)) = none ∧
    (∀ s, s = { waitingFor { launching 1 false with recording := true } with
        quarters := [(0, { walks := [{ tenant := 0, page := 0, write := true }] })] } →
      s.queueHead 0 = some (0, 0) ∧ s.schedsReady 0 0 = false) := by
  and_intros
  all_goals try decide
  rintro _ rfl
  decide

theorem witness_TeamStarts_coresident : (waitingFor (launching 2 true)).queueHead 0 = some (0, 0) ∧ (launching 2 true).untouched = true ∧
    (State.installAll 0 object (launching 2 true).units ((waitingFor (launching 2 true)).unclaimed 0)).isSome = true ∧
    (State.installAll 0 object (launching 2 true).units ((full (launching 2 true)).unclaimed 0)).isNone = true ∧ (launching 2 true).claiming = false ∧
    (State.installAll 0 object (launching 2 true).units ((full (launching 2 true)).afterPreemption 0)).isNone = true ∧
    (waitingFor (launching 2 true)).schedsReady 0 0 = true ∧ (full (launching 2 true)).schedsReady 0 0 = true := by decide

theorem witness_TeamStarts_release : (∀ l, l = { launching 1 false with pass := [0], teams := [(0, { st := .resident, ctx := 0 })] } →
    (l.pass.filter fun x => l.quarterOf x = 0) = [0] ∧ ∀ x, x ∈ l.pass → l.quarterOf x ≠ 3) := by
  rintro _ rfl
  decide

/-- A launch of one team, which stands in context 0. -/
def onLaunch (x : Ctx) (l : Launch) : State :=
  { one x with launches := [(0, { l with levels := [2], trips := [1], qmask := 1, teams := [(0, { st := .resident, ctx := 0 })] })] }

theorem witness_TeamEnds_held : (one { st := .held, fault := 0x0304#64 }).me.st = .held ∧
    ((0x0304#64 : Word).extractLsb' 0 8).toNat = 4 ∧ ((0x0214#64 : Word).extractLsb' 8 8).toNat = 2 ∧
    ((0x0902#64 : Word).extractLsb' 0 8).toNat = 2 ∧ State.reset.drayCmds 0 = [] ∧ (State.reset.core 0).frozen = false ∧
    State.reset.me.csize = 0 ∧ State.reset.me.st ≠ .held ∧
    (∃ r, r ∈ (one { st := .held, reports := [{ code := 4, engid := 0, addr := 0 }] }).me.reports ∧ r.code = 4) ∧
    (∀ r, r ∈ State.reset.me.reports → r.code ≠ 4) := by
  and_intros
  all_goals decide

theorem witness_TeamEnds_finish : (onLaunch { st := .resident, iss := { done := true } } {}).finishable 0 = true ∧
    (∀ s, s = { onLaunch { st := .resident, iss := { done := true } } {} with cores := [(0, { lease := some 0 })] } →
      (s.core 0).lease = some 0 ∧ (s.core 0).matrixBusy 0 = false ∧ s.feedsShares 0 = false) ∧
    (one { st := .releasing }).me.st = .releasing ∧ (one { st := .releasing }).me.accesses = [] ∧
    (one { st := .releasing }).ms.sent = [] ∧ (onLaunch { st := .resident } {}).me.skip = 0#6 := by
  refine ⟨by decide, ?_, by decide, by decide, by decide, by decide⟩
  rintro _ rfl
  decide

theorem witness_TeamEnds_launch : ffind State.reset.launches 0 = none ∧
    (onLaunch { st := .resident } {}).contextsIn 0 = [0] ∧ (onLaunch { st := .resident } {}).me.team < ((onLaunch {} {}).launch 0).count ∧
    (waitingFor (launching 1 false)).contextsIn 0 = [] ∧ ((launching 1 false).team 0).over = false ∧
    (∀ l, l = { launching 1 false with teams := [(0, { st := .ended, cause := .killed })] } →
      (∀ i, i < l.count → (l.team i).over = true) ∧ (waitingFor l).underWay 0 = false ∧
        (∀ e, e ∈ l.teams → e.2.cause = .none ∨ e.2.cause = .killed) ∧ ∃ e, e ∈ l.teams ∧ e.2.cause = .killed) ∧
    (∀ l, l = { launching 2 false with teams := [(0, { st := .ended, cause := .violation }), (1, { st := .faulted, cause := .memerr })] } →
      l.violated = false ∧ (∀ i, i < l.count → (l.team i).over = true) ∧ ∃ e, e ∈ l.teams ∧ e.2.cause = .violation) := by
  and_intros
  all_goals first | decide | (rintro _ rfl; decide)

/-- A root and an inner entry: a pointer to 0x110000, and a readable and writable 512 MiB page at 0x20000000. -/
def bigTables : Memory := [(0x100000, 0x01#8), (0x100002, 0x11#8), (0x110000, 0x0F#8), (0x110003, 0x20#8)]

/-- Tenant space 0 with these tables, which owns the first two granules. -/
def spaced (s : State) : State :=
  { s with mem := bigTables, ms := { xlbase := [(0, some 0x100000)], owners := [(0, 0#8), (1, 0#8)] } }

/-- A context that is being saved into an area at 0x40000, and the state once its image is counted. -/
def savingAt (counter : Nat) : State :=
  spaced { onLaunch { st := .saving } { ckpt := 0x40000#64 } with pf := { keys := [(0, { key := some 7, counter := counter })] } }

def saving : State := savingAt 4

def sealed : State := savingAt 5

/-- The 512 MiB page as a walk gives it. -/
def bigPage (va : Nat) : Tlb := { tenant := 0, page := va / granuleSize, big := true, base := 0x20000000, perms := 0x0F#9, dirty := false }

/-- Every page below 512 MiB translates with RD and WR, so no image area there faults. -/
theorem sealed_areaFault : ∀ k va n, va + n ≤ 2 ^ 29 → sealed.areaFault 0 (pagePieces k va n) = none := by
  have h4 : sealed.readEntry 0 0x100000 = .bits 0x110001#64 := by decide
  have h5 : sealed.readEntry 0 0x110000 = .bits 0x2000000F#64 := by decide
  have h7 : fget none sealed.ms.xlbase 0 = some 0x100000 := by decide
  have h8 : entryBase 0x110001#64 = 0x110000 := by decide
  have h9 : entryBase 0x2000000F#64 = 0x20000000 := by decide
  have h10 : sealed.owner 0x20000000 granuleSize = some 0 := by decide
  intro k
  induction k with
  | zero => intro va n _; rfl
  | succ k ih =>
    intro va n h
    unfold pagePieces
    split
    · rfl
    · have h1 : va / 2 ^ 42 % 8192 = 0 := by omega
      have h2 : va / 2 ^ 29 % 8192 = 0 := by omega
      have h3 : ¬ 2 ^ 55 ≤ va := by omega
      have hw : sealed.walk 0 va = .ok (bigPage va) 0x110000 := by
        simp only [State.walk, h3, if_false, h7, h1, h2, Nat.mul_zero, Nat.add_zero, h4, h8, h5, State.leaf, h9]
        rfl
      have hp : permFault (bigPage va).perms { rd := true, wr := true } = none := by show permFault 0x0F#9 _ = none; decide
      have := ih (va + min (0x10000 - va % 0x10000) n) (n - min (0x10000 - va % 0x10000) n) (by omega)
      simp only [State.areaFault, h3, if_false, hw, hp, this]

/-- The bytes of sections are their headers, payloads and padding. -/
theorem plainSections_length (n : Nat) (l : List (Nat × Nat)) :
    (plainSections n l).length = (l.map fun x => 8 + x.2 + padding x.2).sum := by
  induction l with
  | nil => rfl
  | cons x l ih =>
    simp only [plainSections, List.flatMap_cons, List.length_append, List.map_cons, List.sum_cons] at ih ⊢
    rw [ih]
    simp [toBytes, padding]

/-- Launch 1 waits in Quarter 0 for the place of launch 0, whose one team stands in context 0 and every other core is frozen. -/
def contended (l : Launch) (x : Ctx) : State :=
  { State.reset with
    pf := { objects := [object], keys := [(0, { key := some 7, counter := 4 })] }
    ctxs := [(0, { x with st := .resident, acclim := 512 })]
    cores := (List.range 54).map fun n => (n, { logical := some n, frozen := n != 0, bankOwner := [(0, 1)] })
    launches := [(0, { l with levels := [2], trips := [1], qmask := 1, accrows := 512, grant := 1
                              teams := [(0, { st := .resident, ctx := 0 })] }),
      (1, { launching 1 false with tokens := 9, accrows := 512 })] }

/-- The same with a co-resident newcomer; and one that waits for its place already. -/
def coming (claiming : Bool) : State :=
  { contended { killable := true, estimate := 0xFFFFFFFF } {} with
    launches := [(0, { killable := true, estimate := 0xFFFFFFFF, levels := [2], trips := [1], qmask := 1, accrows := 512, grant := 1
                       teams := [(0, { st := .resident, ctx := 0 })] }),
      (1, { launching 1 true with tokens := 9, accrows := 512, claiming := claiming })] }

theorem witness_TeamStarts_claims : (coming false).queueHead 0 = some (1, 0) ∧ (coming true).queueHead 0 = some (1, 0) ∧
    ((coming true).launch 1).claiming = true ∧ ((coming true).launch 1).untouched = true ∧
    (State.installAll 1 object ((coming true).launch 1).units ((coming true).unclaimed 1)).isNone = true ∧
    (State.installAll 1 object ((coming false).launch 1).units ((coming false).unclaimed 1)).isNone = true ∧
    (State.installAll 1 object ((coming false).launch 1).units ((coming false).afterPreemption 1)).isSome = true ∧
    (coming true).schedsReady 1 0 = true ∧ (coming false).schedsReady 1 0 = true := by decide

theorem witness_TeamMoves_preemption :
    (∀ s, s ∈ [contended { killable := true } {}, contended { ckpt := 0x40000#64 } {}, contended { estimate := 0 } {}] →
      s.queueHead 0 = some (1, 0) ∧ s.classHeads 0 = [(1, 0)] ∧ s.freeing 0 = false ∧ s.headBlocked 0 1 0 = true ∧ s.urgentIn 0 1 = false) ∧
    (∀ l, l ∈ [({ killable := true, estimate := 0xFFFFFFFF } : Launch)] → (contended l {}).victim 1 9 0 = some 0 ∧
      (contended l {}).actionOn 0 = some .kill) ∧
    (∀ l, l ∈ [({ ckpt := 0x40000#64, estimate := 0xFFFFFFFF } : Launch)] → (contended l {}).victim 1 9 0 = some 0 ∧
      (contended l {}).actionOn 0 = some .checkpoint ∧
      ((contended l {}).launch 0).residents (((contended l {}).launch 0).actedIn 0) = [0] ∧ (contended l {}).savable 0 = true ∧
      (contended l {}).me.csize = 0 ∧ ∀ s, s = (contended l {}).modCore 0 (fun k => { k with frozen := true }) →
        s.classHeads 0 = [(1, 0)] ∧ s.freeing 0 = false ∧ s.headBlocked 0 1 0 = true ∧ s.victim 1 9 0 = some 0 ∧
        s.actionOn 0 = some .checkpoint ∧ (s.launch 0).residents ((s.launch 0).actedIn 0) = [0] ∧ s.savable 0 = false) ∧
    (∀ l, l ∈ [({ estimate := 0 } : Launch), { estimate := 0, recording := true }] → (contended l {}).victim 1 9 0 = some 0 ∧
      (contended l {}).actionOn 0 = some .drain ∧ ((contended l {}).launch 0).residents [0] = [0] ∧ (contended l {}).schedsReady 0 0 = true ∧
      ((contended l {}).launch 0).cores = false) ∧ (contended { estimate := 0 } {}).recording 0 = false ∧
    (∀ s, s = { contended { estimate := 0, recording := true } {} with
        quarters := [(0, { walks := [{ tenant := 0, page := 0, write := true }] })] } →
      s.classHeads 0 = [(1, 0)] ∧ s.headBlocked 0 1 0 = true ∧ s.victim 1 9 0 = some 0 ∧ s.actionOn 0 = some .drain ∧
        s.schedsReady 0 0 = false) ∧ (contended { tokens := 9 } {}).victim 1 9 0 = none := by
  and_intros
  all_goals try decide
  · simp only [List.mem_singleton, forall_eq]
    decide
  · rintro _ rfl
    decide

/-- The image of the context, of at most a megabyte, before its key is applied. -/
def savingImage : Image := { sealed.capture 0 7 [] with sections := (sealed.capture 0 7 []).table }

theorem savingImage_sections : ∀ i, i < 16 → savingImage.sectionLength (i + 1) ≤ 0x8000 := by
  have f (t n : Nat) : openLength t n ≤ 0x8000 := Nat.le_of_lt (Nat.mod_lt _ (by decide))
  intro i h
  interval_cases i <;> first | exact f _ _ | decide

theorem sealed_imageBytes : (sealed.imageBytes savingImage 7 5 0#64).length ≤ 0x100000 := by
  have h : (plainSections sealed.pf.images.length savingImage.sections).length ≤ 0xC0000 := by
    rw [plainSections_length]
    refine (List.sum_le_card_nsmul _ 0x8010 ?_).trans (by decide)
    intro n hn
    obtain ⟨e, he, rfl⟩ := List.mem_map.mp hn
    obtain ⟨t, ht, rfl⟩ := List.mem_map.mp (show e ∈ ((List.range 16).map (· + 1)).map fun t => (t, savingImage.sectionLength t) from he)
    obtain ⟨i, hi, rfl⟩ := List.mem_map.mp ht
    have := savingImage_sections i (List.mem_range.mp hi)
    have : padding (savingImage.sectionLength (i + 1)) < 8 := Nat.mod_lt _ (by decide)
    show 8 + savingImage.sectionLength (i + 1) + padding (savingImage.sectionLength (i + 1)) ≤ _
    omega
  have hh (x : Ctx) (l : Bool) (n : Nat) (o : Word) : (imageHeader x l 5 n o).length = 64 := rfl
  simp only [State.imageBytes, List.length_append, hh, List.length_map, List.length_zipIdx, List.length_range]
  omega

theorem witness_TeamMoves_saving : (saving.ctx 0).st = .saving ∧ ((saving.ctx 0).reports.find? fun r => r.code = 4) = none ∧
    saving.quiet 0 = true ∧ saving.fillsSettled 0 = true ∧ saving.recording 0 = false ∧
    (fget {} saving.pf.keys 0 : KeySlot).key = some 7 ∧ saving.canSeal 0 = true ∧
    (saving.modPf fun p => { p with keys := fput p.keys 0 { key := some 7, counter := 5 } }) = sealed ∧
    sealed.areaFault 0 (pagePieces 66 ((saving.launch 0).imageAt 0) (sealed.imageBytes savingImage 7 5 0#64).length) = none ∧
    (saving.modCtx 0 fun x => { x with st := .resident }).savable 0 = true ∧ saving.me.csize = 0 ∧
    (saving.modCtx 0 fun x => { x with st := .resident }).gangOf 0 = [0] ∧ State.reset.savable 0 = false := by
  have h : sealed.areaFault 0 (pagePieces 66 ((saving.launch 0).imageAt 0) (sealed.imageBytes savingImage 7 5 0#64).length) = none :=
    sealed_areaFault 66 _ _ (by have := sealed_imageBytes; show 0x40000 + 0 * 0x400000 + _ ≤ 2 ^ 29; omega)
  refine ⟨?_, ?_, ?_, ?_, ?_, ?_, ?_, ?_, h, ?_, ?_, ?_, ?_⟩ <;> decide

/-- A Caravan of two, on context 0 and, as given, on context 4 of the next core. -/
def caravan (x y : Ctx) : State :=
  { spaced { State.reset with
      ctxs := [(0, { x with csize := 2 }), (4, { y with csize := 2, cpos := 1, team := 1 })]
      launches := [(0, { levels := [3], trips := [2], qmask := 1, ckpt := 0x40000#64
                         teams := [(0, { st := .resident, ctx := 0 }), (1, { st := .resident, ctx := 4 })] })] } with
    pf := { keys := [(0, { key := some 7, counter := 4 })] } }

theorem witness_TeamMoves_caravan : (caravan { st := .resident } { st := .resident }).gangOf 0 = [0, 4] ∧
    (caravan { st := .resident } { st := .resident }).savable 0 = true ∧ (caravan { st := .resident } { st := .resident }).savable 4 = true ∧
    (caravan { st := .resident } { st := .frozen }).gangOf 0 = [0, 4] ∧ (caravan { st := .resident } { st := .frozen }).savable 4 = false ∧
    (caravan { st := .resident } { st := .frozen }).savable 0 = true := by decide

theorem witness_TeamEnds_caravan : ((caravan { st := .held } { st := .resident }).gangOf 0).filter (fun d => d != 0) = [4] ∧
    (caravan { st := .held } { st := .resident }).stranded 4 = false ∧ (caravan { st := .held } { st := .frozen }).stranded 4 = true ∧
    (caravan { st := .held } { st := .resident }).drayCmds 4 = [] := by decide

/-- The image of an idle context in bytes that the area at 0x40000 holds, and a launch whose team was saved so. -/
def idleImage : Image :=
  { tenant := 0, key := 7, bytes := imageHeaderBytes ++ List.replicate 16 0#8, ctx := {}, banks := 1, scratch := [], spPoison := [], acc := []
    accPoison := [], words := [], rows := 0, entries := 0, lease := false, lat := [], bbuf := [], gathers := [], loads := [], scales := []
    scalePoison := false, cmds := [], et := 0, slew := [], drays := [] }
where
  imageHeaderBytes : List Byte :=
    toBytes 4 0x474D4943 ++ toBytes 2 1 ++ toBytes 2 0 ++ toBytes 1 0 ++ toBytes 3 0 ++ toBytes 4 0 ++ toBytes 8 5 ++ toBytes 8 80 ++
      List.replicate 32 0#8

def image : Image := { idleImage with sections := idleImage.table }

def saved (key : Option (BitVec 256)) (counter : Nat) : State :=
  { State.reset with
    pf := { images := [image], keys := [(0, { key := key, counter := 5 })], objects := [object] }
    mem := bigTables ++ ((image.bytes.zipIdx.filter fun e => e.1 != 0#8).map fun e => (0x20040000 + e.2, e.1))
    ms := { xlbase := [(0, some 0x100000)], owners := [(0, 0#8), (1, 0#8)] }
    launches := [(0, { launching 1 false with ckpt := 0x40000#64, teams := [(0, { st := .saved, counter := counter })] })] }

/-- What a team's image opens to, from what its area holds. -/
theorem opens (s : State) (im : Image) (key : BitVec 256) (at' n : Nat) (h8 : (s.launch 0).tenant = 0)
    (h9 : (s.launch 0).imageAt 0 = at') (h1 : s.areaRead 0 (pagePieces 2 at' 64) = some (im.bytes.take 64))
    (h4 : headerOk (im.bytes.take 64) 0 = true) (ha : (fget {} s.pf.keys 0 : KeySlot).key = some key)
    (h5 : field (im.bytes.take 64) 24 8 = 80) (h2 : s.areaRead 0 (pagePieces 66 at' 80) = some im.bytes)
    (h3 : s.openBytes key im.bytes = some im) (h7 : im.sections = im.table) (h6 : field (im.bytes.take 64) 16 8 = 5)
    (hb : ((s.launch 0).team 0).counter = n) : s.openTeam 0 0 = if 5 = n then .ok im else .bad 6 := by
  have e : (im.sections != im.table) = false := by
    rw [h7]
    generalize im.table = tb
    exact bne_self_eq_false _
  unfold State.openTeam
  simp only [h8, h9]
  rw [h1]
  simp only [h4, ha, h5, h2, Option.bind_some, Bool.not_true, Bool.false_eq_true, if_false]
  rw [h3]
  simp [e, h6, hb]

/-- The image is the one that the saved bytes open to, for the counter that they hold. -/
theorem saved_opens (n : Nat) (h : n = 4 ∨ n = 5) :
    (saved (some 7) n).savedUnit 0 0 = [(0, if 5 = n then .ok image else .bad 6)] := by
  have hc : (((saved (some 7) n).launch 0).unitOf 0).filter (fun u => (((saved (some 7) n).launch 0).team u).st = .saved) = [0] := by
    obtain rfl | rfl := h <;> decide
  have ho := opens (saved (some 7) n) image 7 0x40000 n rfl rfl (by obtain rfl | rfl := h <;> decide) (by decide) rfl (by decide)
    (by obtain rfl | rfl := h <;> decide) rfl rfl (by decide) rfl
  unfold State.savedUnit
  rw [hc, List.map_cons, List.map_nil, ho]

theorem witness_TeamMoves_return :
    (∀ k n, (k, n) ∈ [(some 7, 5), (some 7, 4), (none, 5)] → (saved k n).queueHead 0 = some (0, 0) ∧
      (((saved k n).launch 0).team 0).st = .saved ∧ (saved k n).unitLeaving 0 0 = false ∧ (saved k n).schedReady 0 0 = true) ∧
    (saved (some 7) 5).savedUnit 0 0 = [(0, .ok image)] ∧ (saved (some 7) 4).savedUnit 0 0 = [(0, .bad 6)] ∧
    (saved none 5).savedUnit 0 0 = [(0, .nokey)] ∧ image.ctx.bars = [] ∧ image.drays = [] ∧ (saved (some 7) 5).memoriesOk = true ∧
    Memory.wf image.scratch = true ∧
    (saved (some 7) 5).places 0 1 (fun core => (saved (some 7) 5).eligible 0 0 image core &&
      ((saved (some 7) 5).unitCores 0 0).all fun o => plazaOf o = plazaOf core && o != core) = some [0] := by
  have h5 := saved_opens 5 (.inr rfl)
  have h4 := saved_opens 4 (.inl rfl)
  rw [if_pos rfl] at h5
  rw [if_neg (by decide)] at h4
  refine ⟨?_, h5, h4, by decide, by decide, by decide, by decide, by decide, by decide⟩
  intro k n h
  simp only [List.mem_cons, Prod.mk.injEq, List.mem_nil_iff, or_false] at h
  obtain ⟨rfl, rfl⟩ | ⟨rfl, rfl⟩ | ⟨rfl, rfl⟩ := h <;> decide

theorem witness_TeamMoves_freeze : (∀ s, s = { onLaunch { st := .frozen } {} with cores := [(0, { freshCore 0 with frozen := true })] } →
      (s.core 0).frozen = true ∧ (s.core 0).retired = false ∧ s.movers 0 = [0] ∧ s.quiet 0 = true ∧ s.recording 0 = false ∧
      s.spareFree 0 = true ∧ (s.ctx 0).bars = [] ∧ (s.launch 0).killing = false ∧ s.schedReady 0 0 = true ∧ s.drayCmds 0 = [] ∧
      ((s.modLaunch 0 fun l => { l with killing := true }).launch 0).killing = true ∧
      ((s.modLaunch 0 fun l => { l with killing := true }).movers 0) = [0] ∧ s.me.csize = 0 ∧ (fget {} s.pf.keys 0 : KeySlot).key = none ∧
      ({ s with cores := s.cores ++ [(spareOf 0, { freshCore 0 with logical := some 1 })] } : State).spareFree 0 = false ∧
      (s.modCtx 0 fun x => { x with far := [0] }).quiet 0 = false) ∧ spareOf 0 ≠ 0 ∧ 215 < 216 ∧
    (State.reset.core 215).frozen = false ∧ (State.reset.core 215).retired = false := by
  refine ⟨?_, by decide, by decide, by decide, by decide⟩
  rintro _ rfl
  decide

/-! ## Memory from outside the cores -/

/-- Granule 0 is tenant 2's, and so are function 0's tenant space and its first window slot. -/
def owned : State :=
  { State.reset with ms := { owners := [(0, 2#8)] }, pf := { fns := [(0, { tenants := [2], winmap := [(0, some 0)] })], boot := 1 } }

theorem witness_OutsideRequests : owned.tenantAt 0xFF0 = some 2 ∧ busFits 0xFF0 (.read 16) = true ∧ busFits 0xFF0 (.read 17) = false ∧
    busFits 0xFF0 (.write 16 5) = true ∧ busFits 0xFF0 (.atomic 8 0#4 5) = true ∧ busFits 0xFF0 (.cas 16 0 5) = true ∧
    linePieces 0xFF0 16 = [(0xFF0, 16)] ∧ owned.overlapFires 2 0xFF0 16 0x20004 16 = false ∧ owned.backed 0xFF0 = true ∧ (∀ l, l ∈ busLines 0xFF0 16 → l ∉ owned.ms.poison) ∧
    owned.memoriesOk = true ∧ owned.tenantAt 0x20000000 = none ∧ region 0xF000000000000 = .registers ∧ region 0 ≠ .registers ∧
    0x3FFFFFF0 < (owned.fn 0).barSize ∧ (owned.fn 0).barSize ≤ 0x40000000 ∧ (owned.fn 0).aborted = false ∧
    fget none (owned.fn 0).winmap (0xFF0 / 0x20000000) = some 0 ∧ fget none (owned.fn 0).winmap (0x20000000 / 0x20000000) = none ∧
    2 ∈ (owned.fn 0).tenants ∧ (∃ l, l ∈ busLines 0xFF0 16 ∧ l ∈ [0xF]) ∧
    ({ owned with pf := { fns := [(0, { aborted := true })] } } : State).tenantAt 0xFF0 = some 2 ∧ 2 ∉ (owned.fn 1).tenants ∧
    (∀ s, s = ({ owned with pf := { owned.pf with peers := [5], domain := 1, peerDomains := [(5, 1)] } } : State) →
      5 ∈ s.pf.peers ∧ fget 0 s.pf.peerDomains 5 = s.pf.domain ∧ s.tenantAt 0xFF0 = some 2 ∧ s.tenantAt 0x20000000 = none) := by
  and_intros
  all_goals try decide
  rintro _ rfl
  decide

theorem witness_ErrorsLinksAndOwnership : region (0x500 * 256) = .hbm ∧ 0x500 ∉ State.reset.ms.poison ∧ (0x500 ∈ ([0x500] : List Nat)) ∧
    (ffind State.reset.pf.cxl 3).isSome = true ∧ ffind State.reset.pf.cxl 4 = none ∧ 63 ∉ State.reset.pf.peers ∧ (0x10#5).toNat ≤ 0x10 ∧ ¬ ((0x11#5).toNat ≤ 0x10 ∨ 0x11#5 = 0x1F#5) ∧
    region (0 * 0x20000000) = .hbm ∧ (owned.granule 0).getLsbD 5 = false ∧
    (({ State.reset with ms := { owners := [(0, 0x22#8)] } } : State).granule 0).getLsbD 5 = true ∧
    State.reset.outstanding 0 0x20000000 = false ∧ (going (.load 8) 0x50000).outstanding 0 0x20000000 = true ∧
    State.reset.windowLegal 0x1000000000000 0x10000 = true ∧ State.reset.windowLegal 0x1000000000000 0x8000 = false ∧
    (∀ w : Window, w = { base := 0x1000000000000, length := 0x10000, owner := 1, zp := true } →
      ([w].find? fun v => v.base = 0x1000000000000 && v.length = 0x10000) = some w ∧
        ({ State.reset with ms := { windows := [w] } } : State).windowLegal 0x1000000000000 0x10000 = true) ∧
    255 < 256 ∧ 27 < 28 ∧ (fget 0x1F#8 State.reset.ms.grants (255 * 28 + 27)).extractLsb' 0 5 = 0x1F#5 := by
  and_intros
  all_goals try decide
  rintro _ rfl
  decide

/-! ## Launch queues and the mailbox -/

/-- Queue 5, bound to tenant 0 with two slots, the first committed with a record that names no object; function 0 is tenant 0's. -/
def queuing (mapped : Bool) (record : List (Nat × Byte)) : State :=
  { State.reset with
    mem := bigTables ++ record
    ms := { xlbase := [(0, some 0x100000)], owners := [(0, 0#8), (1, 0#8)] }
    pf := { boot := 1, objects := [object], fns := [(0, { tenants := [0], accepted := some 0xFF#128 })]
            queues := [(5, { bound := true, ring := 0x200000, lg := 1, mapped := mapped
                             desc := ({ resv := 1, take := 0, free := 1, lg := 1, zero := true, commit := 1 } : Ticket).toBytes })] } }

theorem witness_QueueEvents : (queuing true []).pageLive 0 5 = true ∧ ((queuing true []).fn 0).aborted = false ∧
    ((queuing true []).queue 5).mapped = true ∧ ((queuing false []).queue 5).mapped = false ∧ (queuing true []).pageLive 0 6 = false ∧
    (queuing false []).wantsMapping 5 = true ∧ (queuing true []).wantsMapping 5 = false ∧ ((queuing true []).mappedIn 1).length < 64 ∧
    region 0x200000 = .hbm ∧ (queuing true []).takeable 5 = true ∧ (queuing true []).backed 0x200000 = true ∧
    (∀ l, l ∈ busLines 0x200000 128 → l ∉ (queuing true []).ms.poison) ∧
    (queuing true []).reportWritable { bytes := mread (queuing true []).mem 0x200000 128 } = false ∧ 1 < 2 ^ 1 ∧
    (queuing true [(0x200000, 1#8)]).object ({ bytes := mread (queuing true [(0x200000, 1#8)]).mem 0x200000 128 } : LaunchRecord).object =
      some object ∧
    (∀ l, l = (List.range 64).map (fun n => (4 * n + 1, n)) → l.length = 64 ∧ (1, 0) ∈ l) := by
  and_intros
  all_goals try decide
  rintro _ rfl
  decide

/-- A record that names the object and a report of 64 bytes at 0x40000, for the Quarters of a mask. -/
def record (quarters : Byte) : List (Nat × Byte) :=
  [(0x200000, 1#8), (0x200012, 4#8), (0x200018, 64#8)] ++ if quarters = 0#8 then [] else [(0x20001E, quarters)]

/-- It as the front end reads it. -/
def recordOf (quarters : Byte) : LaunchRecord := { bytes := mread (queuing true (record quarters)).mem 0x200000 128 }

theorem witness_QueueEvents_record : (queuing true (record 0x10#8)).reportWritable (recordOf 0x10#8) = true ∧
    (queuing true (record 0x10#8)).launchStatus (recordOf 0x10#8) 0 = none ∧
    (queuing true (record 0#8)).reportWritable (recordOf 0#8) = true ∧
    (queuing true (record 0#8)).launchStatus (recordOf 0#8) 0 = some 7 := by decide

/-- Function 0 at a command with these arguments, its tenant space 0 and every feature accepted. -/
def command (code : Nat) (args : FMap Word) : State :=
  { queuing true [] with
    pf := { (queuing true []).pf with
      fns := [(0, { cmd := BitVec.ofNat 64 code, st := 1, args := args, tenants := [0], accepted := some 0xFF#128 })] } }

theorem witness_MailboxEvents : (State.reset.fn 0).aborted = false ∧ (State.reset.fn 0).st ≠ 1 ∧ ((command 1 []).fn 0).st = 1 ∧
    (command 1 []).pf.boot = 1 ∧ ((command 1 []).fn 0).outcome = none ∧ ((command 0x13 []).fn 0).code = 0x13 ∧
    ((command 0x14 []).fn 0).code = 0x14 ∧ ((command 0 []).fn 0).code = 0 ∧ 0x30 % 8 = 0 ∧ 0x34 % 8 ≠ 0 ∧
    ({ (command 1 []).fn 0 with outcome := some (1, []) } : HostFn).outcome = some (1, []) := by decide

theorem witness_MailboxCommands_runs : ∀ code, code ∈ [1, 2, 6, 7, 8, 9, 0x0A, 0x0B, 0x0E, 0x0F, 0x10, 0x13] →
    (command code []).pf.boot = 1 ∧ ((command code []).fn 0).st = 1 ∧ ((command code []).fn 0).outcome = none ∧
      ((command code []).fn 0).code = code := by decide

theorem witness_MailboxCommands : ((command 2 []).fn 0).accepted ≠ none ∧ ((0xFF#128 : BitVec 128).getLsbD 4 = true) ∧
    (command 8 [(0, 5#64)]).pageLive 0 5 = true ∧ (command 8 []).pageLive 0 0 = false ∧
    0 ∈ ((command 7 []).fn 0).tenants ∧ 1 ∉ ((command 7 []).fn 0).tenants ∧ 0x1000000000000 < 0xFFFFFFFFFFFF + 49152 ∧
    (command 0x0A []).installed = false ∧
    (onLaunch { st := .resident } {}).installed = true ∧ ((command 0x13 []).fn 0).barSize / 0x20000000 = 2 ∧
    (command 0x13 []).tenantAt 0x20000000 = some 0 ∧ 0x20000000 % 0x20000000 = 0 ∧ 0xF000000000000 < 2 ^ 52 ∧
    (command 0x10 []).memoriesOk = true ∧ ((command 0x10 []).auditFrom 0 5) = [] := by decide

/-- A COLLGRP of a group of two, by a function with these tenant spaces. -/
def grouping (tenants : List Nat) : State :=
  { queuing true [] with
    pf := { (queuing true []).pf with
      fns := [(0, { cmd := 9, st := 1, args := [(0, 1#64), (2, 2#64)], tenants := tenants, accepted := some 0xFF#128 })] } }

/-- Whatever the layout of the table, some function has the tenant spaces that it names, and it lies in the host's memory. -/
theorem witness_MailboxCommands_group : ∃ tenants,
    (∀ m, m ∈ (grouping tenants).membersHere (((grouping tenants).fn 0).arg 1) 2 → m.2 ∈ ((grouping tenants).fn 0).tenants) ∧
      (((grouping tenants).fn 0).arg 1).toNat + 2 * memberBytes ≤ 0x1000000000000 := by
  refine ⟨((grouping []).membersHere 0#64 2).map (·.2), fun m h => ?_, ?_⟩
  · exact List.mem_map.mpr ⟨m, h, rfl⟩
  · have : memberBytes ≤ 256 := Nat.mod_lt _ (by decide)
    show 0 + 2 * memberBytes ≤ 0x1000000000000
    omega

/-- Wherever BAR4 stands, a function with both slots mapped has a ring at host address 0, and one with none has none beyond host
memory. -/
theorem witness_MailboxCommands_ring :
    (∃ n, ({ winmap := [(0, some 0x20000000), (1, some 0x20000000)] } : HostFn).ringAt 0 0#64 = some n) ∧
    (({} : HostFn).ringAt 0 0xFFFFFFFFFFFFFFFF#64 = none) := by
  have h0 : outOfHost 0#64 1 = false := by decide
  have h1 : outOfHost 0xFFFFFFFFFFFFFFFF#64 1 = true := by decide
  constructor <;> simp only [HostFn.ringAt, h0, h1]
  · cases decide (Config.bar4Base 0 ≤ (0#64 : Word).toNat) && decide ((0#64 : Word).toNat < Config.bar4Base 0 + 0x40000000) with
    | true => exact ⟨0x20000000, by simp [fget]⟩
    | false => exact ⟨_, rfl⟩
  · cases decide (Config.bar4Base 0 ≤ (0xFFFFFFFFFFFFFFFF#64 : Word).toNat) &&
      decide ((0xFFFFFFFFFFFFFFFF#64 : Word).toNat < Config.bar4Base 0 + 0x40000000) <;> rfl

theorem witness_CodeAndTenantCommands_runs : ∀ code, code ∈ [3, 4, 5, 0x0C, 0x0D, 0x11, 0x12] →
    (command code []).pf.boot = 1 ∧ ((command code []).fn 0).st = 1 ∧ ((command code []).fn 0).outcome = none ∧
      ((command code []).fn 0).code = code := by decide

theorem witness_CodeAndTenantCommands : (command 4 [(0, 1#64)]).object 1#64 = some object ∧ object.tenant ∈ ((command 4 []).fn 0).tenants ∧
    (command 4 [(0, 1#64)]).launchesOf 1#64 = [] ∧ (command 4 []).object 2#64 = none ∧
    (waitingFor (launching 1 false)).launchesOf 1#64 = [0] ∧ (waitingFor (launching 1 false)).needsObject 0 = true ∧
    (queuing true [(0x200000, 1#8)]).posted 1#64 = true ∧ (command 4 [(0, 1#64)]).posted 1#64 = false ∧
    ({ (command 4 []).fn 0 with removing := [2] } : HostFn).removing = [2] ∧ State.reset.outstanding 0x40000000 0x20000000 = false ∧
    (going (.load 8) 0x50000).outstanding 0 0x20000000 = true ∧
    (saved (some 7) 5).savedImages 0 = true ∧ (going (.load 8) 0x50000).oldAccess 0 0 (2 ^ 55) 1 = true ∧
    State.reset.oldAccess 0 0 (2 ^ 55) 1 = false ∧ State.reset.tenantIdle 0 = true ∧
    (onLaunch { st := .resident } {}).tenantIdle 0 = false ∧ (command 3 []).pf.updating = none ∧
    fget none (command 3 []).ms.xlbase 0 = some 0x100000 := by decide

/-- A code object of one bundle and no loop levels, of 168 bytes. -/
def codeFile : List Byte :=
  toBytes 4 0x004E4843 ++ toBytes 2 1 ++ toBytes 2 1 ++ toBytes 4 2 ++ toBytes 4 64 ++ toBytes 4 0 ++ toBytes 4 0 ++ toBytes 8 0 ++
    toBytes 16 0 ++ toBytes 8 168 ++ toBytes 8 0 ++
    (toBytes 2 1 ++ toBytes 6 0 ++ toBytes 8 128 ++ toBytes 8 32 ++ toBytes 8 0) ++
    (toBytes 2 4 ++ toBytes 6 0 ++ toBytes 8 160 ++ toBytes 8 8 ++ toBytes 8 0) ++ List.replicate 40 0#8

/-- A LOAD of it from host address 0, at 1 GiB of tenant 0's space. -/
def loading : State :=
  { command 3 [(1, 168#64), (5, 0x40000000#64)] with
    mem := bigTables ++ (codeFile.zipIdx.filter fun e => e.1 != 0#8).map fun e => (0x1000000000000 + e.2, e.1) }

theorem witness_CodeAndTenantCommands_load : loading.hostRead 0#64 168 = codeFile ∧ headerGood codeFile 168 = true ∧
    sectionsGood codeFile = true ∧ notesGood codeFile = true ∧ field codeFile 6 2 = 1 ∧ featuresOf codeFile = 0#128 ∧
    headerGood (codeFile.drop 1) 167 = false ∧ loading.memoriesOk = true ∧ 0 ∈ (loading.fn 0).tenants ∧ (loading.fn 0).accepted ≠ none ∧
    (objectOf codeFile 0#64 0 0x40000000 [2]).pages = 1 ∧ loading.vacant 0 0x40000000 1 = true ∧ loading.vacant 0 (2 ^ 55) 1 = false ∧
    (command 3 []).vacant 0 0 1 = false := by decide

theorem witness_CodeAndTenantCommands_place : loading.freeGranules.take 1 = [2] := by
  decide +kernel

theorem witness_CodeAndTenantCommands_object :
    (loading.placeObject (objectOf codeFile loading.nextHandle 0 0x40000000 [2]) codeFile 0x100000).isSome = true ∧
      (loading.placeObject (objectOf codeFile loading.nextHandle 0 0x40000000 [2]) codeFile 0x200000).isSome = true := by
  decide +kernel

/-- Where no page is vacant the loader finds no place. -/
theorem loaderChoice_none (s : State) (tenant : Nat) (h : ∀ va, s.vacant tenant va 1 = false) :
    ∀ fuel page, s.loaderChoice tenant 1 fuel page = none := by
  intro fuel
  induction fuel with
  | zero => intro page; rfl
  | succ n ih => intro page; simp [State.loaderChoice, h, ih]

/-! ## Resets, power, trace; the machine as a whole -/

/-- Which images and changes verify is a value of the device's keys (R343, R346), so that clause's first hypothesis is assumed: the
others hold beside it. -/
theorem witness_ResetAndKeyEvents : region 0x1000000000000 = .host ∧ owned.memoriesOk = true ∧ owned.pf.boot = 1 ∧ State.reset.pf.boot ≠ 1 ∧
    31 < 32 ∧ 15 < 16 ∧ 0xFFFFFFFFF0000 % 0x10000 = 0 ∧ 0xFFFFFFFFF0000 < 2 ^ 52 ∧ fget none owned.ms.xlbase 15 = none ∧
    fget none (command 1 []).ms.xlbase 0 ≠ none := by decide

/-- Quarter 0 with an enabled sink that holds a record of Plaza 0's core 0, in the lossy form or the other. -/
def sinking (lossless : Bool) : State :=
  { State.reset with
    pf := { fns := [(0, { accepted := some 0x80#128 })], gated := [7] }
    ms := { owners := [(3, 0x10#8)] }
    quarters := [(0, { sink := { enabled := true, lossless := lossless, base := 0x60000000, size := 32
                                 buffer := [{ type := 6, slot := 7, ctx := 0, core := 0, delta := 0, addr := 0, payload := 0 }] } })] }

theorem witness_TraceAndPowerEvents : 255 < 256 ∧ 7 ∈ (sinking false).pf.gated ∧ 216 ∉ (sinking false).pf.gated ∧
    ((sinking false).quarter 0).sink.enabled = true ∧ ((sinking true).quarter 0).sink.lossless = true ∧
    (∃ r, r ∈ ((sinking true).quarter 0).sink.buffer ∧ r.core / 8 = 216 - 216) ∧ ((sinking false).quarter 0).sink.needTime = false ∧
    ((sinking false).quarter 0).sink.dropped = 0 ∧ (sinking false).tick < ((sinking false).quarter 0).sink.prev + 2 ^ 32 ∧
    (∃ r, r ∈ ((sinking false).quarter 0).sink.buffer ∧ r.core / 8 = 216 - 216) ∧ 240 % 3 = 0 ∧ 251 < 252 ∧
    (∃ e, e ∈ (sinking false).pf.fns ∧ ∃ v, e.2.accepted = some v ∧ v.getLsbD 7 = true) ∧ 0 < 32 ∧ 32 % 32 = 0 ∧
    (sinking false).owner 0x60000000 32 = some 0x10 ∧ State.reset.owner 0x60000000 32 ≠ some 0x10 ∧ 3 < 4 ∧
    (∀ w : Watchpoint, w = { mode := 1, tenant := 2, bytes := 0x00FF#16, unit := 5 } →
      w.hit 2 0x50 8 State.reset.mem State.reset.mem = true ∧ ({ w with mode := 2 } : Watchpoint).hit 2 0x50 8 [] [(0x57, 1#8)] = true ∧
        ({ w with mode := 2 } : Watchpoint).hit 2 0x50 8 [] [] = false) := by
  refine ⟨?_, ?_, ?_, ?_, ?_, ⟨_, List.mem_singleton.mpr rfl, ?_⟩, ?_, ?_, ?_, ⟨_, List.mem_singleton.mpr rfl, ?_⟩, ?_, ?_,
    ⟨_, List.mem_singleton.mpr rfl, _, rfl, ?_⟩, ?_, ?_, ?_, ?_, ?_, ?_⟩
  all_goals first | decide | (rintro _ rfl; decide)

/-- How many records a sink holds is the device's; one with a record more is full, an empty one is not. -/
theorem witness_TraceAndPowerEvents_full (r : TraceRec) : ({ buffer := List.replicate (Config.sinkBuffer + 1) r } : Sink).full = true ∧
    ({} : Sink).full = false := by
  simp [Sink.full]

theorem witness_StepRunsDecoded : first.Offers 0 ∧ (first.taken 0).Fetches (tableBundle 32 0x0018A501) ∧
    (first.taken 0).decode (tableBundle 32 0x0018A501) = .ok [(0, .add 10#5 10#5 12#5 0#5)] ∧
    (∃ x, exec (.add 10#5 10#5 12#5 0#5) (first.taken 0) = .next x ∧ x.me.iss.cause = none) := by
  refine ⟨?_, ?_, by decide, ⟨_, rfl, by decide⟩⟩
  · unfold State.Offers; decide
  · unfold State.Fetches
    and_intros
    all_goals try decide
    exact ⟨_, rfl, by decide⟩

theorem witness_StepRunsDecoded_stalls : (first.taken 0).decode (tableBundle 32 0x0000005A) = .error (0, 1) ∧
    (∃ x, exec (.wait 1#5 1#8 true) ((first.modCtx 0 fun x => { x with tokens := [(0, { st := 1 })] }).taken 0) = .next x ∧
      x.me.iss.cause = some .token) ∧
    (tableBundle 32 0x0018A501).getLsbD 14 = false ∧ (first.ctx 0).entry = none ∧ (first.modCtx 0 fun x => { x with entry := some {} }).me.entry ≠ none ∧
    (first.ctx 0).jump = none ∧ ((first.ctx 0).r.loopEnd (first.ctx 0).pc [3, 2, 1, 0]).2 = none ∧
    ({ State.reset with agenda := [.tick] } : State).agenda = .tick :: [] ∧
      ({ State.reset with agenda := [.tick] } : State).dueNow = none := by
  and_intros
  all_goals try decide
  exact ⟨_, rfl, by decide⟩

theorem witness_OnlyTheBootStops : ({ State.reset with pf := { boot := 2 } } : State).agenda = [] ∧
    ({ State.reset with pf := { boot := 2 } } : State).pf.boot = 2 ∧ State.reset.pf.boot ≠ 2 := by decide

theorem witness_IllFormedFieldsAreRefused : (Instr.lim 0#5 0#15).wellFormed = true ∧ (Instr.pand 24#5 0#5 0#5 0#5).wellFormed = false ∧
    (Decode.encode (.pand 24#5 0#5 0#5 0#5)).isSome = true := by decide

theorem witness_DecodeReadsEncoding : (Instr.add 31#5 31#5 31#5 23#5).wellFormed = true ∧
    (Decode.encode (.add 31#5 31#5 31#5 23#5)).isSome = true ∧ (Decode.encode (.bundleReoffer 0)).isSome = false := by decide

theorem witness_StepKeepsMemoriesCanonical : first.memoriesOk = true ∧ (after (step first) fun _ => ()) = some () := by decide

/-! ## Ill-formed fields (R99, R100, R105, R213–R226, R247, R302, R306) -/

theorem test_illformed_scalar : (Instr.add 1#5 2#5 3#5 24#5).wellFormed = false ∧ (Instr.pand 24#5 0#5 0#5 0#5).wellFormed = false ∧
    (Instr.loop 0#2 0#8 1#5 0#5 false).wellFormed = false ∧ (Instr.bara 1#5 0#6 6#3).wellFormed = false ∧
    (Instr.span 1#5 2#5 4#3 false).wellFormed = false ∧ (Instr.tclr 24#5 1#3 0#9).wellFormed = false ∧
    (Instr.tclr 1#5 2#3 0#9).wellFormed = false ∧ (Instr.tmask 1#5 0#5 5#3 false).wellFormed = false ∧
    (Instr.tmask 1#5 0#5 0#3 true).wellFormed = false ∧ (Instr.getsr 1#5 26#5).wellFormed = false ∧
    (Instr.setsr 1#5 0#5).wellFormed = false ∧ (Instr.tblw 1#5 1#4 7#9).wellFormed = false ∧
    (Instr.tblr 1#5 2#4 0#9).wellFormed = false ∧ (Instr.xget 1#5 0#6 1#5 1#2).wellFormed = false := by decide

theorem test_illformed_vector : (Instr.vmov .v0 0#6 4#6 1#2 0#5 false).wellFormed = false ∧
    (Instr.vmov .v0 0#6 2#6 2#2 0#5 false).wellFormed = false ∧ (Instr.vmov .v0 0#6 32#6 3#2 0#5 false).wellFormed = false ∧
    (Instr.vmov .v0 0#6 0#6 1#2 0#5 true).wellFormed = false ∧ (Instr.anc .v1 12#4 0#6 0#2).wellFormed = false ∧
    (Instr.vzero .v0 0#6 24#5).wellFormed = false ∧ (Instr.vectorCascade .v0 { cascade with cwi := 504#9 }).wellFormed = false := by
  decide

theorem test_illformed_matrix : (Instr.mmul { mm with m := 97#7 }).wellFormed = false ∧ (Instr.mmul { mm with mode := 2#2 }).wellFormed = false ∧
    (Instr.mwld false 1#5 0#7 0#7 0#4).wellFormed = false ∧ (Instr.mdrain 0#9 1#7 0#5 3#4 false).wellFormed = false ∧
    (Instr.mdrainb 0#9 0#6 12#4).wellFormed = false := by decide

theorem test_illformed_copy : (Instr.ldb .c0 0#2 0#8 1#5 0#6).wellFormed = false ∧ (Instr.ldx .c0 2#2 3#2 1#5 0#6 0#6).wellFormed = false ∧
    (Instr.ldq .c0 0#4 9#4 0#8 1#5 2#5).wellFormed = false ∧ (Instr.atom .c0 0#4 8#4 0#3 false false 1#2 1#4 1#5 2#5).wellFormed = false ∧
    (Instr.atom .c0 0#4 8#4 0#3 false false 0#2 11#4 1#5 2#5).wellFormed = false ∧
    (Instr.atomr .c0 0#4 8#4 0#3 false false 0#2 12#4 1#5 2#5).wellFormed = false ∧
    (Instr.atom .c0 0#4 8#4 1#3 false false 0#2 0#4 1#5 2#5).wellFormed = false ∧
    (Instr.cas .c0 0#4 8#4 0#3 false false 2#2 1#5 29#5).wellFormed = false ∧
    (Instr.atomv .c0 0#4 8#4 0#2 1#4 1#5 0#6).wellFormed = false ∧ (Instr.xcp .c0 0#3 1#3 false false 0#5).wellFormed = false ∧
    (Instr.xcp .c0 0#3 0#3 false false 29#5).wellFormed = false := by decide

/-- A table row's word that is no instruction raises illegal bundle (R226). -/
theorem test_illegal_bundle : (after (step (State.reset.withFetchWord 32 0x5A)) fun t => (t.ctx 0).fault) = some 0x102#64 := by decide

/-! ## Single steps, the scalar slot: results from R207, R229–R253 -/

/-- s3 after an instruction that reads s1 and s2. -/
def s3 (i : Instr) (a b : Word) : Option Word := after (exec i (one { r := regs a b })) fun t => t.me.r.sreg 3#5

/-- p3 after one that reads s1 and s2. -/
def p3 (i : Instr) (a b : Word) : Option Pred := after (exec i (one { r := regs a b })) fun t => t.me.r.preg 3#5

/-- `fault` after an instruction. -/
def faultOf (i : Instr) (s : State) : Option Word := after (exec i s) fun t => t.me.fault

theorem test_add_wraps : s3 (.add 3#5 1#5 2#5 0#5) 0xFFFFFFFFFFFFFFFF#64 2#64 = some 1#64 := by decide
theorem test_add_guarded : s3 (.add 3#5 1#5 2#5 1#5) 1#64 2#64 = some 0#64 := by decide
theorem test_mulh_signs : s3 (.mulh 3#5 1#5 2#5 0#5) 0xFFFFFFFFFFFFFFFF#64 2#64 = some 0xFFFFFFFFFFFFFFFF#64 := by decide
theorem test_mulhu_signs : s3 (.mulhu 3#5 1#5 2#5 0#5) 0xFFFFFFFFFFFFFFFF#64 2#64 = some 1#64 := by decide
theorem test_div_truncates : s3 (.div 3#5 1#5 2#5 0#5) 0xFFFFFFFFFFFFFFF9#64 2#64 = some 0xFFFFFFFFFFFFFFFD#64 := by decide
theorem test_rem_truncates : s3 (.rem 3#5 1#5 2#5 0#5) 0xFFFFFFFFFFFFFFF9#64 2#64 = some 0xFFFFFFFFFFFFFFFF#64 := by decide
theorem test_divu_zero : s3 (.divu 3#5 1#5 2#5 0#5) 7#64 0#64 = some 0#64 ∧ s3 (.remu 3#5 1#5 2#5 0#5) 7#64 0#64 = some 7#64 := by decide
theorem test_div_wraps : s3 (.div 3#5 1#5 2#5 0#5) 0x8000000000000000#64 0xFFFFFFFFFFFFFFFF#64 = some 0x8000000000000000#64 := by decide
theorem test_div_zero_records : (after (exec (.div 3#5 1#5 2#5 0#5) (one { r := regs 7#64 0#64, pc := 0x40#64 })) fun t =>
    (fget 0#64 t.me.r.xrec 0).extractLsb' 14 50) = some 2#50 := by decide
theorem test_shift_uses_six_bits : s3 (.shl 3#5 1#5 2#5 0#5) 1#64 65#64 = some 2#64 := by decide
theorem test_sra_signs : s3 (.sra 3#5 1#5 2#5 0#5) 0x8000000000000000#64 63#64 = some 0xFFFFFFFFFFFFFFFF#64 := by decide
theorem test_min_signs : s3 (.min 3#5 1#5 2#5 0#5) 0xFFFFFFFFFFFFFFFF#64 1#64 = some 0xFFFFFFFFFFFFFFFF#64 ∧
    s3 (.minu 3#5 1#5 2#5 0#5) 0xFFFFFFFFFFFFFFFF#64 1#64 = some 1#64 := by decide
theorem test_sel_false : s3 (.sel 3#5 1#5 2#5 0#5 1#5) 7#64 9#64 = some 9#64 := by decide
theorem test_clz_zero : s3 (.clz 3#5 1#5 0#5) 0#64 0#64 = some 64#64 ∧ s3 (.ctz 3#5 1#5 0#5) 8#64 0#64 = some 3#64 := by decide
theorem test_addi_negative : s3 (.addi 3#5 1#5 0x7FFF#15) 5#64 0#64 = some 4#64 := by decide

/-- The constant that "Scalar slot instructions" builds: 0x8000 with 0x100 below it (R231). -/
theorem test_lims_builds : s3 (.lims 3#5 1#5 0x100#15) 0x8000#64 0#64 = some 0x40000100#64 := by decide
theorem test_lim_negative : s3 (.lim 3#5 0x4000#15) 0#64 0#64 = some 0xFFFFFFFFFFFFC000#64 := by decide
theorem test_s0_discards : (after (exec (.add 0#5 1#5 2#5 0#5) (one { r := regs 1#64 2#64 })) fun t => t.me.r.sreg 0#5) = some 0#64 := by
  decide
theorem test_cmp_signs : p3 (.cmpLt 3#5 1#5 2#5 0#5) 0xFFFFFFFFFFFFFFFF#64 1#64 = some 0xFFFFFFFF#32 ∧
    p3 (.cmpLtu 3#5 1#5 2#5 0#5) 0xFFFFFFFFFFFFFFFF#64 1#64 = some 0#32 := by decide
theorem test_cmpi_signs : p3 (.cmpiLtu 3#5 1#5 0x7FFF#15) 5#64 0#64 = some 0xFFFFFFFF#32 := by decide
theorem test_pnot_p0 : p3 (.pnot 3#5 0#5 0#5) 0#64 0#64 = some 0#32 := by decide
theorem test_branch_target : (after (exec (.br 0#5 7#5 0x7FFF#15) (one { pc := 0x80#64 })) fun t => t.me.jump) = some (some (0x60#64, 7)) := by
  decide
theorem test_jump_misaligned : faultOf (.jmp 1#5 0#5) (one { r := regs 33#64 0#64 }) = some 5#64 := by decide
theorem test_loop_zero_trips : (after (exec (.loop 0#2 2#8 1#5 0#5 false) (one { pc := 0x80#64 })) fun t => t.me.jump) =
    some (some (0xE0#64, 0)) := by decide
theorem test_wait_result : (after (exec (.wait 3#5 0x06#8 true) (one { tokens := [(2, { st := 2, status := 2 })] })) fun t =>
    t.me.r.sreg 3#5) = some 0x40004#64 := by decide
theorem test_wait_error : faultOf (.wait 3#5 0x08#8 true) waiting = some (engineFaultWord 0x0E 2 0 {} 3) := by decide
theorem test_setsr_tenant : faultOf (.setsr 1#5 2#5) (one {}) = some 4#64 := by decide
theorem test_trap_detail : faultOf (.trap 0x2A#8) (one {}) = some 0x2A10#64 ∧ faultOf (.brkpt 0xFF#8) (one {}) = some 0xFF0F#64 := by decide
theorem test_getsr_phase : (after (exec (.getsr 3#5 0#5) { one {} with cycle := 37 }) fun t => t.me.r.sreg 3#5) = some 5#64 := by decide
theorem test_xget_lane : (after (exec (.xget 3#5 24#6 31#5 0#2) (one { r := { b := [(24, BitVec.ofNat 1024 (5 * 2 ^ 992))] } })) fun t =>
    t.me.r.sreg 3#5) = some 5#64 := by decide
theorem test_qpop_pops : (after (exec (.qpop 3#5 false 1#4) (queued { acc := 0, filled := true, data := BitVec.ofNat 1024 (9 * 2 ^ 64) })) fun t =>
    (t.me.r.sreg 3#5, t.me.q0)) = some (9#64, []) := by decide

/-! ## Vector elements (R192–R206, R263) and matrix outputs (R288) -/

/-- Round to nearest even, denormals kept, and saturation as given (R217, R245). -/
def modes (sat : Bool) : Modes := { rm := 0, daz := false, ftz := false, sat := sat }

theorem test_f32_add : (elemOp .f32 (modes false) 0x01 0x3F800000 0x40000000 0).1 = 0x40400000 := by decide
theorem test_i8_clips : elemOp .i8 (modes true) 0x01 100 100 0 = (127, Flag.ovf) := by decide
theorem test_i8_wraps : elemOp .i8 (modes false) 0x01 100 100 0 = (200, Flag.none) := by decide
theorem test_bf16_mul : (elemOp .bf16 (modes false) 0x03 0x4000 0x4040 0).1 = 0x40C0 := by decide

/-- Not less, and not equal, where an operand is no number (R262). -/
theorem test_f32_compares_nan : (elemOp .f32 (modes false) 0x11 0xFF800000 0x7FC00000 0).1 = 0 ∧
    (elemOp .f32 (modes false) 0x12 0x7FC00000 0x7F800000 0).1 = 0 ∧ (elemOp .f32 (modes false) 0x11 0xFF800000 0x7F800000 0).1 = 0xFFFFFFFF := by
  decide

/-- Minus zero lies below zero for `min` and equals it for a compare; one NaN gives the other operand (R262). -/
theorem test_f16_order : (elemOp .f16 (modes false) 0x06 0x0000 0x8000 0).1 = 0x8000 ∧ (elemOp .f16 (modes false) 0x10 0x8000 0 0).1 = 0xFFFF ∧
    (elemOp .f16 (modes false) 0x07 0x7E01 0xBC00 0).1 = 0xBC00 := by decide

/-- A running sum in groups of two over eight lanes, and what a rotation by one leaves (R268, R269). -/
theorem test_scan_and_rotation :
    let w := splitWord (BitVec.ofNat 256 (2 ^ 192 + 2 ^ 120))
    let run (op : Nat) : List Nat := elems 256 32 (runStage w (modes false) 0#32 { op := op, sa := 0, sb := 0, sc := 0 } .i32
      (packElems 32 [1, 2, 3, 4, 5, 6, 7, 8]) 0 0).1
    run 0x36 = [1, 3, 3, 7, 5, 11, 7, 15] ∧ run 0x31 = [8, 1, 2, 3, 4, 5, 6, 7] := by decide

/-- The digest of no bytes, from the definition of SHAKE256 (R117). -/
theorem test_shake256_empty : shake256 [] = 0x2f76d56e64270cb5821bb862ea52cd3f24eb3e74eb3f3b23138da80b2bddb946#256 := by decide +kernel

/-! ## The copy slots and the homes -/

theorem test_stores_place : (after (exec (.sts .c0 1#8 0#5 1#5) (banks { r := regs 0x0102#64 0#64 } {})) fun t =>
    t.me.pend.map (·.act)) = some [.spWrite [(8, [2#8, 1#8, 0#8, 0#8, 0#8, 0#8, 0#8, 0#8])]] := by decide
theorem test_scratch_unowned : faultOf (.lds .c0 0#8 1#5 3#5) (banks { r := regs 0x10000#64 0#64 } {}) = some (faultWord 9 0 4) := by decide
theorem test_load_misaligned : faultOf (.ldq .c1 0#4 8#4 0#8 1#5 0#5) (onCore { r := regs 0x40004#64 0#64 } mapped) =
    some (faultWord 5 0 5) := by decide
theorem test_atomic_add_wraps : atomicNew 0 4 0xFFFFFFFF 2 = 1 := by decide
theorem test_atomic_min_signs : atomicNew 2 8 1 0xFFFFFFFFFFFFFFFF = 0xFFFFFFFFFFFFFFFF ∧ atomicNew 3 8 1 0xFFFFFFFFFFFFFFFF = 1 := by decide

/-- The row that a store performs holds its bytes, low first (R67). -/
theorem test_store_performs : (after (exec (.globalStorePerforms 0 3) (going (.store [7#8, 9#8]) 0x50000)) fun t =>
    (mget t.mem 0x50000, mget t.mem 0x50001)) = some (7#8, 9#8) := by decide

/-! ## Launches: the worked example of R137–R139 -/

/-- Its trip counts 2, 3, 4 and 10 over Q, C, V and T, in Quarters 0 and 2. -/
def worked : Launch := { levels := [1, 2, 3, 4, 0, 0], trips := [2, 3, 4, 10, 0, 0], qmask := 0b0101 }

theorem test_team_identifiers : worked.count = 24 ∧ indicesOf worked.spatial 23 = [1, 2, 3] ∧ worked.quarterOf 23 = 2 ∧
    worked.gangSize = 4 ∧ worked.temporal = [10] ∧ worked.unitOf 23 = [20, 21, 22, 23] ∧ (worked.teamsIn 0).length = 12 := by decide

/-! ## The step (log entry 1) -/

theorem test_step_runs_add : (after (step first) fun t => ((t.ctx 0).pc, (t.ctx 0).bundles)) = some ((first.ctx 0).pc + 32#64, 1) := by decide

/-! ## Words written out from the encoding tables (R208–R224) -/

theorem test_decode_scalar_arithmetic :
    Decode.decodeSlot 0 0#4 0x00000000 = .ok (.nop) ∧
    Decode.decodeSlot 0 0#4 0x017F1181 = .ok (.add 3#5 17#5 31#5 5#5) ∧
    Decode.decodeSlot 0 0#4 0x01BD2202 = .ok (.sub 4#5 18#5 30#5 6#5) ∧
    Decode.decodeSlot 0 0#4 0x01FB3283 = .ok (.mul 5#5 19#5 29#5 7#5) ∧
    Decode.decodeSlot 0 0#4 0x02394304 = .ok (.mulh 6#5 20#5 28#5 8#5) ∧
    Decode.decodeSlot 0 0#4 0x02775385 = .ok (.mulhu 7#5 21#5 27#5 9#5) ∧
    Decode.decodeSlot 0 0#4 0x02B56406 = .ok (.div 8#5 22#5 26#5 10#5) ∧
    Decode.decodeSlot 0 0#4 0x02F37487 = .ok (.divu 9#5 23#5 25#5 11#5) ∧
    Decode.decodeSlot 0 0#4 0x03318508 = .ok (.rem 10#5 24#5 24#5 12#5) ∧
    Decode.decodeSlot 0 0#4 0x036F9589 = .ok (.remu 11#5 25#5 23#5 13#5) := by decide

theorem test_decode_scalar_logic :
    Decode.decodeSlot 0 0#4 0x03ADA60A = .ok (.and 12#5 26#5 22#5 14#5) ∧
    Decode.decodeSlot 0 0#4 0x03EBB68B = .ok (.or 13#5 27#5 21#5 15#5) ∧
    Decode.decodeSlot 0 0#4 0x0429C70C = .ok (.xor 14#5 28#5 20#5 16#5) ∧
    Decode.decodeSlot 0 0#4 0x0467D78D = .ok (.shl 15#5 29#5 19#5 17#5) ∧
    Decode.decodeSlot 0 0#4 0x04A5E80E = .ok (.shr 16#5 30#5 18#5 18#5) ∧
    Decode.decodeSlot 0 0#4 0x04E3F88F = .ok (.sra 17#5 31#5 17#5 19#5) ∧
    Decode.decodeSlot 0 0#4 0x05200910 = .ok (.min 18#5 0#5 16#5 20#5) ∧
    Decode.decodeSlot 0 0#4 0x055E1991 = .ok (.minu 19#5 1#5 15#5 21#5) ∧
    Decode.decodeSlot 0 0#4 0x059C2A12 = .ok (.max 20#5 2#5 14#5 22#5) ∧
    Decode.decodeSlot 0 0#4 0x05DA3A93 = .ok (.maxu 21#5 3#5 13#5 23#5) := by decide

theorem test_decode_scalar_select :
    Decode.decodeSlot 0 0#4 0x4DC5E094 = .ok (.sel 1#5 30#5 2#5 23#5 9#5) ∧
    Decode.decodeSlot 0 0#4 0x05C04A95 = .ok (.clz 21#5 4#5 23#5) ∧
    Decode.decodeSlot 0 0#4 0x05C04B16 = .ok (.ctz 22#5 4#5 23#5) ∧
    Decode.decodeSlot 0 0#4 0x05C04B97 = .ok (.popc 23#5 4#5 23#5) := by decide

theorem test_decode_scalar_immediate :
    Decode.decodeSlot 0 0#4 0x800364A0 = .ok (.addi 9#5 22#5 0x4001#15) ∧
    Decode.decodeSlot 0 0#4 0x800364A1 = .ok (.andi 9#5 22#5 0x4001#15) ∧
    Decode.decodeSlot 0 0#4 0x800364A2 = .ok (.ori 9#5 22#5 0x4001#15) ∧
    Decode.decodeSlot 0 0#4 0x800364A3 = .ok (.xori 9#5 22#5 0x4001#15) ∧
    Decode.decodeSlot 0 0#4 0x800364A8 = .ok (.lims 9#5 22#5 0x4001#15) ∧
    Decode.decodeSlot 0 0#4 0x007F64A4 = .ok (.shli 9#5 22#5 63#6) ∧
    Decode.decodeSlot 0 0#4 0x007F64A5 = .ok (.shri 9#5 22#5 63#6) ∧
    Decode.decodeSlot 0 0#4 0x007F64A6 = .ok (.srai 9#5 22#5 63#6) ∧
    Decode.decodeSlot 0 0#4 0x800204A7 = .ok (.lim 9#5 0x4001#15) := by decide

theorem test_decode_compare :
    Decode.decodeSlot 0 0#4 0x007DDBB0 = .ok (.cmpEq 23#5 29#5 30#5 1#5) ∧
    Decode.decodeSlot 0 0#4 0x007BDB31 = .ok (.cmpNe 22#5 29#5 29#5 1#5) ∧
    Decode.decodeSlot 0 0#4 0x0079DAB2 = .ok (.cmpLt 21#5 29#5 28#5 1#5) ∧
    Decode.decodeSlot 0 0#4 0x0077DA33 = .ok (.cmpLtu 20#5 29#5 27#5 1#5) ∧
    Decode.decodeSlot 0 0#4 0x0075D9B4 = .ok (.cmpLe 19#5 29#5 26#5 1#5) ∧
    Decode.decodeSlot 0 0#4 0x0073D935 = .ok (.cmpLeu 18#5 29#5 25#5 1#5) ∧
    Decode.decodeSlot 0 0#4 0xFFFFFBB6 = .ok (.cmpiEq 23#5 31#5 0x7FFF#15) ∧
    Decode.decodeSlot 0 0#4 0xFFFFFBB7 = .ok (.cmpiLt 23#5 31#5 0x7FFF#15) ∧
    Decode.decodeSlot 0 0#4 0xFFFFFBB8 = .ok (.cmpiLtu 23#5 31#5 0x7FFF#15) := by decide

theorem test_decode_predicate :
    Decode.decodeSlot 0 0#4 0x05C620B9 = .ok (.pand 1#5 2#5 3#5 23#5) ∧
    Decode.decodeSlot 0 0#4 0x05C620BA = .ok (.por 1#5 2#5 3#5 23#5) ∧
    Decode.decodeSlot 0 0#4 0x05C620BB = .ok (.pxor 1#5 2#5 3#5 23#5) ∧
    Decode.decodeSlot 0 0#4 0x05C620BC = .ok (.pandn 1#5 2#5 3#5 23#5) ∧
    Decode.decodeSlot 0 0#4 0x01C1723D = .ok (.pnot 4#5 23#5 7#5) ∧
    Decode.decodeSlot 0 0#4 0x01C17FBE = .ok (.pget 31#5 23#5 7#5) ∧
    Decode.decodeSlot 0 0#4 0x01C1F23F = .ok (.pset 4#5 31#5 7#5) := by decide

theorem test_decode_transfer :
    Decode.decodeSlot 0 0#4 0xFFF5F1C0 = .ok (.br 3#5 31#5 0x7FFA#15) ∧
    Decode.decodeSlot 0 0#4 0xFFF5F1C1 = .ok (.brn 3#5 31#5 0x7FFA#15) ∧
    Decode.decodeSlot 0 0#4 0x7FFFF042 = .ok (.call 31#5 0x3FFF#15) ∧
    Decode.decodeSlot 0 0#4 0x003F1043 = .ok (.jmp 17#5 31#5) ∧
    Decode.decodeSlot 0 0#4 0x003E0044 = .ok (.ret 31#5) ∧
    Decode.decodeSlot 0 0#4 0x0FE9FF45 = .ok (.loop 2#2 255#8 20#5 31#5 true) ∧
    Decode.decodeSlot 0 0#4 0x003D7046 = .ok (.lbrk 23#5 30#5) ∧
    Decode.decodeSlot 0 0#4 0x000035C7 = .ok (.lidx 11#5 3#2) := by decide

theorem test_decode_wait_and_span :
    Decode.decodeSlot 0 0#4 0x030202C8 = .ok (.wait 5#5 0x81#8 true) ∧
    Decode.decodeSlot 0 0#4 0x01E09049 = .ok (.bara 9#5 48#6 3#3) ∧
    Decode.decodeSlot 0 0#4 0x007E004A = .ok (.barw 63#6) ∧
    Decode.decodeSlot 0 0#4 0x0010B54B = .ok (.span 10#5 11#5 0#3 true) ∧
    Decode.decodeSlot 0 0#4 0x0006064B = .ok (.span 12#5 0#5 3#3 false) ∧
    Decode.decodeSlot 0 0#4 0x1FF0904C = .ok (.tclr 9#5 0#3 0x1FF#9) ∧
    Decode.decodeSlot 0 0#4 0x0016764D = .ok (.tmask 12#5 7#5 3#3 true) := by decide

theorem test_decode_scalar_system :
    Decode.decodeSlot 0 0#4 0x01FE004E = .ok (.slack 255#8) ∧
    Decode.decodeSlot 0 0#4 0x0000004F = .ok (.yield) ∧
    Decode.decodeSlot 0 0#4 0x00320350 = .ok (.getsr 6#5 25#5) ∧
    Decode.decodeSlot 0 0#4 0x00246051 = .ok (.setsr 6#5 18#5) ∧
    Decode.decodeSlot 0 0#4 0x014A0052 = .ok (.trap 0xA5#8) ∧
    Decode.decodeSlot 0 0#4 0x014A0053 = .ok (.brkpt 0xA5#8) ∧
    Decode.decodeSlot 0 0#4 0x00000054 = .ok (.done) ∧
    Decode.decodeSlot 0 0#4 0x00008055 = .ok (.mark 8#5) ∧
    Decode.decodeSlot 0 0#4 0x00000456 = .ok (.rdtime 8#5) ∧
    Decode.decodeSlot 0 0#4 0x01025057 = .ok (.tblw 5#5 1#4 8#9) ∧
    Decode.decodeSlot 0 0#4 0x01E002D8 = .ok (.tblr 5#5 0#4 15#9) ∧
    Decode.decodeSlot 0 0#4 0x003E04D9 = .ok (.qpop 9#5 true 15#4) ∧
    Decode.decodeSlot 0 0#4 0x000C74E0 = .ok (.xget 9#5 7#6 3#5 0#2) ∧
    Decode.decodeSlot 0 0#4 0x00FA74E1 = .ok (.xput 9#5 39#6 30#5 1#2) := by decide

theorem test_decode_vector :
    Decode.decodeSlot 1 0#4 0x9BF2F82143F7 = .ok (.vectorCascade .v0 ⟨503#9, 33#6, 2#6, 1#6, 31#6, 1#2, 2#2, 3#2, 23#5, true, false, false, true⟩) ∧
    Decode.decodeSlot 2 0#4 0x2284000099F8 = .ok (.vmov .v1 12#6 1#6 2#2 5#5 true) ∧
    Decode.decodeSlot 1 0#4 0x0006000F93F9 = .ok (.anc .v0 9#4 31#6 3#2) ∧
    Decode.decodeSlot 2 0#4 0x0080000051FA = .ok (.vzero .v1 40#6 1#5) ∧
    Decode.decodeSlot 1 0#4 0x000000000BFB = .ok (.vtclr .v0 5#6) := by decide

theorem test_decode_matrix :
    Decode.decodeSlot 3 0#4 0x000000000000 = .ok (.mnop) ∧
    Decode.decodeSlot 3 0#4 0x0FFBC1FF6301 = .ok (.mmul ⟨8#4, 17#5, true, false, 511#9, 96#7, true, 1#2, 7#3, 63#6⟩) ∧
    Decode.decodeSlot 3 0#4 0x00001E0307A2 = .ok (.mwld true 30#5 96#7 0#7 15#4) ∧
    Decode.decodeSlot 3 0#4 0x00000383DB43 = .ok (.mgath false 45#6 29#5 65#7 3#4) ∧
    Decode.decodeSlot 3 0#4 0x00006F982584 = .ok (.mdrain 300#9 96#7 28#5 11#4 true) ∧
    Decode.decodeSlot 3 0#4 0x0000009CA585 = .ok (.mdrainb 300#9 50#6 9#4) ∧
    Decode.decodeSlot 3 0#4 0x000001E06586 = .ok (.mzero 300#9 1#7 15#4) ∧
    Decode.decodeSlot 3 0#4 0x000000000007 = .ok (.mrel) ∧
    Decode.decodeSlot 3 0#4 0x000000000008 = .ok (.mwait) := by decide

theorem test_decode_scratchpad_forms :
    Decode.decodeSlot 4 0#4 0x8E03F681 = .ok (.ldb .c0 3#2 0x80#8 31#5 45#6) ∧
    Decode.decodeSlot 4 0#4 0x8E03F682 = .ok (.stb .c0 3#2 0x80#8 31#5 45#6) ∧
    Decode.decodeSlot 5 0#4 0x81FFC983 = .ok (.lds .c1 0x7F#8 30#5 19#5) ∧
    Decode.decodeSlot 5 0#4 0x81FFC984 = .ok (.sts .c1 0x7F#8 30#5 19#5) ∧
    Decode.decodeSlot 5 0#4 0x81FFC987 = .ok (.ldcw .c1 0x7F#8 30#5 19#5) ∧
    Decode.decodeSlot 4 0#4 0x0C318D05 = .ok (.ldx .c0 3#2 0#2 6#5 12#6 26#6) ∧
    Decode.decodeSlot 5 0#4 0x06358D06 = .ok (.stx .c1 1#2 2#2 6#5 44#6 26#6) ∧
    Decode.decodeSlot 4 0#4 0x87FCE008 = .ok (.sclq .c0 1#2 0xFF#8 7#5) ∧
    Decode.decodeSlot 4 0#4 0x87FCE00B = .ok (.spzero .c0 1#2 0xFF#8 7#5) ∧
    Decode.decodeSlot 5 0#4 0x80000889 = .ok (.bankacq .c1 17#5) ∧
    Decode.decodeSlot 5 0#4 0x8000088A = .ok (.bankrel .c1 17#5) := by decide

theorem test_decode_global_forms :
    Decode.decodeSlot 4 15#4 0x73F8EA90 = .ok (.ldq .c0 15#4 7#4 0xFE#8 7#5 21#5) ∧
    Decode.decodeSlot 5 2#4 0x8804E011 = .ok (.ldqv .c1 2#4 8#4 2#2 1#8 7#5) ∧
    Decode.decodeSlot 5 0#4 0x8008E512 = .ok (.stq .c1 0#4 8#4 2#8 7#5 10#5) ∧
    Decode.decodeSlot 4 1#4 0x0C04F093 = .ok (.stqv .c0 1#4 0#4 3#2 1#8 7#5 33#6) ∧
    Decode.decodeSlot 4 0#4 0x8010E014 = .ok (.pref .c0 4#8 7#5) ∧
    Decode.decodeSlot 4 3#4 0x8B34C498 = .ok (.atom .c0 3#4 8#4 5#3 true false 1#2 0xA#4 12#5 9#5) ∧
    Decode.decodeSlot 4 0#4 0x8020C499 = .ok (.atomr .c0 0#4 8#4 0#3 false false 1#2 0#4 12#5 9#5) ∧
    Decode.decodeSlot 5 0#4 0x18A0C81A = .ok (.cas .c1 0#4 1#4 4#3 false true 1#2 12#5 16#5) ∧
    Decode.decodeSlot 4 0#4 0x8099909B = .ok (.atomv .c0 0#4 8#4 2#2 6#4 12#5 33#6) := by decide

theorem test_decode_order_and_engine_forms :
    Decode.decodeSlot 4 0#4 0x00000320 = .ok (.fenceC .c0 6#16) ∧
    Decode.decodeSlot 5 0#4 0x000002A1 = .ok (.fenceS .c1 5#3) ∧
    Decode.decodeSlot 5 0#4 0x00000222 = .ok (.acq .c1 4#3) ∧
    Decode.decodeSlot 4 0#4 0x00000223 = .ok (.rel .c0 4#3) ∧
    Decode.decodeSlot 4 0#4 0x20013A28 = .ok (.xcp .c0 2#3 4#3 true true 20#5) ∧
    Decode.decodeSlot 5 0#4 0x70015FA9 = .ok (.xcp2 .c1 7#3 5#3 false true 31#5) ∧
    Decode.decodeSlot 5 0#4 0x70015FAA = .ok (.xcoll .c1 7#3 5#3 false true 31#5) ∧
    Decode.decodeSlot 4 0#4 0x5000002B = .ok (.xcan .c0 5#3) ∧
    Decode.decodeSlot 4 9#4 0x0000E4B0 = .ok (.tkres .c0 9#4 14#5 9#5) ∧
    Decode.decodeSlot 5 9#4 0x0000E4B1 = .ok (.tkpost .c1 9#4 14#5 9#5) ∧
    Decode.decodeSlot 5 9#4 0x0000E4B2 = .ok (.tktake .c1 9#4 14#5 9#5) ∧
    Decode.decodeSlot 5 9#4 0x0000E4B3 = .ok (.tkfree .c1 9#4 14#5 9#5) := by decide

/-- R3, R356: a core at half of the fastest clock has every second cycle. -/
theorem test_island_clock : ([0, 1, 2, 3].map fun n =>
    ({ State.reset with cycle := n, pf := { State.reset.pf with islandMHz := [(1, 525)] } } : State).beats 1) =
      [false, true, false, true] := by decide

end Sys2Proof.Tests
end

/-! # Proofs: the format and operator tables (R247, R280, R283) -/

namespace Sys2Proof.Machine

/-! ## The indices that the fields' own checks let through -/

/-- `tblw` reaches every format entry. -/
theorem wellFormed_tblw_format (a : BitVec 5) (index : BitVec 9) :
    (Instr.tblw a 0#4 index).wellFormed = true ↔ index.toNat < 16 := by
  change WellFormed.tblwOk 0#4 index = true ↔ _
  simp [WellFormed.tblwOk, BitVec.ule, Nat.lt_succ_iff]

/-- `tblw` reaches the operator entries that are not fixed. -/
theorem wellFormed_tblw_operator (a : BitVec 5) (index : BitVec 9) :
    (Instr.tblw a 1#4 index).wellFormed = true ↔ index.toNat < 16 ∧ 8 ≤ index.toNat := by
  change WellFormed.tblwOk 1#4 index = true ↔ _
  simp [WellFormed.tblwOk, BitVec.ule, Nat.lt_succ_iff]

/-- `tblr` reaches every entry of both tables. -/
theorem wellFormed_tblr (d : BitVec 5) (table : BitVec 4) (index : BitVec 9) :
    (Instr.tblr d table index).wellFormed = true ↔ table.toNat < 2 ∧ index.toNat < 16 := by
  change WellFormed.tblrOk table index = true ↔ _
  simp [WellFormed.tblrOk, BitVec.ule, Nat.lt_succ_iff]

/-! ## What an access of a table does -/

theorem exec_tblw (s : State) (a : BitVec 5) (table : BitVec 4) (index : BitVec 9) :
    exec (.tblw a table index) s = execTblw a table index s := rfl

theorem exec_tblr (s : State) (d : BitVec 5) (table : BitVec 4) (index : BitVec 9) :
    exec (.tblr d table index) s = execTblr d table index s := rfl

/-- A write of a format entry puts that entry and changes nothing else. -/
theorem tblw_format_completes (s : State) (a : BitVec 5) {index : BitVec 9} (h : index.toNat < 16) :
    Completes (.tblw a 0#4 index) s fun t =>
      t = s.modRegs fun r => { r with fmt := fput r.fmt index.toNat ((s.rd.sreg a).extractLsb' 0 32) } :=
  completes_static (exec_tblw ..) ((wellFormed_tblw_format a index).2 h) rfl

/-- A write of a user operator entry puts that entry and changes nothing else. -/
theorem tblw_operator_completes (s : State) (a : BitVec 5) {index : BitVec 9} (h : index.toNat < 16)
    (h8 : 8 ≤ index.toNat) :
    Completes (.tblw a 1#4 index) s fun t =>
      t = s.modRegs fun r => { r with opt := fput r.opt index.toNat (s.rd.sreg a) } :=
  completes_static (exec_tblw ..) ((wellFormed_tblw_operator a index).2 ⟨h, h8⟩) rfl

/-- A read of a format entry is an unguarded register write of it without its reserved bits. -/
theorem tblr_format_completes (s : State) (d : BitVec 5) {index : BitVec 9} (h : index.toNat < 16) :
    Completes (.tblr d 0#4 index) s fun t =>
      s.WritesS t d 0#5 (zext64 (formatBits (fget 0#32 s.rd.fmt index.toNat))) 0#9 :=
  completes_static (exec_tblr ..) ((wellFormed_tblr d 0#4 index).2 ⟨by decide, h⟩) (writeS_writes s d _ _)

/-- A read of an operator entry is the same of the fixed or the stored entry. -/
theorem tblr_operator_completes (s : State) (d : BitVec 5) {index : BitVec 9} (h : index.toNat < 16) :
    Completes (.tblr d 1#4 index) s fun t => s.WritesS t d 0#5 (operatorBits (s.rd.opEntry index.toNat)) 0#9 :=
  completes_static (exec_tblr ..) ((wellFormed_tblr d 1#4 index).2 ⟨by decide, h⟩) (writeS_writes s d _ _)

/-- Settles O9: a write puts one entry of one table, and a read is an unguarded register write of the entry without its
reserved bits, where a fixed operator entry takes the place of a stored one. -/
theorem tableReadsAndWrites : Obligations.TableReadsAndWrites := by
  intro s a d index h
  refine ⟨?writeFormat, fun h8 => ?writeOperator, ?readFormat, ?readOperator⟩
  case writeFormat =>
    obtain ⟨_, hexec, rfl⟩ := tblw_format_completes s a h
    exact ⟨_, hexec, modRegs_onlyMe s _, by simp, fun n => by simp [fget_fput]⟩
  case writeOperator =>
    obtain ⟨_, hexec, rfl⟩ := tblw_operator_completes s a h h8
    exact ⟨_, hexec, modRegs_onlyMe s _, by simp, fun n => by simp [fget_fput]⟩
  case readFormat => exact tblr_format_completes s d h
  case readOperator => exact tblr_operator_completes s d h

end Sys2Proof.Machine

/-! # Proofs: frames of the updates of the state -/

namespace Sys2Proof.Machine

/-! ## Tables and memories -/

/-- A table whose values are all changed the same way, its default too. -/
theorem fget_map {β : Type} (d : β) (f : β → β) (m : FMap β) (k : Nat) (h : f d = d := by rfl) :
    fget d (m.map fun e => (e.1, f e.2)) k = f (fget d m k) := by
  induction m with
  | nil => exact h.symm
  | cons e l ih =>
    simp only [List.map_cons, fget]
    split
    · rfl
    · exact ih

/-- A table after a key has been removed. -/
theorem fget_fdel {β : Type} (d : β) (m : FMap β) (k j : Nat) : fget d (fdel m k) j = if j = k then d else fget d m j := by
  induction m with
  | nil => simp [fdel, fget]
  | cons e l ih =>
    obtain ⟨x, v⟩ := e
    simp only [fdel, List.filter_cons] at ih ⊢
    by_cases hx : x = k
    · subst hx
      by_cases hj : j = x
      · subst hj; simpa using ih
      · simpa [fget, hj, Ne.symm hj] using ih
    · by_cases hj : x = j
      · subst hj; simp [fget, hx]
      · simpa [fget, hx, hj] using ih

/-- Dropping entries leaves the value of a key whose first entry stays. -/
theorem fget_filter {β : Type} (d : β) (m : FMap β) (p : Nat × β → Bool) (k : Nat) (h : p (k, fget d m k) = true) :
    fget d (m.filter p) k = fget d m k := by
  induction m with
  | nil => rfl
  | cons e l ih =>
    obtain ⟨x, v⟩ := e
    by_cases hx : x = k
    · subst hx
      have hp : p (x, v) = true := by simpa [fget] using h
      simp [hp, fget]
    · have ih := ih (by simpa [fget, hx] using h)
      rw [List.filter_cons]
      split <;> simp [fget, hx, ih]

/-- A key is listed with its value, or has the default. -/
theorem fget_listed {β : Type} (d : β) (m : FMap β) (k : Nat) : (k, fget d m k) ∈ m ∨ fget d m k = d := by
  induction m with
  | nil => exact .inr rfl
  | cons e l ih =>
    obtain ⟨x, v⟩ := e
    by_cases hx : x = k
    · subst hx; exact .inl (by simp [fget])
    · have hl : fget d ((x, v) :: l) k = fget d l k := if_neg hx
      rw [hl]
      exact ih.imp_left (List.mem_cons_of_mem _)

/-- The bytes of the addresses that a filter keeps. -/
theorem mget_filter (m : Memory) (p : Nat → Bool) (a : Nat) :
    mget (m.filter fun e => p e.1) a = if p a = true then mget m a else 0#8 := by
  induction m with
  | nil => simp [mget, unlisted]
  | cons e l ih =>
    obtain ⟨x, v⟩ := e
    by_cases hx : x = a
    · subst hx
      cases hp : p x <;> simp [hp, mget, ih]
    · cases hp : p x <;> simp [hp, mget, hx, ih]

/-! ## Frames -/

theorem sameBytes_refl (s : State) : s.SameBytes s := ⟨fun _ => rfl, fun _ => rfl, fun _ _ => rfl⟩

theorem sameBytes_trans {s t u : State} (h : s.SameBytes t) (k : t.SameBytes u) : s.SameBytes u :=
  ⟨fun a => (k.1 a).trans (h.1 a), fun a => (k.2.1 a).trans (h.2.1 a), fun n a => (k.2.2 n a).trans (h.2.2 n a)⟩

@[simp] theorem State.core_modCore_same (s : State) (n : Nat) (f : CoreState → CoreState) :
    (s.modCore n f).core n = f (s.core n) := by rw [State.modCore_eq, State.core_setCore_same]

theorem State.core_modCore_ne (s : State) (n d : Nat) (f : CoreState → CoreState) (h : d ≠ n) :
    (s.modCore n f).core d = s.core d := by rw [State.modCore_eq, State.core_setCore_ne _ _ _ _ h]

/-- A core after a change of one. -/
theorem State.core_modCore (s : State) (n d : Nat) (f : CoreState → CoreState) :
    (s.modCore n f).core d = if d = n then f (s.core n) else s.core d := by
  split
  · next h => subst h; exact State.core_modCore_same ..
  · next h => exact State.core_modCore_ne _ _ _ _ h

/-- A change of one core changes nothing else. -/
theorem modCore_onlyCore (s : State) (n : Nat) (f : CoreState → CoreState) : s.OnlyCore (s.modCore n f) n :=
  ⟨rfl, fun d h => State.core_modCore_ne s n d f h, fun _ => rfl, fun _ => rfl⟩

/-- A change of the device's own registers changes nothing else. -/
theorem modPf_onlyPlatform (s : State) (f : Platform → Platform) : s.OnlyPlatform (s.modPf f) :=
  ⟨rfl, fun _ => rfl, fun _ => rfl, fun _ _ => rfl⟩

theorem onlyPlatform_refl (s : State) : s.OnlyPlatform s := ⟨rfl, sameBytes_refl s⟩

theorem onlyPlatform_trans {s t u : State} (h : s.OnlyPlatform t) (k : t.OnlyPlatform u) : s.OnlyPlatform u := by
  obtain ⟨ht, hb⟩ := h
  obtain ⟨hu, kb⟩ := k
  refine ⟨?_, sameBytes_trans hb kb⟩
  rw [hu, ht]

/-! ## Host functions -/

theorem modFn_onlyPlatform (s : State) (n : Nat) (f : HostFn → HostFn) : s.OnlyPlatform (s.modFn n f) :=
  modPf_onlyPlatform ..

@[simp] theorem State.fn_modFn_same (s : State) (n : Nat) (f : HostFn → HostFn) : (s.modFn n f).fn n = f (s.fn n) := by
  simp [State.fn, State.modFn]

theorem State.fn_modFn_ne (s : State) (n m : Nat) (f : HostFn → HostFn) (h : m ≠ n) : (s.modFn n f).fn m = s.fn m := by
  simp [State.fn, State.modFn, fget_fput_ne _ _ _ _ _ h]

theorem reply_onlyPlatform (s : State) (dest data : Nat) (abort : Bool) : s.OnlyPlatform (s.reply dest data abort) :=
  modPf_onlyPlatform ..

@[simp] theorem State.fn_reply (s : State) (dest data : Nat) (abort : Bool) (n : Nat) :
    (s.reply dest data abort).fn n = s.fn n := rfl

theorem reply_replies (s : State) (dest data : Nat) (abort : Bool) :
    s.Replies (s.reply dest data abort) dest data abort := rfl

/-- A record enters the audit log as R347 says. -/
theorem audit_audits (s : State) (type tenant master : Nat) (detail : List Word) :
    s.Audits (s.audit type tenant master detail) type tenant master detail :=
  ⟨_, rfl, rfl, rfl, rfl, rfl, rfl, rfl, rfl, rfl, rfl⟩

/-- An audit record depends on the state before it by the log and the time alone, and on the state after it by the log. -/
theorem audits_congr {s u t v : State} {type tenant master : Nat} {detail : List Word} (h : u.Audits t type tenant master detail)
    (hlog : u.pf.audit = s.pf.audit) (hcounter : u.pf.auditCounter = s.pf.auditCounter) (hchain : u.pf.chain = s.pf.chain)
    (htick : u.tick = s.tick) (hlog' : v.pf.audit = t.pf.audit) (hcounter' : v.pf.auditCounter = t.pf.auditCounter)
    (hchain' : v.pf.chain = t.pf.chain) : s.Audits v type tenant master detail := by
  simpa only [State.Audits, hlog, hcounter, hchain, htick, hlog', hcounter', hchain'] using h

theorem audit_onlyPlatform (s : State) (type tenant master : Nat) (detail : List Word) :
    s.OnlyPlatform (s.audit type tenant master detail) := modPf_onlyPlatform ..

/-- A change of one host function leaves the others. -/
theorem modFn_others (s : State) (n : Nat) (f : HostFn → HostFn) :
    s.OnlyPlatform (s.modFn n f) ∧ ∀ m, m ≠ n → (s.modFn n f).fn m = s.fn m :=
  ⟨modFn_onlyPlatform .., fun m h => State.fn_modFn_ne s n m f h⟩

/-! ## What translation depends on (R14, R17, R18, R57, R58) -/

/-- Two states agree on memory, its owners and its poison, the tenants' roots, and the memory that is there. -/
structure State.SameSpace (s t : State) : Prop where
  mem : t.mem = s.mem
  owners : t.ms.owners = s.ms.owners
  windows : t.ms.windows = s.ms.windows
  poison : t.ms.poison = s.ms.poison
  xlbase : t.ms.xlbase = s.ms.xlbase
  backed : ∀ pa, t.backed pa = s.backed pa

theorem granule_congr {s t : State} (h : t.ms.owners = s.ms.owners) (n : Nat) : t.granule n = s.granule n := by
  rw [State.granule, State.granule, h]

theorem owner_congr {s t : State} (ho : t.ms.owners = s.ms.owners) (hw : t.ms.windows = s.ms.windows) (pa len : Nat) :
    t.owner pa len = s.owner pa len := by
  simp only [State.owner, granule_congr ho, hw]

theorem tenantAt_congr {s t : State} (ho : t.ms.owners = s.ms.owners) (hw : t.ms.windows = s.ms.windows) (pa : Nat) :
    t.tenantAt pa = s.tenantAt pa := by
  simp only [State.tenantAt, owner_congr ho hw]

theorem readEntry_congr {s t : State} (h : s.SameSpace t) (tenant pa : Nat) : t.readEntry tenant pa = s.readEntry tenant pa := by
  simp only [State.readEntry, owner_congr h.owners h.windows, State.poisoned, h.poison, h.backed, h.mem] <;> rfl

theorem leaf_congr {s t : State} (h : s.SameSpace t) (tenant va : Nat) (big : Bool) (e : BitVec 64) (entry : Nat) :
    t.leaf tenant va big e entry = s.leaf tenant va big e entry := by
  simp only [State.leaf, owner_congr h.owners h.windows]

/-- A walk depends on no more than that. -/
theorem walk_congr {s t : State} (h : s.SameSpace t) (tenant va : Nat) : t.walk tenant va = s.walk tenant va := by
  simp only [State.walk, h.xlbase, readEntry_congr h, leaf_congr h]

end Sys2Proof.Machine

/-! # Proofs: the mailbox (R337, R338) -/

namespace Sys2Proof.Machine

theorem exec_mailboxRegisterWrite (s : State) (fn off : Nat) (value : Word) :
    exec (.mailboxRegisterWrite fn off value) s = execMailboxRegisterWrite fn off value s := rfl

theorem exec_mailboxCommandDone (s : State) (fn : Nat) :
    exec (.mailboxCommandDone fn) s = execMailboxCommandDone fn s := rfl

/-- A write that reaches the mailbox changes its function's registers alone. -/
theorem mailboxWrite_completes {s : State} {fn off : Nat} {value : Word} {g : HostFn} (h : (s.fn fn).aborted = false)
    (hg : (s.fn fn).write off value = g) : Completes (.mailboxRegisterWrite fn off value) s fun t =>
      (s.OnlyPlatform t ∧ ∀ m, m ≠ fn → t.fn m = s.fn m) ∧ t.fn fn = g :=
  ⟨s.modFn fn fun f => f.write off value, by simp [exec_mailboxRegisterWrite, execMailboxRegisterWrite, h],
    modFn_others .., by simp [hg]⟩

theorem HostFn.write_bell (f : HostFn) : f.write 0x38 1#64 = f.ring := rfl

theorem HostFn.write_bell_ne (f : HostFn) {value : Word} (h : value ≠ 1#64) : f.write 0x38 value = f := by
  simp [HostFn.write, h]

theorem HostFn.write_running (f : HostFn) {off : Nat} (value : Word) (h : f.st = 1) (ho : off ≠ 0x38) :
    f.write off value = f := by simp [HostFn.write, h, ho]

theorem HostFn.write_cmd (f : HostFn) (value : Word) (h : f.st ≠ 1) :
    f.write 0 value = { f with cmd := value &&& 0xFFFF00FF#64 } := by simp [HostFn.write, h]

theorem HostFn.write_arg (f : HostFn) {off : Nat} (value : Word) (h : f.st ≠ 1) (h8 : off % 8 = 0) (lo : 8 ≤ off)
    (hi : off ≤ 0x30) : f.write off value = { f with args := fput f.args (off / 8 - 1) value } := by
  have h0 : off ≠ 0 := by omega
  have h38 : off ≠ 0x38 := by omega
  simp [HostFn.write, h, h8, hi, h0, h38]

theorem HostFn.write_other (f : HostFn) {off : Nat} (value : Word) (h : off % 8 ≠ 0 ∨ 0x38 < off) :
    f.write off value = f := by
  have h0 : off ≠ 0 := by omega
  have h38 : off ≠ 0x38 := by omega
  have hargs : ¬ (off % 8 = 0 ∧ off ≤ 0x30) := by omega
  simp [HostFn.write, h0, h38, hargs]

theorem HostFn.ring_running (f : HostFn) (h : f.st = 1) : f.ring = { f with overrun := true } := by
  simp [HostFn.ring, h]

theorem HostFn.ring_idle (f : HostFn) (h : f.st ≠ 1) : f.ring = { f with
    st := 1, overrun := false, status := 0, tag := (f.cmd.extractLsb' 16 16).toNat, outcome := none, began := none } := by
  simp [HostFn.ring, h]

/-- Numbered values put one after another: each stands at its number, and nothing else changes. -/
theorem fget_putList {β : Type} (d : β) (l : List β) (m : FMap β) (k n : Nat) :
    fget d ((l.zipIdx k).foldl (fun m (x : β × Nat) => fput m x.2 x.1) m) n =
      if k ≤ n ∧ n < k + l.length then l.getD (n - k) d else fget d m n := by
  induction l generalizing m k with
  | nil => simp
  | cons v l ih =>
    simp only [List.zipIdx_cons, List.foldl_cons, ih, fget_fput, List.length_cons]
    by_cases h : n = k
    · subst h; simp
    · by_cases hin : k + 1 ≤ n ∧ n < k + 1 + l.length
      · have hin' : k ≤ n ∧ n < k + (l.length + 1) := by omega
        obtain ⟨j, hj⟩ : ∃ j, n - k = j + 1 := ⟨n - k - 1, by omega⟩
        have hj' : n - (k + 1) = j := by omega
        simp [hin, hin', hj, hj']
      · have hin' : ¬ (k ≤ n ∧ n < k + (l.length + 1)) := by omega
        rw [if_neg hin, if_neg hin', if_neg h]

/-- The end of a command in its function's registers: results, state, status, and one interrupt (R338). -/
def HostFn.ended (f : HostFn) (status : Nat) (res : List Word) : HostFn :=
  { f with res := res.zipIdx.foldl (fun m (x : Word × Nat) => fput m x.2 x.1) f.res
           st := 2, status := status, outcome := none, began := none, msix := f.msix + 1 }

theorem HostFn.ended_res (f : HostFn) (status : Nat) (res : List Word) (n : Nat) :
    fget 0#64 (f.ended status res).res n = if n < res.length then res.getD n 0#64 else fget 0#64 f.res n := by
  simpa [HostFn.ended] using fget_putList 0#64 res f.res 0 n

theorem execMailboxCommandDone_eq (s : State) (fn : Nat) : execMailboxCommandDone fn s =
    if s.pf.boot ≠ 1 ∨ (s.fn fn).st ≠ 1 then .next s
    else match (s.fn fn).outcome with
      | some r => .next (s.modFn fn fun f => f.ended r.1 r.2)
      | none => if codeDefined (s.fn fn).code then .next s else .next (s.modFn fn fun f => f.ended 0x11 []) := by
  unfold execMailboxCommandDone
  simp only [Bool.or_eq_true, bne_iff_ne]
  rfl

/-- Settles O48: each register of the mailbox by the case of its offset and of the running bit, and the end of a command by its
outcome. -/
theorem mailboxEvents : Obligations.MailboxEvents := by
  intro s fn off status value res
  refine ⟨fun h => ?aborted, fun h => ⟨fun hst => ?bellRunning, fun hst => ?bell, fun hv => ?bellOther, fun hst ho => ?running,
    fun hst => ?cmd, fun hst h8 lo hi => ?arg, fun ho => ?other⟩, fun h => ?noCommand, fun hb hst =>
    ⟨fun ho => ?outcome, fun ho lo hi => ?defined, fun ho hc => ?reserved⟩⟩
  case aborted =>
    exact ⟨s.reply fn 0 true, by simp [exec_mailboxRegisterWrite, execMailboxRegisterWrite, h],
      ⟨reply_onlyPlatform .., fun _ _ => rfl⟩, rfl, reply_replies ..⟩
  case bellRunning => exact mailboxWrite_completes h (by rw [HostFn.write_bell, HostFn.ring_running _ hst])
  case bell => exact mailboxWrite_completes h (by rw [HostFn.write_bell, HostFn.ring_idle _ hst])
  case bellOther => exact mailboxWrite_completes h (HostFn.write_bell_ne _ hv)
  case running => exact mailboxWrite_completes h (HostFn.write_running _ _ hst ho)
  case cmd => exact mailboxWrite_completes h (HostFn.write_cmd _ _ hst)
  case arg =>
    obtain ⟨t, hexec, hothers, hfn⟩ := mailboxWrite_completes h (HostFn.write_arg _ value hst h8 lo hi)
    exact ⟨t, hexec, hothers, by rw [hfn], fun n => by rw [hfn]; exact fget_fput ..⟩
  case other => exact mailboxWrite_completes h (HostFn.write_other _ _ ho)
  case noCommand => rw [exec_mailboxCommandDone, execMailboxCommandDone_eq, if_pos h]
  case outcome =>
    refine ⟨s.modFn fn fun f => f.ended status res, ?_, modFn_others .., by simp [HostFn.ended], fun n => ?_⟩
    · simp [exec_mailboxCommandDone, execMailboxCommandDone_eq, hb, hst, ho]
    · rw [State.fn_modFn_same]; exact HostFn.ended_res ..
  case defined => simp [exec_mailboxCommandDone, execMailboxCommandDone_eq, hb, hst, ho, codeDefined, lo, hi]
  case reserved =>
    have hcode : codeDefined (s.fn fn).code = false := by simp [codeDefined]; omega
    exact ⟨s.modFn fn fun f => f.ended 0x11 [], by simp [exec_mailboxCommandDone, execMailboxCommandDone_eq, hb, hst, ho, hcode],
      modFn_others .., by simp [HostFn.ended]⟩

/-- The mailbox of a function that nothing has written is idle. -/
theorem mailboxState_idle {t : State} (n : Nat) (h : t.pf.boot ≠ 2) (hf : t.pf.fns = []) : t.mailboxState n = 0#64 := by
  simp [State.mailboxState, h, State.fn, hf, fget]

/-- Settles O59: every table of the reset state is empty, so that each reads its default. -/
theorem resetState : Obligations.ResetState := by
  intro n c
  exact ⟨rfl, rfl, rfl, rfl, rfl, rfl, rfl, rfl, rfl, rfl, mailboxState_idle n (by decide) rfl, rfl, rfl, rfl, rfl, rfl, rfl⟩

end Sys2Proof.Machine

/-! # Proofs: resets, the boot, keys and tenant spaces (R8, R12, R336, R343–R347) -/

namespace Sys2Proof.Machine

/-! ## Resets -/

theorem exec_functionLevelReset (s : State) (fn : Nat) :
    exec (.functionLevelReset fn) s = execFunctionLevelReset fn s := rfl

theorem exec_deviceReset (s : State) (firmware kernel firmwareSig kernelSig : List Byte) :
    exec (.deviceReset firmware kernel firmwareSig kernelSig) s = execDeviceReset firmware kernel firmwareSig kernelSig s := rfl

/-- What a function-level reset leaves of a queue. -/
def Queue.withoutWaiter (q : Queue) (fn : Nat) : Queue := { q with waiting := q.waiting.filter (· != fn) }

/-- What a function-level reset leaves of the device's registers beyond the function's own (R40, R336). -/
def Platform.withoutFunction (p : Platform) (fn : Nat) : Platform :=
  { p with updating := if p.updating = some fn then none else p.updating
           queues := p.queues.map fun e => (e.1, e.2.withoutWaiter fn) }

/-- What a function keeps over its reset. -/
def HostFn.reset (f : HostFn) : HostFn :=
  { tenants := f.tenants, barSize := f.barSize, msix := f.msix, removing := f.removing }

theorem execFunctionLevelReset_eq (s : State) (fn : Nat) : execFunctionLevelReset fn s =
    .next ((s.modFn fn HostFn.reset).modPf fun p => p.withoutFunction fn) := rfl

theorem queue_withoutFunction (s : State) (fn n : Nat) :
    (s.modPf fun p => p.withoutFunction fn).queue n = (s.queue n).withoutWaiter fn :=
  fget_map ({} : Queue) (Queue.withoutWaiter · fn) s.pf.queues n

theorem functionLevelReset_completes (s : State) (fn : Nat) : Completes (.functionLevelReset fn) s (fun t =>
    s.OnlyPlatform t ∧ s.SameContexts t ∧ (∀ m, m ≠ fn → t.fn m = s.fn m) ∧ t.fn fn = (s.fn fn).reset ∧
      (∀ n, (t.queue n).desc = (s.queue n).desc ∧ (t.queue n).stored = (s.queue n).stored ∧ fn ∉ (t.queue n).waiting) ∧
      t.pf.updating ≠ some fn) := by
  refine ⟨(s.modFn fn HostFn.reset).modPf fun p => p.withoutFunction fn, by rw [exec_functionLevelReset]; rfl,
    onlyPlatform_trans (modFn_onlyPlatform ..) (modPf_onlyPlatform ..), fun _ => rfl,
    fun m h => State.fn_modFn_ne s fn m _ h, State.fn_modFn_same .., fun n => ?_, ?_⟩
  · rw [queue_withoutFunction]
    exact ⟨rfl, rfl, by simp [Queue.withoutWaiter]⟩
  · simp only [State.modPf_pf, Platform.withoutFunction]
    split
    · simp
    · assumption

/-! ## The boot (R343, R344) -/

@[simp] theorem extend_mreg (s : State) (r i : Nat) (image : List Byte) : fget 0#256 (s.extend r image).pf.mreg i =
    if i = r then shake256 (toBytes 32 (fget 0#256 s.pf.mreg r).toNat ++ toBytes 32 (shake256 image).toNat)
    else fget 0#256 s.pf.mreg i := fget_fput ..

theorem extend_onlyPlatform (s : State) (r : Nat) (image : List Byte) : s.OnlyPlatform (s.extend r image) :=
  modPf_onlyPlatform ..

/-- A state as a reset leaves it, but for what the boot writes of the measurements, the boot's progress and the log. -/
def State.ClearedTo (s t : State) : Prop := t = { s.cleared with pf := { s.cleared.pf with
  mreg := t.pf.mreg, boot := t.pf.boot, audit := t.pf.audit, auditCounter := t.pf.auditCounter, chain := t.pf.chain } }

/-- Device memory is lost over a reset, and what host and peers hold is kept. -/
theorem mget_cleared (s : State) (a : Nat) :
    mget s.cleared.mem a = if keepsOverReset a = true then mget s.mem a else 0#8 := mget_filter ..

/-- No measurement is left over a reset. -/
theorem mreg_cleared (s : State) (i : Nat) : fget 0#256 s.cleared.pf.mreg i = 0#256 := rfl

theorem mailboxState_stopped {t : State} (fn : Nat) (h : t.pf.boot = 2) : t.mailboxState fn = 0x202#64 := by
  simp [State.mailboxState, h]

theorem step_stopped {t : State} (h : t.pf.boot = 2) (ha : t.agenda = []) : step t = .fault .bootStopped := by
  simp [step, h, ha]

/-- Where the firmware's image fails, the boot stops with nothing measured. -/
theorem deviceReset_noFirmware (s : State) {firmware kernel firmwareSig kernelSig : List Byte}
    (h : signed Config.vendorKey firmware firmwareSig = false) :
    exec (.deviceReset firmware kernel firmwareSig kernelSig) s = .next (s.cleared.modPf fun p => { p with boot := 2 }) := by
  simp [exec_deviceReset, execDeviceReset, h]

/-- Where the kernel's image fails, the boot stops with the firmware measured. -/
theorem deviceReset_noKernel (s : State) {firmware kernel firmwareSig kernelSig : List Byte}
    (h : signed Config.vendorKey firmware firmwareSig = true) (hk : signed Config.vendorKey kernel kernelSig = false) :
    exec (.deviceReset firmware kernel firmwareSig kernelSig) s =
      .next ((s.cleared.extend 0 firmware).modPf fun p => { p with boot := 2 }) := by
  simp [exec_deviceReset, execDeviceReset, h, hk]

/-- A boot whose images verify measures both and records itself. -/
theorem deviceReset_boots (s : State) {firmware kernel firmwareSig kernelSig : List Byte}
    (h : signed Config.vendorKey firmware firmwareSig = true) (hk : signed Config.vendorKey kernel kernelSig = true) :
    exec (.deviceReset firmware kernel firmwareSig kernelSig) s =
      .next ((((s.cleared.extend 0 firmware).extend 1 kernel).audit 1 0xFF 0xFF []).modPf fun p => { p with boot := 1 }) := by
  simp [exec_deviceReset, execDeviceReset, h, hk]

/-- However the boot comes out, what it leaves is the cleared state. -/
theorem deviceReset_cleared (s : State) (firmware kernel firmwareSig kernelSig : List Byte) :
    Completes (.deviceReset firmware kernel firmwareSig kernelSig) s s.ClearedTo := by
  cases h : signed Config.vendorKey firmware firmwareSig with
  | false => exact ⟨_, deviceReset_noFirmware s h, rfl⟩
  | true =>
    cases hk : signed Config.vendorKey kernel kernelSig with
    | false => exact ⟨_, deviceReset_noKernel s h hk, rfl⟩
    | true => exact ⟨_, deviceReset_boots s h hk, rfl⟩

/-! ## The key store, tenant spaces and the management port -/

theorem exec_keyStoreChange (s : State) (index : Nat) (key signature : List Byte) :
    exec (.keyStoreChange index key signature) s = execKeyStoreChange index key signature s := rfl

theorem exec_tenantSpaceCreate (s : State) (tenant root fn : Nat) :
    exec (.tenantSpaceCreate tenant root fn) s = execTenantSpaceCreate tenant root fn s := rfl

theorem exec_managementPortRequest (s : State) (ask : ManagementAsk) :
    exec (.managementPortRequest ask) s = execManagementPortRequest ask s := rfl

/-- The places of the key store after one has been written: an empty key empties its place (R346). -/
def storeKey (m : FMap (Option (List Byte))) (index : Nat) (key : List Byte) : FMap (Option (List Byte)) :=
  fput m index (if key.isEmpty then none else some key)

theorem execKeyStoreChange_eq (s : State) (index : Nat) (key signature : List Byte) :
    execKeyStoreChange index key signature s =
      if s.pf.boot = 1 ∧ index < 32 ∧ signed Config.ownerKey (toBytes 1 index ++ key) signature = true then
        .next ((s.modPf fun p => { p with keyStore := storeKey p.keyStore index key }).extend 3 (toBytes 1 index ++ key))
      else .next s := by
  simp only [execKeyStoreChange, Bool.and_eq_true, decide_eq_true_eq, and_assoc]
  rfl

theorem execTenantSpaceCreate_eq (s : State) (tenant root fn : Nat) : execTenantSpaceCreate tenant root fn s =
    if s.pf.boot = 1 ∧ tenant < 16 ∧ root % 0x10000 = 0 ∧ root < 2 ^ 52 ∧ fget none s.ms.xlbase tenant = none then
      .next ((s.modMs fun m => { m with xlbase := fput m.xlbase tenant (some root) }).modFn fn fun f =>
        { f with tenants := f.tenants ++ [tenant] })
    else .next s := by
  simp only [execTenantSpaceCreate, Bool.and_eq_true, decide_eq_true_eq, and_assoc, Option.isNone_iff_eq_none]

theorem managementPort_off (s : State) (ask : ManagementAsk) (h : s.pf.boot ≠ 1) :
    exec (.managementPortRequest ask) s = .next s := by
  simp [exec_managementPortRequest, execManagementPortRequest, h]

/-- What the management port answers with. -/
def State.portAnswer (s : State) : ManagementAsk → List Byte
  | .measurement => s.measurement
  | .attestation nonce => s.quote (toBytes 32 nonce.toNat)
  | .audit first n => (s.auditFrom first n).flatMap Audit.bytes

theorem managementPort_replies (s : State) (ask : ManagementAsk) (h : s.pf.boot = 1) :
    Completes (.managementPortRequest ask) s (fun t => s.OnlyPlatform t ∧
      s.Replies t 0x10002 (ofBytes (s.portAnswer ask)) false) := by
  refine ⟨s.reply managementPort (ofBytes (s.portAnswer ask)) false, ?_, reply_onlyPlatform .., reply_replies ..⟩
  cases ask <;> simp [exec_managementPortRequest, execManagementPortRequest, h, State.portAnswer]

/-- Settles O51: a reset leaves the cleared state with what the boot measured, and each other event runs where its conditions
hold and changes nothing where they do not. -/
theorem resetAndKeyEvents : Obligations.ResetAndKeyEvents := by
  intro s fn index tenant root a firmware kernel firmwareSig kernelSig key signature nonce first count
  have hcleared (t : State) (h : s.ClearedTo t) : (∀ c, t.ctx c = {}) ∧ (∀ n, t.core n = freshCore n) ∧
      (∀ q, t.quarter q = {}) ∧ t.launches = [] ∧ t.ms = {} ∧ t.pf.fns = [] ∧ t.pf.queues = [] ∧ t.pf.objects = [] ∧
      t.pf.updating = none ∧ t.cycle = s.cycle ∧ t.tick = s.tick ∧ ∀ a, keepsOverReset a = false → mget t.mem a = 0#8 := by
    have hmem : t.mem = s.cleared.mem := by rw [h]
    refine ⟨?_, ?_, ?_, ?_, ?_, ?_, ?_, ?_, ?_, ?_, ?_, fun a ha => by rw [hmem, mget_cleared, ha]; rfl⟩
    all_goals rw [h]
    all_goals intros; rfl
  refine ⟨functionLevelReset_completes s fn, fun hf => ?noFirmware, fun hf hk => ?noKernel, fun hf hk => ?boots,
    fun ho _ => ?kept, fun h => ?notStored, fun h => ?stored, fun h => ?notMade, fun h => ?made, fun h => ?portOff, fun h => ?port⟩
  case noFirmware =>
    refine ⟨_, deviceReset_noFirmware s hf, hcleared _ rfl, rfl, fun i => rfl, mailboxState_stopped fn rfl, step_stopped rfl⟩
  case noKernel =>
    exact ⟨_, deviceReset_noKernel s hf hk, hcleared _ rfl, rfl, mailboxState_stopped fn rfl, fun i => extend_mreg s.cleared 0 i firmware⟩
  case boots =>
    refine ⟨_, deviceReset_boots s hf hk, hcleared _ rfl, rfl, audits_congr (audit_audits ..) rfl rfl rfl rfl rfl rfl rfl,
      mailboxState_idle fn (by intro h; cases h) rfl, fun i => ?_⟩
    refine (extend_mreg (s.cleared.extend 0 firmware) 1 i kernel).trans ?_
    rw [extend_mreg, extend_mreg]
    simp only [mreg_cleared]
    by_cases h1 : i = 1
    · subst h1
      rw [if_pos rfl, if_neg Nat.one_ne_zero, if_neg Nat.one_ne_zero, if_pos rfl]
    · rw [if_neg h1, if_neg h1]
  case kept =>
    obtain ⟨t, hexec, h⟩ := deviceReset_cleared s firmware kernel firmwareSig kernelSig
    refine ⟨t, hexec, ?_⟩
    have hmem : t.mem = s.cleared.mem := by rw [h]
    change mget t.mem a = mget s.mem a
    rw [hmem, mget_cleared]
    exact if_pos ho
  case notStored => rw [exec_keyStoreChange, execKeyStoreChange_eq]; exact if_neg h
  case stored =>
    refine ⟨_, (execKeyStoreChange_eq ..).trans (if_pos h),
      onlyPlatform_trans (modPf_onlyPlatform ..) (extend_onlyPlatform ..), ?_, fun n hn => fget_fput_ne _ _ _ _ _ hn,
      fun i => extend_mreg _ 3 i _⟩
    exact (fget_fput_same ..).trans (by cases key <;> rfl)
  case notMade => rw [exec_tenantSpaceCreate, execTenantSpaceCreate_eq]; exact if_neg h
  case made =>
    refine ⟨_, (execTenantSpaceCreate_eq ..).trans (if_pos h),
      ⟨fun _ => rfl, fun _ => rfl, fun _ _ => rfl⟩, fun _ => rfl, fun n => fget_fput .., State.fn_modFn_same ..,
      fun m hm => State.fn_modFn_ne _ _ _ _ hm⟩
  case portOff => exact ⟨managementPort_off s _ h, managementPort_off s _ h, managementPort_off s _ h⟩
  case port => exact ⟨managementPort_replies s .measurement h, managementPort_replies s (.attestation nonce) h,
    managementPort_replies s (.audit first count) h⟩

end Sys2Proof.Machine

/-! # Proofs: control words, scales and banks (R32, R151, R287, R307–R309) -/

namespace Sys2Proof.Machine

theorem exec_controlWordWrite (c : Nat) (s : State) : exec (.controlWordWrite c) s = execControlWordWrite c s := rfl
theorem exec_scaleQueuePush (c : Nat) (s : State) : exec (.scaleQueuePush c) s = execScaleQueuePush c s := rfl
theorem exec_bankOwnershipChange (c : Nat) (s : State) :
    exec (.bankOwnershipChange c) s = execBankOwnershipChange c s := rfl
theorem exec_bankZeroingDone (core : Nat) (s : State) : exec (.bankZeroingDone core) s = execBankZeroingDone core s := rfl

/-! ## Effects that act on the context's core -/

/-- A control word on its way to its table. -/
def Action.isWord : Action → Bool
  | .wordWrite _ _ => true
  | _ => false

/-- Bytes on their way to the scale queue. -/
def Action.isPush : Action → Bool
  | .scalePush _ _ => true
  | _ => false

/-- A change of the ownership of banks. -/
def Action.isBank : Action → Bool
  | .bankAcq _ => true
  | .bankRel _ => true
  | _ => false

/-- What is due has left the context, and one core's own state alone has changed, its scratchpad excepted. -/
theorem due_acts (s : State) (c : Nat) (f : Action → Bool) (g : CoreState → CoreState)
    (hg : ∀ k, (g k).scratch = k.scratch) :
    let t := (s.setCtx c (s.takeDue c f).2).modCore (coreOf c) g
    t = { s with ctxs := t.ctxs, cores := t.cores } ∧ (∀ i, i ≠ c → t.ctx i = s.ctx i) ∧
      (∀ i, i ≠ coreOf c → t.core i = s.core i) ∧ (t.core (coreOf c)).scratch = (s.core (coreOf c)).scratch ∧
      t.ctx c = { s.ctx c with pend := (s.ctx c).pend.filter fun y => !(f y.act && s.acts c y) } := by
  refine ⟨rfl, fun i h => State.ctx_setCtx_ne s c i _ h, fun i h => State.core_modCore_ne _ _ _ _ h, ?_, State.ctx_setCtx_same ..⟩
  rw [State.core_modCore_same, hg]
  rfl

/-! ## Each effect alone -/

/-- The core after an effect on its tables, its queue or its banks. -/
def CoreState.take (k : CoreState) (c tenant : Nat) : Action → CoreState
  | .wordWrite e w => { k with cwt := fput k.cwt e w }
  | .scalePush a n => if k.lease = some c then { k with scales := k.scales ++ mread k.scratch a n } else k
  | .bankAcq m => (banksOf m).foldl (fun k b =>
      { k with bankOwner := fput k.bankOwner b (c + 1), released := fdel k.released b }) k
  | .bankRel m => (banksOf m).foldl (fun k b =>
      { k with bankOwner := fdel k.bankOwner b, released := fput k.released b (tenant + 1) }) k
  | _ => k

theorem controlWordWrite_one {s : State} {c entry : Nat} {p : Pending} {word : BitVec 256}
    (h : (s.takeDue c Action.isWord).1 = [p]) (hp : p.act = .wordWrite entry word) :
    exec (.controlWordWrite c) s =
      .next ((s.setCtx c (s.takeDue c Action.isWord).2).modCore (coreOf c) (CoreState.take · c (s.ctx c).tenant p.act)) := by
  change Host.Outcome.next (List.foldl _ (s.setCtx c (s.takeDue c Action.isWord).2) (s.takeDue c Action.isWord).1) = _
  rw [h]
  simp only [List.foldl_cons, List.foldl_nil, hp]
  rfl

theorem scaleQueuePush_one {s : State} {c a n : Nat} {p : Pending}
    (h : (s.takeDue c Action.isPush).1 = [p]) (hp : p.act = .scalePush a n) :
    exec (.scaleQueuePush c) s =
      .next ((s.setCtx c (s.takeDue c Action.isPush).2).modCore (coreOf c) (CoreState.take · c (s.ctx c).tenant p.act)) := by
  change Host.Outcome.next (List.foldl _ (s.setCtx c (s.takeDue c Action.isPush).2) (s.takeDue c Action.isPush).1) = _
  rw [h]
  simp only [List.foldl_cons, List.foldl_nil, hp]
  rfl

theorem bankOwnershipChange_one {s : State} {c : Nat} {p : Pending} (h : (s.takeDue c Action.isBank).1 = [p]) :
    exec (.bankOwnershipChange c) s =
      .next ((s.setCtx c (s.takeDue c Action.isBank).2).modCore (coreOf c) (CoreState.take · c (s.ctx c).tenant p.act)) := by
  have hbank : p.act.isBank = true := by
    have hp : p ∈ (s.takeDue c Action.isBank).1 := by rw [h]; exact List.mem_singleton_self p
    simp only [State.takeDue, List.mem_filter, Bool.and_eq_true] at hp
    exact hp.2.1
  change Host.Outcome.next (List.foldl _ (s.setCtx c (s.takeDue c Action.isBank).2) (s.takeDue c Action.isBank).1) = _
  rw [h]
  cases hp : p.act <;> simp only [hp, Action.isBank, Bool.false_eq_true] at hbank
  all_goals
    simp only [List.foldl_cons, List.foldl_nil, hp]
    rfl

/-! ## Banks -/

theorem mem_banksOf (m : BitVec 48) (b : Nat) : b ∈ banksOf m ↔ b < 48 ∧ m.getLsbD b = true := by
  simp [banksOf]

/-- Banks taken belong to the context and are released by nobody (R151). -/
theorem takeBanks_only (c : Nat) (l : List Nat) (k : CoreState) :
    let k' := l.foldl (fun k b => { k with bankOwner := fput k.bankOwner b (c + 1), released := fdel k.released b }) k
    k' = { k with bankOwner := k'.bankOwner, released := k'.released } ∧
      ∀ b, fget 0 k'.bankOwner b = (if b ∈ l then c + 1 else fget 0 k.bankOwner b) ∧
        fget 0 k'.released b = if b ∈ l then 0 else fget 0 k.released b := by
  induction l generalizing k with
  | nil => exact ⟨rfl, fun b => by simp⟩
  | cons x l ih =>
    obtain ⟨honly, hbank⟩ := ih { k with bankOwner := fput k.bankOwner x (c + 1), released := fdel k.released x }
    refine ⟨honly, fun b => ?_⟩
    obtain ⟨howner, hrel⟩ := hbank b
    refine ⟨howner.trans ?_, hrel.trans ?_⟩
    · by_cases hx : b = x <;> simp [fget_fput, hx]
    · by_cases hx : b = x <;> simp [fget_fdel, hx]

/-- Banks given up belong to nobody and are released by the tenant (R151). -/
theorem giveBanks_only (tenant : Nat) (l : List Nat) (k : CoreState) :
    let k' := l.foldl (fun k b => { k with bankOwner := fdel k.bankOwner b, released := fput k.released b (tenant + 1) }) k
    k' = { k with bankOwner := k'.bankOwner, released := k'.released } ∧
      ∀ b, fget 0 k'.bankOwner b = (if b ∈ l then 0 else fget 0 k.bankOwner b) ∧
        fget 0 k'.released b = if b ∈ l then tenant + 1 else fget 0 k.released b := by
  induction l generalizing k with
  | nil => exact ⟨rfl, fun b => by simp⟩
  | cons x l ih =>
    obtain ⟨honly, hbank⟩ := ih { k with bankOwner := fdel k.bankOwner x, released := fput k.released x (tenant + 1) }
    refine ⟨honly, fun b => ?_⟩
    obtain ⟨howner, hrel⟩ := hbank b
    refine ⟨howner.trans ?_, hrel.trans ?_⟩
    · by_cases hx : b = x <;> simp [fget_fdel, hx]
    · by_cases hx : b = x <;> simp [fget_fput, hx]

theorem take_scratch (k : CoreState) (c tenant : Nat) (a : Action) : (k.take c tenant a).scratch = k.scratch := by
  cases a with
  | scalePush a n => simp only [CoreState.take]; split <;> rfl
  | bankAcq m => rw [CoreState.take, (takeBanks_only c (banksOf m) k).1]
  | bankRel m => rw [CoreState.take, (giveBanks_only tenant (banksOf m) k).1]
  | _ => rfl

/-- The end of the zeroing of banks drops those whose time is over and keeps the others (R32). -/
theorem bankZeroingDone_completes (s : State) (core : Nat) : Completes (.bankZeroingDone core) s (fun t =>
    s.OnlyCore t core ∧ t.core core = { s.core core with bankZero := (t.core core).bankZero } ∧
      (t.core core).bankZero = (s.core core).bankZero.filter fun e => decide (s.cycle < e.2)) := by
  rw [Completes, exec_bankZeroingDone, execBankZeroingDone]
  split
  · next h =>
    refine ⟨s, rfl, ⟨rfl, fun _ _ => rfl, fun _ => rfl, fun _ => rfl⟩, rfl, ?_⟩
    exact (List.filter_eq_self.2 (by simpa using h)).symm
  · exact ⟨_, rfl, modCore_onlyCore .., by simp, by simp⟩

/-- Settles O32: each of the three kinds leaves its context and acts on the core by its own operation, and a bank whose zeroing
still goes on is not among those dropped. -/
theorem tableAndBankEvents : Obligations.TableAndBankEvents := by
  intro s c core entry a n p word m
  have hsame := due_acts s c
  refine ⟨fun h hp => ?word, fun h hp => ?push, fun h hp => ?acquire, fun h hp => ?release, ?zeroing⟩
  case word =>
    refine ⟨_, controlWordWrite_one h hp, hsame Action.isWord _ fun k => take_scratch .., ?_, fun i => ?_⟩
    all_goals simp only [State.core_modCore_same, hp, CoreState.take]
    · rfl
    · exact fget_fput ..
  case push =>
    refine ⟨_, scaleQueuePush_one h hp, hsame Action.isPush _ fun k => take_scratch .., ?_⟩
    simp only [State.core_modCore_same, hp, CoreState.take, State.setCtx_core]
    by_cases hl : (s.core (coreOf c)).lease = some c <;> simp [hl]
  case acquire =>
    have ⟨honly, hbank⟩ := takeBanks_only c (banksOf m) (s.core (coreOf c))
    refine ⟨_, bankOwnershipChange_one h, hsame Action.isBank _ fun k => take_scratch .., ?_, fun b => ?_⟩
    all_goals simp only [State.core_modCore_same, hp, CoreState.take, State.setCtx_core]
    · exact honly
    · simpa only [mem_banksOf] using hbank b
  case release =>
    have ⟨honly, hbank⟩ := giveBanks_only (s.ctx c).tenant (banksOf m) (s.core (coreOf c))
    refine ⟨_, bankOwnershipChange_one h, hsame Action.isBank _ fun k => take_scratch .., ?_, fun b => ?_⟩
    all_goals simp only [State.core_modCore_same, hp, CoreState.take, State.setCtx_core]
    · exact honly
    · simpa only [mem_banksOf] using hbank b
  case zeroing =>
    obtain ⟨t, hexec, honly, hcore, hbanks⟩ := bankZeroingDone_completes s core
    refine ⟨t, hexec, honly, hcore, fun e => by rw [hbanks]; simp, fun b hb => ?_⟩
    have hcycle : t.cycle = s.cycle := by rw [honly.1]
    simp only [State.zeroing, hbanks, hcycle] at hb ⊢
    rwa [fget_filter]
    exact hb

end Sys2Proof.Machine

/-! # Proofs: fetched lines, and stops between bundles (R21, R27, R62–R64, R125, R355) -/

namespace Sys2Proof.Machine

theorem exec_fetchFill (c : Nat) (s : State) : exec (.fetchFill c) s = execFetchFill c s := rfl
theorem exec_watchpointImpreciseStop (c : Nat) (s : State) :
    exec (.watchpointImpreciseStop c) s = execWatchpointImpreciseStop c s := rfl
theorem exec_replayTimeout (c : Nat) (s : State) : exec (.replayTimeout c) s = execReplayTimeout c s := rfl

/-! ## Stops between bundles -/

theorem stopWith_sameBytes (s : State) (c : Nat) (word faddr : Word) (slotres : Nat) (donemask : BitVec 6)
    (l : List (Nat × Nat)) : s.SameBytes (s.stopWith c word faddr slotres donemask l) := by
  refine ⟨fun a => by simp [State.stopWith], fun a => by simp [State.stopWith, State.notice], fun n a => ?_⟩
  simp only [State.stopWith, traceWith_core]
  exact congrArg (fun m => mget m a) (dropWidth_scratch _ _ n)

/-- A stop with nothing committed. -/
theorem stopWith_halts (s : State) (c : Nat) (word faddr : Word) (donemask : BitVec 6) (l : List (Nat × Nat)) :
    s.Halts (s.stopWith c word faddr 0 donemask l) c word faddr := by
  have h := stopWith_ctx s c word faddr 0 donemask l
  have hc := h c
  rw [if_pos rfl] at hc
  rw [State.Halts, hc]
  exact ⟨rfl, rfl, rfl, rfl, rfl, rfl, fun d hd => by rw [h d, if_neg hd], stopWith_sameBytes ..⟩

/-- A stop after a change that leaves every byte, every other context, and the registers and the place of this one. -/
theorem halts_of_left {s u t : State} {c : Nat} {word faddr : Word} (h : u.Halts t c word faddr) (hb : s.SameBytes u)
    (hr : (u.ctx c).r = (s.ctx c).r) (hpc : (u.ctx c).pc = (s.ctx c).pc) (ho : ∀ d, d ≠ c → u.ctx d = s.ctx d) :
    s.Halts t c word faddr := by
  obtain ⟨hst, hfault, hfaddr, hslot, hregs, hplace, hothers, hbytes⟩ := h
  exact ⟨hst, hfault, hfaddr, hslot, hregs.trans hr, hplace.trans hpc, fun d hd => (hothers d hd).trans (ho d hd),
    sameBytes_trans hb hbytes⟩

theorem State.ctx_modCtx (s : State) (c d : Nat) (f : Ctx → Ctx) :
    (s.modCtx c f).ctx d = if d = c then f (s.ctx c) else s.ctx d := State.ctx_setCtx ..

@[simp] theorem State.ctx_modCtx_same (s : State) (c : Nat) (f : Ctx → Ctx) : (s.modCtx c f).ctx c = f (s.ctx c) :=
  State.ctx_setCtx_same ..

theorem State.ctx_modCtx_ne (s : State) (c d : Nat) (f : Ctx → Ctx) (h : d ≠ c) : (s.modCtx c f).ctx d = s.ctx d :=
  State.ctx_setCtx_ne _ _ _ _ h

@[simp] theorem State.modCore_ctx (s : State) (n : Nat) (f : CoreState → CoreState) (d : Nat) :
    (s.modCore n f).ctx d = s.ctx d := rfl

/-- A change of one core that keeps its scratchpad keeps every byte. -/
theorem modCore_sameBytes (s : State) (n : Nat) (f : CoreState → CoreState) (h : (f (s.core n)).scratch = (s.core n).scratch) :
    s.SameBytes (s.modCore n f) := by
  refine ⟨fun _ => rfl, fun _ => rfl, fun d a => ?_⟩
  rw [State.core_modCore]
  split
  · next hd => rw [h, hd]
  · rfl

theorem modCtx_sameBytes (s : State) (c : Nat) (f : Ctx → Ctx) : s.SameBytes (s.modCtx c f) :=
  ⟨fun _ => rfl, fun _ => rfl, fun _ _ => rfl⟩

/-! ## What replay holds is withdrawn (R125) -/

theorem withdraw_sameBytes (s : State) (c : Nat) : s.SameBytes (s.withdraw c) :=
  sameBytes_trans (modCtx_sameBytes ..) (modCore_sameBytes _ _ _ rfl)

theorem withdraw_ctx (s : State) (c d : Nat) : (s.withdraw c).ctx d =
    if d = c then { s.ctx c with lsu := withdrawn (s.ctx c).lsu } else s.ctx d :=
  State.ctx_modCtx s c d fun x => { x with lsu := withdrawn x.lsu }

/-- Nothing that is left in the list is a replayed operation. -/
theorem withdrawn_not_replayed (l : List LsuItem) (y : Access) (h : .access y ∈ withdrawn l) :
    LsuItem.replayed (.access y) = false := by
  simp only [withdrawn, List.mem_map, List.mem_filter, Bool.not_eq_true'] at h
  obtain ⟨i, ⟨_, hi⟩, hy⟩ := h
  cases i with
  | access a =>
    simp only [LsuItem.access.injEq] at hy
    subst hy
    exact hi
  | _ => cases hy

/-! ## Fetched lines (R62–R64) -/

/-- The line that a context waits for is in neither the line buffer nor the L1I, and no walk for it has failed. -/
theorem fetched_of_fetchNeed {s : State} {c : Nat} {va : Word} (h : s.fetchNeed c = some va) : s.fetched c va = .miss := by
  unfold State.fetchNeed at h
  split at h
  · next hm => cases h; exact hm
  · split at h
    · next hm => cases h; exact hm
    · cases h

theorem fetched_lt {s : State} {c : Nat} {va : Word} (h : s.fetched c va = .miss) : va.toNat < 2 ^ 55 := by
  unfold State.fetched at h
  by_contra hva
  rw [if_pos (by omega)] at h
  cases h

/-- A line buffer that holds the line of an address answers its fetch. -/
theorem fetched_of_line {s : State} {c : Nat} {va : Word} {line : List Byte} (hva : va.toNat < 2 ^ 55)
    (h : (s.ctx c).line = some (va.toNat / 128, line)) : s.fetched c va = .ok line := by
  have hva' : ¬ 2 ^ 55 ≤ va.toNat := by omega
  simp only [State.fetched, if_neg hva', h, if_true]

/-- Where a line is not at hand, the newest refusal of a walk of its page answers its fetch. -/
theorem fetched_of_walkFail {s t : State} {c code detail : Nat} {va : Word} (h : s.fetched c va = .miss)
    (hcore : t.core (coreOf c) = s.core (coreOf c)) (hline : (t.ctx c).line = (s.ctx c).line)
    (htenant : (t.ctx c).tenant = (s.ctx c).tenant)
    (hfail : (t.ctx c).walkFail = (va.toNat / 0x10000, code, detail) :: (s.ctx c).walkFail) :
    t.fetched c va = .fault code detail := by
  have hva' : ¬ 2 ^ 55 ≤ va.toNat := by have := fetched_lt h; omega
  simp only [State.fetched, if_neg hva'] at h ⊢
  rw [hcore, hline, htenant, hfail]
  split at h
  · cases h
  · split at h
    · cases h
    · simp

/-- The Plaza's level holds no line of the physical address. -/
theorem notHeld_of_ne {o : Option (Nat × List Byte)} {n : Nat} (h : ∀ line, o ≠ some (n, line)) :
    o.filter (fun l => l.1 = n) = none := by
  rw [Option.filter_eq_none_iff]
  intro l hl hn
  exact h l.2 (by rw [hl, ← of_decide_eq_true hn])

/-- A context that waits for a line has it brought. -/
theorem execFetchFill_asks {s : State} {c : Nat} {va : Word} (hc : (s.ctx c).iss.cause = some .fetch)
    (h : s.fetchNeed c = some va) : exec (.fetchFill c) s = .next (s.fillLine c va) := by
  simp [exec_fetchFill, execFetchFill, h, hc]

/-- A line enters the L1I, the Plaza's level and the line buffer. -/
def State.putLine (s : State) (c : Nat) (va : Word) (l : Nat × List Byte) : State :=
  ((s.modCore (coreOf c) fun k => { k with l1i := fput k.l1i (lineKey (s.ctx c).tenant va.toNat) l }).modMs fun m =>
      { m with plaza := fput m.plaza (plazaKey (coreOf c) (s.ctx c).tenant va.toNat) l }).modCtx c fun y =>
    { y with line := some (va.toNat / 128, l.2), iss := { y.iss with cause := none } }

/-- A fetch fails: the refusal is noted, and the context is offered again. -/
def State.failFetch (s : State) (c : Nat) (va : Word) (code detail : Nat) : State :=
  s.modCtx c fun y =>
    { y with walkFail := (va.toNat / 0x10000, code, detail) :: y.walkFail, iss := { y.iss with cause := none } }

theorem fillLine_eq (s : State) (c : Nat) (va : Word) : s.fillLine c va =
    match s.check (coreOf c) (s.ctx c).tenant (s.ctx c).walkFail va { ex := true } with
    | .ok pa _ =>
      match (ffind s.ms.plaza (plazaKey (coreOf c) (s.ctx c).tenant va.toNat)).filter fun l => l.1 = pa / 128 with
      | some l => s.putLine c va l
      | none =>
        if !s.backed pa then (s.tellAbsent c pa va.toNat).failFetch c va 0x14 3
        else if s.poisoned pa then s.failFetch c va 0x14 2
        else if s.halfWritten (pa / 128 * 128) 128 then s
        else s.putLine c va (pa / 128, mread s.mem (pa / 128 * 128) 128)
    | .fault code reason => s.failFetch c va code reason
    | .miss => (s.askWalk (coreOf c) (s.ctx c).tenant va false).modCtx c fun y =>
        { y with asked := some (va.toNat / 0x10000) } := rfl

/-- What a line that has arrived leaves. -/
theorem putLine_fills (s : State) (c : Nat) {va : Word} (l : Nat × List Byte) (hva : va.toNat < 2 ^ 55) :
    let t := s.putLine c va l
    t.fetched c va = .ok l.2 ∧ (t.ctx c).iss.cause = none ∧ (t.ctx c).r = (s.ctx c).r ∧ (t.ctx c).pc = (s.ctx c).pc ∧
      t.mem = s.mem ∧ ∀ n, n ≠ c → t.ctx n = s.ctx n := by
  have hctx : (s.putLine c va l).ctx c =
      { s.ctx c with line := some (va.toNat / 128, l.2), iss := { (s.ctx c).iss with cause := none } } :=
    State.ctx_modCtx_same ..
  refine ⟨fetched_of_line hva (by rw [hctx]), ?_, ?_, ?_, rfl, fun n hn => State.ctx_modCtx_ne _ _ _ _ hn⟩
  all_goals rw [hctx]

/-- What a fetch that failed leaves. -/
theorem failFetch_fails {s u : State} {c : Nat} {va : Word} (code detail : Nat) (h : s.fetched c va = .miss)
    (hcore : u.core (coreOf c) = s.core (coreOf c)) (hctx : ∀ n, u.ctx n = s.ctx n) :
    let t := u.failFetch c va code detail
    t.fetched c va = .fault code detail ∧ (t.ctx c).iss.cause = none ∧ ∀ n, n ≠ c → t.ctx n = s.ctx n := by
  have ht : (u.failFetch c va code detail).ctx c = { s.ctx c with
      walkFail := (va.toNat / 0x10000, code, detail) :: (s.ctx c).walkFail, iss := { (s.ctx c).iss with cause := none } } := by
    rw [← hctx c]; exact State.ctx_modCtx_same ..
  refine ⟨fetched_of_walkFail h hcore ?_ ?_ ?_, ?_, fun n hn => (State.ctx_modCtx_ne _ _ _ _ hn).trans (hctx n)⟩
  all_goals rw [ht]

theorem tellAbsent_eq (s : State) (who pa va : Nat) : s.tellAbsent who pa va = { s with pf := (s.tellAbsent who pa va).pf } := by
  unfold State.tellAbsent
  simp only
  split <;> rfl

@[simp] theorem tellAbsent_ctx (s : State) (who pa va n : Nat) : (s.tellAbsent who pa va).ctx n = s.ctx n := by
  rw [tellAbsent_eq]; rfl
@[simp] theorem tellAbsent_core (s : State) (who pa va n : Nat) : (s.tellAbsent who pa va).core n = s.core n := by
  rw [tellAbsent_eq]; rfl

/-! ## Walks asked for (R20, R21) -/

theorem askWalkOf_onlyQuarter (s : State) (q t : Nat) (va : Word) (write : Bool) : s.OnlyQuarter (s.askWalkOf q t va write) q :=
  ⟨rfl, fun _ h => State.quarter_modQuarter_ne _ _ _ _ h, fun _ => rfl, fun _ => rfl, fun _ _ => rfl⟩

/-- A walk that is asked for runs, or one of the same page does already. -/
theorem askWalkOf_walks (s : State) (q t : Nat) (va : Word) (write : Bool) :
    ∃ w, w ∈ ((s.askWalkOf q t va write).quarter q).walks ∧ w.tenant = t ∧ w.page = va.toNat / 0x10000 := by
  simp only [State.askWalkOf, State.quarter_modQuarter_same]
  split
  · next h =>
    simp only [List.any_eq_true, Bool.and_eq_true, decide_eq_true_eq] at h
    exact h
  · exact ⟨_, List.mem_append_right _ (List.mem_singleton_self _), rfl, rfl⟩

/-- Settles O28: the arrival of a line by what the check of its address answers and where its bytes are found; each stop by its
cause. -/
theorem fetchAndStopEvents : Obligations.FetchAndStopEvents := by
  intro s c pa code detail i nb va r
  refine ⟨fun h => ?idle, fun hasks hcheck => ⟨fun line hline => ?plaza, fun hline => ⟨fun hb hp => ⟨fun hw => ?memory,
    fun hw => ?halfWritten⟩, fun hb hp => ?poisoned, fun hb => ?absent⟩⟩, fun hasks hcheck => ?refused, fun hasks hcheck => ?miss,
    fun hr hst => ?watch, fun hr => ?noWatch, fun ho hst => ?overdue, fun ho hst => ?frozen, withdrawn_not_replayed _,
    fun ho => ?notOverdue⟩
  case idle =>
    rw [exec_fetchFill, execFetchFill]
    cases hn : s.fetchNeed c with
    | none => rfl
    | some va => exact if_neg (h.resolve_right (by simp [hn]))
  case plaza =>
    obtain ⟨hcause, hneed⟩ := hasks
    refine ⟨_, execFetchFill_asks hcause hneed, ?_⟩
    simp only [fillLine_eq, hcheck, hline, Option.filter_some, decide_true, if_true]
    exact putLine_fills s c (pa / 128, line) (fetched_lt (fetched_of_fetchNeed hneed))
  case memory =>
    obtain ⟨hcause, hneed⟩ := hasks
    refine ⟨_, execFetchFill_asks hcause hneed, ?_⟩
    simp only [fillLine_eq, hcheck, notHeld_of_ne hline, hb, hp, hw, Bool.not_true, Bool.false_eq_true, if_false]
    exact putLine_fills s c _ (fetched_lt (fetched_of_fetchNeed hneed))
  case halfWritten =>
    obtain ⟨hcause, hneed⟩ := hasks
    rw [execFetchFill_asks hcause hneed]
    simp only [fillLine_eq, hcheck, notHeld_of_ne hline, hb, hp, hw, Bool.not_true, Bool.false_eq_true, if_false, if_true]
  case poisoned =>
    obtain ⟨hcause, hneed⟩ := hasks
    refine ⟨_, execFetchFill_asks hcause hneed, ?_⟩
    simp only [fillLine_eq, hcheck, notHeld_of_ne hline, hb, hp, Bool.not_true, Bool.false_eq_true, if_false, if_true]
    exact failFetch_fails _ _ (fetched_of_fetchNeed hneed) rfl fun _ => rfl
  case absent =>
    obtain ⟨hcause, hneed⟩ := hasks
    refine ⟨_, execFetchFill_asks hcause hneed, ?_⟩
    simp only [fillLine_eq, hcheck, notHeld_of_ne hline, hb, Bool.not_false, if_true]
    exact failFetch_fails _ _ (fetched_of_fetchNeed hneed) (by simp) fun _ => by simp
  case refused =>
    obtain ⟨hcause, hneed⟩ := hasks
    refine ⟨_, execFetchFill_asks hcause hneed, ?_⟩
    simp only [fillLine_eq, hcheck]
    exact failFetch_fails _ _ (fetched_of_fetchNeed hneed) rfl fun _ => rfl
  case miss =>
    obtain ⟨hcause, hneed⟩ := hasks
    refine ⟨_, execFetchFill_asks hcause hneed, ?_⟩
    simp only [fillLine_eq, hcheck]
    exact ⟨fun n hn => State.ctx_modCtx_ne _ _ _ _ hn, State.ctx_modCtx_same .., ⟨fun _ => rfl, fun _ => rfl, fun _ _ => rfl⟩,
      askWalkOf_walks ..⟩
  case watch =>
    have hcode : r.code = 0x11 := by simpa using List.find?_some hr
    refine ⟨s.deliverReport c r, by simp [exec_watchpointImpreciseStop, execWatchpointImpreciseStop, hr, hst], ?_, ?_⟩
    · simp only [State.deliverReport, hcode]
      refine halts_of_left (stopWith_halts ..) (modCtx_sameBytes ..) ?_ ?_ fun d hd => State.ctx_modCtx_ne _ _ _ _ hd
      all_goals rw [State.ctx_modCtx_same]
    · simp only [State.deliverReport, stopWith_ctx, if_true, State.ctx_modCtx_same]
  case noWatch => simp [exec_watchpointImpreciseStop, execWatchpointImpreciseStop, hr]
  case overdue =>
    refine ⟨(s.withdraw c).stopWith c (faultWord 0x0C 6 0) (BitVec.ofNat 64 i) 0 (s.ctx c).skip, ?_, ?_, ?_⟩
    · rw [exec_replayTimeout, execReplayTimeout, ho]
      exact if_pos (by simpa [or_assoc] using hst)
    · refine halts_of_left (stopWith_halts ..) (withdraw_sameBytes s c) ?_ ?_ fun d hd => by rw [withdraw_ctx, if_neg hd]
      all_goals rw [withdraw_ctx, if_pos rfl]
    · simp only [stopWith_ctx, if_true, withdraw_ctx]
  case frozen =>
    refine ⟨(s.withdraw c).modCtx c fun x => { x with doom := (0x0C, 6, 0, BitVec.ofNat 64 i) :: x.doom }, ?_, ?_,
      fun n hn => ?_, sameBytes_trans (withdraw_sameBytes s c) (modCtx_sameBytes ..)⟩
    · simp [exec_replayTimeout, execReplayTimeout, ho, hst]
    · rw [State.ctx_modCtx_same, withdraw_ctx, if_pos rfl]
    · rw [State.ctx_modCtx_ne _ _ _ _ hn, withdraw_ctx, if_neg hn]
  case notOverdue => simp [exec_replayTimeout, execReplayTimeout, ho]

end Sys2Proof.Machine

/-! # Proofs: commands of the drays at issue, and their cancellation (R34, R122, R178, R316–R320) -/

namespace Sys2Proof.Machine

theorem exec_xcp (c : CSlot) (tk scope : BitVec 3) (rel acq : Bool) (base : BitVec 5) (s : State) :
    exec (.xcp c tk scope rel acq base) s = execXcp c tk scope rel acq base s := rfl
theorem exec_xcp2 (c : CSlot) (tk scope : BitVec 3) (rel acq : Bool) (base : BitVec 5) (s : State) :
    exec (.xcp2 c tk scope rel acq base) s = execXcp2 c tk scope rel acq base s := rfl
theorem exec_xcoll (c : CSlot) (tk scope : BitVec 3) (rel acq : Bool) (base : BitVec 5) (s : State) :
    exec (.xcoll c tk scope rel acq base) s = execXcoll c tk scope rel acq base s := rfl
theorem exec_xcan (c : CSlot) (tk : BitVec 3) (s : State) : exec (.xcan c tk) s = execXcan c tk s := rfl

/-! ## Drays and tokens -/

/-- A dray of a core after one of its drays has changed. -/
theorem CoreState.dray_fput (k : CoreState) (d n : Nat) (x : Dray) :
    ({ k with drays := fput k.drays d x } : CoreState).dray n = if n = d then x else k.dray n := fget_fput ..

/-- A change of a dray changes nothing else. -/
theorem State.core_modDray (s : State) (core d n : Nat) (f : Dray → Dray) : (s.modDray core d f).core n =
    if n = core then { s.core core with drays := fput (s.core core).drays d (f ((s.core core).dray d)) } else s.core n :=
  State.core_modCore s core n fun k => { k with drays := fput k.drays d (f (k.dray d)) }

theorem State.dray_modDray (s : State) (core d n : Nat) (f : Dray → Dray) :
    ((s.modDray core d f).core core).dray n = if n = d then f ((s.core core).dray d) else (s.core core).dray n := by
  rw [State.core_modDray, if_pos rfl, CoreState.dray_fput]

@[simp] theorem State.modDray_ctx (s : State) (core d n : Nat) (f : Dray → Dray) : (s.modDray core d f).ctx n = s.ctx n := rfl

theorem modDray_sameBytes (s : State) (core d : Nat) (f : Dray → Dray) : s.SameBytes (s.modDray core d f) :=
  modCore_sameBytes _ _ _ rfl

/-- A token after its completion. -/
def Token.finished (t : Token) (status tick : Nat) : Token := { t with st := 2, status := status, stamp := tick }

theorem tokenDone_ctx (s : State) (c tk status n : Nat) : (s.tokenDone c tk status).ctx n =
    if n = c then { s.ctx c with
      tokens := fput (s.ctx c).tokens tk (Token.finished (fget {} (s.ctx c).tokens tk) status s.tick) } else s.ctx n :=
  State.ctx_modCtx s c n fun x => { x with tokens := fput x.tokens tk (Token.finished (fget {} x.tokens tk) status s.tick) }

@[simp] theorem tokenDone_core (s : State) (c tk status n : Nat) : (s.tokenDone c tk status).core n = s.core n := rfl
@[simp] theorem tokenDone_cur (s : State) (c tk status : Nat) : (s.tokenDone c tk status).cur = s.cur := rfl

/-! ## Issue (R316) -/

/-- A dray with one command more: it runs at once if nothing does, else it waits in the shadow place. -/
def Dray.enter (x : Dray) (c : DrayCmd) : Dray :=
  if x.running = none then { x with running := some c } else { x with shadow := some c }

/-- The token of a command that has been issued. -/
def DrayCmd.busyToken (c : DrayCmd) : Token := { st := 1, owner := c.slot - 3, rel := c.rel, scope := c.scope }

/-- A command's entry makes its token busy and puts it into its dray, and changes nothing else. -/
theorem enterDray_only (s : State) (c : DrayCmd) :
    let t := s.enterDray c
    t.me = { s.me with tokens := fput s.me.tokens c.token c.busyToken } ∧ (∀ n, n ≠ s.cur → t.ctx n = s.ctx n) ∧
      (∀ n, n ≠ coreOf s.cur → t.core n = s.core n) ∧ s.SameBytes t ∧
      t.core (coreOf s.cur) = { s.myCore with
        drays := fput s.myCore.drays (c.slot - 4) ((s.myCore.dray (c.slot - 4)).enter c) } := by
  refine ⟨State.ctx_setCtx_same .., fun n h => State.ctx_setCtx_ne _ _ _ _ h, fun n h => State.core_modCore_ne _ _ _ _ h,
    modDray_sameBytes .., ?_⟩
  refine (State.core_modCore_same ..).trans ?_
  simp only [Dray.enter, ← Option.isNone_iff_eq_none]
  rfl

/-- A dray has room. -/
theorem drayFull_of_room {s : State} {c : CSlot} (h : (s.myCore.dray (cslot c - 4)).frozen = false ∧
    ((s.myCore.dray (cslot c - 4)).running = none ∨ (s.myCore.dray (cslot c - 4)).shadow = none)) : s.drayFull c = false := by
  obtain ⟨hf, hr | hs⟩ := h <;> simp [State.drayFull, *]

theorem drayFull_of_full {s : State} {c : CSlot} (h : ¬ ((s.myCore.dray (cslot c - 4)).frozen = false ∧
    ((s.myCore.dray (cslot c - 4)).running = none ∨ (s.myCore.dray (cslot c - 4)).shadow = none))) : s.drayFull c = true := by
  by_contra hn
  simp only [State.drayFull, Bool.not_eq_true, Bool.or_eq_false_iff, Bool.and_eq_false_iff, Option.isSome_eq_false_iff,
    Option.isNone_iff_eq_none] at hn
  exact h hn

theorem tokenFault_idle {s : State} {tk : BitVec 3} (h : (fget {} s.me.tokens tk.toNat : Token).st ≠ 1) :
    s.tokenFault (token4 tk) = none := by
  have e : (token4 tk).toNat = tk.toNat := BitVec.toNat_setWidth_of_le (by decide)
  rw [State.tokenFault, e, decide_eq_false h, Bool.and_false]
  rfl

theorem rowFault_none {s : State} {tk : BitVec 3} {a : Word} (h : (fget {} s.me.tokens tk.toNat : Token).st ≠ 1)
    (ha : a.toNat % 64 = 0) (hb : s.bankFault a 64 = none) : s.rowFault tk a = none := by
  simp [State.rowFault, tokenFault_idle h, firstFault, alignFault, faultIf, ha, hb]

theorem rowFault_misaligned {s : State} {tk : BitVec 3} {a : Word} (h : (fget {} s.me.tokens tk.toNat : Token).st ≠ 1)
    (ha : a.toNat % 64 ≠ 0) : s.rowFault tk a = some { code := 5, addr := a } := by
  simp [State.rowFault, tokenFault_idle h, firstFault, alignFault, faultIf, ha]

theorem wellFormed_xcp {c : CSlot} {tk scope : BitVec 3} {rel acq : Bool} {base : BitVec 5}
    (h : WellFormed.flagScopeOk scope rel acq = true) (hb : base.toNat ≤ 28) :
    (Instr.xcp c tk scope rel acq base).wellFormed = true := by
  change (WellFormed.flagScopeOk scope rel acq && base.ule 28#5) = true
  simp [h, BitVec.ule, hb]

theorem wellFormed_xcp2 {c : CSlot} {tk scope : BitVec 3} {rel acq : Bool} {base : BitVec 5}
    (h : WellFormed.flagScopeOk scope rel acq = true) : (Instr.xcp2 c tk scope rel acq base).wellFormed = true := h

theorem wellFormed_xcoll {c : CSlot} {tk scope : BitVec 3} {rel acq : Bool} {base : BitVec 5}
    (h : WellFormed.flagScopeOk scope rel acq = true) : (Instr.xcoll c tk scope rel acq base).wellFormed = true := h

/-- `xcp` issued (R317). -/
def State.xcpCmd (s : State) (c : CSlot) (tk scope : BitVec 3) (rel acq : Bool) (base : BitVec 5) : DrayCmd :=
  let r (i : Nat) : Word := s.rd.sreg (base + BitVec.ofNat 5 i)
  let t (i : Nat) : Mask := s.rd.staint (base + BitVec.ofNat 5 i)
  { s.newDray (cslot c) 0 tk scope rel acq (t 0 ||| t 1 ||| t 2 ||| t 3) with
    src := r 0, dst := r 1, len := r 2, flags := r 3, rowlen := (r 2).toNat, rows := if r 2 = 0#64 then 0 else 1
    zero := (r 3).getLsbD 0, bad := xcpBad (r 0) (r 1) (r 2) (r 3) }

/-- `xcp2` and `xcoll` issued (R318, R319). -/
def State.rowCmd (s : State) (c : CSlot) (kind : Nat) (tk scope : BitVec 3) (rel acq : Bool) (base : BitVec 5) (row : Nat)
    (r : Option Rec) : DrayCmd :=
  { s.newDray (cslot c) kind tk scope rel acq (s.rd.staint base) with row := row, rcd := r }

section Issue
variable {s : State} {c : CSlot} {tk scope : BitVec 3} {rel acq : Bool} {base : BitVec 5}

theorem xcp_enters (h : WellFormed.flagScopeOk scope rel acq = true) (htk : (fget {} s.me.tokens tk.toNat : Token).st ≠ 1)
    (hb : base.toNat ≤ 28) (hroom : s.drayFull c = false) :
    exec (.xcp c tk scope rel acq base) s = .next (s.enterDray (s.xcpCmd c tk scope rel acq base)) := by
  rw [exec_xcp, execXcp, static_and (wellFormed_xcp h hb), hroom, waitIf_false, gated_go]
  simp only [tokenFault_idle htk, State.orFault]
  rfl

theorem xcp_full (h : WellFormed.flagScopeOk scope rel acq = true) (hb : base.toNat ≤ 28) (hfull : s.drayFull c = true) :
    exec (.xcp c tk scope rel acq base) s = .next (s.stall .shadow) := by
  rw [exec_xcp, execXcp, static_and (wellFormed_xcp h hb), hfull, waitIf_true, gated_wait]

theorem xcp2_enters (h : WellFormed.flagScopeOk scope rel acq = true) (hroom : s.drayFull c = false)
    (hrow : s.rowFault tk (s.rd.sreg base) = none) : exec (.xcp2 c tk scope rel acq base) s =
      .next (s.enterDray (s.rowCmd c 1 tk scope rel acq base (s.rd.sreg base).toNat none)) := by
  rw [exec_xcp2, execXcp2, static_and (wellFormed_xcp2 h), hroom, waitIf_false, gated_go]
  simp only [hrow, State.orFault]
  rfl

theorem xcp2_faults (h : WellFormed.flagScopeOk scope rel acq = true) (hroom : s.drayFull c = false) {f : SFault}
    (hrow : s.rowFault tk (s.rd.sreg base) = some f) :
    exec (.xcp2 c tk scope rel acq base) s = .next (s.raise f.code f.detail (cslot c) f.addr) := by
  rw [exec_xcp2, execXcp2, static_and (wellFormed_xcp2 h), hroom, waitIf_false, gated_go]
  simp only [hrow, State.orFault]

/-- What `xcoll` does once its gate has let it pass and its descriptor row is sound (R319). -/
theorem xcoll_records (h : WellFormed.flagScopeOk scope rel acq = true) (hroom : s.drayFull c = false)
    (hgate : s.recordGate true = .go) (hrow : s.rowFault tk (s.rd.sreg base) = none) :
    let b := mread (s.scratchAhead s.cur) (s.rd.sreg base).toNat 64
    exec (.xcoll c tk scope rel acq base) s =
      .next (s.withRecord 7 (cslot c) 0 false (BitVec.ofNat 64 (field b 0 4)) (BitVec.ofNat 64 (field b 8 8)) fun r u =>
        u.enterDray (u.rowCmd c 2 tk scope rel acq base (s.rd.sreg base).toNat r)) := by
  rw [exec_xcoll, execXcoll, static_and (wellFormed_xcoll h), hroom, waitIf_false, go_and, hgate, gated_go]
  simp only [hrow, State.orFault]
  rfl

theorem xcoll_waits (h : WellFormed.flagScopeOk scope rel acq = true) (hroom : s.drayFull c = false) {w : Wait}
    (hgate : s.recordGate true = .wait w) : exec (.xcoll c tk scope rel acq base) s = .next (s.stall w) := by
  rw [exec_xcoll, execXcoll, static_and (wellFormed_xcoll h), hroom, waitIf_false, go_and, hgate, gated_wait]

end Issue

/-! ## The index of a record (R120, R122, R123) -/

/-- The device's own translation changes translations and access bits alone. -/
theorem translateNow_only (s : State) (core t : Nat) (va : Word) (need : Need) :
    let u := (s.translateNow core t va need).2
    u = { s with mem := u.mem, cores := u.cores, quarters := u.quarters } ∧
      ∀ n, u.core n = { s.core n with tlb := (u.core n).tlb } := by
  have hfill (m : Memory) (e : Tlb) : let u := ({ s with mem := m } : State).fillTlb core e
      u = { s with mem := u.mem, cores := u.cores, quarters := u.quarters } ∧
        ∀ n, u.core n = { s.core n with tlb := (u.core n).tlb } := by
    refine ⟨rfl, fun n => ?_⟩
    simp only [State.fillTlb, State.modQuarter_core, State.core_modCore]
    split
    · next hn => subst hn; rfl
    · rfl
  unfold State.translateNow
  split
  · split
    · exact ⟨rfl, fun _ => rfl⟩
    · exact ⟨rfl, fun _ => rfl⟩
    · split
      · exact hfill ..
      · exact hfill ..
  · exact ⟨rfl, fun _ => rfl⟩

/-- A warning of the ring's level changes what the context remembers of it, and tells firmware (R123). -/
theorem ringWarning_only (s : State) (c : Nat) :
    let u := s.ringWarning c
    u = { s with ctxs := u.ctxs, pf := u.pf } ∧ (∀ n, n ≠ c → u.ctx n = s.ctx n) ∧
      u.ctx c = { s.ctx c with man := { (s.ctx c).man with warned := (u.ctx c).man.warned } } := by
  unfold State.ringWarning
  simp only
  split
  · split
    · exact ⟨rfl, fun n hn => by rw [State.notice_ctx, State.ctx_modCtx_ne _ _ _ _ hn], by simp⟩
    · exact ⟨rfl, fun n hn => State.ctx_modCtx_ne _ _ _ _ hn, by simp⟩
  · exact ⟨rfl, fun _ _ => rfl, rfl⟩

/-- A context that may record takes the next index for its operation, and goes on with the record. -/
theorem withRecord_takes {s : State} (h : s.MayRecord) (type slot sub : Nat) (place value : Word) (k : Option Rec → State → State) :
    ∃ (r : Rec) (u : State), s.withRecord type slot sub false place value k = k (some r) u ∧ r.Says type slot sub place value ∧
      s.TakesIndex u r ∧ u.cur = s.cur ∧ ∀ n d, (u.core n).dray d = (s.core n).dray d := by
  obtain ⟨hrec, _, _, herr, b, hb⟩ := h
  let x : State := s.modMe fun x => { x with man := { x.man with
    next := s.me.man.next + 1, unwritten := x.man.unwritten ++ [s.me.man.next] } }
  let v : State := (x.translateNow (coreOf x.cur) x.me.tenant s.me.man.tailVa ringNeed).2
  obtain ⟨hv, hcore⟩ : v = { x with mem := v.mem, cores := v.cores, quarters := v.quarters } ∧
    ∀ n, v.core n = { x.core n with tlb := (v.core n).tlb } := translateNow_only ..
  obtain ⟨hu, _, hctx⟩ := ringWarning_only v x.cur
  let r : Rec := { index := s.me.man.next, type := type, slot := slot, sub := sub, bundles := s.me.bundles, place := place,
                   value := value, batched := false }
  have hcur : (v.ringWarning x.cur).cur = s.cur := by rw [hu, hv]; rfl
  have hman : ((v.ringWarning x.cur).ctx s.cur).man.next = s.me.man.next + 1 ∧
      ((v.ringWarning x.cur).ctx s.cur).man.unwritten = s.me.man.unwritten ++ [s.me.man.next] := by
    have hx : v.ctx x.cur = x.ctx x.cur := by rw [hv]; rfl
    rw [hx, show x.ctx x.cur = x.me from rfl, State.me_modMe] at hctx
    rw [show s.cur = x.cur from rfl, hctx]
    exact ⟨rfl, rfl⟩
  refine ⟨r, v.ringWarning x.cur, ?_, ⟨rfl, rfl, rfl, rfl, rfl, rfl⟩, ⟨rfl, rfl, rfl, ?_, ?_⟩, hcur, fun n d => ?_⟩
  · simp only [State.withRecord, State.takeRecord, hrec, if_true, State.takeIndex, herr, hb]
    rfl
  · rw [State.me, hcur]; exact hman.1
  · rw [State.me, hcur]; exact hman.2
  · have : (v.ringWarning x.cur).core n = v.core n := by rw [hu]; rfl
    rw [this, hcore n]
    rfl

/-! ## Cancellation (R178, R185, R320) -/

/-- A group's abort is told to the group alone. -/
theorem leaveGroup_eq (s : State) (c : DrayCmd) : s.leaveGroup c = { s with pf := (s.leaveGroup c).pf } := by
  unfold State.leaveGroup
  simp only
  split <;> rfl

@[simp] theorem leaveGroup_ctx (s : State) (c : DrayCmd) (n : Nat) : (s.leaveGroup c).ctx n = s.ctx n := by
  rw [leaveGroup_eq]; rfl
@[simp] theorem leaveGroup_core (s : State) (c : DrayCmd) (n : Nat) : (s.leaveGroup c).core n = s.core n := by
  rw [leaveGroup_eq]; rfl
@[simp] theorem leaveGroup_tick (s : State) (c : DrayCmd) : (s.leaveGroup c).tick = s.tick := by
  rw [leaveGroup_eq]
@[simp] theorem leaveGroup_cur (s : State) (c : DrayCmd) : (s.leaveGroup c).cur = s.cur := by
  rw [leaveGroup_eq]

theorem leaveGroup_sameBytes (s : State) (c : DrayCmd) : s.SameBytes (s.leaveGroup c) := by
  rw [leaveGroup_eq]; exact ⟨fun _ => rfl, fun _ => rfl, fun _ _ => rfl⟩

/-- Some tokens of the issuing context, and the dray d of its core, have changed, and nothing else that a program reads. -/
def State.Cancels (s t : State) (d : Nat) (p : Nat → Prop) (x : Dray) : Prop :=
  t.cur = s.cur ∧ t.me = { s.me with tokens := t.me.tokens } ∧ (∀ n, ¬ p n → (fget {} t.me.tokens n : Token) = fget {} s.me.tokens n) ∧
    (∀ n, p n → (fget {} t.me.tokens n : Token).st = 2 ∧ (fget {} t.me.tokens n : Token).status = 2) ∧
    (t.core (coreOf s.cur)).dray d = x ∧ (∀ n, n ≠ d → (t.core (coreOf s.cur)).dray n = (s.core (coreOf s.cur)).dray n) ∧
    s.SameBytes t

theorem cancels_trans {s t u : State} {d : Nat} {p q : Nat → Prop} {x y : Dray} (h : s.Cancels t d p x) (k : t.Cancels u d q y) :
    s.Cancels u d (fun n => q n ∨ p n) y := by
  obtain ⟨hcur, hme, hkept, hdone, hd, hdrays, hbytes⟩ := h
  obtain ⟨kcur, kme, kkept, kdone, kd, kdrays, kbytes⟩ := k
  rw [hcur] at kd kdrays
  refine ⟨kcur.trans hcur, by rw [kme, hme], fun n hn => ?_, fun n hn => ?_, kd, fun n hn => (kdrays n hn).trans (hdrays n hn),
    sameBytes_trans hbytes kbytes⟩
  · exact (kkept n fun h => hn (.inl h)).trans (hkept n fun h => hn (.inr h))
  · by_cases hq : q n
    · exact kdone n hq
    · rw [kkept n hq]; exact hdone n (hn.resolve_left hq)

/-- A token of the issuing context completes as cancelled, and a dray of its core changes (R177, R178). -/
theorem cancels_of {s t : State} {d tk : Nat} {x : Dray} (f : Dray → Dray)
    (h : t = (s.modDray (coreOf s.cur) d f).tokenDone s.cur tk 2) (hx : f ((s.core (coreOf s.cur)).dray d) = x) :
    s.Cancels t d (fun n => n = tk) x := by
  have hme : t.me = { s.me with tokens := fput s.me.tokens tk (Token.finished (fget {} s.me.tokens tk) 2 s.tick) } := by
    rw [h]; exact (tokenDone_ctx ..).trans (if_pos rfl)
  subst hx
  refine ⟨by rw [h]; rfl, by rw [hme], fun n hn => ?_, fun n hn => ?_, ?_, fun n hn => ?_, ?_⟩
  · rw [hme]; exact fget_fput_ne _ _ _ _ _ hn
  · subst hn
    rw [hme, fget_fput_same]
    exact ⟨rfl, rfl⟩
  · rw [h, tokenDone_core, State.dray_modDray, if_pos rfl]
  · rw [h, tokenDone_core, State.dray_modDray, if_neg hn]
  · rw [h]; exact sameBytes_trans (modDray_sameBytes s _ _ f) (modCtx_sameBytes ..)

/-- What is told to a group stands before the change and changes nothing that a program reads. -/
theorem cancels_leave {s t : State} {c : DrayCmd} {d : Nat} {p : Nat → Prop} {x : Dray} (h : (s.leaveGroup c).Cancels t d p x) :
    s.Cancels t d p x := by
  simpa [State.Cancels, State.me, State.SameBytes, show (s.leaveGroup c).mem = s.mem by rw [leaveGroup_eq],
    show (s.leaveGroup c).ms = s.ms by rw [leaveGroup_eq]] using h

theorem tokenDone_modDray (s : State) (core d c tk status : Nat) (f : Dray → Dray) :
    (s.tokenDone c tk status).modDray core d f = (s.modDray core d f).tokenDone c tk status := rfl

/-- The shadow command is discarded. -/
theorem discardShadow_cancels {s : State} {d : Nat} {y : DrayCmd} (h : y.owner = s.cur) :
    s.Cancels (s.discardShadow (coreOf s.cur) d y) d (fun n => n = y.token)
      { (s.core (coreOf s.cur)).dray d with shadow := none } := by
  refine cancels_leave (c := y) (cancels_of (fun w => { w with shadow := none }) ?_ (by simp))
  rw [leaveGroup_cur, ← h]
  rfl

/-- A running command that has not started, or cannot, ends at once, and the one behind it runs. -/
theorem cancelRunning_ends {s : State} {d : Nat} {z : DrayCmd} (h : z.owner = s.cur) (hend : z.ending = none)
    (hst : z.started = false ∨ z.bad = true) :
    let x := (s.core (coreOf s.cur)).dray d
    s.Cancels (s.cancelRunning (coreOf s.cur) d z) d (fun n => n = z.token) { x with running := x.shadow, shadow := none } := by
  have hst' : (!z.started || z.bad) = true := by obtain h | h := hst <;> simp [h]
  refine cancels_leave (c := z) (cancels_of (fun w => { w with running := w.shadow, shadow := none }) ?_ (by simp))
  rw [leaveGroup_cur, State.cancelRunning, hend, State.stopRunning, hend, if_neg (by simp), if_neg (by simp), if_pos hst', ← h]
  rfl

/-- A running command that has started is to stop between two lines. -/
theorem cancelRunning_stops {s : State} {d : Nat} {z : DrayCmd} (hrun : ((s.core (coreOf s.cur)).dray d).running = some z)
    (hend : z.ending = none) (hst : z.started = true) (hbad : z.bad = false) :
    s.Cancels (s.cancelRunning (coreOf s.cur) d z) d (fun _ => False)
      { (s.core (coreOf s.cur)).dray d with running := some { z with ending := some (.done 2) } } := by
  have e : s.cancelRunning (coreOf s.cur) d z =
      (s.leaveGroup z).modDray (coreOf s.cur) d fun x => { x with running := x.running.map fun y => { y with ending := some (.done 2) } } := by
    rw [State.cancelRunning, hend, State.stopRunning, hend, if_neg (by simp), if_neg (by simp), hst, hbad]
    rfl
  rw [e]
  refine cancels_leave (c := z) ⟨rfl, rfl, fun _ _ => rfl, fun _ h => h.elim, ?_, fun n hn => ?_, modDray_sameBytes ..⟩
  · rw [leaveGroup_cur, State.dray_modDray, if_pos rfl, leaveGroup_core, hrun]; rfl
  · rw [leaveGroup_cur, State.dray_modDray, if_neg hn]

section Cancel
variable {s : State} {c : CSlot} {tk : BitVec 3}

theorem execXcan_eq (c : CSlot) (tk : BitVec 3) (s : State) :
    exec (.xcan c tk) s = .next (match (s.myCore.dray (cslot c - 4)).shadow, (s.myCore.dray (cslot c - 4)).running with
      | some y, some z =>
        if y.owner = s.cur ∧ y.token = tk.toNat then s.discardShadow (coreOf s.cur) (cslot c - 4) y
        else if z.owner = s.cur ∧ z.token = tk.toNat then
          (if y.owner = s.cur then s.discardShadow (coreOf s.cur) (cslot c - 4) y else s).cancelRunning (coreOf s.cur) (cslot c - 4) z
        else s
      | none, some z =>
        if z.owner = s.cur ∧ z.token = tk.toNat then s.cancelRunning (coreOf s.cur) (cslot c - 4) z else s
      | _, none => s) := by
  rw [exec_xcan, execXcan, staticGate_of_wellFormed (i := .xcan c tk) rfl, gated_go]
  change Host.Outcome.next (match (s.myCore.dray (cslot c - 4)).shadow, (s.myCore.dray (cslot c - 4)).running with
    | some y, some z => _
    | _, some z => _
    | _, none => s) = _
  cases (s.myCore.dray (cslot c - 4)).shadow <;> cases (s.myCore.dray (cslot c - 4)).running <;>
    simp only [Bool.and_eq_true, decide_eq_true_eq]

/-- The running command is the one named, and the one behind it, if any, is another context's. -/
theorem xcan_alone {z : DrayCmd} (hr : (s.myCore.dray (cslot c - 4)).running = some z)
    (hz : z.owner = s.cur ∧ z.token = tk.toNat) (ho : ∀ y, (s.myCore.dray (cslot c - 4)).shadow = some y → y.owner ≠ s.cur) :
    exec (.xcan c tk) s = .next (s.cancelRunning (coreOf s.cur) (cslot c - 4) z) := by
  rw [execXcan_eq, hr]
  cases hs : (s.myCore.dray (cslot c - 4)).shadow with
  | none => simp only [if_pos hz]
  | some y => simp only [if_neg fun h : y.owner = s.cur ∧ _ => ho y hs h.1, if_pos hz, if_neg (ho y hs)]

/-- The running command is the one named, and the one behind it is the context's own. -/
theorem xcan_both {y z : DrayCmd} (hr : (s.myCore.dray (cslot c - 4)).running = some z)
    (hz : z.owner = s.cur ∧ z.token = tk.toNat) (hs : (s.myCore.dray (cslot c - 4)).shadow = some y) (hy : y.owner = s.cur)
    (ht : y.token ≠ tk.toNat) :
    exec (.xcan c tk) s =
      .next ((s.discardShadow (coreOf s.cur) (cslot c - 4) y).cancelRunning (coreOf s.cur) (cslot c - 4) z) := by
  rw [execXcan_eq, hr, hs]
  simp only [if_neg fun h : y.owner = s.cur ∧ _ => ht h.2, if_pos hz, if_pos hy]

end Cancel

/-- What an entry leaves, in the words of O26. -/
theorem enterDray_leaves (s : State) (c : CSlot) {x : DrayCmd} (hslot : x.slot = cslot c) :
    let t := s.enterDray x
    let d := cslot c - 4
    t.me = { s.me with tokens := t.me.tokens } ∧
      (∀ n, (fget {} t.me.tokens n : Token) = if n = x.token then { st := 1, owner := d + 1, rel := x.rel, scope := x.scope }
        else fget {} s.me.tokens n) ∧
      (∀ n, n ≠ s.cur → t.ctx n = s.ctx n) ∧ (∀ n, n ≠ coreOf s.cur → t.core n = s.core n) ∧ s.SameBytes t ∧
      t.core (coreOf s.cur) = { s.myCore with drays := (t.core (coreOf s.cur)).drays } ∧
      (∀ n, n ≠ d → (t.core (coreOf s.cur)).dray n = s.myCore.dray n) ∧
      (t.core (coreOf s.cur)).dray d = if (s.myCore.dray d).running = none then { s.myCore.dray d with running := some x }
        else { s.myCore.dray d with shadow := some x } := by
  obtain ⟨hme, hothers, hcores, hbytes, hcore⟩ := enterDray_only s x
  have hd : x.slot - 3 = cslot c - 4 + 1 := by rw [hslot]; cases c <;> rfl
  refine ⟨by rw [hme], fun n => ?_, hothers, hcores, hbytes, by rw [hcore], fun n hn => ?_, ?_⟩
  · rw [hme]
    refine (fget_fput ..).trans ?_
    rw [DrayCmd.busyToken, hd]
  · rw [hcore, hslot, CoreState.dray_fput, if_neg hn]
  · rw [hcore, hslot, CoreState.dray_fput, if_pos rfl]
    rfl

/-- Settles O26: the issue of each command by what stands before it, and a cancellation by where the command it names is. -/
theorem drayCommandIssue : Obligations.DrayCommandIssue := by
  refine ⟨?issue, ?cancel⟩
  case issue =>
    intro s c tk scope rel acq base hwf htk
    refine ⟨fun hb hroom => ?xcp, fun hroom hrow => ?xcp2, fun hroom hrow hrec hrep => ?xcoll, fun hroom hrow hrec => ?records,
      fun hroom hring => ?ring, fun hb hroom => ?full, fun hroom hrow => ?misaligned⟩
    case xcp =>
      refine ⟨_, xcp_enters hwf htk hb (drayFull_of_room hroom), s.xcpCmd c tk scope rel acq base, ?_, ?_, rfl, rfl, rfl, rfl, ?_⟩
      · exact ⟨rfl, rfl, rfl, rfl, rfl, rfl, rfl, rfl, rfl, enterDray_leaves s c rfl⟩
      all_goals simp [State.xcpCmd]
    case xcp2 =>
      refine ⟨_, xcp2_enters hwf (drayFull_of_room hroom) (rowFault_none htk hrow.1 hrow.2), s.rowCmd c 1 tk scope rel acq base (s.rd.sreg base).toNat none,
        ?_, rfl⟩
      exact ⟨rfl, rfl, rfl, rfl, rfl, rfl, rfl, rfl, rfl, enterDray_leaves s c rfl⟩
    case xcoll =>
      have hgate : s.recordGate true = .go := by simp [State.recordGate, State.ringReady, hrec, hrep]
      refine ⟨_, (xcoll_records hwf (drayFull_of_room hroom) hgate (rowFault_none htk hrow.1 hrow.2)).trans
        (by rw [withRecord_off _ _ _ _ _ _ _ _ hrec hrep]), s.rowCmd c 2 tk scope rel acq base (s.rd.sreg base).toNat none,
        ?_, rfl, rfl⟩
      exact ⟨rfl, rfl, rfl, rfl, rfl, rfl, rfl, rfl, rfl, enterDray_leaves s c rfl⟩
    case records =>
      have hgate : s.recordGate true = .go := by simp [State.recordGate, hrec.2.1, hrec.2.2.1]
      obtain ⟨r, u, hwith, hsays, ⟨hindex, horder, hbundles, hnext, hunwritten⟩, hcur, hdrays⟩ := withRecord_takes hrec 7 (cslot c) 0
        (BitVec.ofNat 64 (field (mread (s.scratchAhead s.cur) (s.rd.sreg base).toNat 64) 0 4))
        (BitVec.ofNat 64 (field (mread (s.scratchAhead s.cur) (s.rd.sreg base).toNat 64) 8 8))
        fun r u => u.enterDray (u.rowCmd c 2 tk scope rel acq base (s.rd.sreg base).toNat r)
      obtain ⟨hme, _, _, _, _, _, _, hd⟩ := enterDray_leaves u c (x := u.rowCmd c 2 tk scope rel acq base (s.rd.sreg base).toNat (some r)) rfl
      refine ⟨_, (xcoll_records hwf (drayFull_of_room hroom) hgate (rowFault_none htk hrow.1 hrow.2)).trans
        (congrArg _ hwith), u.rowCmd c 2 tk scope rel acq base (s.rd.sreg base).toNat (some r), r, rfl, rfl, rfl, hsays.1, hsays.2.1, ⟨hindex, horder, hbundles, ?_, ?_⟩, ?_⟩
      · rw [hme]; exact hnext
      · rw [hme]; exact hunwritten
      · rw [hcur] at hd
        simp only [State.myCore, hcur, hdrays] at hd
        exact hd
    case ring =>
      have hgate : s.recordGate true = .wait .manifest := by simp [State.recordGate, hring.1, hring.2.1, hring.2.2]
      exact ⟨_, xcoll_waits hwf (drayFull_of_room hroom) hgate, stall_stalls ..⟩
    case full => exact ⟨_, xcp_full hwf hb (drayFull_of_full hroom), stall_stalls ..⟩
    case misaligned =>
      exact ⟨_, xcp2_faults hwf (drayFull_of_room hroom) (rowFault_misaligned htk hrow), raise_stopped s 5 0 _ (some _)⟩
  case cancel =>
    intro s c tk
    refine ⟨fun hnone => ?none, fun y z hs hr hy => ?shadow, fun z hr hz hend hst => ⟨fun ho => ?alone, fun y ⟨hs, hy, ht⟩ => ?both⟩,
      fun z hr hz hend hst hbad => ⟨fun ho => ?stop, fun y ⟨hs, hy, ht⟩ => ?stopBoth⟩⟩
    case none =>
      rw [execXcan_eq]
      split
      · next y z hs hr => rw [if_neg (hnone y (.inr hs)), if_neg (hnone z (.inl hr))]
      · next z hs hr => rw [if_neg (hnone z (.inl hr))]
      · rfl
    case shadow =>
      obtain ⟨_, hme, hkept, hdone, hdray, hdrays, hbytes⟩ := discardShadow_cancels (s := s) (d := cslot c - 4) hy.1
      rw [hy.2] at hkept hdone
      exact ⟨_, by rw [execXcan_eq, hs, hr]; simp only [if_pos hy], hdone _ rfl, hdray, ⟨hme, hdrays, hbytes⟩, hkept⟩
    case alone =>
      obtain ⟨_, hme, hkept, hdone, hdray, hdrays, hbytes⟩ := cancelRunning_ends (d := cslot c - 4) hz.1 hend hst
      rw [hz.2] at hkept hdone
      exact ⟨_, xcan_alone hr hz ho, hdone _ rfl, hdray, ⟨hme, hdrays, hbytes⟩, hkept⟩
    case both =>
      have hfirst := discardShadow_cancels (s := s) (d := cslot c - 4) hy
      have hcur := hfirst.1
      have hdray' := hfirst.2.2.2.2.1
      obtain ⟨_, hme, hkept, hdone, hdray, hdrays, hbytes⟩ := cancels_trans hfirst
        (hcur ▸ cancelRunning_ends (d := cslot c - 4) (hz.1.trans hcur.symm) hend hst)
      rw [hz.2] at hkept hdone
      exact ⟨_, xcan_both hr hz hs hy ht, hdone _ (.inl rfl), hdone _ (.inr rfl), hdray.trans (by rw [hdray']; rfl),
        ⟨hme, hdrays, hbytes⟩, hkept⟩
    case stop =>
      obtain ⟨_, hme, hkept, _, hdray, hdrays, hbytes⟩ := cancelRunning_stops (s := s) (d := cslot c - 4) hr hend hst hbad
      exact ⟨_, xcan_alone hr hz ho, hdray, ⟨hme, hdrays, hbytes⟩, hkept⟩
    case stopBoth =>
      have hfirst := discardShadow_cancels (s := s) (d := cslot c - 4) hy
      have hcur := hfirst.1
      have hdray' := hfirst.2.2.2.2.1
      have hr' : (((s.discardShadow (coreOf s.cur) (cslot c - 4) y).core (coreOf s.cur)).dray (cslot c - 4)).running = some z := by
        rw [hdray']; exact hr
      obtain ⟨_, hme, hkept, hdone, hdray, hdrays, hbytes⟩ := cancels_trans hfirst
        (hcur ▸ cancelRunning_stops (d := cslot c - 4) (hcur.symm ▸ hr') hend hst hbad)
      exact ⟨_, xcan_both hr hz hs hy ht, hdone _ (.inr rfl), hdray.trans (by rw [hdray']; rfl), ⟨hme, hdrays, hbytes⟩,
        fun n hn => hkept n (by simpa using hn)⟩

end Sys2Proof.Machine

/-! # Proofs: launch queues (R40, R135, R141, R146–R150, R335) -/

namespace Sys2Proof.Machine

theorem exec_reservationRegisterRead (fn queue : Nat) (s : State) :
    exec (.reservationRegisterRead fn queue) s = execReservationRegisterRead fn queue s := rfl
theorem exec_commitRegisterWrite (fn queue slot : Nat) (s : State) :
    exec (.commitRegisterWrite fn queue slot) s = execCommitRegisterWrite fn queue slot s := rfl
theorem exec_queueMapping (queue : Nat) (s : State) : exec (.queueMapping queue) s = execQueueMapping queue s := rfl
theorem exec_earlyLaunchRead (queue slot : Nat) (s : State) :
    exec (.earlyLaunchRead queue slot) s = execEarlyLaunchRead queue slot s := rfl
theorem exec_launchTake (queue : Nat) (s : State) : exec (.launchTake queue) s = execLaunchTake queue s := rfl

/-! ## Numbers as bytes (R1) -/

@[simp] theorem length_toBytes (n v : Nat) : (toBytes n v).length = n := by
  induction n generalizing v with
  | zero => rfl
  | succ n ih => simp [toBytes, ih]

theorem ofBytes_toBytes (n v : Nat) : ofBytes (toBytes n v) = v % 256 ^ n := by
  induction n generalizing v with
  | zero => simp [toBytes, ofBytes, Nat.mod_one]
  | succ n ih =>
    rw [toBytes, ofBytes, ih, BitVec.toNat_ofNat, show 256 ^ (n + 1) = 256 * 256 ^ n from Nat.pow_succ', Nat.mod_mul]

theorem ofBytes_lt (l : List Byte) : ofBytes l < 256 ^ l.length := by
  induction l with
  | nil => decide
  | cons b l ih =>
    have hb := b.isLt
    simp only [ofBytes, List.length_cons, Nat.pow_succ']
    omega

theorem ofBytes_take_lt (l : List Byte) (n : Nat) : ofBytes (l.take n) < 256 ^ n :=
  (ofBytes_lt _).trans_le (Nat.pow_le_pow_right (by decide) (List.length_take_le ..))

/-! ## Ticket descriptors (R147) -/

/-- The bytes of a descriptor that was read say the same of it; reserved bytes are zero in them. -/
theorem ticket_ofBytes_toBytes (d : List Byte) :
    Ticket.ofBytes (Ticket.ofBytes d).toBytes = { Ticket.ofBytes d with zero := true } := by
  have hresv : ofBytes (d.take 8) < 2 ^ 64 := ofBytes_take_lt ..
  have htake : ofBytes ((d.drop 8).take 8) < 2 ^ 64 := ofBytes_take_lt ..
  have hfree : ofBytes ((d.drop 16).take 4) < 2 ^ 32 := ofBytes_take_lt ..
  have hlg : ofBytes ((d.drop 20).take 1) < 2 ^ 8 := ofBytes_take_lt ..
  have hcommit : ofBytes ((d.drop 32).take 32) < 2 ^ 256 := ofBytes_take_lt ..
  simp only [Ticket.ofBytes, Ticket.toBytes, Ticket.mk.injEq]
  simp [List.drop_append, List.drop_of_length_le, List.take_of_length_le, ofBytes_toBytes]
  exact ⟨hresv, htake, hfree, hlg, hcommit⟩

/-- The slot number of a descriptor fits a word. -/
theorem slotWord_some {d : List Byte} {m : Nat} :
    (slotWord (some ((Ticket.ofBytes d).resv % m))).toNat = (Ticket.ofBytes d).resv % m := by
  have hresv : (Ticket.ofBytes d).resv < 2 ^ 64 := ofBytes_take_lt d 8
  exact (BitVec.toNat_ofNat ..).trans (Nat.mod_eq_of_lt ((Nat.mod_le ..).trans_lt hresv))

/-! ## What an operation on a queue leaves -/

/-- Nothing but one queue, the answers and the notices of the device differs. -/
def State.OnlyQueue (s t : State) (queue : Nat) : Prop :=
  s.OnlyPlatform t ∧ (∀ m, m ≠ queue → t.queue m = s.queue m) ∧ ∀ m, t.fn m = s.fn m

theorem onlyQueue_trans {s t u : State} {queue : Nat} (h : s.OnlyQueue t queue) (k : t.OnlyQueue u queue) : s.OnlyQueue u queue :=
  ⟨onlyPlatform_trans h.1 k.1, fun m hm => (k.2.1 m hm).trans (h.2.1 m hm), fun m => (k.2.2 m).trans (h.2.2 m)⟩

@[simp] theorem State.queue_modQueue_same (s : State) (n : Nat) (f : Queue → Queue) : (s.modQueue n f).queue n = f (s.queue n) := by
  simp [State.queue, State.modQueue]

theorem State.queue_modQueue_ne (s : State) (n m : Nat) (f : Queue → Queue) (h : m ≠ n) :
    (s.modQueue n f).queue m = s.queue m := by
  simp [State.queue, State.modQueue, fget_fput_ne _ _ _ _ _ h]

theorem modQueue_onlyQueue (s : State) (n : Nat) (f : Queue → Queue) : s.OnlyQueue (s.modQueue n f) n :=
  ⟨modPf_onlyPlatform .., fun m h => State.queue_modQueue_ne s n m f h, fun _ => rfl⟩

theorem reply_onlyQueue (s : State) (queue dest data : Nat) (abort : Bool) : s.OnlyQueue (s.reply dest data abort) queue :=
  ⟨modPf_onlyPlatform .., fun _ _ => rfl, fun _ => rfl⟩

theorem operateQueue_onlyQueue (s : State) (n : Nat) (f : Ticket → Ticket) : s.OnlyQueue (s.operateQueue n f) n :=
  modQueue_onlyQueue ..

theorem queue_operateQueue (s : State) (n : Nat) (f : Ticket → Ticket) : (s.operateQueue n f).queue n =
    { s.queue n with desc := (f (Ticket.ofBytes (s.queue n).desc)).toBytes, used := s.cycle } :=
  State.queue_modQueue_same ..

/-- The answer to a reserve, and the queue after it (R147, R148). -/
theorem reserveFor_leaves (s : State) (queue fn : Nat) :
    let old := Ticket.ofBytes (s.queue queue).desc
    let t := s.reserveFor queue fn
    s.OnlyQueue t queue ∧
      t.queue queue = { s.queue queue with
        desc := (if old.free = 0 then old else { old with resv := old.resv + 1, free := old.free - 1 }).toBytes, used := s.cycle } ∧
      s.Replies t fn (if old.free = 0 then 0xFFFFFFFFFFFFFFFF else old.resv % 2 ^ old.lg) false := by
  have hq : (s.reserveFor queue fn).queue queue = _ := queue_operateQueue s queue fun t => t.reserve.1
  refine ⟨onlyQueue_trans (modQueue_onlyQueue ..) (reply_onlyQueue ..), hq.trans ?_, ?_⟩
  · unfold Ticket.reserve; split <;> rfl
  · refine (reply_replies ..).trans ?_
    unfold Ticket.reserve
    split
    · rfl
    · rw [slotWord_some]; rfl

/-- Reads that waited complete one after another: the queue's descriptor and last use alone change. -/
theorem reserveAll_leaves (l : List Nat) (queue : Nat) (s : State) :
    let t := l.foldl (fun s fn => s.reserveFor queue fn) s
    s.OnlyQueue t queue ∧ t.queue queue = { s.queue queue with desc := (t.queue queue).desc, used := (t.queue queue).used } := by
  induction l generalizing s with
  | nil => exact ⟨⟨onlyPlatform_refl s, fun _ _ => rfl, fun _ => rfl⟩, rfl⟩
  | cons fn l ih =>
    obtain ⟨honly, hq, _⟩ := reserveFor_leaves s queue fn
    obtain ⟨ionly, iq⟩ := ih (s.reserveFor queue fn)
    refine ⟨onlyQueue_trans honly ionly, ?_⟩
    rw [List.foldl_cons]
    conv_lhs => rw [iq, hq]

/-! ## The notify page (R148, R335) -/

section Page
variable {s : State} {fn queue : Nat}

theorem page_aborted (h : (s.fn fn).aborted = true) (slot : Nat) :
    exec (.reservationRegisterRead fn queue) s = .next (s.reply fn 0 true) ∧
      exec (.commitRegisterWrite fn queue slot) s = .next (s.reply fn 0 true) := by
  simp [exec_reservationRegisterRead, execReservationRegisterRead, exec_commitRegisterWrite, execCommitRegisterWrite, h]

theorem page_dead (ha : (s.fn fn).aborted = false) (h : s.pageLive fn queue = false) (slot : Nat) :
    exec (.reservationRegisterRead fn queue) s = .next (s.reply fn (2 ^ 64 - 1) false) ∧
      exec (.commitRegisterWrite fn queue slot) s = .next s := by
  simp [exec_reservationRegisterRead, execReservationRegisterRead, exec_commitRegisterWrite, execCommitRegisterWrite, ha, h]

theorem page_mapped (ha : (s.fn fn).aborted = false) (h : s.pageLive fn queue = true) (hm : (s.queue queue).mapped = true)
    (slot : Nat) : exec (.reservationRegisterRead fn queue) s = .next (s.reserveFor queue fn) ∧
      exec (.commitRegisterWrite fn queue slot) s = .next (s.operateQueue queue fun t => t.post slot) := by
  simp [exec_reservationRegisterRead, execReservationRegisterRead, exec_commitRegisterWrite, execCommitRegisterWrite, ha, h, hm]

theorem page_unmapped (ha : (s.fn fn).aborted = false) (h : s.pageLive fn queue = true) (hm : (s.queue queue).mapped = false)
    (slot : Nat) :
    exec (.reservationRegisterRead fn queue) s = .next (s.modQueue queue fun q => { q with waiting := q.waiting ++ [fn] }) ∧
      exec (.commitRegisterWrite fn queue slot) s = .next (s.modQueue queue fun q => { q with stored := q.stored ++ [slot] }) := by
  simp [exec_reservationRegisterRead, execReservationRegisterRead, exec_commitRegisterWrite, execCommitRegisterWrite, ha, h, hm]

end Page

/-! ## Mapping (R149) -/

/-- The queue that goes is mapped and was used no later than any other. -/
theorem idlest_least (l : List (Nat × Nat)) (h : l ≠ []) :
    ∃ v u, idlest l = some v ∧ (v, u) ∈ l ∧ ∀ e, e ∈ l → u ≤ e.2 := by
  induction l with
  | nil => exact absurd rfl h
  | cons x l ih =>
    obtain ⟨n, u⟩ := x
    unfold idlest
    split
    · next e he =>
      have hmem := List.mem_of_find?_eq_some he
      have hlt : e.2 < u := by simpa using List.find?_some he
      obtain ⟨v, w, hv, hw, hmin⟩ := ih (List.ne_nil_of_mem hmem)
      refine ⟨v, w, hv, List.mem_cons_of_mem _ hw, fun y hy => ?_⟩
      obtain rfl | hy := List.mem_cons.1 hy
      · exact (hmin e hmem).trans hlt.le
      · exact hmin y hy
    · next hnone =>
      refine ⟨n, u, rfl, List.mem_cons_self, fun y hy => ?_⟩
      obtain rfl | hy := List.mem_cons.1 hy
      · exact Nat.le_refl _
      · simpa using List.find?_eq_none.1 hnone y hy

/-- A place is made by unmapping at most one queue, and the one idle longest where all places are taken. -/
theorem makePlace_leaves (s : State) (quarter : Nat) :
    (s.makePlace quarter = s ∧ (s.mappedIn quarter).length < 64) ∨
      (64 ≤ (s.mappedIn quarter).length ∧ ∃ v u, (v, u) ∈ s.mappedIn quarter ∧ (∀ e, e ∈ s.mappedIn quarter → u ≤ e.2) ∧
        s.makePlace quarter = s.modQueue v fun q => { q with mapped := false }) := by
  by_cases h : (s.mappedIn quarter).length < 64
  · exact .inl ⟨if_pos h, h⟩
  · refine .inr ⟨by omega, ?_⟩
    obtain ⟨v, u, hv, hmem, hmin⟩ := idlest_least (s.mappedIn quarter) (by rintro h'; simp [h'] at h)
    refine ⟨v, u, hmem, hmin, (if_neg h).trans ?_⟩
    rw [hv]

theorem makePlace_frame (s : State) (quarter : Nat) :
    let p := s.makePlace quarter
    s.OnlyPlatform p ∧ (∀ m, p.fn m = s.fn m) ∧ p.pf.replies = s.pf.replies ∧ p.cycle = s.cycle ∧
      ∀ n, (p.queue n).desc = (s.queue n).desc := by
  obtain ⟨hplace, _⟩ | ⟨_, v, _, _, _, hplace⟩ := makePlace_leaves s quarter
  · rw [hplace]
    exact ⟨onlyPlatform_refl s, fun _ => rfl, rfl, rfl, fun _ => rfl⟩
  · rw [hplace]
    refine ⟨modPf_onlyPlatform .., fun _ => rfl, rfl, rfl, fun n => ?_⟩
    by_cases hn : n = v
    · rw [hn, State.queue_modQueue_same]
    · rw [State.queue_modQueue_ne _ _ _ _ hn]

/-- A queue is mapped: what was stored for it has been folded in. -/
def State.mapQueue (s : State) (queue : Nat) : State :=
  ((s.makePlace (queueQuarter queue)).modQueue queue fun x => { x with mapped := true, stored := [], waiting := [] }).operateQueue queue
    fun t => (s.queue queue).stored.foldl (fun t n => t.post n) t

theorem queueMapping_maps {s : State} {queue : Nat} (h : s.wantsMapping queue = true) : exec (.queueMapping queue) s =
    .next ((s.queue queue).waiting.foldl (fun s fn => s.reserveFor queue fn) (s.mapQueue queue)) := by
  simp only [exec_queueMapping, execQueueMapping, h, Bool.not_true, Bool.false_eq_true, if_false]
  rfl

/-- Mapped, a queue has its commits, and another queue is at most unmapped for it. -/
theorem mapQueue_leaves (s : State) (queue : Nat) :
    let t := s.mapQueue queue
    let desc := (((s.queue queue).stored.foldl (fun t n => t.post n) (Ticket.ofBytes (s.queue queue).desc))).toBytes
    s.OnlyPlatform t ∧ (∀ m, t.fn m = s.fn m) ∧ t.pf.replies = s.pf.replies ∧
      t.queue queue = { (t.queue queue) with desc := desc, mapped := true, stored := [], waiting := [], used := s.cycle } ∧
      ((s.mappedIn (queue % 4)).length < 64 → ∀ m, m ≠ queue → t.queue m = s.queue m) ∧
      (64 ≤ (s.mappedIn (queue % 4)).length → ∃ v u, (v, u) ∈ s.mappedIn (queue % 4) ∧
        (∀ e, e ∈ s.mappedIn (queue % 4) → u ≤ e.2) ∧
        ∀ m, m ≠ queue → t.queue m = if m = v then { s.queue m with mapped := false } else s.queue m) := by
  obtain ⟨hp, hfn, hreplies, hcycle, hdesc⟩ := makePlace_frame s (queueQuarter queue)
  have hqueue (m : Nat) (hm : m ≠ queue) : (s.mapQueue queue).queue m = (s.makePlace (queueQuarter queue)).queue m :=
    (State.queue_modQueue_ne _ _ _ _ hm).trans (State.queue_modQueue_ne _ _ _ _ hm)
  refine ⟨onlyPlatform_trans hp (onlyPlatform_trans (modQueue_onlyQueue ..).1 (operateQueue_onlyQueue ..).1), hfn, hreplies, ?_,
    fun hlen m hm => ?_, fun hlen => ?_⟩
  · unfold State.mapQueue
    rw [queue_operateQueue, State.queue_modQueue_same, ← hcycle, ← hdesc]
    rfl
  · obtain ⟨hplace, _⟩ | ⟨hlen', _⟩ := makePlace_leaves s (queueQuarter queue)
    · rw [hqueue m hm, hplace]
    · exact absurd hlen' (Nat.not_le.2 hlen)
  · obtain ⟨_, hlen'⟩ | ⟨_, v, u, hmem, hmin, hplace⟩ := makePlace_leaves s (queueQuarter queue)
    · exact absurd hlen (Nat.not_le.2 hlen')
    · refine ⟨v, u, hmem, hmin, fun m hm => ?_⟩
      rw [hqueue m hm, hplace]
      split
      · next hv => rw [hv, State.queue_modQueue_same]
      · next hv => rw [State.queue_modQueue_ne _ _ _ _ hv]

/-! ## Early reading (R150) -/

/-- A change of the L1Is alone. -/
def State.OnlyL1i (s t : State) : Prop := t = { s with cores := t.cores } ∧ ∀ k, t.core k = { s.core k with l1i := (t.core k).l1i }

theorem onlyL1i_trans {s t u : State} (h : s.OnlyL1i t) (k : t.OnlyL1i u) : s.OnlyL1i u := by
  refine ⟨by rw [k.1, h.1], fun n => ?_⟩
  rw [k.2 n, h.2 n]

theorem onlyL1i_foldl {α : Type} (f : State → α → State) (hf : ∀ (s : State) a, s.OnlyL1i (f s a)) (l : List α) (s : State) :
    s.OnlyL1i (l.foldl f s) := by
  induction l generalizing s with
  | nil => exact ⟨rfl, fun _ => rfl⟩
  | cons a l ih => exact onlyL1i_trans (hf s a) (ih _)

theorem onlyL1i_sameBytes {s t : State} (h : s.OnlyL1i t) : s.SameBytes t := by
  refine ⟨fun a => by rw [h.1], fun a => by rw [h.1], fun n a => ?_⟩
  rw [h.2 n]

theorem warmQuietly_onlyL1i (s : State) (core tenant va : Nat) : s.OnlyL1i (s.warmQuietly core tenant va) := by
  unfold State.warmQuietly
  split
  · simp only
    split
    · refine ⟨rfl, fun k => ?_⟩
      rw [State.core_modCore]
      split
      · next hk => subst hk; rfl
      · rfl
    · exact ⟨rfl, fun _ => rfl⟩
  · exact ⟨rfl, fun _ => rfl⟩

/-- A physical address lies in device memory (R16). -/
def inDevice (pa : Nat) : Bool := match region pa with | .hbm => true | .cxl _ => true | _ => false

/-- A slot of a queue's ring, as its record. -/
def State.recordAt (s : State) (queue slot : Nat) : LaunchRecord := { bytes := mread s.mem ((s.queue queue).ring + 128 * slot) 128 }

/-- The code of a launch that is expected enters the L1Is of the cores where it is expected (R150). -/
def State.warmFor (s : State) (l : Launch) (o : Object) : State :=
  (s.expectedCores l o).foldl (fun s n => (List.range 128).foldl (fun s i => s.warmQuietly n o.tenant (o.start.toNat + 128 * i)) s) s

theorem warmFor_onlyL1i (s : State) (l : Launch) (o : Object) : s.OnlyL1i (s.warmFor l o) :=
  onlyL1i_foldl _ (fun s _ => onlyL1i_foldl _ (fun s _ => warmQuietly_onlyL1i s ..) _ s) _ s

theorem execEarlyLaunchRead_eq (s : State) (queue slot : Nat) : exec (.earlyLaunchRead queue slot) s =
    if !((s.queue queue).mapped && inDevice ((s.queue queue).ring + 128 * slot) && decide (slot < 2 ^ (s.queue queue).lg)) then
      .next s
    else match s.object (s.recordAt queue slot).object with
      | none => .next s
      | some o => .next (s.warmFor (s.launchOf (s.recordAt queue slot) (s.levelsFor (s.recordAt queue slot)) queue) o) := rfl

/-! ## Taking a record (R135, R147) -/

/-- Bytes that are there and sound are read as they stand. -/
theorem readBytes_sound {s : State} {pa n : Nat} (hb : s.backed pa = true) (hp : ∀ l, l ∈ busLines pa n → l ∉ s.ms.poison) :
    s.readBytes pa n = (mread s.mem pa n, s) := by
  have h : (busLines pa n).any s.ms.poison.contains = false := by simpa using hp
  simp [State.readBytes, hb, h]

/-- What a write by firmware or the front end changes beyond memory: firmware is told of watchpoints (R354). -/
theorem homeWrite_outside (s : State) (engid tenant pa : Nat) (b : List Byte) :
    let t := s.homeWrite (.outside engid) tenant pa b
    t = { s with mem := mwrite s.mem pa b, pf := { s.pf with notices := t.pf.notices } } := by
  have h (l : List Nat) (u : State) : let t := l.foldl (fun s n => s.reportMatch (.outside engid) n) u
      t = { u with pf := { u.pf with notices := t.pf.notices } } := by
    induction l generalizing u with
    | nil => rfl
    | cons n l ih =>
      rw [List.foldl_cons]
      exact ih (u.reportMatch (.outside engid) n)
  exact h _ _

theorem vwrite_only (l : List (List Byte)) (tenant : Nat) (s : State) (va : Nat) :
    let t := (s.vwrite tenant va l).2
    t = { s with mem := t.mem, pf := { s.pf with notices := t.pf.notices } } := by
  induction l generalizing s va with
  | nil => rfl
  | cons b l ih =>
    unfold State.vwrite
    split
    · next e entry _ =>
      split
      · have h := homeWrite_outside (s.markLeaf entry true) 3 0x10 (e.pa va) b
        have k := ih ((s.markLeaf entry true).homeWrite (.outside 3) 0x10 (e.pa va) b) (va + b.length)
        simp only at h k ⊢
        rw [k, h]
        rfl
      · rfl
    · rfl

/-- A launch that is refused has ended with its status; the other launches and every context are as before, and the queues. -/
theorem refuseLaunch_leaves (s : State) (n status : Nat) :
    let t := s.refuseLaunch n status
    (t.launch n).ended = true ∧ (t.launch n).status = status ∧ (∀ m, m ≠ n → t.launch m = s.launch m) ∧ s.SameContexts t ∧
      t.launchSeq = s.launchSeq ∧ t.pf.queues = s.pf.queues := by
  have h := vwrite_only [toBytes 4 status] (s.launch n).tenant s (s.launch n).report.toNat
  have hu (u : State) (hu : u = { s with mem := u.mem, pf := u.pf }) (hq : u.pf.queues = s.pf.queues) :
      let t := u.modLaunch n fun x => { x with ended := true, status := status, claiming := false, claims := [] }
      (t.launch n).ended = true ∧ (t.launch n).status = status ∧ (∀ m, m ≠ n → t.launch m = s.launch m) ∧ s.SameContexts t ∧
        t.launchSeq = s.launchSeq ∧ t.pf.queues = s.pf.queues := by
    refine ⟨by simp, by simp, fun m hm => ?_, fun c => ?_, ?_, hq⟩
    · rw [State.launch_modLaunch_ne _ _ _ _ hm, hu]; rfl
    · rw [State.modLaunch_ctx, hu]; rfl
    · rw [State.modLaunch_launchSeq, hu]
  refine hu _ ?_ ?_
  all_goals
    split
    · rw [h]
    · rfl

theorem vread_congr {s t : State} (h : s.SameSpace t) (tenant va n : Nat) : t.vread tenant va n = s.vread tenant va n := by
  simp only [State.vread, State.vreadE, State.vreadPage, walk_congr h, h.mem]

theorem vreadLong_congr {s t : State} (h : s.SameSpace t) (tenant n : Nat) (va : Nat) :
    t.vreadLong tenant va n = s.vreadLong tenant va n := by
  induction n generalizing va with
  | zero => rfl
  | succ n ih => simp only [State.vreadLong, vread_congr h, ih]

theorem launchOf_congr {s t : State} (h : s.SameSpace t) (r : LaunchRecord) (l : List Nat) (n : Nat) :
    t.launchOf r l n = s.launchOf r l n := by
  simp only [State.launchOf, vreadLong_congr h]

theorem reportWritable_congr {s t : State} (h : s.SameSpace t) (r : LaunchRecord) : t.reportWritable r = s.reportWritable r := by
  simp only [State.reportWritable, walk_congr h]

theorem launchStatus_congr {s t : State} (ho : t.pf.objects = s.pf.objects) (hf : t.pf.fns = s.pf.fns) (r : LaunchRecord)
    (owner : Nat) : t.launchStatus r owner = s.launchStatus r owner := by
  simp only [State.launchStatus, State.object, State.acceptedFor, ho, hf] <;> rfl

/-- The state in which the front end checks a record that it has taken from a queue. -/
def State.afterTake (s : State) (queue : Nat) : State := s.operateQueue queue fun t => t.takeSlot.1.release

/-- What the front end does with a record that has been taken from a queue (R135, R141). -/
theorem launchTake_takes {s : State} {queue : Nat} (hm : (s.queue queue).mapped = true) (ht : s.takeable queue = true) :
    let q := s.queue queue
    let old := Ticket.ofBytes q.desc
    let pa := q.ring + 128 * (old.take % 2 ^ old.lg)
    s.backed pa = true → (∀ l, l ∈ busLines pa 128 → l ∉ s.ms.poison) →
      exec (.launchTake queue) s =
        .next ((s.afterTake queue).frontEnd { bytes := mread s.mem pa 128 } queue q.tenant) ∧
      old.takeSlot.1 = { old with commit := old.commit - 2 ^ (old.take % 2 ^ old.lg), take := old.take + 1 } := by
  intro q old pa hb hp
  have hc : old.committed (old.take % 2 ^ old.lg) = true := by
    simp only [State.takeable, Bool.and_eq_true] at ht
    by_contra hn
    simp [Ticket.takeSlot, old, q, hn] at ht
  have hslot : old.takeSlot = ({ old with commit := old.commit - 2 ^ (old.take % 2 ^ old.lg), take := old.take + 1 },
      some (old.take % 2 ^ old.lg)) := if_pos hc
  refine ⟨?_, by rw [hslot]⟩
  have hr : s.readBytes pa 128 = (mread s.mem pa 128, s) := readBytes_sound hb hp
  simp only [exec_launchTake, execLaunchTake, hm, ht, Bool.and_self, Bool.not_true, Bool.false_eq_true, if_false]
  change (match old.takeSlot with
    | (_, none) => _
    | (_, some slot) => _) = _
  rw [hslot]
  simp only [pa, q, old] at hr ⊢
  rw [hr]
  rfl

theorem afterTake_sameSpace (s : State) (queue : Nat) : s.SameSpace (s.afterTake queue) := ⟨rfl, rfl, rfl, rfl, rfl, fun _ => rfl⟩

theorem afterTake_desc {s : State} {queue : Nat} {old : Ticket} (h : Ticket.ofBytes (s.queue queue).desc = old)
    (ht : old.takeSlot.1 = { old with commit := old.commit - 2 ^ (old.take % 2 ^ old.lg), take := old.take + 1 }) :
    ((s.afterTake queue).queue queue).desc =
      ({ old with commit := old.commit - 2 ^ (old.take % 2 ^ old.lg), take := old.take + 1
                  free := min (old.free + 1) (2 ^ old.lg) } : Ticket).toBytes := by
  rw [State.afterTake, queue_operateQueue, h, ht]
  rfl

section FrontEnd
variable {s : State} {r : LaunchRecord} {queue owner : Nat}

theorem frontEnd_unreported (h : s.reportWritable r = false) :
    s.frontEnd r queue owner = s.unreported r.tenant queue r.report := by
  simp [State.frontEnd, h]

theorem frontEnd_admits (h : s.reportWritable r = true) (hs : s.launchStatus r owner = none) :
    s.frontEnd r queue owner = s.admitLaunch (s.launchOf r (s.levelsFor r) queue) := by
  simp [State.frontEnd, h, hs]

theorem frontEnd_refuses (h : s.reportWritable r = true) {status : Nat} (hs : s.launchStatus r owner = some status) :
    s.frontEnd r queue owner =
      (s.admitLaunch (s.launchOf r (s.levelsFor r) queue)).refuseLaunch s.launchSeq status := by
  simp [State.frontEnd, h, hs]

end FrontEnd

/-- What every admitted record satisfies (R135). -/
theorem launchStatus_none {s : State} {r : LaunchRecord} {m : Nat} (h : s.launchStatus r m = none) :
    s.object r.object ≠ none ∧ r.tenant = m ∧ r.qmask ≠ 0#4 ∧ ¬ (r.recording = true ∧ r.replay = true) ∧
      r.grant &&& r.handover = 0#48 := by
  unfold State.launchStatus at h
  split at h
  · cases h
  · next o ho =>
    have hobject : s.object r.object ≠ none := by
      rintro hn
      rw [hn] at ho
      cases ho
    split at h
    · cases h
    · next htenant =>
      split at h
      · cases h
      · split at h
        · cases h
        · next hmode =>
          simp only [bne_iff_ne, ne_eq, Bool.or_eq_true, decide_eq_true_eq, not_or, not_not] at htenant
          simp only [LaunchRecord.modeOk, Bool.not_eq_true', Bool.not_eq_false, Bool.and_eq_true, beq_iff_eq] at hmode
          obtain ⟨⟨⟨⟨⟨⟨⟨⟨hmodes, _⟩, _⟩, hbanks⟩, _⟩, _⟩, _⟩, _⟩, _⟩ := hmode
          exact ⟨hobject, htenant.1, htenant.2, by simpa using hmodes, hbanks⟩

/-- Settles O47: the notify page by what stands before a queue's descriptor, the mapping by the place it needs, and a record by what
the front end finds. -/
theorem queueEvents : Obligations.QueueEvents := by
  intro s fn queue slot m status o
  refine ⟨fun h => ⟨?abortedRead, ?abortedWrite⟩, fun ha hl => ⟨?deadRead, (page_dead ha hl slot).2⟩,
    fun ⟨ha, hl⟩ hm => ⟨?read, ?write⟩, fun ⟨ha, hl⟩ hm => ⟨?waitingRead, ?storedWrite⟩, fun h => ?noMapping, fun h => ?mapping,
    fun h => ?notEarly, fun hm hd hlt ho => ?early, fun h => ?notTaken, fun ⟨hm, ht, hb, hp⟩ hw => ?unreported,
    fun ⟨hm, ht, hb, hp⟩ hw => ⟨fun hs => ?admitted, fun hs => ?refused⟩, launchStatus_none⟩
  case abortedRead =>
    obtain ⟨hp, hq, hfn⟩ := reply_onlyQueue s queue fn 0 true
    exact ⟨_, (page_aborted h slot).1, hp, ⟨hq, hfn⟩, reply_replies ..⟩
  case abortedWrite =>
    obtain ⟨hp, hq, hfn⟩ := reply_onlyQueue s queue fn 0 true
    exact ⟨_, (page_aborted h slot).2, hp, ⟨hq, hfn⟩, reply_replies ..⟩
  case deadRead =>
    obtain ⟨hp, hq, hfn⟩ := reply_onlyQueue s queue fn (2 ^ 64 - 1) false
    exact ⟨_, (page_dead ha hl slot).1, hp, ⟨hq, hfn⟩, reply_replies ..⟩
  case read =>
    obtain ⟨⟨hp, hq, hfn⟩, hqueue, hreplies⟩ := reserveFor_leaves s queue fn
    exact ⟨_, (page_mapped ha hl hm slot).1, hp, ⟨hq, hfn⟩, hreplies, hqueue⟩
  case write =>
    obtain ⟨hp, hq, hfn⟩ := operateQueue_onlyQueue s queue fun t => t.post slot
    exact ⟨_, (page_mapped ha hl hm slot).2, hp, ⟨hq, hfn⟩, rfl, queue_operateQueue ..⟩
  case waitingRead =>
    obtain ⟨hp, hq, hfn⟩ := modQueue_onlyQueue s queue fun q => { q with waiting := q.waiting ++ [fn] }
    exact ⟨_, (page_unmapped ha hl hm slot).1, hp, ⟨hq, hfn⟩, rfl, State.queue_modQueue_same ..⟩
  case storedWrite =>
    obtain ⟨hp, hq, hfn⟩ := modQueue_onlyQueue s queue fun q => { q with stored := q.stored ++ [slot] }
    exact ⟨_, (page_unmapped ha hl hm slot).2, hp, ⟨hq, hfn⟩, State.queue_modQueue_same ..⟩
  case noMapping => simp [exec_queueMapping, execQueueMapping, h]
  case mapping =>
    obtain ⟨hp, hfn, hreplies, hqueue, hroom, hfull⟩ := mapQueue_leaves s queue
    obtain ⟨⟨kp, kq, kfn⟩, kqueue⟩ := reserveAll_leaves (s.queue queue).waiting queue (s.mapQueue queue)
    have hfns : ∀ m, _ := fun m => (kfn m).trans (hfn m)
    refine ⟨_, queueMapping_maps h, onlyPlatform_trans hp kp, hfns, ?_, ?_, ?_, fun hlen => ⟨fun m hm => ?_, hfns⟩, fun hlen => ?_,
      fun hw hst => ?_, fun hw hst => ?_⟩
    · rw [kqueue, hqueue]
    · rw [kqueue, hqueue]
    · rw [kqueue, hqueue]
    · exact (kq m hm).trans (hroom hlen m hm)
    · obtain ⟨v, u, hmem, hmin, hv⟩ := hfull hlen
      exact ⟨v, u, hmem, hmin, fun m hm => (kq m hm).trans (hv m hm)⟩
    · rw [hw, List.foldl_nil]
      refine ⟨hreplies, ?_⟩
      rw [hqueue, hst]
      rfl
    · obtain ⟨_, rqueue, rreplies⟩ := reserveFor_leaves (s.mapQueue queue) queue fn
      have hdesc : ((s.mapQueue queue).queue queue).desc = (Ticket.ofBytes (s.queue queue).desc).toBytes := by
        rw [hqueue, hst]; rfl
      rw [hdesc, ticket_ofBytes_toBytes] at rqueue rreplies
      rw [hw, List.foldl_cons, List.foldl_nil]
      refine ⟨?_, ?_⟩
      · rw [State.Replies, rreplies, hreplies]
      · rw [rqueue]
        simp only
        split <;> rfl
  case notEarly =>
    rw [execEarlyLaunchRead_eq]
    split
    · rfl
    · next hall =>
      simp only [Bool.not_eq_true', Bool.not_eq_false, Bool.and_eq_true, decide_eq_true_eq] at hall
      obtain ⟨⟨hm, hd⟩, hlt⟩ := hall
      obtain h | h | h | h := h
      · rw [hm] at h; cases h
      · exact absurd (hd.symm.trans h) Bool.true_eq_false_eq_False
      · omega
      · rw [show s.object (s.recordAt queue slot).object = none from h]
  case early =>
    have hall : (!((s.queue queue).mapped && inDevice ((s.queue queue).ring + 128 * slot) &&
        decide (slot < 2 ^ (s.queue queue).lg))) = false := by
      rw [hm, show inDevice ((s.queue queue).ring + 128 * slot) = true from hd, decide_eq_true hlt]
      rfl
    have honly := warmFor_onlyL1i s (s.launchOf (s.recordAt queue slot) (s.levelsFor (s.recordAt queue slot)) queue) o
    refine ⟨_, ?_, honly.1, onlyL1i_sameBytes honly, honly.2⟩
    rw [execEarlyLaunchRead_eq, hall, show s.object (s.recordAt queue slot).object = some o from ho]
    rfl
  case notTaken =>
    have hn : (!((s.queue queue).mapped && s.takeable queue)) = true := by obtain h | h := h <;> simp [h]
    exact if_pos hn
  case unreported =>
    obtain ⟨hexec, htake⟩ := launchTake_takes hm ht hb hp
    refine ⟨_, hexec.trans (congrArg _ (frontEnd_unreported ((reportWritable_congr (afterTake_sameSpace s queue) _).trans hw))), ?_⟩
    exact ⟨⟨afterTake_desc rfl htake, fun _ => rfl⟩, rfl, ⟨fun _ => rfl, fun _ => rfl, fun _ _ => rfl⟩,
      audits_congr (audit_audits ..) rfl rfl rfl rfl rfl rfl rfl⟩
  case admitted =>
    obtain ⟨hexec, htake⟩ := launchTake_takes hm ht hb hp
    refine ⟨_, hexec.trans (congrArg _ (frontEnd_admits ((reportWritable_congr (afterTake_sameSpace s queue) _).trans hw) ((launchStatus_congr rfl rfl ..).trans hs))), ?_⟩
    refine ⟨⟨afterTake_desc rfl htake, fun _ => rfl⟩, ⟨fun _ => rfl, fun _ => rfl, fun _ _ => rfl⟩, rfl, ?_, fun n hn =>
      fget_fput_ne _ _ _ _ _ hn⟩
    exact (fget_fput_same ..).trans (launchOf_congr (afterTake_sameSpace s queue) ..)
  case refused =>
    obtain ⟨hexec, htake⟩ := launchTake_takes hm ht hb hp
    refine ⟨_, hexec.trans (congrArg _ (frontEnd_refuses ((reportWritable_congr (afterTake_sameSpace s queue) _).trans hw) ((launchStatus_congr rfl rfl ..).trans hs))), ?_⟩
    obtain ⟨hended, hstatus, hothers, hctx, hseq, hqueues⟩ := refuseLaunch_leaves
      ((s.afterTake queue).admitLaunch ((s.afterTake queue).launchOf (s.recordAt queue _) _ queue)) s.launchSeq status
    refine ⟨⟨?_, hctx⟩, hseq, hended, hstatus, fun n hn => (hothers n hn).trans (fget_fput_ne _ _ _ _ _ hn)⟩
    exact (congrArg (fun l => (fget {} l queue).desc) hqueues).trans (afterTake_desc rfl htake)

end Sys2Proof.Machine

/-! # Proofs: page walks, the head of a Manifest, and evicted lines (R14, R15, R20, R21, R27, R51, R62, R123) -/

namespace Sys2Proof.Machine

theorem exec_walkComplete (quarter tenant page : Nat) (s : State) :
    exec (.walkComplete quarter tenant page) s = execWalkComplete quarter tenant page s := rfl
theorem exec_manifestHeadWrite (c : Nat) (s : State) : exec (.manifestHeadWrite c) s = execManifestHeadWrite c s := rfl
theorem exec_lineEviction (level : FetchLevel) (line : Nat) (s : State) :
    exec (.lineEviction level line) s = execLineEviction level line s := rfl

/-! ## Changes of several contexts or cores -/

/-- The same change of several contexts changes contexts alone. -/
theorem foldl_modCtx_onlyCtxs (l : List Nat) (f : Ctx → Ctx) (s : State) :
    let t := l.foldl (fun s c => s.modCtx c f) s
    t = { s with ctxs := t.ctxs } := by
  induction l generalizing s with
  | nil => rfl
  | cons c l ih => rw [List.foldl_cons, ih (s.modCtx c f)]; rfl

theorem foldl_modCtx_other (l : List Nat) (f : Ctx → Ctx) (s : State) (n : Nat) (h : n ∉ l) :
    (l.foldl (fun s c => s.modCtx c f) s).ctx n = s.ctx n := by
  induction l generalizing s with
  | nil => rfl
  | cons c l ih =>
    obtain ⟨hc, hl⟩ : n ≠ c ∧ n ∉ l := by simpa using h
    rw [List.foldl_cons, ih _ hl, State.ctx_modCtx_ne _ _ _ _ hc]

/-- A context that the same change reaches, once or several times, keeps what the change keeps, and has what it brings about. -/
theorem foldl_modCtx_reached {keeps brings : Ctx → Prop} (l : List Nat) (f : Ctx → Ctx) (s : State) (n : Nat)
    (hf : ∀ x, keeps x → keeps (f x) ∧ brings (f x)) (hs : keeps (s.ctx n)) :
    let t := l.foldl (fun s c => s.modCtx c f) s
    keeps (t.ctx n) ∧ (n ∈ l ∨ brings (s.ctx n) → brings (t.ctx n)) := by
  induction l generalizing s with
  | nil => exact ⟨hs, fun h => h.resolve_left (List.not_mem_nil)⟩
  | cons c l ih =>
    by_cases hn : n = c
    · subst hn
      have hstep := hf _ hs
      rw [← State.ctx_modCtx_same s n f] at hstep
      obtain ⟨hkeeps, hbrings⟩ := ih (s.modCtx n f) hstep.1
      exact ⟨hkeeps, fun _ => hbrings (.inr hstep.2)⟩
    · have hne : (s.modCtx c f).ctx n = s.ctx n := State.ctx_modCtx_ne _ _ _ _ hn
      obtain ⟨hkeeps, hbrings⟩ := ih (s.modCtx c f) (by rwa [hne])
      refine ⟨hkeeps, fun h => hbrings ?_⟩
      rw [hne]
      simpa [hn] using h

/-! ## Those that a walk reaches (R21) -/

/-- A dray whose running command waits for the walk, after the walk. -/
def Dray.served (d : Dray) (w : Walk) (f : DrayCmd → DrayCmd) : Dray :=
  { d with running := d.running.map fun c => if c.awaits w then f c else c }

theorem modAwaiting_core (s : State) (quarter : Nat) (w : Walk) (f : DrayCmd → DrayCmd) (n : Nat) :
    (s.modAwaiting quarter w f).core n = if quarterOf n = quarter then
      { s.core n with drays := (s.core n).drays.map fun e => (e.1, e.2.served w f) } else s.core n := by
  unfold State.core State.modAwaiting
  induction s.cores with
  | nil => split <;> rfl
  | cons e l ih =>
    obtain ⟨x, k⟩ := e
    rw [List.map_cons]
    by_cases hx : x = n
    · subst hx
      by_cases hq : quarterOf x = quarter
      · simp only [hq, if_true, fget]; rfl
      · simp only [hq, if_false, fget, if_true]
    · have hl (k : CoreState) (m : FMap CoreState) : fget (freshCore n) ((x, k) :: m) n = fget (freshCore n) m n := if_neg hx
      rw [hl, ← ih]
      by_cases hq : quarterOf x = quarter
      · rw [if_pos hq, hl]
      · rw [if_neg hq, hl]

/-- The commands that wait for a walk change; every register of a context, every byte and every TLB stays. -/
theorem modAwaiting_only (s : State) (quarter : Nat) (w : Walk) (f : DrayCmd → DrayCmd) :
    let t := s.modAwaiting quarter w f
    t = { s with cores := t.cores } ∧ s.SameBytes t ∧ ∀ n, (t.core n).tlb = (s.core n).tlb := by
  refine ⟨rfl, ⟨fun _ => rfl, fun _ => rfl, fun n a => ?_⟩, fun n => ?_⟩
  all_goals
    rw [modAwaiting_core]
    split <;> rfl

theorem modAwaiting_reaches {s : State} {core dray : Nat} {w : Walk} {cmd : DrayCmd} (f : DrayCmd → DrayCmd)
    (hr : ((s.core core).dray dray).running = some cmd) (hw : cmd.awaits w = true) :
    (((s.modAwaiting (quarterOf core) w f).core core).dray dray).running = some (f cmd) := by
  rw [modAwaiting_core, if_pos rfl]
  have h : fget {} ((s.core core).drays.map fun e => (e.1, e.2.served w f)) dray = ((s.core core).dray dray).served w f :=
    fget_map {} (fun d : Dray => d.served w f) _ _
  exact (congrArg Dray.running h).trans (by simp [Dray.served, hr, hw])

/-- A core whose dray has a running command that waits is one of those whose L1 TLB the walk fills (R20). -/
theorem walkCores_mem {s : State} {core dray : Nat} {w : Walk} {cmd : DrayCmd}
    (hr : ((s.core core).dray dray).running = some cmd) (hw : cmd.awaits w = true) (hk : cmd.kind ≠ 2) :
    core ∈ s.walkCores (quarterOf core) w := by
  have hcore : (core, s.core core) ∈ s.cores := by
    refine (fget_listed (freshCore core) s.cores core).resolve_right fun h => ?_
    rw [show s.core core = freshCore core from h] at hr
    cases hr
  have hdray : (dray, (s.core core).dray dray) ∈ (s.core core).drays := by
    refine (fget_listed ({} : Dray) (s.core core).drays dray).resolve_right fun h => ?_
    rw [show (s.core core).dray dray = {} from h] at hr
    cases hr
  refine List.mem_map.mpr ⟨_, List.mem_filter.mpr ⟨hcore, ?_⟩, rfl⟩
  simp only [decide_true, Bool.true_and, List.any_eq_true]
  exact ⟨_, hdray, by simp [hr, hw, hk]⟩

/-! ## The end of a walk (R14, R15, R21) -/

/-- A walk leaves the Quarter's walker. -/
def State.endWalk (s : State) (quarter : Nat) (w : Walk) : State :=
  s.modQuarter quarter fun q => { q with walks := q.walks.filter (· != w) }

section Walk
variable {s : State} {quarter tenant page : Nat} {w : Walk}

theorem walkComplete_none (h : ∀ w, w ∈ (s.quarter quarter).walks.take 64 → ¬ (w.tenant = tenant ∧ w.page = page)) :
    exec (.walkComplete quarter tenant page) s = .next s := by
  have hnone : ((s.quarter quarter).walks.take Config.walkLimit).find? (fun w => w.tenant = tenant && w.page = page) = none :=
    List.find?_eq_none.mpr fun w hw => by simpa using h w hw
  rw [exec_walkComplete, execWalkComplete, hnone]

variable (h : ((s.quarter quarter).walks.take 64).find? (fun w => w.tenant = tenant && w.page = page) = some w)
include h

/-- The walk that ends is of the page. -/
theorem walk_of_found : w.tenant = tenant ∧ w.page = page := by simpa using List.find?_some h

theorem walkComplete_found : exec (.walkComplete quarter tenant page) s =
    match s.walk tenant (page * 0x10000) with
    | .ok e entry => .next ((s.endWalk quarter w).walkFilled quarter w e entry)
    | .fault r => .next ((s.endWalk quarter w).walkFailed quarter w 3 r)
    | .violation => .next ((s.endWalk quarter w).walkFailed quarter w 4 0) := by
  rw [exec_walkComplete, execWalkComplete, show Config.walkLimit = 64 from rfl, h]
  rfl

theorem walkComplete_ok {e : Tlb} {entry : Nat} (hw : s.walk tenant (page * 0x10000) = .ok e entry) :
    exec (.walkComplete quarter tenant page) s = .next ((s.endWalk quarter w).walkFilled quarter w e entry) := by
  rw [walkComplete_found h, hw]

theorem walkComplete_fault {r : Nat} (hw : s.walk tenant (page * 0x10000) = .fault r) :
    exec (.walkComplete quarter tenant page) s = .next ((s.endWalk quarter w).walkFailed quarter w 3 r) := by
  rw [walkComplete_found h, hw]

theorem walkComplete_violation (hw : s.walk tenant (page * 0x10000) = .violation) :
    exec (.walkComplete quarter tenant page) s = .next ((s.endWalk quarter w).walkFailed quarter w 4 0) := by
  rw [walkComplete_found h, hw]

end Walk

/-- A context that a failed walk reaches. -/
def Ctx.walkRefused (x : Ctx) (w : Walk) (code reason : Nat) : Ctx :=
  { x with asked := none, walkFail := (w.page, code, reason) :: x.walkFail, iss := { x.iss with cause := none } }

/-- A context that a walk reaches. -/
def Ctx.walkServed (x : Ctx) : Ctx := { x with asked := none, iss := { x.iss with cause := x.iss.cause.filter (· != .walk) } }

theorem Ctx.walkServed_cause (x : Ctx) : x.walkServed.iss.cause.filter (· != .walk) = x.iss.cause.filter (· != .walk) := by
  simp [Ctx.walkServed, Option.filter_filter]

/-- What a walk that fails leaves. -/
theorem walkFailed_leaves (s : State) (quarter : Nat) (w : Walk) (code reason : Nat) :
    let t := (s.endWalk quarter w).walkFailed quarter w code reason
    (t.quarter quarter).walks = (s.quarter quarter).walks.filter (· != w) ∧ s.SameBytes t ∧
      (t.quarter quarter).tlb = (s.quarter quarter).tlb ∧ (∀ n, n ∉ s.walkWaiters quarter w → t.ctx n = s.ctx n) ∧
      ∀ n, (t.ctx n).r = (s.ctx n).r ∧ (t.ctx n).pc = (s.ctx n).pc ∧ (n ∈ s.walkWaiters quarter w →
        (t.ctx n).asked = none ∧ (t.ctx n).walkFail.head? = some (w.page, code, reason) ∧ (t.ctx n).iss.cause = none) := by
  let f : Ctx → Ctx := fun x => x.walkRefused w code reason
  let l := s.walkWaiters quarter w
  have hfold := foldl_modCtx_onlyCtxs l f (s.endWalk quarter w)
  obtain ⟨_, hbytes, _⟩ := modAwaiting_only (l.foldl (fun s c => s.modCtx c f) (s.endWalk quarter w)) quarter w fun c =>
    { c with asked := none, walkFail := (w.page, code, reason) :: c.walkFail }
  have hquarter : ((s.endWalk quarter w).walkFailed quarter w code reason).quarter quarter =
      { s.quarter quarter with walks := (s.quarter quarter).walks.filter (· != w) } := by
    refine Eq.trans ?_ (State.quarter_modQuarter_same s quarter fun q => { q with walks := q.walks.filter (· != w) })
    change (l.foldl (fun s c => s.modCtx c f) (s.endWalk quarter w)).quarter quarter = _
    rw [hfold]
    rfl
  refine ⟨by rw [hquarter], ?_, by rw [hquarter], fun n hn => foldl_modCtx_other l f (s.endWalk quarter w) n hn, fun n => ?_⟩
  · refine sameBytes_trans ?_ hbytes
    rw [hfold]
    exact sameBytes_refl s
  · obtain ⟨⟨hr, hpc⟩, hreached⟩ := foldl_modCtx_reached (keeps := fun x => x.r = (s.ctx n).r ∧ x.pc = (s.ctx n).pc)
      (brings := fun x => x.asked = none ∧ x.walkFail.head? = some (w.page, code, reason) ∧ x.iss.cause = none) l f
      (s.endWalk quarter w) n (fun _ hx => ⟨hx, rfl, rfl, rfl⟩) ⟨rfl, rfl⟩
    exact ⟨hr, hpc, fun hn => hreached (.inl hn)⟩

theorem walkFailed_dray {s : State} {core dray code reason : Nat} {w : Walk} {cmd : DrayCmd}
    (hr : ((s.core core).dray dray).running = some cmd) (hw : cmd.awaits w = true) :
    ((((s.endWalk (quarterOf core) w).walkFailed (quarterOf core) w code reason).core core).dray dray).running =
      some { cmd with asked := none, walkFail := (w.page, code, reason) :: cmd.walkFail } := by
  refine modAwaiting_reaches _ ?_ hw
  rw [foldl_modCtx_onlyCtxs]
  exact hr

/-- Translations that fill the L1 TLBs of several cores. -/
theorem foldl_fill_leaves (l : List Nat) (e : Tlb) (s : State) :
    let t := l.foldl (fun s n => s.modCore n fun k => { k with tlb := tlbFill k.tlb Config.l1TlbEntries e }) s
    t = { s with cores := t.cores } ∧ (∀ n, t.core n = { s.core n with tlb := (t.core n).tlb }) ∧
      ∀ n, n ∈ l ∨ (s.core n).tlb.head? = some e → (t.core n).tlb.head? = some e := by
  induction l generalizing s with
  | nil => exact ⟨rfl, fun _ => rfl, fun _ h => h.resolve_left List.not_mem_nil⟩
  | cons c l ih =>
    have hcore (n : Nat) := State.core_modCore s c n fun k => { k with tlb := tlbFill k.tlb Config.l1TlbEntries e }
    obtain ⟨honly, hrest, htlb⟩ := ih (s.modCore c fun k => { k with tlb := tlbFill k.tlb Config.l1TlbEntries e })
    refine ⟨?_, fun n => ?_, fun n hn => htlb n ?_⟩
    · rw [List.foldl_cons, honly]; rfl
    · rw [List.foldl_cons, hrest n, hcore]
      split
      · next h => rw [h]
      · rfl
    · rw [hcore]
      split
      · exact .inr rfl
      · next h =>
        rw [List.mem_cons] at hn
        exact hn.imp_left fun hn => hn.resolve_left h

/-- The state before those that wait go on: the walk is over, the leaf is marked, and the Quarter's TLB filled (R15). -/
def State.markWalk (s : State) (quarter : Nat) (w : Walk) (e : Tlb) (entry : Nat) (dirty : Bool) : State :=
  ((s.endWalk quarter w).markLeaf entry dirty).modQuarter quarter fun q => { q with tlb := tlbFill q.tlb Config.llTlbEntries e }

/-- The L1 TLBs filled, and the contexts that wait served. -/
def State.serveWalk (s : State) (quarter : Nat) (w : Walk) (e : Tlb) : State :=
  (s.walkWaiters quarter w).foldl (fun s c => s.modCtx c Ctx.walkServed)
    (((s.walkWaiters quarter w).map coreOf ++ s.walkCores quarter w).foldl
      (fun s n => s.modCore n fun k => { k with tlb := tlbFill k.tlb Config.l1TlbEntries e }) s)

/-- The translation that a walk brings: its DT bit is set where the walk was for a write that may be made (R15). -/
def Walk.brings (w : Walk) (e : Tlb) : Tlb := { e with dirty := e.dirty || w.write && e.perms.getLsbD 3 }

theorem walkFilled_eq (s : State) (quarter : Nat) (w : Walk) (e : Tlb) (entry : Nat) :
    (s.endWalk quarter w).walkFilled quarter w e entry =
      ((s.markWalk quarter w (w.brings e) entry (w.write && e.perms.getLsbD 3)).serveWalk quarter w (w.brings e)).modAwaiting
        quarter w fun c => { c with asked := none } := rfl

theorem serveWalk_leaves (s : State) (quarter : Nat) (w : Walk) (e : Tlb) :
    let t := s.serveWalk quarter w e
    t = { s with cores := t.cores, ctxs := t.ctxs } ∧ (∀ n, t.core n = { s.core n with tlb := (t.core n).tlb }) ∧
      (∀ n, n ∈ (s.walkWaiters quarter w).map coreOf ++ s.walkCores quarter w → (t.core n).tlb.head? = some e) ∧
      (∀ n, n ∉ s.walkWaiters quarter w → t.ctx n = s.ctx n) ∧
      ∀ n, (t.ctx n).r = (s.ctx n).r ∧ (t.ctx n).pc = (s.ctx n).pc ∧ (n ∈ s.walkWaiters quarter w →
        (t.ctx n).asked = none ∧ (t.ctx n).iss.cause = if (s.ctx n).iss.cause = some .walk then none else (s.ctx n).iss.cause) := by
  obtain ⟨hcores, hrest, htlb⟩ :=
    foldl_fill_leaves ((s.walkWaiters quarter w).map coreOf ++ s.walkCores quarter w) e s
  let u := ((s.walkWaiters quarter w).map coreOf ++ s.walkCores quarter w).foldl
    (fun s n => s.modCore n fun k => { k with tlb := tlbFill k.tlb Config.l1TlbEntries e }) s
  have hctxs := foldl_modCtx_onlyCtxs (s.walkWaiters quarter w) Ctx.walkServed u
  have hu : u = { s with cores := u.cores } := hcores
  have ht : s.serveWalk quarter w e = { u with ctxs := (s.serveWalk quarter w e).ctxs } := hctxs
  have hctx (n : Nat) : u.ctx n = s.ctx n := by rw [hu]; rfl
  have hcore (n : Nat) : (s.serveWalk quarter w e).core n = u.core n := by rw [ht]; rfl
  refine ⟨?_, fun n => ?_, fun n hn => ?_, fun n hn => (foldl_modCtx_other _ _ u n hn).trans (hctx n), fun n => ?_⟩
  · rw [ht, hu]
  · rw [hcore]; exact hrest n
  · rw [hcore]; exact htlb n (.inl hn)
  · let keeps (x : Ctx) : Prop := x.r = (s.ctx n).r ∧ x.pc = (s.ctx n).pc ∧
      x.iss.cause.filter (· != .walk) = (s.ctx n).iss.cause.filter (· != .walk)
    let brings (x : Ctx) : Prop := x.asked = none ∧ x.iss.cause = (s.ctx n).iss.cause.filter (· != .walk)
    have hf (x : Ctx) (hx : keeps x) : keeps x.walkServed ∧ brings x.walkServed := by
      obtain ⟨hr, hpc, hcause⟩ := hx
      exact ⟨⟨hr, hpc, x.walkServed_cause.trans hcause⟩, rfl, hcause⟩
    have hk : keeps (u.ctx n) := by rw [hctx]; exact ⟨rfl, rfl, rfl⟩
    obtain ⟨⟨hr, hpc, _⟩, hreached⟩ := foldl_modCtx_reached (s.walkWaiters quarter w) Ctx.walkServed u n hf hk
    refine ⟨hr, hpc, fun hn => ?_⟩
    obtain ⟨hasked, hcause⟩ := hreached (.inl hn)
    refine ⟨hasked, hcause.trans ?_⟩
    cases hc : (s.ctx n).iss.cause with
    | none => rfl
    | some c => by_cases hw : c = .walk <;> simp [hw]

/-- What a walk that finds its translation leaves. -/
theorem walkFilled_leaves (s : State) (quarter : Nat) (w : Walk) (e : Tlb) (entry : Nat) :
    let t := (s.endWalk quarter w).walkFilled quarter w e entry
    t.quarter quarter = { s.quarter quarter with
      walks := (s.quarter quarter).walks.filter (· != w)
      tlb := tlbFill (s.quarter quarter).tlb Config.llTlbEntries (w.brings e) } ∧
      t.mem = (s.markLeaf entry (w.write && e.perms.getLsbD 3)).mem ∧
      (∀ n, n ∈ (s.walkWaiters quarter w).map coreOf ++ s.walkCores quarter w → (t.core n).tlb.head? = some (w.brings e)) ∧
      (∀ n, n ∉ s.walkWaiters quarter w → t.ctx n = s.ctx n) ∧
      ∀ n, (t.ctx n).r = (s.ctx n).r ∧ (t.ctx n).pc = (s.ctx n).pc ∧ (n ∈ s.walkWaiters quarter w →
        (t.ctx n).asked = none ∧ (t.ctx n).iss.cause = if (s.ctx n).iss.cause = some .walk then none else (s.ctx n).iss.cause) := by
  rw [walkFilled_eq]
  have hv : (s.markWalk quarter w (w.brings e) entry (w.write && e.perms.getLsbD 3)).quarter quarter = { s.quarter quarter with
      walks := (s.quarter quarter).walks.filter (· != w)
      tlb := tlbFill (s.quarter quarter).tlb Config.llTlbEntries (w.brings e) } := by
    simp [State.markWalk, State.endWalk, State.markLeaf, State.quarter, State.modQuarter]
  obtain ⟨honly, _, htlb, hothers, hreached⟩ :=
    serveWalk_leaves (s.markWalk quarter w (w.brings e) entry (w.write && e.perms.getLsbD 3)) quarter w (w.brings e)
  generalize hu : (s.markWalk quarter w (w.brings e) entry (w.write && e.perms.getLsbD 3)).serveWalk quarter w (w.brings e) = u at *
  obtain ⟨_, _, hsame⟩ := modAwaiting_only u quarter w fun c => { c with asked := none }
  refine ⟨?_, ?_, fun n hn => (congrArg List.head? (hsame n)).trans (htlb n hn), hothers, hreached⟩
  · change u.quarter quarter = _
    rw [honly]
    exact hv
  · change u.mem = _
    rw [honly]
    rfl

theorem walkFilled_dray {s : State} {core dray entry : Nat} {w : Walk} {e : Tlb} {cmd : DrayCmd}
    (hr : ((s.core core).dray dray).running = some cmd) (hw : cmd.awaits w = true) :
    ((((s.endWalk (quarterOf core) w).walkFilled (quarterOf core) w e entry).core core).dray dray).running =
      some { cmd with asked := none } := by
  rw [walkFilled_eq]
  refine modAwaiting_reaches (fun c => { c with asked := none }) ?_ hw
  obtain ⟨_, hrest, _⟩ :=
    serveWalk_leaves (s.markWalk (quarterOf core) w (w.brings e) entry (w.write && e.perms.getLsbD 3)) (quarterOf core) w (w.brings e)
  rw [hrest core]
  exact hr

/-! ## The head word of a Manifest (R123) -/

/-- A Manifest's head has been published. -/
def Ctx.publish (x : Ctx) (n : Nat) : Ctx := { x with man := { x.man with published := n } }

/-- A Manifest's head could not be published: the failure is noted. -/
def Ctx.publishFails (x : Ctx) (n code detail : Nat) : Ctx :=
  { x with man := { x.man with published := n, err := some { code := code, detail := detail, addr := x.man.ctl } } }

/-- The head word of a Manifest is to be written, and its page can be translated now (R123). -/
def State.publishes (s : State) (c : Nat) : Prop :=
  s.recording c = true ∧ (s.ctx c).man.published < (s.ctx c).man.lowest ∧ (s.ctx c).st ≠ .free ∧
    s.mayTranslate (coreOf c) (s.ctx c).tenant (s.ctx c).man.ctl ringNeed = true

section Head
variable {s : State} {c : Nat}

theorem publishes_iff : s.publishes c ↔ (s.recording c && decide ((s.ctx c).man.published < (s.ctx c).man.lowest) &&
    (s.ctx c).st != .free && s.mayTranslate (coreOf c) (s.ctx c).tenant (s.ctx c).man.ctl ringNeed) = true := by
  simp [State.publishes, and_assoc]

theorem headWrite_ok {u : State} {pa : Nat} {nb : Bool} (h : s.publishes c)
    (ht : s.translateNow (coreOf c) (s.ctx c).tenant (s.ctx c).man.ctl ringNeed = (.ok pa nb, u)) :
    exec (.manifestHeadWrite c) s = .next ((u.ringWrite c pa (s.ctx c).man.ctl (toBytes 8 (s.ctx c).man.lowest)).modCtx c
      (·.publish (s.ctx c).man.lowest)) := by
  rw [exec_manifestHeadWrite, execManifestHeadWrite, if_pos (publishes_iff.mp h), ht]
  rfl

theorem headWrite_fault {u : State} {code detail : Nat} (h : s.publishes c)
    (ht : s.translateNow (coreOf c) (s.ctx c).tenant (s.ctx c).man.ctl ringNeed = (.fault code detail, u)) :
    exec (.manifestHeadWrite c) s =
      .next ((u.modCtx c (·.publishFails (s.ctx c).man.lowest code detail)).notice 4 c code (s.ctx c).man.ctl.toNat) := by
  rw [exec_manifestHeadWrite, execManifestHeadWrite, if_pos (publishes_iff.mp h), ht]
  rfl

theorem headWrite_not (h : ¬ s.publishes c) : exec (.manifestHeadWrite c) s = .next s := by
  rw [exec_manifestHeadWrite, execManifestHeadWrite, if_neg (mt publishes_iff.mpr h)]

end Head

theorem translateNow_ctx {s u : State} {core t : Nat} {va : Word} {need : Need} {r : Check}
    (h : s.translateNow core t va need = (r, u)) (n : Nat) : u.ctx n = s.ctx n := by
  have honly := (translateNow_only s core t va need).1
  rw [h] at honly
  rw [show u = _ from honly]
  rfl

theorem ringWrite_ctx (s : State) (c pa n : Nat) (va : Word) (b : List Byte) : (s.ringWrite c pa va b).ctx n = s.ctx n := by
  unfold State.ringWrite
  split
  · rfl
  · exact tellAbsent_ctx ..

theorem memoriesOk_mem {s : State} (h : s.memoriesOk = true) : Memory.wf s.mem = true := by
  simp only [State.memoriesOk, Bool.and_eq_true] at h
  exact h.1.1

theorem holds_mwrite {s : State} {pa : Nat} {b : List Byte} (h : Memory.wf s.mem = true) {t : State} (hm : t.mem = mwrite s.mem pa b)
    (hs : t.ms.staging = s.ms.staging) (hc : t.cores = s.cores) : s.Holds t pa b := by
  have hread (l : List Byte) (m : Memory) (a i : Nat) (hm : Memory.wf m = true) (hi : i < l.length) :
      mget (mwrite m a l) (a + i) = l.getD i 0#8 := by
    induction l generalizing m a i with
    | nil => simp at hi
    | cons x l ih =>
      rw [mwrite]
      cases i with
      | zero => rw [mget_mwrite_ne _ _ _ _ (wf_mput _ _ _ hm) (by omega), mget_mput _ _ _ _ hm]; simp
      | succ i =>
        have := ih (mput m a x) (a + 1) i (wf_mput _ _ _ hm) (by simpa using hi)
        rw [show a + (i + 1) = a + 1 + i by omega, this]
        simp
  refine ⟨fun i hi => by rw [hm]; exact hread b s.mem pa i h hi, fun n hn => by rw [hm]; exact mget_mwrite_ne b _ _ _ h hn,
    fun n => by rw [hs], fun n a => ?_⟩
  rw [State.core, State.core, hc]

theorem ringWrite_backed {s : State} {c pa : Nat} {va : Word} {b : List Byte} (h : s.backed pa = true)
    (hm : Memory.wf s.mem = true) : s.Holds (s.ringWrite c pa va b) pa b := by
  have e : s.ringWrite c pa va b = ({ s with mem := mwrite s.mem pa b } : State).dropNear (quarterOf (coreOf c)) pa := if_pos h
  refine holds_mwrite hm ?_ ?_ ?_ <;> rw [e] <;> rfl

theorem ringWrite_absent {s : State} {c pa : Nat} {va : Word} {b : List Byte} (h : s.backed pa = false) :
    s.SameBytes (s.ringWrite c pa va b) := by
  have e : s.ringWrite c pa va b =
      (s.modQuarter (homeQuarter pa) fun q => { q with discards := q.discards + 1 }).tellAbsent c pa va.toNat := by
    simp [State.ringWrite, h]
  rw [e, tellAbsent_eq]
  exact sameBytes_refl s

/-! ## Evictions (R51, R62) -/

/-- A context after a line has gone from its line buffer. -/
def Ctx.dropLine (x : Ctx) (gone : Nat → Nat → Bool) : Ctx :=
  { x with line := x.line.filter fun l => !gone x.tenant l.1 }

theorem Ctx.dropLine_dropLine (x : Ctx) (gone : Nat → Nat → Bool) : (x.dropLine gone).dropLine gone = x.dropLine gone := by
  simp [Ctx.dropLine, Option.filter_filter]

theorem Ctx.dropLine_gone {x : Ctx} {gone : Nat → Nat → Bool} {k : Nat} {b : List Byte} (hl : x.line = some (k, b))
    (hg : gone x.tenant k = true) : x.dropLine gone = { x with line := none } := by
  simp [Ctx.dropLine, hl, hg, Option.filter_some]

theorem Ctx.dropLine_kept {x : Ctx} {gone : Nat → Nat → Bool} (h : ∀ l, x.line = some l → gone x.tenant l.1 = false) :
    x.dropLine gone = x := by
  have hline : (x.line.filter fun l => !gone x.tenant l.1) = x.line := by
    cases hl : x.line with
    | none => rfl
    | some l => simp [Option.filter_some, h l hl]
  rw [Ctx.dropLine, hline]

theorem mem_contextsOf (core n : Nat) : n ∈ contextsOf core ↔ coreOf n = core := by
  simp only [contextsOf, coreOf, List.mem_cons, List.not_mem_nil, or_false]
  omega

/-- Line buffers lose a line, and nothing else changes. -/
theorem dropBuffers_leaves (s : State) (core : Nat) (gone : Nat → Nat → Bool) :
    let t := s.dropBuffers core gone
    t = { s with ctxs := t.ctxs } ∧ ∀ n, t.ctx n = if coreOf n = core then (s.ctx n).dropLine gone else s.ctx n := by
  let step (s : State) (c : Nat) : State := match (s.ctx c).line with
    | some (n, _) => if gone (s.ctx c).tenant n then s.modCtx c fun x => { x with line := none } else s
    | none => s
  have hstep (s : State) (c : Nat) : step s c = { s with ctxs := (step s c).ctxs } ∧
      ∀ n, (step s c).ctx n = if n = c then (s.ctx c).dropLine gone else s.ctx n := by
    have keeps (h : (s.ctx c).dropLine gone = s.ctx c) : ∀ n, s.ctx n = if n = c then (s.ctx c).dropLine gone else s.ctx n := by
      intro n
      rw [h]
      split
      · next hn => rw [hn]
      · rfl
    simp only [step]
    split
    · next k b hl =>
      split
      · next hg =>
        exact ⟨rfl, fun n => by rw [State.ctx_modCtx, Ctx.dropLine_gone hl hg]⟩
      · next hg => exact ⟨rfl, keeps (Ctx.dropLine_kept fun l h => by cases hl.symm.trans h; simpa using hg)⟩
    · next hl => exact ⟨rfl, keeps (Ctx.dropLine_kept fun l h => by cases hl.symm.trans h)⟩
  have hfold (l : List Nat) (s : State) : l.foldl step s = { s with ctxs := (l.foldl step s).ctxs } ∧
      ∀ n, (l.foldl step s).ctx n = if n ∈ l then (s.ctx n).dropLine gone else s.ctx n := by
    induction l generalizing s with
    | nil => exact ⟨rfl, fun _ => rfl⟩
    | cons c l ih =>
      obtain ⟨honly, hctx⟩ := ih (step s c)
      obtain ⟨sonly, sctx⟩ := hstep s c
      refine ⟨?_, fun n => ?_⟩
      · rw [List.foldl_cons, honly, sonly]
      · rw [List.foldl_cons, hctx, sctx]
        by_cases hc : n = c <;> by_cases hl : n ∈ l <;> simp [hc, hl, Ctx.dropLine_dropLine]
  obtain ⟨honly, hctx⟩ := hfold (contextsOf core) s
  refine ⟨honly, fun n => (hctx n).trans ?_⟩
  simp only [mem_contextsOf]

/-- A line leaves an L1I and the line buffers that it includes, and nothing else changes. -/
theorem dropL1i_leaves (s : State) (core : Nat) (gone : Nat → Nat → Bool) :
    let t := s.dropL1i core gone
    t = { s with ctxs := t.ctxs, cores := t.cores } ∧
      (∀ n, t.ctx n = if coreOf n = core then (s.ctx n).dropLine gone else s.ctx n) ∧
      ∀ n, t.core n = if n = core then
        { s.core core with l1i := (s.core core).l1i.filter fun e => !gone (e.1 / 2 ^ 64) (e.1 % 2 ^ 64) } else s.core n := by
  let u := s.modCore core fun k => { k with l1i := k.l1i.filter fun e => !gone (e.1 / 2 ^ 64) (e.1 % 2 ^ 64) }
  obtain ⟨honly, hctx⟩ := dropBuffers_leaves u core gone
  refine ⟨?_, hctx, fun n => ?_⟩
  · change u.dropBuffers core gone = { s with ctxs := _, cores := (u.dropBuffers core gone).cores }
    rw [honly]
    rfl
  · change (u.dropBuffers core gone).core n = _
    rw [honly]
    exact State.core_modCore s core n fun k => { k with l1i := k.l1i.filter fun e => !gone (e.1 / 2 ^ 64) (e.1 % 2 ^ 64) }

theorem dropL1i_sameBytes (s : State) (core : Nat) (gone : Nat → Nat → Bool) : s.SameBytes (s.dropL1i core gone) := by
  obtain ⟨honly, _, hcore⟩ := dropL1i_leaves s core gone
  refine ⟨fun a => by rw [honly], fun a => by rw [honly], fun n a => ?_⟩
  rw [hcore]
  split
  · next h => rw [h]
  · rfl

/-- The lines of a core's L1I that were fetched from a line of a home, by their keys. -/
def CoreState.linesOf (k : CoreState) (line : Nat) : List Nat := (k.l1i.filter fun e => e.2.1 / 2 = line).map (·.1)

/-- One core's copies of a home's line go. -/
def State.evictHome (s : State) (line n : Nat) : State :=
  s.dropL1i n fun t v => ((s.core n).linesOf line).contains (t * 2 ^ 64 + v)

/-- Every listed core's copies of a home's line go. -/
theorem foldl_evictHome (l : List Nat) (line : Nat) (s : State) :
    let t := l.foldl (fun s n => s.evictHome line n) s
    s.SameBytes t ∧ t.ms = s.ms ∧ (∀ n, t.ctx n = { s.ctx n with line := (t.ctx n).line }) ∧
      ∀ n e, e ∈ (t.core n).l1i → e ∈ (s.core n).l1i ∧ (n ∈ l → e.2.1 / 2 ≠ line) := by
  induction l generalizing s with
  | nil => exact ⟨sameBytes_refl s, rfl, fun _ => rfl, fun _ _ h => ⟨h, fun h => absurd h List.not_mem_nil⟩⟩
  | cons c l ih =>
    obtain ⟨hbytes, hms, hctx, hlines⟩ := ih (s.evictHome line c)
    let gone (t v : Nat) : Bool := ((s.core c).linesOf line).contains (t * 2 ^ 64 + v)
    obtain ⟨honly, dctx, dcore⟩ := dropL1i_leaves s c gone
    refine ⟨sameBytes_trans (dropL1i_sameBytes s c gone) hbytes, hms.trans ?_, fun n => ?_, fun n e he => ?_⟩
    · change (s.dropL1i c gone).ms = s.ms
      rw [honly]
    · rw [List.foldl_cons, hctx n, show (s.evictHome line c).ctx n = _ from dctx n]
      split <;> rfl
    · obtain ⟨hmem, hne⟩ := hlines n e he
      rw [show (s.evictHome line c).core n = _ from dcore n] at hmem
      split at hmem
      · next hn =>
        subst hn
        obtain ⟨hmem, hkept⟩ := List.mem_filter.mp hmem
        refine ⟨hmem, fun _ heq => ?_⟩
        have hgone : gone (e.1 / 2 ^ 64) (e.1 % 2 ^ 64) = true := by
          refine List.contains_iff_mem.mpr ?_
          rw [Nat.div_add_mod']
          exact List.mem_map.mpr ⟨e, List.mem_filter.mpr ⟨hmem, decide_eq_true heq⟩, rfl⟩
        rw [hgone] at hkept
        cases hkept
      · next hn => exact ⟨hmem, fun h => hne ((List.mem_cons.mp h).resolve_left hn)⟩

/-- A core that nothing lists holds no line. -/
theorem l1i_unlisted {s : State} {n : Nat} (h : n ∉ s.listedCores) : (s.core n).l1i = [] := by
  have hd : s.core n = freshCore n := by
    unfold State.core
    unfold State.listedCores at h
    revert h
    induction s.cores with
    | nil => exact fun _ => rfl
    | cons e l ih =>
      intro h
      obtain ⟨hx, hl⟩ : n ≠ e.1 ∧ n ∉ l.map (·.1) := by simpa only [List.map_cons, List.mem_cons, not_or] using h
      exact (if_neg (Ne.symm hx)).trans (ih hl)
  rw [hd]
  rfl

/-- Settles O38: a walk by what it finds, the head word by whether its page translates, an eviction by its level. -/
theorem walkHeadAndEvictionEvents : Obligations.WalkHeadAndEvictionEvents := by
  intro s u quarter tenant page entry reason c pa core line code detail dray nb w e cmd q found walked finished _ fails
  -- a dray's command that waits for the page is one of those that the walk reaches
  have awaits (h : cmd.tenant = tenant) (ha : cmd.asked = some page) (hw : w.tenant = tenant ∧ w.page = page) :
      cmd.awaits w = true := by
    simp [DrayCmd.awaits, h, ha, hw]
  have hfails (hfound : found) (code reason : Nat) : fails code reason ((s.endWalk quarter w).walkFailed quarter w code reason) := by
    obtain ⟨htenant, hpage⟩ := walk_of_found hfound
    obtain ⟨hwalks, hbytes, htlb, hothers, hreached⟩ := walkFailed_leaves s quarter w code reason
    rw [hpage] at hreached
    refine ⟨⟨hwalks, hothers, fun n hn => ?_⟩, hbytes, htlb, fun n hn => ?_, fun ⟨hq, hr, hcmd, hasked⟩ => ?_⟩
    · obtain ⟨hregs, hpc, hreach⟩ := hreached n
      exact ⟨hregs, hpc, (hreach hn).1⟩
    · exact ((hreached n).2.2 hn).2
    · subst hq
      exact (walkFailed_dray hr (awaits hcmd hasked ⟨htenant, hpage⟩)).trans (by rw [hpage])
  refine ⟨walkComplete_none, fun hfound hwalk hm => ?filled, fun hfound hwalk => ⟨_, walkComplete_fault hfound hwalk, hfails hfound 3 reason⟩,
    fun hfound hwalk => ⟨_, walkComplete_violation hfound hwalk, hfails hfound 4 0⟩, fun hp ht hm => ?published, fun hp ht => ?unpublished, fun hp => headWrite_not hp, ?l1i, ?plaza, ?home⟩
  case filled =>
    have hw := walk_of_found hfound
    obtain ⟨hquarter, hmem, htlb, hothers, hreached⟩ := walkFilled_leaves s quarter w e entry
    have hleaf (n : Nat) := mget_mput s.mem entry n (mget s.mem entry ||| (if w.write && e.perms.getLsbD 3 then 0xC0#8 else 0x40#8))
      (memoriesOk_mem hm)
    refine ⟨_, walkComplete_ok hfound hwalk, ⟨by rw [hquarter], hothers, fun n hn => ?_⟩, by rw [hquarter]; rfl,
      fun n hn => ⟨?_, ?_⟩, fun ⟨hq, hr, htenant, hasked⟩ => ?_, fun ⟨hq, hr, htenant, hasked⟩ hk => ?_, ?_, fun n hn => ?_⟩
    · obtain ⟨hregs, hpc, hreach⟩ := hreached n
      exact ⟨hregs, hpc, (hreach hn).1⟩
    · exact htlb _ (List.mem_append_left _ (List.mem_map_of_mem hn))
    · exact ((hreached n).2.2 hn).2
    · subst hq
      exact walkFilled_dray hr (awaits htenant hasked hw)
    · subst hq
      exact htlb _ (List.mem_append_right _ (walkCores_mem hr (awaits htenant hasked hw) hk))
    · rw [hmem]; exact (hleaf entry).trans (if_pos rfl)
    · rw [hmem]; exact (hleaf n).trans (if_neg hn)
  case published =>
    have hu := translateNow_ctx ht
    have hring (n : Nat) := (ringWrite_ctx u c pa n (s.ctx c).man.ctl (toBytes 8 (s.ctx c).man.lowest)).trans (hu n)
    refine ⟨_, headWrite_ok hp ht, fun hb => ringWrite_backed hb (memoriesOk_mem hm), fun hb => ringWrite_absent hb, ?_, fun n hn => ?_⟩
    · rw [State.ctx_modCtx_same, hring]; rfl
    · rw [State.ctx_modCtx_ne _ _ _ _ hn, hring]
  case unpublished =>
    have hu := translateNow_ctx ht
    refine ⟨_, headWrite_fault hp ht, fun n hn => ?_, ?_⟩
    · rw [State.notice_ctx, State.ctx_modCtx_ne _ _ _ _ hn, hu]
    · rw [State.notice_ctx, State.ctx_modCtx_same, hu]; rfl
  case l1i =>
    let gone (t n : Nat) : Bool := t * 2 ^ 64 + n = line
    obtain ⟨honly, hctx, hcore⟩ := dropL1i_leaves s core gone
    refine ⟨s.dropL1i core gone, rfl, dropL1i_sameBytes s core gone, by rw [honly], ?_, fun n hn => (hcore n).trans (if_neg hn),
      fun n => ?_⟩
    · rw [hcore, if_pos rfl]
      refine List.filter_congr fun e _ => ?_
      simp only [gone, Nat.div_add_mod', bne, beq_eq_decide]
    · rw [hctx]
      refine ⟨fun hn hev => ?_, by split <;> rfl, fun h => ?_⟩
      · obtain ⟨l, hl, hline⟩ := hev
        rw [if_pos hn, Ctx.dropLine_gone hl (decide_eq_true hline)]
      · split
        · next hn =>
          refine Ctx.dropLine_kept fun l hl => decide_eq_false fun hline => ?_
          exact h.resolve_left (not_not.mpr hn) ⟨l, hl, hline⟩
        · rfl
  case plaza =>
    refine ⟨_, rfl, rfl, fun e => ?_⟩
    refine List.mem_filter.trans (and_congr_right fun _ => ?_)
    simp only [Nat.div_add_mod', Bool.not_eq_true', Bool.and_eq_false_iff, decide_eq_false_iff_not, not_and_or]
  case home =>
    obtain ⟨hbytes, hms, hctx, hlines⟩ := foldl_evictHome s.listedCores line s
    refine ⟨_, rfl, hbytes, hms, fun n e he => ?_, hctx⟩
    obtain ⟨hmem, hne⟩ := hlines n e he
    refine ⟨hmem, hne ?_⟩
    by_contra hn
    rw [l1i_unlisted hn] at hmem
    exact List.not_mem_nil hmem

end Sys2Proof.Machine

/-! # Proofs: requests of host functions, of CXL.mem and of peers (R22, R35, R40, R51, R57, R59, R61, R83, R104, R336, R341) -/

namespace Sys2Proof.Machine

theorem exec_windowAccess (fn off : Nat) (op : BusOp) (s : State) : exec (.windowAccess fn off op) s = execWindowAccess fn off op s := rfl
theorem exec_hostCxlMemAccess (pa : Nat) (op : BusOp) (s : State) :
    exec (.hostCxlMemAccess pa op) s = execHostCxlMemAccess pa op s := rfl
theorem exec_peerRequest (pa : Nat) (op : BusOp) (s : State) : exec (.peerRequest pa op) s = execPeerRequest pa op s := rfl

/-! ## A request at its home (R51, R57, R59, R83, R104) -/

/-- The home refuses a request: the mixed-size check fires, memory is not there, or a line that is read is poisoned. -/
def State.busDenied (s : State) (engid t pa : Nat) (op : BusOp) : Prop :=
  (∃ z, z ∈ linePieces pa (busSize op) ∧ s.overlapFires t z.1 z.2 (0x20000 + engid) 16 = true) ∨ s.backed pa = false ∨
    (busPosted op = false ∧ ∃ l, l ∈ busLines pa (busSize op) ∧ l ∈ s.ms.poison)

/-- The home performs a request. -/
def State.busGranted (s : State) (engid t pa : Nat) (op : BusOp) : Prop :=
  (∀ z, z ∈ linePieces pa (busSize op) → s.overlapFires t z.1 z.2 (0x20000 + engid) 16 = false) ∧ s.backed pa = true ∧
    (busPosted op = false → ∀ l, l ∈ busLines pa (busSize op) → l ∉ s.ms.poison)

/-- What a request writes at its home. -/
def State.busWrite (s : State) (engid tenant pa : Nat) (op : BusOp) : State :=
  (linePieces pa (busSize op)).foldl (fun s x => s.noteWrite tenant x.1 x.2 (busMaster engid) 16)
    ((s.homeWrite (.outside engid) tenant pa (busNew op (mread s.mem pa (busSize op)))).cleanLines pa (busSize op))

/-- A change of the notices and the discard counts alone. -/
def State.OnlyTold (s t : State) : Prop :=
  ∃ a n c h, t = { s with quarters := t.quarters, pf := { s.pf with audit := a, notices := n, auditCounter := c, chain := h } }

theorem onlyTold_leaves {s t : State} (h : s.OnlyTold t) : s.SameBytes t ∧ s.SameContexts t ∧ t.pf.replies = s.pf.replies := by
  obtain ⟨a, n, c, k, ht⟩ := h
  rw [ht]
  exact ⟨sameBytes_refl s, fun _ => rfl, rfl⟩

theorem busFailed_onlyTold (s : State) (engid pa : Nat) (op : BusOp) (detail : Nat) : s.OnlyTold (s.busFailed engid pa op detail) := by
  unfold State.busFailed State.tellAbsent
  split <;> split <;> try split
  all_goals exact ⟨_, _, _, _, rfl⟩

section Home
variable {s : State} {engid t pa : Nat} {op : BusOp}

theorem overlaps_eq : (linePieces pa (busSize op)).any (fun x => s.overlapFires t x.1 x.2 (busMaster engid) 16) = true ↔
    ∃ z, z ∈ linePieces pa (busSize op) ∧ s.overlapFires t z.1 z.2 (0x20000 + engid) 16 = true := List.any_eq_true

theorem readsPoison_eq : (!busPosted op && (busLines pa (busSize op)).any s.ms.poison.contains) = true ↔
    busPosted op = false ∧ ∃ l, l ∈ busLines pa (busSize op) ∧ l ∈ s.ms.poison := by
  simp

theorem busPerform_denied (h : s.busDenied engid t pa op) : ∃ u, s.busPerform engid t pa op = (none, u) ∧ s.OnlyTold u := by
  unfold State.busPerform
  simp only
  split
  · exact ⟨_, rfl, _, _, _, _, rfl⟩
  · next ho =>
    split
    · exact ⟨_, rfl, busFailed_onlyTold ..⟩
    · next hb =>
      split
      · exact ⟨_, rfl, busFailed_onlyTold ..⟩
      · next hp =>
        obtain h | h | h := h
        · exact absurd (overlaps_eq.mpr h) ho
        · simp [h] at hb
        · exact absurd (readsPoison_eq.mpr h) hp

theorem busPerform_granted (h : s.busGranted engid t pa op) :
    s.busPerform engid t pa op = (some (ofBytes (mread s.mem pa (busSize op))),
      if busTakes op (mread s.mem pa (busSize op)) then s.busWrite engid t pa op else s) := by
  obtain ⟨ho, hb, hp⟩ := h
  have no : ¬ (linePieces pa (busSize op)).any (fun x => s.overlapFires t x.1 x.2 (busMaster engid) 16) = true := by
    rw [overlaps_eq]
    rintro ⟨z, hz, hf⟩
    rw [ho z hz] at hf
    cases hf
  have np : ¬ (!busPosted op && (busLines pa (busSize op)).any s.ms.poison.contains) = true := by
    rw [readsPoison_eq]
    rintro ⟨hposted, l, hl, hm⟩
    exact hp hposted l hl hm
  simp only [State.busPerform, if_neg no, hb, Bool.not_true, Bool.false_eq_true, if_false, if_neg np]
  rfl

theorem noteWrite_only (s : State) (tenant pa size master cls : Nat) :
    s.noteWrite tenant pa size master cls =
      { s with ms := { s.ms with lastWrites := (s.noteWrite tenant pa size master cls).ms.lastWrites } } := by
  unfold State.noteWrite
  split <;> rfl

theorem foldl_noteWrite_only (l : List (Nat × Nat)) (tenant master : Nat) (s : State) :
    let t := l.foldl (fun s x => s.noteWrite tenant x.1 x.2 master 16) s
    t = { s with ms := { s.ms with lastWrites := t.ms.lastWrites } } := by
  induction l generalizing s with
  | nil => rfl
  | cons x l ih => rw [List.foldl_cons, ih, noteWrite_only]

/-- What a request that writes leaves. -/
theorem busWrite_leaves (hm : Memory.wf s.mem = true) :
    let u := s.busWrite engid t pa op
    s.Holds u pa (busNew op (mread s.mem pa (busSize op))) ∧ s.SameContexts u ∧ u.pf.replies = s.pf.replies := by
  let b := busNew op (mread s.mem pa (busSize op))
  have hhome := homeWrite_outside s engid t pa b
  have hfold := foldl_noteWrite_only (linePieces pa (busSize op)) t (busMaster engid)
    ((s.homeWrite (.outside engid) t pa b).cleanLines pa (busSize op))
  refine ⟨holds_mwrite hm ?_ ?_ ?_, fun c => ?_, ?_⟩
  all_goals
    rw [show s.busWrite engid t pa op = _ from hfold, State.cleanLines, hhome]
    rfl

theorem busAnswer_denied (h : s.busDenied engid t pa op) (port : Nat) : ∃ u, s.OnlyTold u ∧
    s.busAnswer port engid t pa op = if busPosted op then u else u.reply port (2 ^ (8 * busSize op) - 1) true := by
  obtain ⟨u, hu, honly⟩ := busPerform_denied h
  exact ⟨u, honly, by rw [State.busAnswer, hu]; rfl⟩

theorem busAnswer_granted (h : s.busGranted engid t pa op) (port : Nat) :
    s.busAnswer port engid t pa op =
      let u := if busTakes op (mread s.mem pa (busSize op)) then s.busWrite engid t pa op else s
      if busPosted op then u else u.reply port (ofBytes (mread s.mem pa (busSize op))) false := by
  rw [State.busAnswer, busPerform_granted h]

end Home

/-! ## Which requests reach a home (R17, R22, R35, R336, R341) -/

section Reach
variable {s : State} {pa fn off : Nat} {op : BusOp}

theorem peerRequest_unfit (h : busFits pa op = false) : exec (.peerRequest pa op) s = .next s := by
  simp [exec_peerRequest, execPeerRequest, h]

theorem cxlMem_unfit (h : busFits pa op = false) : exec (.hostCxlMemAccess pa op) s = .next s := by
  simp [exec_hostCxlMemAccess, execHostCxlMemAccess, h]

theorem peerRequest_unreached (h : ∀ p, p ∈ s.pf.peers → fget 0 s.pf.peerDomains p ≠ s.pf.domain) :
    exec (.peerRequest pa op) s = .next s := by
  have hr : s.reached = false := by simpa [State.reached] using h
  simp [exec_peerRequest, execPeerRequest, hr]

theorem reached_of_peer {y : Nat} (h : y ∈ s.pf.peers) (hd : fget 0 s.pf.peerDomains y = s.pf.domain) : s.reached = true :=
  List.any_eq_true.mpr ⟨y, h, decide_eq_true hd⟩

theorem peerRequest_held (hr : s.reached = true) (hf : busFits pa op = true) {t : Nat} (ht : s.tenantAt pa = some t) :
    exec (.peerRequest pa op) s = .next (s.busAnswer 0x10000 4 t pa op) := by
  simp [exec_peerRequest, execPeerRequest, hr, hf, ht, peerPort]

theorem peerRequest_unheld (hr : s.reached = true) (hf : busFits pa op = true) (ht : s.tenantAt pa = none) :
    exec (.peerRequest pa op) s = .next (s.busViolation 0x10000 4 pa) := by
  simp [exec_peerRequest, execPeerRequest, hr, hf, ht, peerPort]

theorem region_of_tenantAt {t : Nat} (h : s.tenantAt pa = some t) : region pa ≠ .registers := by
  intro hr
  rw [State.tenantAt, hr] at h
  cases h

theorem cxlMem_held (hf : busFits pa op = true) {t : Nat} (ht : s.tenantAt pa = some t) :
    exec (.hostCxlMemAccess pa op) s = .next (s.busAnswer 0x10001 3 t pa op) := by
  simp [exec_hostCxlMemAccess, execHostCxlMemAccess, hf, ht, region_of_tenantAt ht, cxlPort]

theorem cxlMem_registers (hf : busFits pa op = true) (hr : region pa = .registers) :
    exec (.hostCxlMemAccess pa op) s = .next (s.busViolation 0x10001 3 pa) := by
  simp [exec_hostCxlMemAccess, execHostCxlMemAccess, hf, hr, cxlPort]

theorem cxlMem_unheld (hf : busFits pa op = true) (hr : region pa ≠ .registers) (ht : s.tenantAt pa = none) :
    exec (.hostCxlMemAccess pa op) s = .next (s.busEmpty 0x10001 op) := by
  simp [exec_hostCxlMemAccess, execHostCxlMemAccess, hf, hr, ht, cxlPort]

theorem window_outside (h : busFits off op = false ∨ (s.fn fn).barSize ≤ off) : exec (.windowAccess fn off op) s = .next s := by
  obtain h | h := h <;> simp [exec_windowAccess, execWindowAccess, h]

/-- An access that lies in the window's range is taken up. -/
theorem windowAccess_inside (hf : busFits off op = true) (hb : off < (s.fn fn).barSize) : exec (.windowAccess fn off op) s =
    if (s.fn fn).aborted then .next (s.reply fn 0 true)
    else
      match fget none (s.fn fn).winmap (off / 0x20000000) with
      | none => .next (s.busEmpty fn op)
      | some base =>
        match (s.tenantAt (base + off % 0x20000000)).filter fun t => (s.fn fn).tenants.contains t with
        | some t => .next (s.busAnswer fn 3 t (base + off % 0x20000000) op)
        | none => .next (s.busEmpty fn op) := by
  rw [exec_windowAccess, execWindowAccess, hf, decide_eq_false (by omega)]
  rfl

theorem window_empty (hf : busFits off op = true) (hb : off < (s.fn fn).barSize) (ha : (s.fn fn).aborted = false)
    (hw : fget none (s.fn fn).winmap (off / 0x20000000) = none) : exec (.windowAccess fn off op) s = .next (s.busEmpty fn op) := by
  rw [windowAccess_inside hf hb, ha, hw]
  rfl

theorem window_held (hf : busFits off op = true) (hb : off < (s.fn fn).barSize) (ha : (s.fn fn).aborted = false) {base t : Nat}
    (hw : fget none (s.fn fn).winmap (off / 0x20000000) = some base) (ht : s.tenantAt (base + off % 0x20000000) = some t)
    (hm : t ∈ (s.fn fn).tenants) :
    exec (.windowAccess fn off op) s = .next (s.busAnswer fn 3 t (base + off % 0x20000000) op) := by
  rw [windowAccess_inside hf hb, ha, hw]
  simp [ht, hm, Option.filter_some]

theorem window_unheld (hf : busFits off op = true) (hb : off < (s.fn fn).barSize) (ha : (s.fn fn).aborted = false) {base : Nat}
    (hw : fget none (s.fn fn).winmap (off / 0x20000000) = some base)
    (h : ∀ t, s.tenantAt (base + off % 0x20000000) = some t → t ∉ (s.fn fn).tenants) :
    exec (.windowAccess fn off op) s = .next (s.busEmpty fn op) := by
  have hnone : (s.tenantAt (base + off % 0x20000000)).filter (fun t => (s.fn fn).tenants.contains t) = none := by
    rw [Option.filter_eq_none_iff]
    intro t ht hc
    exact h t ht (List.contains_iff_mem.mp hc)
  rw [windowAccess_inside hf hb, ha, hw]
  simp only [Bool.false_eq_true, if_false, hnone]

/-- An offset in a window crosses a 4 KiB boundary exactly where its physical address does. -/
theorem busFits_window {base : Nat} (hb : base % 0x1000 = 0) : busFits (base + off % 0x20000000) op = busFits off op := by
  by_cases hn : 0 < busSize op
  · have h : (base + off % 0x20000000) / 0x1000 = (base + off % 0x20000000 + busSize op - 1) / 0x1000 ↔
        off / 0x1000 = (off + busSize op - 1) / 0x1000 := by omega
    simp only [busFits, h]
  · simp [busFits, hn]

end Reach

/-- A violation from outside changes the device's own registers alone, is audited, and is answered by an abort. -/
theorem busViolation_leaves (s : State) (port engid pa : Nat) :
    let u := s.busViolation port engid pa
    s.OnlyPlatform u ∧ s.Audits u 2 0xFF engid [BitVec.ofNat 64 pa] ∧ s.Replies u port 0 true :=
  ⟨⟨rfl, sameBytes_refl s⟩, audits_congr (audit_audits ..) rfl rfl rfl rfl rfl rfl rfl, rfl⟩

/-- Settles O45: each request by where it goes, and there by whether the home performs it. -/
theorem outsideRequests : Obligations.OutsideRequests := by
  intro s fn off pa base t n v x y aop op f posted ones silent denied granted old answers violates empty
  have hanswers (i : BusOp → Instr) (port engid t pa : Nat)
      (hi : ∀ op, busFits pa op = true → exec (i op) s = .next (s.busAnswer port engid t pa op)) : answers i port engid t pa := by
    refine ⟨fun op hf hd => ?denied, fun hf ⟨ho, hb, hp, hm⟩ => ?read, fun hf ⟨ho, hb, hp, hm⟩ => ?write,
      fun hf ⟨ho, hb, hp, hm⟩ => ?atomic, fun hf ⟨ho, hb, hp, hm⟩ => ?cas⟩
    case denied =>
      obtain ⟨u, honly, hu⟩ := busAnswer_denied hd port
      obtain ⟨hbytes, hctx, hreplies⟩ := onlyTold_leaves honly
      refine ⟨_, (hi op hf).trans (congrArg _ hu), ?_⟩
      split
      · next hp => exact ⟨hbytes, hctx, fun _ => hreplies, fun h => absurd h (by simp [posted, hp])⟩
      · next hp => exact ⟨hbytes, hctx, fun h => absurd h hp, fun _ => congrArg (· ++ _) hreplies⟩
    case read =>
      exact ⟨_, (hi _ hf).trans (congrArg _ (busAnswer_granted ⟨ho, hb, hp⟩ port)), reply_onlyPlatform .., reply_replies ..⟩
    case write =>
      exact ⟨_, (hi _ hf).trans (congrArg _ (busAnswer_granted ⟨ho, hb, hp⟩ port)), busWrite_leaves (memoriesOk_mem hm)⟩
    case atomic =>
      obtain ⟨hholds, hctx, hreplies⟩ := busWrite_leaves (engid := engid) (t := t) (pa := pa) (op := .atomic n aop v) (memoriesOk_mem hm)
      exact ⟨_, (hi _ hf).trans (congrArg _ (busAnswer_granted ⟨ho, hb, hp⟩ port)), hholds, hctx, congrArg (· ++ _) hreplies⟩
    case cas =>
      obtain ⟨hholds, hctx, hreplies⟩ := busWrite_leaves (engid := engid) (t := t) (pa := pa) (op := .cas n x y) (memoriesOk_mem hm)
      have hu := (hi _ hf).trans (congrArg _ (busAnswer_granted ⟨ho, hb, hp⟩ port))
      by_cases hx : ofBytes (mread s.mem pa n) = x
      · have htakes : busTakes (.cas n x y) (mread s.mem pa n) = true := decide_eq_true hx
        have hnew : busNew (.cas n x y) (mread s.mem pa n) = toBytes n y := if_pos hx
        simp only [busSize, htakes, if_true, hnew] at hu hholds
        exact ⟨_, hu, fun _ => hholds, fun h => absurd hx h, hctx, congrArg (· ++ _) hreplies⟩
      · have htakes : busTakes (.cas n x y) (mread s.mem pa n) = false := decide_eq_false hx
        simp only [busSize, htakes, Bool.false_eq_true, if_false] at hu
        exact ⟨_, hu, fun h => absurd h hx, fun _ => reply_onlyPlatform .., fun _ => rfl, reply_replies ..⟩
  have hempty (i : BusOp → Instr) (port : Nat) (hi : exec (i op) s = .next (s.busEmpty port op)) : empty i port := by
    refine ⟨fun hp => ?_, fun hp => ⟨_, hi, ?_⟩⟩
    · rw [hi, State.busEmpty, if_pos hp]
    · rw [State.busEmpty, if_neg (ne_true_of_eq_false hp)]
      exact ⟨reply_onlyPlatform .., reply_replies ..⟩
  refine ⟨fun hf => ⟨peerRequest_unfit hf, cxlMem_unfit hf⟩, peerRequest_unreached,
    fun hy hd ht => hanswers _ _ _ _ _ fun op hf => peerRequest_held (reached_of_peer hy hd) hf ht,
    fun hy hd hf ht => ⟨_, peerRequest_unheld (reached_of_peer hy hd) hf ht, busViolation_leaves ..⟩,
    fun ht => hanswers _ _ _ _ _ fun op hf => cxlMem_held hf ht,
    fun hf hr => ⟨_, cxlMem_registers hf hr, busViolation_leaves ..⟩,
    fun hf hr ht => hempty _ _ (cxlMem_unheld hf hr ht), window_outside, fun hf hb ha => ?aborted,
    fun hf hb ha hw => hempty _ _ (window_empty hf hb ha hw), fun hb ha hw hpa hbase ht hm => ?window,
    fun hf hb ha hw h => hempty _ _ (window_unheld hf hb ha hw h)⟩
  case aborted =>
    refine ⟨_, (windowAccess_inside hf hb).trans (if_pos ha), reply_onlyPlatform .., reply_replies ..⟩
  case window =>
    subst hpa
    exact hanswers _ _ _ _ _ fun op hf => window_held (busFits_window hbase ▸ hf) hb ha hw ht hm

end Sys2Proof.Machine

/-! # Proofs: errors of memory, links, and changes of ownership (R17, R19, R33, R57, R59, R62, R65, R341) -/

namespace Sys2Proof.Machine

theorem exec_memoryUncorrectableError (line : Nat) (s : State) : exec (.memoryUncorrectableError line) s = .next (s.poisonLine line) := rfl
theorem exec_onchipSoftError (site : SoftSite) (s : State) : exec (.onchipSoftError site) s = execOnchipSoftError site s := rfl
theorem exec_cxlDeviceFailure (port : Nat) (s : State) : exec (.cxlDeviceFailure port) s = execCxlDeviceFailure port s := rfl
theorem exec_peerLinkDown (peer : Nat) (s : State) : exec (.peerLinkDown peer) s = execPeerLinkDown peer s := rfl
theorem exec_peerLinkUp (peer : Nat) (s : State) : exec (.peerLinkUp peer) s = execPeerLinkUp peer s := rfl
theorem exec_granuleReassign (target : GranuleTarget) (owner : BitVec 5) (s : State) :
    exec (.granuleReassign target owner) s = execGranuleReassign target owner s := rfl
theorem exec_stagingGrant (slice block : Nat) (owner : BitVec 5) (s : State) :
    exec (.stagingGrant slice block owner) s = execStagingGrant slice block owner s := rfl

/-! ## Errors (R57, R65) -/

/-- A region of the device's own memory: HBM, or what is behind a CXL port. -/
def Region.isMemory : Region → Bool
  | .hbm => true
  | .cxl _ => true
  | _ => false

/-- An address of the device's own memory. -/
def inMemory (pa : Nat) : Bool := (region pa).isMemory

/-- A line marked poisoned, with its audit record and its notice. -/
def State.markPoison (s : State) (line : Nat) : State :=
  ((s.modMs fun m => { m with poison := line :: m.poison }).audit 3 ((s.tenantAt (line * 256)).getD 0xFF) 0xFF
    [BitVec.ofNat 64 (line * 256)]).notice 11 0xFF 2 (line * 256)

theorem poisonLine_eq (s : State) (line : Nat) : s.poisonLine line =
    if inMemory (line * 256) then (if s.ms.poison.contains line then s else s.markPoison line) else s := by
  unfold State.poisonLine inMemory
  dsimp only
  cases region (line * 256) <;> rfl

theorem poisonLine_none {s : State} {line : Nat} (h : inMemory (line * 256) = false ∨ line ∈ s.ms.poison) : s.poisonLine line = s := by
  rw [poisonLine_eq]
  obtain h | h := h <;> simp [h]

/-- A line is marked poisoned: an audit record names it. -/
theorem poisonLine_marks {s : State} {line : Nat} (h : inMemory (line * 256) = true) (hl : line ∉ s.ms.poison) :
    let t := s.poisonLine line
    s.SameBytes t ∧ s.SameContexts t ∧ t.ms.poison = line :: s.ms.poison ∧
      s.Audits t 3 ((s.tenantAt (line * 256)).getD 0xFF) 0xFF [BitVec.ofNat 64 (line * 256)] := by
  have ht : s.poisonLine line = s.markPoison line := by
    rw [poisonLine_eq, if_pos h, if_neg (by simpa using hl)]
  rw [ht]
  exact ⟨sameBytes_refl s, fun _ => rfl, rfl, audits_congr (audit_audits ..) rfl rfl rfl rfl rfl rfl rfl⟩

/-- The poison of staging units gains a unit. -/
theorem stagingUnit_poisons (s : State) (unit : Nat) : ∃ t, exec (.onchipSoftError (.stagingUnit unit)) s = .next t ∧
    t = { s with ms := { s.ms with stagingPoison := t.ms.stagingPoison } } ∧
    ∀ u, u ∈ t.ms.stagingPoison ↔ u = unit ∨ u ∈ s.ms.stagingPoison := by
  simp only [exec_onchipSoftError, execOnchipSoftError]
  split
  · next h =>
    refine ⟨s, rfl, rfl, fun u => ⟨.inr, fun hu => hu.elim (fun e => ?_) id⟩⟩
    rw [e]
    exact List.contains_iff_mem.mp h
  · exact ⟨_, rfl, rfl, fun u => List.mem_cons⟩

/-! ## Devices and links (R59, R341) -/

/-- A port after a port's device has gone. -/
theorem ffind_fdel {β : Type} (m : FMap β) (k j : Nat) : ffind (fdel m k) j = if j = k then none else ffind m j := by
  induction m with
  | nil => simp [fdel, ffind]
  | cons e l ih =>
    obtain ⟨x, v⟩ := e
    simp only [fdel, List.filter_cons] at ih ⊢
    by_cases hx : x = k
    · subst hx
      by_cases hj : j = x
      · subst hj; simpa using ih
      · simpa [ffind, hj, Ne.symm hj] using ih
    · by_cases hj : x = j
      · subst hj; simp [ffind, hx]
      · simpa [ffind, hx, hj] using ih

/-- The memory behind a port is there as far as its device's decoder range goes. -/
theorem backed_cxl {s : State} {a port : Nat} (h : region a = .cxl port) :
    s.backed a = match ffind s.pf.cxl port with
      | some n => decide (a - cxlBase port < n)
      | none => false := by
  simp only [State.backed, h] <;> cases ffind s.pf.cxl port <;> rfl

/-- A peer's memory is there while its link is up and it is of this device's domain. -/
theorem backed_peer {s : State} {a peer : Nat} (h : region a = .peer peer) :
    s.backed a = (s.pf.peers.contains peer && decide (fget 0 s.pf.peerDomains peer = s.pf.domain)) := by
  rw [State.backed, h]

/-- Whether memory is there depends on the ports and the links alone. -/
theorem backed_congr {s t : State} {a : Nat} (hc : ∀ p, region a = .cxl p → ffind t.pf.cxl p = ffind s.pf.cxl p)
    (hp : ∀ d, region a = .peer d → t.pf.peers.contains d = s.pf.peers.contains d) (hd : t.pf.peerDomains = s.pf.peerDomains)
    (hm : t.pf.domain = s.pf.domain) : t.backed a = s.backed a := by
  cases hr : region a with
  | cxl p => rw [backed_cxl hr, backed_cxl hr, hc p hr]
  | peer d => rw [backed_peer hr, backed_peer hr, hp d hr, hd, hm]
  | _ => rw [State.backed, State.backed, hr]

theorem cxlDeviceFailure_none {s : State} {port : Nat} (h : ffind s.pf.cxl port = none) :
    exec (.cxlDeviceFailure port) s = .next s := by
  simp [exec_cxlDeviceFailure, execCxlDeviceFailure, h]

theorem cxlDeviceFailure_removes {s : State} {port size : Nat} (h : ffind s.pf.cxl port = some size) :
    Completes (.cxlDeviceFailure port) s (fun t => s.OnlyPlatform t ∧
      ∀ a, t.backed a = if region a = .cxl port then false else s.backed a) := by
  refine ⟨(s.modPf fun p => { p with cxl := fdel p.cxl port }).notice 14 port 3 0, ?_, ⟨rfl, sameBytes_refl s⟩, fun a => ?_⟩
  · simp [exec_cxlDeviceFailure, execCxlDeviceFailure, h]
  · split
    · next hr =>
      have hgone : ffind (fdel s.pf.cxl port) port = none := (ffind_fdel ..).trans (if_pos rfl)
      rw [backed_cxl hr]
      change (match ffind (fdel s.pf.cxl port) port with
        | some n => decide (a - cxlBase port < n)
        | none => false) = false
      rw [hgone]
    · next hr =>
      refine backed_congr (fun p hp => (ffind_fdel ..).trans (if_neg ?_)) (fun _ _ => rfl) rfl rfl
      rintro rfl
      exact hr hp

section Peer
variable {s : State} {peer : Nat}

theorem peerLinkDown_none (h : peer ∉ s.pf.peers) : exec (.peerLinkDown peer) s = .next s := by
  simp [exec_peerLinkDown, execPeerLinkDown, h]

theorem peerLinkDown_removes (h : peer ∈ s.pf.peers) : Completes (.peerLinkDown peer) s (fun t => s.OnlyPlatform t ∧
    s.Audits t 8 0xFF 0xFF [BitVec.ofNat 64 peer] ∧ ∀ a, t.backed a = if region a = .peer peer then false else s.backed a) := by
  refine ⟨((s.modPf fun p => { p with peers := p.peers.filter (· != peer) }).audit 8 0xFF 0xFF [BitVec.ofNat 64 peer]).notice
    12 peer 0 0, ?_, ⟨rfl, sameBytes_refl s⟩, audits_congr (audit_audits ..) rfl rfl rfl rfl rfl rfl rfl, fun a => ?_⟩
  · simp [exec_peerLinkDown, execPeerLinkDown, h]
  · have hpeers (d : Nat) : (s.pf.peers.filter (· != peer)).contains d = (s.pf.peers.contains d && d != peer) := by
      rw [Bool.eq_iff_iff]
      simp
    split
    · next hr =>
      rw [backed_peer hr]
      refine Bool.and_eq_false_iff.mpr (.inl ((hpeers peer).trans ?_))
      simp
    · next hr =>
      refine backed_congr (fun _ _ => rfl) (fun d hd => (hpeers d).trans ?_) rfl rfl
      have hne : d ≠ peer := fun e => hr (e ▸ hd)
      simp [hne]

theorem peerLinkUp_none (h : peer ∈ s.pf.peers ∨ 64 ≤ peer) : exec (.peerLinkUp peer) s = .next s := by
  simp [exec_peerLinkUp, execPeerLinkUp, h]

theorem peerLinkUp_adds (h : peer ∉ s.pf.peers) (hp : peer < 64) : Completes (.peerLinkUp peer) s (fun t => s.OnlyPlatform t ∧
    ∀ a, t.backed a = if region a = .peer peer then decide (fget 0 s.pf.peerDomains peer = s.pf.domain) else s.backed a) := by
  refine ⟨s.modPf fun p => { p with peers := peer :: p.peers }, ?_, modPf_onlyPlatform .., fun a => ?_⟩
  · simp [exec_peerLinkUp, execPeerLinkUp, h, Nat.not_le.mpr hp]
  · have hpeers (d : Nat) : (peer :: s.pf.peers).contains d = (d == peer || s.pf.peers.contains d) := List.contains_cons
    split
    · next hr =>
      rw [backed_peer hr]
      change ((peer :: s.pf.peers).contains peer && decide (fget 0 s.pf.peerDomains peer = s.pf.domain)) = _
      rw [hpeers, beq_self_eq_true, Bool.true_or, Bool.true_and]
    · next hr =>
      refine backed_congr (fun _ _ => rfl) (fun d hd => (hpeers d).trans ?_) rfl rfl
      have hne : d ≠ peer := fun e => hr (e ▸ hd)
      simp [hne]

end Peer

/-! ## Translations that go (R19) -/

/-- A translation into a range. -/
def Tlb.into (e : Tlb) (b l : Nat) : Prop := e.base < b + l ∧ b < e.base + (if e.big = true then 0x20000000 else 0x10000)

theorem maps_iff (e : Tlb) (b l : Nat) : e.maps b l = true ↔ e.into b l := by
  rw [Tlb.maps, Bool.and_eq_true, decide_eq_true_iff, decide_eq_true_iff]
  rfl

/-- Every translation into a range has gone from every TLB, and the others stay. -/
def State.Forgets (s t : State) (b l : Nat) : Prop :=
  (∀ k e, e ∈ (t.core k).tlb ↔ e ∈ (s.core k).tlb ∧ ¬ e.into b l) ∧
    ∀ q e, e ∈ (t.quarter q).tlb ↔ e ∈ (s.quarter q).tlb ∧ ¬ e.into b l

theorem dropTlbs_core (s : State) (gone : Tlb → Bool) (k : Nat) :
    (s.dropTlbs gone).core k = { s.core k with tlb := (s.core k).tlb.filter fun t => !gone t } :=
  fget_map (freshCore k) (fun c => { c with tlb := c.tlb.filter fun t => !gone t }) s.cores k

theorem dropTlbs_quarter (s : State) (gone : Tlb → Bool) (q : Nat) :
    (s.dropTlbs gone).quarter q = { s.quarter q with tlb := (s.quarter q).tlb.filter fun t => !gone t } :=
  fget_map ({} : Quarter) (fun x => { x with tlb := x.tlb.filter fun t => !gone t }) s.quarters q

theorem dropTlbs_forgets (s : State) (b l : Nat) : s.Forgets (s.dropTlbs fun e => e.maps b l) b l := by
  refine ⟨fun k e => ?_, fun q e => ?_⟩
  · simp only [dropTlbs_core, List.mem_filter, Bool.not_eq_true', ← Bool.not_eq_true, maps_iff]
  · simp only [dropTlbs_quarter, List.mem_filter, Bool.not_eq_true', ← Bool.not_eq_true, maps_iff]

theorem dropTlbs_sameBytes (s : State) (gone : Tlb → Bool) : s.SameBytes (s.dropTlbs gone) :=
  ⟨fun _ => rfl, fun _ => rfl, fun k a => by rw [dropTlbs_core]⟩

/-! ## Zeroing (R19) -/

/-- A range of memory is zeroed and its poison goes; every other byte, every core and every context are as before. -/
def State.Wiped (s t : State) (b l : Nat) : Prop :=
  (∀ a, b ≤ a → a < b + l → mget t.mem a = 0#8) ∧ (∀ a, a < b ∨ b + l ≤ a → mget t.mem a = mget s.mem a) ∧
    (∀ a, mget t.ms.staging a = mget s.ms.staging a) ∧ (∀ k, t.core k = s.core k) ∧ s.SameContexts t ∧
    ∀ x, x ∈ t.ms.poison ↔ x ∈ s.ms.poison ∧ ¬ (b ≤ x * 256 ∧ x * 256 < b + l)

theorem mget_mclear (m : Memory) (b l a : Nat) : mget (mclear m b l) a = if b ≤ a ∧ a < b + l then 0#8 else mget m a := by
  rw [mclear, mget_filter m (fun x => decide (x < b) || decide (b + l ≤ x))]
  by_cases h : b ≤ a ∧ a < b + l
  · rw [if_pos h, if_neg (by simp; omega)]
  · rw [if_neg h, if_pos (by simp; omega)]

theorem wipe_wiped (s : State) (b l : Nat) : s.Wiped (s.wipe b l) b l := by
  refine ⟨fun a h k => (mget_mclear ..).trans (if_pos ⟨h, k⟩), fun a h => (mget_mclear ..).trans (if_neg (by omega)),
    fun _ => rfl, fun _ => rfl, fun _ => rfl, fun x => ?_⟩
  refine List.mem_filter.trans (and_congr_right fun _ => ?_)
  rw [Bool.not_eq_true', ← Bool.not_eq_true, Bool.and_eq_true, decide_eq_true_iff, decide_eq_true_iff]

/-! ## Changes of ownership (R17, R19) -/

theorem ownerLegal_iff (owner : BitVec 5) : ownerLegal owner = true ↔ owner.toNat ≤ 0x10 ∨ owner = 0x1F#5 := by
  simp [ownerLegal, BitVec.ule]

/-- The granules of the ownership map are those of the device's own memory. The definition is opened before it is applied:
applied, the kernel would count out the product with the granule's size. -/
theorem granuleExists_eq (n : Nat) : granuleExists n = inMemory (n * 0x20000000) := by
  have h (f : Nat → Bool) (hf : f = granuleExists) : ∀ n, f n = inMemory (n * granuleSize) := by
    delta granuleExists at hf
    subst hf
    intro n
    beta_reduce
    rw [inMemory]
    generalize region (n * granuleSize) = r
    cases r <;> rfl
  rw [h granuleExists rfl, granuleSize]

/-- An owner is none while zeroing is pending (R17). -/
theorem ownerOf_pending (e : BitVec 8) : ownerOf (e ||| 0x20#8) = none := by
  simp [ownerOf]

/-- Emptied windows name a granule no more (R336). -/
theorem fget_filter_ne {m : FMap (Option Nat)} {base k : Nat} : fget none (m.filter fun w => w.2 != some base) k ≠ some base := by
  induction m with
  | nil => simp [fget]
  | cons e l ih =>
    obtain ⟨x, v⟩ := e
    rw [List.filter_cons]
    split
    · next hv =>
      rw [fget]
      split
      · simpa using hv
      · exact ih
    · exact ih

theorem emptyWindows_winmap (s : State) (base fn k : Nat) : fget none ((s.emptyWindows base).fn fn).winmap k ≠ some base := by
  have h : (s.emptyWindows base).fn fn = { s.fn fn with winmap := (s.fn fn).winmap.filter fun w => w.2 != some base } :=
    fget_map ({} : HostFn) (fun f => { f with winmap := f.winmap.filter fun w => w.2 != some base }) s.pf.fns fn
  rw [h]
  exact fget_filter_ne

section Granule
variable {s : State} {n : Nat} {owner : BitVec 5}

theorem granule_refused (h : ownerLegal owner = false ∨ granuleExists n = false) :
    exec (.granuleReassign (.granule n) owner) s = .next s := by
  simp only [exec_granuleReassign, execGranuleReassign]
  obtain h | h := h <;> simp [h]

variable (ho : ownerLegal owner = true) (hg : granuleExists n = true)
include ho hg

theorem granule_begins (h : (s.granule n).getLsbD 5 = false) :
    exec (.granuleReassign (.granule n) owner) s = .next (s.beginGranule n) := by
  simp only [exec_granuleReassign, execGranuleReassign, ho, hg, h]; rfl

theorem granule_waits (h : (s.granule n).getLsbD 5 = true) (hw : s.outstanding (n * 0x20000000) 0x20000000 = true) :
    exec (.granuleReassign (.granule n) owner) s = .next s := by
  simp only [exec_granuleReassign, execGranuleReassign, ho, hg, h, granuleSize, hw]; rfl

theorem granule_ends (h : (s.granule n).getLsbD 5 = true) (hw : s.outstanding (n * 0x20000000) 0x20000000 = false) :
    exec (.granuleReassign (.granule n) owner) s = .next (s.endGranule n owner) := by
  simp only [exec_granuleReassign, execGranuleReassign, ho, hg, h, granuleSize, hw]; rfl

end Granule

theorem granule_fput (s : State) (n m : Nat) (e : BitVec 8) :
    (s.modMs fun x => { x with owners := fput x.owners n e }).granule m = if m = n then e else s.granule m := fget_fput ..

theorem beginGranule_leaves (s : State) (n : Nat) :
    let t := s.beginGranule n
    s.SameBytes t ∧ s.SameContexts t ∧ (∀ m, t.granule m = if m = n then s.granule n ||| 0x20#8 else s.granule m) ∧
      s.Forgets t (n * 0x20000000) 0x20000000 ∧ ∀ fn k, fget none (t.fn fn).winmap k ≠ some (n * 0x20000000) :=
  ⟨dropTlbs_sameBytes .., fun _ => rfl, fun m => granule_fput (s.emptyWindows (n * granuleSize)) n m _, dropTlbs_forgets ..,
    fun fn k => emptyWindows_winmap s (n * granuleSize) fn k⟩

theorem endGranule_leaves (s : State) (n : Nat) (owner : BitVec 5) :
    let t := s.endGranule n owner
    s.Wiped t (n * 0x20000000) 0x20000000 ∧ ∀ m, t.granule m = if m = n then owner.zeroExtend 8 else s.granule m :=
  ⟨wipe_wiped .., fun m => granule_fput (s.wipe (n * granuleSize) granuleSize) n m _⟩

/-- A byte of a granule whose zeroing is pending belongs to no one. -/
theorem owner_pending {t : State} {pa : Nat} {e : BitVec 8} (hg : inMemory pa = true)
    (h : t.granule (pa / granuleSize) = e ||| 0x20#8) : t.owner pa 1 = none := by
  have hentry : (if pa / granuleSize = (pa + 1 - 1) / granuleSize then ownerOf (t.granule (pa / granuleSize)) else none) =
      none := by
    rw [Nat.add_sub_cancel, if_pos rfl, h, ownerOf_pending]
  unfold State.owner
  unfold inMemory at hg
  cases hr : region pa with
  | hbm => exact hentry
  | cxl p => exact hentry
  | _ => simp [hr, Region.isMemory] at hg

theorem granule_of_base (n : Nat) : n * 0x20000000 / granuleSize = n := by rw [granuleSize]; omega

section Window
variable {s : State} {base len : Nat} {owner : BitVec 5} {w : Window}

theorem window_refused (h : ownerLegal owner = false ∨ s.windowLegal base len = false) :
    exec (.granuleReassign (.descriptor base len) owner) s = .next s := by
  simp only [exec_granuleReassign, execGranuleReassign]
  obtain h | h := h <;> simp [h]

variable (ho : ownerLegal owner = true) (hl : s.windowLegal base len = true)
include ho hl

theorem window_begins (hf : (s.ms.windows.find? fun w => w.base = base && w.length = len) = some w) (hz : w.zp = false) :
    exec (.granuleReassign (.descriptor base len) owner) s = .next (s.beginWindow base len) := by
  simp only [exec_granuleReassign, execGranuleReassign, ho, hl, hf, hz]; rfl

theorem window_waits (hf : (s.ms.windows.find? fun w => w.base = base && w.length = len) = some w) (hz : w.zp = true)
    (hw : s.outstanding base len = true) : exec (.granuleReassign (.descriptor base len) owner) s = .next s := by
  simp only [exec_granuleReassign, execGranuleReassign, ho, hl, hf, hz, hw]; rfl

theorem window_ends (hf : (s.ms.windows.find? fun w => w.base = base && w.length = len) = some w) (hz : w.zp = true)
    (hw : s.outstanding base len = false) :
    exec (.granuleReassign (.descriptor base len) owner) s = .next (s.endWindow base len owner) := by
  simp only [exec_granuleReassign, execGranuleReassign, ho, hl, hf, hz, hw]; rfl

theorem window_new (hf : ∀ v, v ∈ s.ms.windows → ¬ (v.base = base ∧ v.length = len)) :
    exec (.granuleReassign (.descriptor base len) owner) s =
      if s.ms.windows.length < 256 then .next (s.beginWindow base len) else .next s := by
  have hnone : (s.ms.windows.find? fun w => w.base = base && w.length = len) = none :=
    List.find?_eq_none.mpr fun v hv => by simpa using hf v hv
  simp only [exec_granuleReassign, execGranuleReassign, ho, hl, hnone]
  by_cases hn : s.ms.windows.length < 256 <;> simp [hn]

end Window

/-- The descriptor of a range after the first part of its change of owner (R17). -/
theorem beginWindow_leaves (s : State) (base len : Nat) :
    let t := s.beginWindow base len
    s.SameBytes t ∧ s.SameContexts t ∧ s.Forgets t base len ∧
      t.ms.windows = if (s.ms.windows.any fun w => w.base = base && w.length = len) = true then
        s.ms.windows.map fun w => if w.base = base && w.length = len then { w with zp := true } else w
      else s.ms.windows ++ [{ base := base, length := len, owner := 0x1F, zp := true }] := by
  have h (f : MemSys → MemSys) (hf : (f s.ms).staging = s.ms.staging) :
      let t := (s.modMs f).dropTlbs fun e => e.maps base len
      s.SameBytes t ∧ s.SameContexts t ∧ s.Forgets t base len ∧ t.ms.windows = (f s.ms).windows :=
    ⟨⟨fun _ => rfl, fun a => congrArg (fun m => mget m a) hf, fun k a => by rw [dropTlbs_core]; rfl⟩, fun _ => rfl,
      dropTlbs_forgets (s.modMs f) base len, rfl⟩
  unfold State.beginWindow
  dsimp only
  split
  · exact h _ rfl
  · exact h _ rfl

/-- What a range's descriptor says while zeroing is pending. -/
theorem beginWindow_pending {s : State} {base len : Nat} {w v : Window}
    (hf : (s.ms.windows.find? fun w => w.base = base && w.length = len) = some w)
    (hv : v ∈ (s.beginWindow base len).ms.windows) (hb : v.base = base) (hl : v.length = len) : v.zp = true := by
  have hany : (s.ms.windows.any fun w => w.base = base && w.length = len) = true :=
    List.any_eq_true.mpr ⟨w, List.mem_of_find?_eq_some hf, List.find?_some (p := fun w : Window => w.base = base && w.length = len) hf⟩
  obtain ⟨_, _, _, hwin⟩ := beginWindow_leaves s base len
  rw [hwin, if_pos hany] at hv
  obtain ⟨u, _, rfl⟩ := List.mem_map.mp hv
  split
  · rfl
  · next hu =>
    rw [if_neg hu] at hb hl
    exact absurd (by simp [hb, hl]) hu

theorem endWindow_wiped (s : State) (base len : Nat) (owner : BitVec 5) : s.Wiped (s.endWindow base len owner) base len := by
  unfold State.endWindow
  dsimp only
  split
  · exact wipe_wiped s base len
  · exact wipe_wiped s base len

/-- A range that has changed hands: its descriptor names the new owner, or there is none. -/
theorem endWindow_owner {s : State} {base len : Nat} {owner : BitVec 5} {v : Window}
    (hv : v ∈ (s.endWindow base len owner).ms.windows) (hb : v.base = base) (hl : v.length = len) :
    owner ≠ 0x1F#5 ∧ v.owner = owner.toNat ∧ v.zp = false := by
  unfold State.endWindow at hv
  dsimp only at hv
  split at hv
  · have hkept := (List.mem_filter.mp hv).2
    simp [hb, hl] at hkept
  · next ho =>
    obtain ⟨u, _, rfl⟩ := List.mem_map.mp hv
    split
    · exact ⟨ho, rfl, rfl⟩
    · next hu =>
      rw [if_neg hu] at hb hl
      exact absurd (by simp [hb, hl]) hu

/-! ## Staging (R33) -/

section Staging
variable {s : State} {slice block : Nat} {owner : BitVec 5}

theorem stagingGrant_refused (h : ¬ (slice < 256 ∧ block < 28 ∧ ownerLegal owner = true)) :
    exec (.stagingGrant slice block owner) s = .next s := by
  refine if_neg fun hc => h ?_
  simpa [and_assoc] using hc

theorem stagingGrant_grants (hs : slice < 256) (hb : block < 28) (ho : ownerLegal owner = true) :
    exec (.stagingGrant slice block owner) s = .next (s.grantBlock slice block owner) :=
  if_pos (by simp [hs, hb, ho])

theorem grantBlock_leaves (s : State) (slice block : Nat) (owner : BitVec 5) :
    let t := s.grantBlock slice block owner
    let same := (fget 0x1F#8 s.ms.grants (slice * 28 + block)).extractLsb' 0 5 = owner
    t = { s with ms := t.ms } ∧ t.ms.grants = fput s.ms.grants (slice * 28 + block) (owner.zeroExtend 8) ∧
      (same → t.ms.staging = s.ms.staging) ∧
      (¬ same → t.ms.staging = mclear s.ms.staging (slice * 0x200000 + block * 0x10000) 0x10000) :=
  ⟨rfl, rfl, fun h => if_pos (beq_iff_eq.mpr h), fun h => if_neg fun hc => h (beq_iff_eq.mp hc)⟩

end Staging

/-- Settles O46: each event by the site, the range or the owner that it names. -/
theorem errorsLinksAndOwnership : Obligations.ErrorsLinksAndOwnership := by
  intro s line core quarter unit port peer n base len slice block owner w pa memory marks legal size lo device maps forgets wiped
    found key from'
  have hmarks (i : Instr) (hi : exec i s = .next (s.poisonLine line)) : marks i :=
    ⟨fun h => by rw [hi, poisonLine_none h], fun hm hl => ⟨_, hi, poisonLine_marks hm hl⟩⟩
  have hdevice : device = inMemory lo := by
    simp only [device]
    rw [inMemory]
    generalize region lo = r
    cases r <;> rfl
  have hexists : granuleExists n = device := (granuleExists_eq n).trans hdevice.symm
  have hillegal {p : Prop} (h : ¬ legal ∨ p) : ownerLegal owner = false ∨ p :=
    h.imp_left fun hn => by rwa [← Bool.not_eq_true, ownerLegal_iff]
  refine ⟨hmarks _ rfl, hmarks _ rfl, rfl, rfl, ?fetchLine, ?nearLine, ⟨_, rfl, rfl⟩, stagingUnit_poisons s unit,
    cxlDeviceFailure_none, fun size hsize => ⟨fun a ha => ?ports, cxlDeviceFailure_removes hsize⟩, peerLinkDown_none,
    peerLinkDown_removes, peerLinkUp_none, peerLinkUp_adds, fun h => granule_refused ((hillegal h).imp_right hexists.trans),
    fun ho hd => ⟨fun hz => ?begins, fun hz hw => ?waits, fun hz hw => ?ends⟩, fun h => window_refused (hillegal h),
    fun ho hl => ⟨fun hf hz => ?windowBegins, fun hf hz hw => ?windowWaits, fun hf hz hw => ?windowEnds,
      fun hf => ⟨fun hn => ?windowFull, fun hn => ?windowNew⟩⟩, fun h => ?stagingRefused, fun hs hb ho => ?staging⟩
  case fetchLine =>
    let hit (t n : Nat) : Bool := t * 2 ^ 64 + n = line
    obtain ⟨honly, hctx, hcore⟩ := dropL1i_leaves s core hit
    refine ⟨_, rfl, dropL1i_sameBytes s core hit, fun e => ?_, fun k hk => (hcore k).trans (if_neg hk), fun c => ?_, fun e => ?_⟩
    · change e ∈ ((s.dropL1i core hit).core core).l1i ↔ _
      rw [hcore, if_pos rfl]
      refine List.mem_filter.trans (and_congr_right fun _ => ?_)
      simp only [hit, Nat.div_add_mod', Bool.not_eq_true', decide_eq_false_iff_not, ne_eq]
    · change (s.dropL1i core hit).ctx c = { s.ctx c with line := ((s.dropL1i core hit).ctx c).line }
      rw [hctx]
      split <;> rfl
    · change e ∈ (s.dropL1i core hit).ms.plaza.filter _ ↔ _
      rw [honly]
      refine List.mem_filter.trans (and_congr_right fun _ => ?_)
      simp only [Nat.div_add_mod', Bool.not_eq_true', decide_eq_true_eq, Bool.and_eq_true, ← Bool.not_eq_true]
      rfl
  case nearLine =>
    refine ⟨_, rfl, rfl, fun l => List.mem_filter.trans (and_congr_right fun _ => ?_)⟩
    simp [imp_iff_not_or]
  case ports => rw [backed_cxl ha, hsize]
  case begins =>
    obtain ⟨hbytes, hctx, hgranule, hforgets, hwin⟩ := beginGranule_leaves s n
    have hn := (hgranule n).trans (if_pos rfl)
    exact ⟨_, granule_begins ((ownerLegal_iff _).mpr ho) (hexists.trans hd) hz, hbytes, hctx, hn, fun m hm => (hgranule m).trans (if_neg hm),
      owner_pending (hdevice.symm.trans hd) ((congrArg _ (granule_of_base n)).trans hn), hforgets, hwin⟩
  case waits => exact granule_waits ((ownerLegal_iff _).mpr ho) (hexists.trans hd) hz hw
  case ends =>
    obtain ⟨hwiped, hgranule⟩ := endGranule_leaves s n owner
    exact ⟨_, granule_ends ((ownerLegal_iff _).mpr ho) (hexists.trans hd) hz hw, hwiped, (hgranule n).trans (if_pos rfl),
      fun m hm => (hgranule m).trans (if_neg hm)⟩
  case windowBegins =>
    obtain ⟨hbytes, hctx, hforgets, _⟩ := beginWindow_leaves s base len
    exact ⟨_, window_begins ((ownerLegal_iff _).mpr ho) hl hf hz, hbytes, hctx, hforgets, fun v hv => beginWindow_pending hf hv⟩
  case windowWaits => exact window_waits ((ownerLegal_iff _).mpr ho) hl hf hz hw
  case windowEnds =>
    exact ⟨_, window_ends ((ownerLegal_iff _).mpr ho) hl hf hz hw, endWindow_wiped .., fun v hv => endWindow_owner hv⟩
  case windowFull => exact (window_new ((ownerLegal_iff _).mpr ho) hl hf).trans (if_neg (by omega))
  case windowNew =>
    obtain ⟨hbytes, _, hforgets, hwin⟩ := beginWindow_leaves s base len
    have hnone : ¬ (s.ms.windows.any fun w => w.base = base && w.length = len) = true := by simpa using hf
    exact ⟨_, (window_new ((ownerLegal_iff _).mpr ho) hl hf).trans (if_pos hn), hbytes, hwin.trans (if_neg hnone), hforgets⟩
  case stagingRefused => exact stagingGrant_refused fun ⟨hs, hb, ho⟩ => h ⟨hs, hb, (ownerLegal_iff _).mp ho⟩
  case staging =>
    obtain ⟨honly, hgrants, hsame, hzero⟩ := grantBlock_leaves s slice block owner
    refine ⟨_, stagingGrant_grants hs hb ((ownerLegal_iff _).mpr ho), honly, ?_, fun k hk => ?_, hsame, fun hne => ⟨fun a h k => ?_,
      fun a h => ?_⟩⟩
    · rw [hgrants, fget_fput_same]
    · rw [hgrants, fget_fput_ne _ _ _ _ _ hk]
    · rw [hzero hne, mget_mclear, if_pos ⟨h, k⟩]
    · rw [hzero hne, mget_mclear, if_neg (by omega)]

end Sys2Proof.Machine

/-! # Proofs: the installation of teams and the release of a pass (R32, R109, R138–R146, R165) -/

namespace Sys2Proof.Machine

theorem exec_teamInstall (quarter : Nat) (s : State) : exec (.teamInstall quarter) s = execTeamInstall quarter s := rfl
theorem exec_teamRelease (launch quarter : Nat) (s : State) :
    exec (.teamRelease launch quarter) s = execTeamRelease launch quarter s := rfl

/-! ## The queue of a Quarter (R141, R142, R144) -/

/-- The first of some launches is one of them. -/
theorem headOf_mem {s : State} {quarter n t : Nat} {l : List Nat} (h : s.headOf quarter l = some (n, t)) : n ∈ l := by
  let step (acc : Option Nat) (n : Nat) : Option Nat := match acc with
    | none => some n
    | some m => if s.launchBefore n m then some n else some m
  have hfold (l : List Nat) (acc : Option Nat) (m : Nat) (hm : l.foldl step acc = some m) : m ∈ l ∨ acc = some m := by
    induction l generalizing acc with
    | nil => exact .inr hm
    | cons x l ih =>
      obtain hl | hstep := ih (step acc x) hm
      · exact .inl (List.mem_cons_of_mem _ hl)
      · cases acc with
        | none => cases hstep; exact .inl List.mem_cons_self
        | some y =>
          simp only [step] at hstep
          split at hstep
          · cases hstep; exact .inl List.mem_cons_self
          · exact .inr hstep
  obtain ⟨m, hm, hn⟩ := Option.bind_eq_some_iff.mp h
  obtain ⟨_, _, hpair⟩ := Option.map_eq_some_iff.mp hn
  cases hpair
  exact (hfold l none n hm).resolve_right (by simp)

/-- The head of a Quarter's queue has not ended. -/
theorem queueHead_live {s : State} {quarter n t : Nat} (h : s.queueHead quarter = some (n, t)) : (s.launch n).ended = false := by
  have hq : n ∈ s.queuedIn quarter := by
    unfold State.queueHead at h
    dsimp only at h
    split at h
    · next m hm =>
      cases List.mem_singleton.mp (headOf_mem h)
      exact List.mem_of_find?_eq_some hm
    · exact (List.mem_filter.mp (headOf_mem h)).1
  have hlive := (List.mem_filter.mp hq).2
  simp only [Bool.and_eq_true, Bool.not_eq_true'] at hlive
  exact hlive.1.1

/-! ## Drains (R144) -/

/-- A launch's drained places once those held for launch n are let go where all its teams have been installed. -/
def Launch.undrained (y l : Launch) (n : Nat) : Launch :=
  { y with drained := y.drained.map fun d => (d.1, d.2.filter fun x => x != n || (l.teamsIn d.1).any fun t => (l.team t).queued) }

theorem endDrains_launch (u : State) (n m : Nat) : (u.endDrains n).launch m = (u.launch m).undrained (u.launch n) n :=
  fget_map ({} : Launch) (fun y => y.undrained (u.launch n) n) u.launches m

theorem endDrains_only (u : State) (n : Nat) : u.endDrains n = { u with launches := (u.endDrains n).launches } := rfl

@[simp] theorem endDrains_ctx (u : State) (n d : Nat) : (u.endDrains n).ctx d = u.ctx d := rfl
@[simp] theorem endDrains_core (u : State) (n d : Nat) : (u.endDrains n).core d = u.core d := rfl

/-! ## The warming of an L1I (R146) -/

/-- Nothing changes but memory by access bits, the Quarters, and the translations and lines that cores hold. -/
def State.OnlyFetch (s t : State) : Prop :=
  t = { s with mem := t.mem, cores := t.cores, quarters := t.quarters } ∧
    ∀ n, t.core n = { s.core n with tlb := (t.core n).tlb, l1i := (t.core n).l1i }

theorem onlyFetch_refl (s : State) : s.OnlyFetch s := ⟨rfl, fun _ => rfl⟩

theorem onlyFetch_trans {s t u : State} (h : s.OnlyFetch t) (k : t.OnlyFetch u) : s.OnlyFetch u := by
  obtain ⟨ht, hc⟩ := h
  obtain ⟨hu, kc⟩ := k
  refine ⟨?_, fun n => ?_⟩
  · rw [hu, ht]
  · rw [kc, hc]

theorem warmLine_onlyFetch (s : State) (core tenant : Nat) (va : Word) : s.OnlyFetch (s.warmLine core tenant va) := by
  have htranslate : s.OnlyFetch (s.translateNow core tenant va { ex := true }).2 := by
    obtain ⟨honly, hcore⟩ := translateNow_only s core tenant va { ex := true }
    exact ⟨honly, fun n => by rw [hcore n]⟩
  unfold State.warmLine
  split
  · exact onlyFetch_refl s
  · split
    · next pa nb t ht =>
      rw [ht] at htranslate
      split
      · refine onlyFetch_trans htranslate ⟨rfl, fun n => ?_⟩
        rw [State.core_modCore]
        split
        · next h => rw [h]
        · rfl
      · exact htranslate
    · exact onlyFetch_refl s

theorem warm_onlyFetch (s : State) (core tenant : Nat) (entry : Word) : s.OnlyFetch (s.warm core tenant entry) := by
  unfold State.warm
  generalize List.range 128 = l
  induction l generalizing s with
  | nil => exact onlyFetch_refl s
  | cons i l ih => exact onlyFetch_trans (warmLine_onlyFetch s core tenant _) (ih _)

/-! ## Installation (R139, R141, R146, R151) -/

/-- The same value put at several keys. -/
theorem fget_foldl_fput {β : Type} (d v : β) (l : List Nat) (m : FMap β) (k : Nat) :
    fget d (l.foldl (fun m b => fput m b v) m) k = if k ∈ l then v else fget d m k := by
  induction l generalizing m with
  | nil => rfl
  | cons b l ih =>
    rw [List.foldl_cons, ih, fget_fput]
    by_cases hl : k ∈ l <;> by_cases hb : k = b <;> simp [hl, hb]

/-- The context that a team is installed in, before its banks and its code. -/
def State.newCtx (s : State) (n t : Nat) (o : Object) (p : Seat) : Ctx :=
  let l := s.launch n
  Machine.installed (s.ctx p.ctx) l n t o (s.manifestOf l t) p ((s.rowBase (coreOf p.ctx) (l.room o).rows).getD 0)
    ((s.entryBase (coreOf p.ctx) (l.room o).entries).getD 0) (l.room o)

/-- A launch with a team installed in a context. -/
def Launch.withTeam (l : Launch) (t c : Nat) : Launch :=
  { l with teams := fput l.teams t { l.team t with st := .resident, ctx := c }, pass := l.pass ++ [t] }

/-- A team has its context and its banks; its code is not warmed yet (R139, R141, R151). -/
def State.placeTeam (s : State) (n t : Nat) (o : Object) (p : Seat) : State :=
  let l := s.launch n
  let entries := (s.entryBase (coreOf p.ctx) (l.room o).entries).getD 0
  let words := (o.cwt ++ List.replicate (l.room o).entries 0#256).take (l.room o).entries
  let s := s.setCtx p.ctx (s.newCtx n t o p)
  let s := s.modCore (coreOf p.ctx) fun k => { k with cwt := words.zipIdx.foldl (fun m w => fput m (entries + w.2) w.1) k.cwt }
  let s := s.grantBanks p.ctx l.grant
  let s := s.modTeam n t fun x => { x with st := .resident, ctx := p.ctx }
  s.modLaunch n fun x => { x with pass := x.pass ++ [t] }

theorem install_eq (s : State) (n t : Nat) (o : Object) (p : Seat) : s.install n t o p =
    ((s.placeTeam n t o p).warm (coreOf p.ctx) (s.launch n).tenant o.start).sched p.ctx 1 := rfl

/-- A granted bank belongs to its context, and its zeroing takes 512 cycles (R151). -/
theorem grantBanks_bank (v : State) (c : Nat) (m : BitVec 48) {b : Nat} (h : b ∈ banksOf m) :
    fget 0 ((v.grantBanks c m).core (coreOf c)).bankOwner b = c + 1 ∧
      fget 0 ((v.grantBanks c m).core (coreOf c)).bankZero b = v.cycle + 512 := by
  simp [State.grantBanks, fget_foldl_fput, h, Config.bankZeroCycles]

theorem placeTeam_leaves (s : State) (n t : Nat) (o : Object) (p : Seat) :
    let u := s.placeTeam n t o p
    u = { s with ctxs := u.ctxs, cores := u.cores, launches := u.launches } ∧ u.ctx p.ctx = s.newCtx n t o p ∧
      (∀ d, d ≠ p.ctx → u.ctx d = s.ctx d) ∧
      (∀ m, u.launch m = if m = n then (s.launch n).withTeam t p.ctx else s.launch m) ∧
      ∀ b, b < 48 → (s.launch n).grant.getLsbD b = true →
        fget 0 (u.core (coreOf p.ctx)).bankOwner b = p.ctx + 1 ∧ fget 0 (u.core (coreOf p.ctx)).bankZero b = s.cycle + 512 := by
  refine ⟨rfl, State.ctx_setCtx_same .., fun d hd => State.ctx_setCtx_ne _ _ _ _ hd, fun m => ?_, fun b hb hg => ?_⟩
  · split
    · next hm =>
      subst hm
      exact (State.launch_modLaunch_same ..).trans (congrArg (fun x : Launch => { x with pass := x.pass ++ [t] })
        (State.launch_modLaunch_same ..))
    · next hm => exact (State.launch_modLaunch_ne _ _ _ _ hm).trans (State.launch_modLaunch_ne _ _ _ _ hm)
  · have hmem : b ∈ banksOf (s.launch n).grant := (mem_banksOf _ b).mpr ⟨hb, hg⟩
    exact grantBanks_bank _ p.ctx _ hmem

/-- A launch that makes no records makes no record of an installation (R122). -/
theorem sched_off {s : State} {c : Nat} (event : Nat) (h : s.recording c = false) : s.sched c event = s := by
  simp [State.sched, h]

/-- What the installation of a team of a launch that makes no records leaves. -/
theorem install_leaves {s : State} {n : Nat} (t : Nat) (o : Object) (p : Seat) (hr : (s.launch n).recording = false) :
    let u := s.install n t o p
    u.ctx p.ctx = s.newCtx n t o p ∧ (∀ d, d ≠ p.ctx → u.ctx d = s.ctx d) ∧ u.launch n = (s.launch n).withTeam t p.ctx ∧
      ∀ b, b < 48 → (s.launch n).grant.getLsbD b = true →
        fget 0 (u.core (coreOf p.ctx)).bankOwner b = p.ctx + 1 ∧ fget 0 (u.core (coreOf p.ctx)).bankZero b = s.cycle + 512 := by
  obtain ⟨_, hctx, hothers, hlaunch, hbanks⟩ := placeTeam_leaves s n t o p
  obtain ⟨honly, hcore⟩ := warm_onlyFetch (s.placeTeam n t o p) (coreOf p.ctx) (s.launch n).tenant o.start
  rw [install_eq]
  generalize (s.placeTeam n t o p).warm (coreOf p.ctx) (s.launch n).tenant o.start = u at honly hcore
  have hc (d : Nat) : u.ctx d = (s.placeTeam n t o p).ctx d := by rw [honly]; rfl
  have hl (m : Nat) : u.launch m = (s.placeTeam n t o p).launch m := by rw [honly]; rfl
  have hn : u.launch n = (s.launch n).withTeam t p.ctx := ((hl n).trans (hlaunch n)).trans (if_pos rfl)
  have hoff : u.recording p.ctx = false := by
    rw [State.recording, hc, hctx, show (s.newCtx n t o p).launch = n from rfl, hn]
    exact hr
  rw [sched_off 1 hoff]
  refine ⟨(hc _).trans hctx, fun d hd => (hc d).trans (hothers d hd), hn, fun b hb hg => ?_⟩
  rw [hcore]
  exact hbanks b hb hg

/-! ## The event (R140–R142, R144) -/

section Head
variable {s : State} {quarter n t : Nat} {o : Object}

theorem teamInstall_none (h : s.queueHead quarter = none) : exec (.teamInstall quarter) s = .next s := by
  simp [exec_teamInstall, execTeamInstall, h]

variable (h : s.queueHead quarter = some (n, t))
include h

theorem teamInstall_waits (hw : ((s.launch n).team t).st ≠ .waiting ∨ ¬ s.schedsReady n quarter = true) :
    exec (.teamInstall quarter) s = .next s := by
  have hc : (((s.launch n).team t).st != .waiting || !s.schedsReady n quarter) = true := by
    obtain hw | hw := hw <;> simp [hw]
  simp only [exec_teamInstall, execTeamInstall, h, hc, if_true]
  cases s.object (s.launch n).object <;> rfl

variable (ho : s.object (s.launch n).object = some o) (ht : ((s.launch n).team t).st = .waiting)
  (hr : s.schedsReady n quarter = true)
include ho ht hr

theorem teamInstall_unit (hc : (s.launch n).cores = false ∨ (s.launch n).untouched = false) :
    exec (.teamInstall quarter) s = .next (((s.installUnit n t o).getD s).endDrains n) := by
  have hcores : ((s.launch n).cores && (s.launch n).untouched) = false := by obtain hc | hc := hc <;> simp [hc]
  simp [exec_teamInstall, execTeamInstall, h, ho, ht, hr, hcores]

theorem teamInstall_co (hc : (s.launch n).cores = true) (hu : (s.launch n).untouched = true) :
    exec (.teamInstall quarter) s = .next ((s.coInstall n o).endDrains n) := by
  simp [exec_teamInstall, execTeamInstall, h, ho, ht, hr, hc, hu]

end Head

/-- A launch that makes no records waits for none (R123). -/
theorem schedsReady_off {s : State} {n : Nat} (quarter : Nat) (h : (s.launch n).recording = false) :
    s.schedsReady n quarter = true := by
  simp [State.schedsReady, State.schedReady, h]

/-- The seat of a team that is no Caravan's, on a core: the lowest free context. -/
def State.seatOn (s : State) (core : Nat) : Seat :=
  { ctx := (s.freeOn core).headD (4 * core), lead := (s.freeOn core).headD (4 * core) }

section Unit
variable {s : State} {n t : Nat} {o : Object} (hg : (s.launch n).gangSize = 1)
include hg

theorem installUnit_none (h : s.places ((s.launch n).quarterOf t) 1 (fun c => s.hasRoom c ((s.launch n).room o)) = none) :
    s.installUnit n t o = none := by
  simp only [State.installUnit, hg, h]
  rfl

theorem installUnit_one {core : Nat}
    (h : s.places ((s.launch n).quarterOf t) 1 (fun c => s.hasRoom c ((s.launch n).room o)) = some [core]) :
    s.installUnit n t o = some (s.install n t o (s.seatOn core)) := by
  have hunit : (s.launch n).unitOf t = [t] := by simp [Launch.unitOf, hg]
  have hseats : s.seats [core] 1 = [s.seatOn core] := by simp [State.seats, State.seatOn]
  simp only [State.installUnit, hg, h, hunit, Option.map_some, hseats, List.zip_cons_cons, List.zip_nil_right, List.foldl_cons,
    List.foldl_nil]

end Unit

/-! ## Co-resident launches (R142) -/

section Co
variable {s u : State} {n : Nat} {o : Object}

theorem coInstall_all (h : State.installAll n o (s.launch n).units (s.unclaimed n) = some u) : s.coInstall n o = u := by
  simp [State.coInstall, h]

variable (h : State.installAll n o (s.launch n).units (s.unclaimed n) = none)
include h

theorem coInstall_waits (hc : (s.launch n).claiming = true) : s.coInstall n o = s := by
  simp [State.coInstall, h, hc]

theorem coInstall_claims (hc : (s.launch n).claiming = false)
    (hp : State.installAll n o (s.launch n).units (s.afterPreemption n) = some u) :
    s.coInstall n o =
      s.modLaunch n fun x => { x with claiming := true, claims := (u.launch n).teams.map fun e => e.2.ctx } := by
  simp [State.coInstall, h, hc, hp]

theorem coInstall_refuses (hc : (s.launch n).claiming = false)
    (hp : State.installAll n o (s.launch n).units (s.afterPreemption n) = none) : s.coInstall n o = s.refuseLaunch n 9 := by
  simp [State.coInstall, h, hc, hp]

end Co

theorem refuseLaunch_claiming (s : State) (n status : Nat) : ((s.refuseLaunch n status).launch n).claiming = false := by
  simp [State.refuseLaunch]

/-- A context that a launch claims is held for it, and no core gives it to another. -/
theorem claimed_of_claims {v : State} {n d : Nat} (hc : (v.launch n).claiming = true) (he : (v.launch n).ended = false)
    (hd : d ∈ (v.launch n).claims) : v.claimed d = true ∧ ∀ core, d ∉ v.freeOn core := by
  have hlisted : (n, v.launch n) ∈ v.launches := by
    refine (fget_listed ({} : Launch) v.launches n).resolve_right fun h => ?_
    rw [show v.launch n = {} from h] at hc
    cases hc
  have hclaimed : v.claimed d = true := List.any_eq_true.mpr ⟨_, hlisted, by simp [hc, he, hd]⟩
  exact ⟨hclaimed, fun core h => by simp [State.freeOn, hclaimed] at h⟩

/-! ## The release of a pass (R109, R140, R146, R165) -/

section Release
variable {s : State} {n quarter t : Nat}

theorem teamRelease_none (h : ∀ x, x ∈ (s.launch n).pass → (s.launch n).quarterOf x ≠ quarter) :
    exec (.teamRelease n quarter) s = .next s := by
  have hnone : ((s.launch n).pass.filter fun t => (s.launch n).quarterOf t = quarter) = [] :=
    List.filter_eq_nil_iff.mpr fun x hx => by simpa using h x hx
  simp [exec_teamRelease, execTeamRelease, hnone]

/-- A context that begins at Φ 0 (R146, R165). -/
def Ctx.released (x : Ctx) (cycle : Nat) : Ctx :=
  { x with iss := { x.iss with off := (32 - cycle % 32) % 32, nextPhase := 0, notBefore := some (cycle + 32 * x.cpos) } }

/-- A launch a pass of which is released in a Quarter. -/
def Launch.released (x : Launch) (quarter tick : Nat) : Launch :=
  { x with pass := x.pass.filter fun t => x.quarterOf t != quarter
           t0 := match x.t0 with | some n => some n | none => some tick }

theorem teamRelease_one (h : ((s.launch n).pass.filter fun x => (s.launch n).quarterOf x = quarter) = [t]) :
    exec (.teamRelease n quarter) s = .next ((s.modCtx ((s.launch n).team t).ctx (·.released s.cycle)).modLaunch n
      (·.released quarter s.tick)) := by
  simp only [exec_teamRelease, execTeamRelease, h]
  rfl

end Release

/-- Settles O42: the head of the queue by its mode and by whether there are places, a pass by the Quarter of its teams. -/
theorem teamStarts : Obligations.TeamStarts := by
  intro s u quarter n t core o l need c i word free drains ready
  have hdrains (u : State) : drains u (u.endDrains n) := ⟨endDrains_only u n, fun m => endDrains_launch u n m⟩
  refine ⟨teamInstall_none, fun h hw => teamInstall_waits h hw, fun h => schedsReady_off quarter h,
    fun h ho ht hc hr hp hg => ⟨fun hn => ?noPlace, fun hone hcore => ?installed⟩,
    fun h ho ht hc hu hr => ⟨⟨rfl, State.launch_modLaunch_same ..⟩, fun hall => ?all, fun hnone hclaim => ?held,
      fun hnone hclaim hall => ?claims, fun hnone hclaim hnever => ?refused⟩, teamRelease_none, fun h => ?released⟩
  case noPlace =>
    have hunit := installUnit_none (n := n) (t := t) (o := o) hg hn
    refine ⟨_, teamInstall_unit h ho ht (schedsReady_off quarter hr) hc, ?_⟩
    rw [hunit]
    exact hdrains s
  case installed =>
    have hunit : (s.installUnit n t o).getD s = s.install n t o (s.seatOn core) := by
      simp only [installUnit_one hg hone, Option.getD_some]
    obtain ⟨hctx, hothers, hlaunch, hbanks⟩ := install_leaves t o (s.seatOn core) hr
    have hv : exec (.teamInstall quarter) s = .next ((s.install n t o (s.seatOn core)).endDrains n) :=
      (teamInstall_unit h ho ht (schedsReady_off quarter hr) hc).trans
        (congrArg (fun u => Host.Outcome.next (State.endDrains u n)) hunit)
    have hteam : (((s.install n t o (s.seatOn core)).endDrains n).launch n).team t =
        { l.team t with st := .resident, ctx := c } := by
      rw [endDrains_launch, hlaunch]
      exact fget_fput_same ..
    have hy : ((s.install n t o (s.seatOn core)).endDrains n).ctx c = s.newCtx n t o (s.seatOn core) :=
      (endDrains_ctx ..).trans hctx
    refine ⟨_, hv, fun d hd => (endDrains_ctx ..).trans (hothers d hd), by rw [hteam], by rw [hteam], ?_⟩
    rw [hy]
    refine ⟨rfl, rfl, rfl, rfl, rfl, rfl, rfl, rfl, rfl, rfl, rfl, rfl, rfl, rfl, rfl, fun j => ⟨?_, ?_, fun hj =>
      if_neg hj⟩, fun j => ⟨rfl, rfl, rfl⟩, rfl, rfl, rfl, rfl, rfl, rfl, rfl, rfl, fun b hb hgrant => ?_, rfl, rfl⟩
    · by_cases hj : j = 0#5
      · exact if_pos hj
      · exact if_neg hj
    · by_cases hj : j = 0#5
      · exact if_pos hj
      · exact if_neg hj
    · rw [show coreOf (s.seatOn core).ctx = core from hcore] at hbanks
      rw [endDrains_core]
      exact hbanks b hb hgrant
  case all =>
    refine ⟨_, teamInstall_co h ho ht hr hc hu, ?_⟩
    rw [coInstall_all hall]
    exact hdrains u
  case held =>
    refine ⟨_, teamInstall_co h ho ht hr hc hu, ?_⟩
    rw [coInstall_waits hnone hclaim]
    exact hdrains s
  case claims =>
    refine ⟨_, teamInstall_co h ho ht hr hc hu, ?_⟩
    rw [coInstall_claims hnone hclaim hall]
    have hclaims : ((s.modLaunch n fun x => { x with
        claiming := true, claims := (u.launch n).teams.map fun e => e.2.ctx }).endDrains n).launch n = { l with
        claiming := true, claims := (u.launch n).teams.map fun e => e.2.ctx
        drained := (((s.modLaunch n fun x => { x with
          claiming := true, claims := (u.launch n).teams.map fun e => e.2.ctx }).endDrains n).launch n).drained } := by
      rw [endDrains_launch, State.launch_modLaunch_same]
      rfl
    refine ⟨rfl, hclaims, fun d hd => claimed_of_claims (n := n) ?_ ?_ ?_⟩
    · rw [hclaims]
    · rw [hclaims]; exact queueHead_live h
    · rw [hclaims]; exact hd
  case refused =>
    refine ⟨_, teamInstall_co h ho ht hr hc hu, ?_⟩
    obtain ⟨hended, hstatus, _, hctx, _⟩ := refuseLaunch_leaves s n 9
    rw [coInstall_refuses hnone hclaim hnever, endDrains_launch]
    exact ⟨hended, hstatus, refuseLaunch_claiming s n 9, hctx⟩
  case released =>
    have hctx : (((s.modCtx (l.team t).ctx (·.released s.cycle)).modLaunch n (·.released quarter s.tick)).ctx (l.team t).ctx) =
        (s.ctx (l.team t).ctx).released s.cycle := State.ctx_modCtx_same s (l.team t).ctx (·.released s.cycle)
    have hlaunch : ((s.modCtx (l.team t).ctx (·.released s.cycle)).modLaunch n (·.released quarter s.tick)).launch n =
        l.released quarter s.tick := State.launch_modLaunch_same ..
    refine ⟨_, teamRelease_one h, fun d hd => State.ctx_modCtx_ne s _ _ (·.released s.cycle) hd, ?_, ?_, ?_, ?_, ?_, fun x => ?_⟩
    · rw [State.phase, hctx]
      change (s.cycle + (32 - s.cycle % 32) % 32) % 32 = 0
      omega
    · rw [hctx]; rfl
    · rw [hctx]; rfl
    · rw [hctx]; rfl
    · rw [hlaunch]; rfl
    · rw [hlaunch]
      refine List.mem_filter.trans (and_congr_right fun _ => ?_)
      exact bne_iff_ne

end Sys2Proof.Machine

/-! # Proofs: resumption, the ends of teams and of launches (R29, R39, R40, R140, R145, R153, R171, R174, R185, R186, R253, R277) -/

namespace Sys2Proof.Machine

theorem exec_firmwareResume (c : Nat) (mask : BitVec 6) (s : State) :
    exec (.firmwareResume c mask) s = execFirmwareResume c mask s := rfl
theorem exec_firmwareEndTeam (c : Nat) (s : State) : exec (.firmwareEndTeam c) s = execFirmwareEndTeam c s := rfl
theorem exec_teamFinish (c : Nat) (s : State) : exec (.teamFinish c) s = execTeamFinish c s := rfl
theorem exec_scrubComplete (c : Nat) (s : State) : exec (.scrubComplete c) s = execScrubComplete c s := rfl
theorem exec_kill (launch : Nat) (s : State) : exec (.kill launch) s = execKill launch s := rfl
theorem exec_launchEnd (launch : Nat) (s : State) : exec (.launchEnd launch) s = execLaunchEnd launch s := rfl

/-! ## A context's commands on its drays -/

/-- A table whose values are changed by their keys. -/
theorem fget_mapKey {β : Type} (d : β) (f : Nat → β → β) (m : FMap β) (k : Nat) (h : f k d = d) :
    fget d (m.map fun e => (e.1, f e.1 e.2)) k = f k (fget d m k) := by
  induction m with
  | nil => exact h.symm
  | cons e l ih =>
    simp only [List.map_cons, fget]
    split
    · next hk => rw [hk]
    · exact ih

theorem fget_of_ffind {β : Type} {d : β} {m : FMap β} {k : Nat} {v : β} (h : ffind m k = some v) : fget d m k = v := by
  induction m with
  | nil => cases h
  | cons e l ih =>
    rw [ffind] at h
    rw [fget]
    split
    · next hk => rw [if_pos hk] at h; exact Option.some.inj h
    · next hk => rw [if_neg hk] at h; exact ih h

/-- A dray holds a command, running or in the shadow place. -/
def Dray.Has (d : Dray) (y : DrayCmd) : Prop := d.running = some y ∨ d.shadow = some y

theorem drayCmds_nil {s : State} {c : Nat} : s.drayCmds c = [] ↔
    ∀ d, d = 0 ∨ d = 1 → ∀ y, ((s.core (coreOf c)).dray d).Has y → y.owner ≠ c := by
  have one (x : Dray) : ((x.running.toList ++ x.shadow.toList).filter fun y => y.owner = c) = [] ↔ ∀ y, x.Has y → y.owner ≠ c := by
    simp [List.filter_eq_nil_iff, Dray.Has, or_imp, forall_and]
  simp only [State.drayCmds, List.flatMap_eq_nil_iff, List.map_eq_nil_iff, one, List.mem_cons, List.not_mem_nil, or_false]

/-- No command enters a dray where one is withdrawn. -/
theorem without_has {d : Dray} {c : Nat} {runs : Bool} {y : DrayCmd} (h : (d.without c runs).Has y) : d.Has y := by
  have hshadow {p : DrayCmd → Bool} (h : d.shadow.filter p = some y) : d.shadow = some y := by
    exact (Option.filter_eq_some_iff.mp h).1
  unfold Dray.without at h
  dsimp only at h
  split at h
  · obtain h | h := h
    · exact .inr (hshadow h)
    · cases h
  · exact h.imp_right hshadow

theorem without_empty (c : Nat) (runs : Bool) : ({} : Dray).without c runs = {} := by simp [Dray.without]

theorem withdraw_dray (s : State) (c d : Nat) :
    ∃ runs, ((s.withdraw c).core (coreOf c)).dray d = ((s.core (coreOf c)).dray d).without c runs := by
  let u := s.modCtx c fun x => { x with lsu := withdrawn x.lsu }
  refine ⟨u.inRun (coreOf c) d, (congrArg (fun k : CoreState => k.dray d) (State.core_modCore_same ..)).trans ?_⟩
  exact fget_mapKey {} (fun n (x : Dray) => x.without c (u.inRun (coreOf c) n)) _ d (without_empty ..)

/-- Every command of a core's drays stood there before. -/
def State.NoNewCmds (s t : State) : Prop := ∀ n d y, ((t.core n).dray d).Has y → ((s.core n).dray d).Has y

theorem noNewCmds_of_drays {s t : State} (h : ∀ n, (t.core n).drays = (s.core n).drays) : s.NoNewCmds t := by
  intro n d y hy
  rwa [CoreState.dray, h n] at hy

theorem noNewCmds_trans {s t u : State} (h : s.NoNewCmds t) (k : t.NoNewCmds u) : s.NoNewCmds u :=
  fun n d y hy => h n d y (k n d y hy)

theorem drayCmds_nil_of {s t : State} {c : Nat} (h : s.NoNewCmds t) (hs : s.drayCmds c = []) : t.drayCmds c = [] :=
  drayCmds_nil.mpr fun d hd y hy => drayCmds_nil.mp hs d hd y (h _ d y hy)

theorem withdraw_noNewCmds (s : State) (c : Nat) : s.NoNewCmds (s.withdraw c) := by
  intro n d y hy
  by_cases hn : n = coreOf c
  · subst hn
    obtain ⟨runs, hruns⟩ := withdraw_dray s c d
    rw [hruns] at hy
    exact without_has hy
  · rwa [show (s.withdraw c).core n = s.core n from State.core_modCore_ne _ _ _ _ hn] at hy

/-- With no command of a context there is nothing to cancel. -/
theorem cancelDray_none {s : State} {c d : Nat} (h : s.drayCmds c = []) (hd : d = 0 ∨ d = 1) :
    s.cancelDray (coreOf c) d c = s := by
  have hno := drayCmds_nil.mp h d hd
  have hs : (match ((s.core (coreOf c)).dray d).shadow with
      | some y => if y.owner = c then s.discardShadow (coreOf c) d y else s
      | none => s) = s := by
    split
    · next y hy => exact if_neg (hno y (.inr hy))
    · rfl
  have hr : (match ((s.core (coreOf c)).dray d).running with
      | some y => if y.owner = c then s.cancelRunning (coreOf c) d y else s
      | none => s) = s := by
    split
    · next y hy => exact if_neg (hno y (.inl hy))
    · rfl
  exact (congrArg (fun u : State => match ((u.core (coreOf c)).dray d).running with
    | some y => if y.owner = c then u.cancelRunning (coreOf c) d y else u
    | none => u) hs).trans hr

/-! ## The end of a team (R145, R178, R185, R186) -/

/-- A core's matrix commands and its lease, once a context has given up both (R277). -/
theorem dropMatrix_leaves (s : State) (c : Nat) :
    let t := s.dropMatrix c
    t = { s with cores := t.cores } ∧ (∀ n, (t.core n).drays = (s.core n).drays) ∧ (t.core (coreOf c)).lease ≠ some c := by
  let f (k : CoreState) : CoreState :=
    { k with cmds := k.cmds.filter fun m => m.owner != c, rowsEnd := if k.lease = some c then min k.rowsEnd k.et else k.rowsEnd }
  have hd (n : Nat) : ((s.modCore (coreOf c) f).core n).drays = (s.core n).drays := by
    rw [State.core_modCore]
    split
    · next h => rw [h]
    · rfl
  have hdef : s.dropMatrix c = if ((s.modCore (coreOf c) f).core (coreOf c)).lease = some c then
      (s.modCore (coreOf c) f).passLease (coreOf c) else s.modCore (coreOf c) f := rfl
  rw [hdef]
  split
  · refine ⟨rfl, fun n => ?_, ?_⟩
    · rw [State.passLease, State.core_modCore]
      split
      · next h => subst h; exact hd _
      · exact hd n
    · rw [State.passLease, State.core_modCore_same]
      simp
  · next h => exact ⟨rfl, hd, h⟩

/-- A team after its end with a cause. -/
def Team.endedBy (t : Team) (mstall : Nat) (cause : Cause) (fault faddr : Word) : Team :=
  { t with mstall := mstall, st := endState cause, cause := cause, fault := fault, faddr := faddr }

theorem noteFirst_leaves (s : State) (l t : Nat) (cause : Cause) :
    let u := s.noteFirst l t cause
    u = { s with launches := u.launches } ∧ ∀ m, u.launch m = { s.launch m with first := (u.launch m).first } := by
  unfold State.noteFirst
  dsimp only
  split
  · exact ⟨rfl, fun _ => rfl⟩
  · refine ⟨rfl, fun m => ?_⟩
    by_cases h : m = l
    · subst h; rw [State.launch_modLaunch_same]
    · rw [State.launch_modLaunch_ne _ _ _ _ h]

/-- What the record of a team's end leaves. -/
theorem teamOver_leaves (s : State) (l t : Nat) (cause : Cause) (fault faddr : Word) :
    let u := s.teamOver l t cause fault faddr
    u = { s with launches := u.launches } ∧
      (u.launch l).team t = { (s.launch l).team t with st := endState cause, cause := cause, fault := fault, faddr := faddr } ∧
      (∀ m, (s.launch m).killing = true → (u.launch m).killing = true) ∧
      (cause = .violation ∨ cause = .memerr → (u.launch l).killing = true) := by
  let v := s.modTeam l t fun x => { x with st := endState cause, cause := cause, fault := fault, faddr := faddr }
  obtain ⟨honly, hlaunch⟩ := noteFirst_leaves v l t cause
  have hteam : ((v.noteFirst l t cause).launch l).team t =
      { (s.launch l).team t with st := endState cause, cause := cause, fault := fault, faddr := faddr } := by
    rw [hlaunch, show v.launch l = _ from State.launch_modLaunch_same ..]
    exact fget_fput_same ..
  have hkill (m : Nat) : ((v.noteFirst l t cause).launch m).killing = (s.launch m).killing := by
    rw [hlaunch]
    by_cases hm : m = l
    · subst hm; rw [show v.launch m = _ from State.launch_modLaunch_same ..]
    · rw [show v.launch m = _ from State.launch_modLaunch_ne _ _ _ _ hm]
  have hdef : s.teamOver l t cause fault faddr =
      if cause = .violation || cause = .memerr then (v.noteFirst l t cause).condemn l else v.noteFirst l t cause := rfl
  rw [hdef]
  split
  · refine ⟨?_, ?_, fun m hm => ?_, fun _ => ?_⟩
    · rw [honly]; rfl
    · rw [State.condemn, State.launch_modLaunch_same]; exact hteam
    · by_cases h : m = l
      · subst h; rw [State.condemn, State.launch_modLaunch_same]
      · rw [State.condemn, State.launch_modLaunch_ne _ _ _ _ h, hkill, hm]
    · rw [State.condemn, State.launch_modLaunch_same]
  · next hc =>
    refine ⟨?_, hteam, fun m hm => (hkill m).trans hm, fun h => absurd (by simpa using h) hc⟩
    rw [honly]; rfl

/-- A context's team has ended with a cause and with the words of its fault, and the context is being released. -/
structure State.Ends (s t : State) (c : Nat) (cause : Cause) (fault faddr : Word) : Prop where
  st : (t.ctx c).st = .releasing
  pend : (t.ctx c).pend = []
  others : ∀ d, d ≠ c → t.ctx d = s.ctx d
  team : (t.launch (s.ctx c).launch).team (s.ctx c).team =
    ((s.launch (s.ctx c).launch).team (s.ctx c).team).endedBy (s.ctx c).man.mstall cause fault faddr
  lease : (t.core (coreOf c)).lease ≠ some c
  cmds : s.NoNewCmds t
  killing : ∀ m, (s.launch m).killing = true → (t.launch m).killing = true
  condemned : cause = .violation ∨ cause = .memerr → (t.launch (s.ctx c).launch).killing = true

theorem dropWidth_drays (s : State) (c n : Nat) : ((s.dropWidth c).core n).drays = (s.core n).drays := by
  unfold State.dropWidth
  split
  · rw [State.core_modCore]
    split
    · next h => rw [h]
    · rfl
  · rfl

theorem dropWidth_lease (s : State) (c n : Nat) : ((s.dropWidth c).core n).lease = (s.core n).lease := by
  unfold State.dropWidth
  split
  · rw [State.core_modCore]
    split
    · next h => rw [h]
    · rfl
  · rfl

/-- A context that leaves: its state, and what was pending in it (R186). -/
theorem leave_leaves (s : State) (c : Nat) :
    let t := (s.modCtx c Ctx.leaving).dropWidth c
    t.ctx c = (s.ctx c).leaving ∧ (∀ d, d ≠ c → t.ctx d = s.ctx d) ∧ (∀ m, t.launch m = s.launch m) ∧
      ∀ n, (t.core n).drays = (s.core n).drays ∧ (t.core n).lease = (s.core n).lease := by
  refine ⟨?_, fun d hd => ?_, fun m => ?_, fun n => ⟨dropWidth_drays .., dropWidth_lease ..⟩⟩
  · rw [dropWidth_ctx, State.ctx_modCtx_same]
  · rw [dropWidth_ctx, State.ctx_modCtx_ne _ _ _ _ hd]
  · rw [dropWidth_launch]; rfl

/-- A team that has no command of an engine under way ends. -/
theorem endTeam_ends {s : State} {c : Nat} (cause : Cause) (h : s.drayCmds c = []) :
    s.Ends (s.endTeam c cause) c cause (s.ctx c).fault (s.ctx c).faddr := by
  let x := s.ctx c
  obtain ⟨honly, hdrays, hlease⟩ := dropMatrix_leaves (s.withdraw c) c
  let v := ((s.withdraw c).dropMatrix c).modTeam x.launch x.team fun t => { t with mstall := x.man.mstall }
  obtain ⟨hover, hteam, hkill, hcondemn⟩ := teamOver_leaves v x.launch x.team cause x.fault x.faddr
  obtain ⟨hc, hd, hl, hcore⟩ := leave_leaves (v.teamOver x.launch x.team cause x.fault x.faddr) c
  have hend : s.endTeam c cause = ((v.teamOver x.launch x.team cause x.fault x.faddr).modCtx c Ctx.leaving).dropWidth c := by
    unfold State.endTeam
    dsimp only
    rw [cancelDray_none h (.inl rfl), cancelDray_none h (.inr rfl)]
  have hv (m : Nat) : v.launch m = if m = x.launch then
      { s.launch m with teams := fput (s.launch m).teams x.team { (s.launch m).team x.team with mstall := x.man.mstall } }
      else s.launch m := by
    have hs (m : Nat) : ((s.withdraw c).dropMatrix c).launch m = s.launch m := by rw [honly]; rfl
    split
    · next hm => subst hm; rw [← hs]; exact State.launch_modLaunch_same ..
    · next hm => rw [← hs]; exact State.launch_modLaunch_ne _ _ _ _ hm
  have hctx (n : Nat) : (v.teamOver x.launch x.team cause x.fault x.faddr).ctx n = (s.withdraw c).ctx n := by
    rw [hover]
    change ((s.withdraw c).dropMatrix c).ctx n = _
    rw [honly]
    rfl
  have hcores (n : Nat) : (v.teamOver x.launch x.team cause x.fault x.faddr).core n = ((s.withdraw c).dropMatrix c).core n := by
    rw [hover]; rfl
  have hvkill (m : Nat) : (v.launch m).killing = (s.launch m).killing := by
    rw [hv]
    split <;> rfl
  rw [hend]
  refine ⟨by rw [hc]; rfl, by rw [hc]; rfl, fun d hne => ?_, ?_, ?_, ?_, fun m hm => ?_, fun h => ?_⟩
  · rw [hd d hne, hctx, withdraw_ctx, if_neg hne]
  · rw [hl, hteam, hv, if_pos rfl]
    rw [show Launch.team { s.launch x.launch with teams := _ } x.team = _ from fget_fput_same ..]
    rfl
  · rw [(hcore _).2, hcores]; exact hlease
  · refine noNewCmds_trans (withdraw_noNewCmds s c) (noNewCmds_of_drays fun n => ?_)
    rw [(hcore n).1, hcores, hdrays]
  · rw [hl]; exact hkill m ((hvkill m).trans hm)
  · rw [hl]; exact hcondemn h

/-! ## A violation of an engine that is still to stop its context (R40) -/

/-- A violation of an engine of the context waits. -/
def Ctx.Violates (x : Ctx) : Prop := ∃ r, r ∈ x.reports ∧ r.code = 4

/-- A context keeps its team, its Manifest and its engines' commands, and nothing changes in another. -/
def State.KeepsTeam (s t : State) (c : Nat) : Prop :=
  (∀ d, d ≠ c → t.ctx d = s.ctx d) ∧ (t.ctx c).launch = (s.ctx c).launch ∧ (t.ctx c).team = (s.ctx c).team ∧
    (t.ctx c).man = (s.ctx c).man ∧ (∀ m, t.launch m = s.launch m) ∧ ∀ n, (t.core n).drays = (s.core n).drays

theorem stopWith_keepsTeam (s : State) (c : Nat) (word faddr : Word) (slotres : Nat) (donemask : BitVec 6)
    (l : List (Nat × Nat)) : s.KeepsTeam (s.stopWith c word faddr slotres donemask l) c := by
  have hctx := stopWith_ctx s c word faddr slotres donemask l
  have hc := (hctx c).trans (if_pos rfl)
  refine ⟨fun d hd => (hctx d).trans (if_neg hd), by rw [hc], by rw [hc], by rw [hc], fun m => ?_, fun n => ?_⟩
  · simp [State.stopWith, State.notice]
  · simp only [State.stopWith, traceWith_core]
    exact dropWidth_drays ..

theorem keepsTeam_trans {s t u : State} {c : Nat} (h : s.KeepsTeam t c) (k : t.KeepsTeam u c) : s.KeepsTeam u c := by
  obtain ⟨ho, hl, ht, hm, hls, hd⟩ := h
  obtain ⟨ko, kl, kt, km, kls, kd⟩ := k
  exact ⟨fun d hne => (ko d hne).trans (ho d hne), kl.trans hl, kt.trans ht, km.trans hm, fun m => (kls m).trans (hls m),
    fun n => (kd n).trans (hd n)⟩

/-- A report stops its context. -/
theorem deliverReport_keepsTeam (s : State) (c : Nat) (r : Report) : s.KeepsTeam (s.deliverReport c r) c := by
  have hdrop : s.KeepsTeam (s.modCtx c fun x => { x with reports := dropReport r x.reports }) c := by
    refine ⟨fun d hd => State.ctx_modCtx_ne _ _ _ _ hd, ?_, ?_, ?_, fun _ => rfl, fun _ => rfl⟩
    all_goals rw [State.ctx_modCtx_same]
  exact keepsTeam_trans hdrop (stopWith_keepsTeam _ c _ _ _ _ _)

theorem endAs_quiet {s : State} {c : Nat} (cause : Cause) (h : ¬ (s.ctx c).Violates) : s.endAs c cause = s.endTeam c cause := by
  have hnone : ((s.ctx c).reports.find? fun r => r.code = 4) = none :=
    List.find?_eq_none.mpr fun r hr hc => h ⟨r, hr, by simpa using hc⟩
  rw [State.endAs, hnone]

/-- A team ends with its engine's violation where one waits, whatever else it was to end with. -/
theorem endAs_violates {s : State} {c : Nat} (cause : Cause) (h : (s.ctx c).Violates) (hd : s.drayCmds c = []) :
    ∃ fault faddr, s.Ends (s.endAs c cause) c .violation fault faddr := by
  obtain ⟨r, hr, hcode⟩ := h
  obtain ⟨q, hq⟩ : ∃ q, ((s.ctx c).reports.find? fun r => r.code = 4) = some q :=
    Option.isSome_iff_exists.mp (List.find?_isSome.mpr ⟨r, hr, decide_eq_true hcode⟩)
  obtain ⟨hothers, hlaunch, hteam, hman, hlaunches, hdrays⟩ := deliverReport_keepsTeam s c q
  have hcmds : s.NoNewCmds (s.deliverReport c q) := noNewCmds_of_drays hdrays
  have he := endTeam_ends (s := s.deliverReport c q) .violation (drayCmds_nil_of hcmds hd)
  have hdef : s.endAs c cause = (s.deliverReport c q).endTeam c .violation := by rw [State.endAs, hq]
  rw [hdef]
  refine ⟨((s.deliverReport c q).ctx c).fault, ((s.deliverReport c q).ctx c).faddr, he.st, he.pend, fun d hd => (he.others d hd).trans (hothers d hd), ?_, he.lease, noNewCmds_trans hcmds he.cmds,
    fun m hm => he.killing m ((congrArg Launch.killing (hlaunches m)).trans hm), fun hv => ?_⟩
  · rw [← hlaunch, ← hteam, he.team, hman, hlaunches]
  · rw [← hlaunch]; exact he.condemned hv

/-! ## Firmware's decisions (R29, R171, R174, R186) -/

/-- A fault that firmware may resume (R171). -/
theorem resumable_iff (fault : Word) : resumable fault = true ↔ (fault.extractLsb' 0 8).toNat ≠ 4 ∧
    (fault.extractLsb' 0 8).toNat ≠ 0x0C ∧ (fault.extractLsb' 0 8).toNat ≠ 0x12 ∧ (fault.extractLsb' 0 8).toNat ≠ 0x14 := by
  simp [resumable, and_assoc]

/-- A context that has resumed. -/
def Ctx.resumed (x : Ctx) (mask : BitVec 6) : Ctx :=
  { x with st := .resident, skip := x.donemask ||| mask, donemask := x.donemask ||| mask, iss := { x.iss with cause := none } }

theorem firmwareResume_resumes {s : State} {c : Nat} (mask : BitVec 6) (hst : (s.ctx c).st = .held)
    (hr : resumable (s.ctx c).fault = true) (hf : (s.core (coreOf c)).frozen = false) :
    exec (.firmwareResume c mask) s = .next (s.modCtx c (·.resumed mask)) := by
  simp only [exec_firmwareResume, execFirmwareResume, hst, hr, hf]
  rfl

theorem firmwareResume_refused {s : State} {c : Nat} (mask : BitVec 6) (h : (s.ctx c).st ≠ .held ∨
    ¬ resumable (s.ctx c).fault = true ∨ (s.core (coreOf c)).frozen = true) : exec (.firmwareResume c mask) s = .next s := by
  refine if_neg ?_
  simp only [Bool.and_eq_true, decide_eq_true_eq, Bool.not_eq_true']
  rintro ⟨⟨hst, hr⟩, hf⟩
  obtain h | h | h := h
  · exact h hst
  · exact h hr
  · exact absurd (hf.symm.trans h) Bool.false_ne_true

section EndTeam
variable {s : State} {c : Nat}

theorem firmwareEndTeam_refused (h : (s.ctx c).st ≠ .held ∨ ∃ d, d ∈ s.gangOf c ∧ d ≠ c ∧ s.stranded d = true) :
    exec (.firmwareEndTeam c) s = .next s := by
  refine if_pos ?_
  rw [Bool.or_eq_true]
  refine h.imp (fun h => by simpa using h) fun ⟨d, hd, hne, hs⟩ => ?_
  exact List.any_eq_true.mpr ⟨d, List.mem_filter.mpr ⟨hd, bne_iff_ne.mpr hne⟩, hs⟩

theorem firmwareEndTeam_ends (hst : (s.ctx c).st = .held) {others : List Nat} (ho : (s.gangOf c).filter (fun d => d != c) = others)
    (hs : ∀ d, d ∈ others → s.stranded d = false) :
    exec (.firmwareEndTeam c) s = .next ((s.endAs c (causeOf (s.ctx c).fault)).killOthers others) := by
  subst ho
  refine if_neg ?_
  simp only [hst, bne_self_eq_false, Bool.false_or, List.any_eq_true, not_exists, not_and]
  intro d hd hstranded
  exact absurd ((hs d hd).symm.trans hstranded) Bool.false_ne_true

/-- A context of no Caravan is its own. -/
theorem gangOf_alone (h : (s.ctx c).csize = 0) : (s.gangOf c).filter (fun d => d != c) = [] := by
  simp [State.gangOf, h]

end EndTeam

/-- The end of a team with the cause that its fault gives, where no violation waits and none was made. -/
theorem causeOf_violation {fault : Word} (h : (fault.extractLsb' 0 8).toNat = 4) : causeOf fault = .violation := by
  simp [causeOf, h]

theorem causeOf_memerr {fault : Word} (h : (fault.extractLsb' 0 8).toNat = 0x14)
    (hd : (fault.extractLsb' 8 8).toNat = 2 ∨ (fault.extractLsb' 8 8).toNat = 3) : causeOf fault = .memerr := by
  unfold causeOf
  generalize (fault.extractLsb' 0 8).toNat = code at h ⊢
  generalize (fault.extractLsb' 8 8).toNat = detail at hd ⊢
  subst h
  obtain rfl | rfl := hd <;> rfl

theorem causeOf_fault {fault : Word} (h : (fault.extractLsb' 0 8).toNat ≠ 4)
    (hd : (fault.extractLsb' 0 8).toNat ≠ 0x14 ∨ ((fault.extractLsb' 8 8).toNat ≠ 2 ∧ (fault.extractLsb' 8 8).toNat ≠ 3)) :
    causeOf fault = .fault := by
  unfold causeOf
  generalize (fault.extractLsb' 0 8).toNat = code at h hd ⊢
  generalize (fault.extractLsb' 8 8).toNat = detail at hd ⊢
  obtain hd | ⟨hd, hd'⟩ := hd <;> simp [*]

/-! ## Kills (R144, R145, R185) -/

theorem killContext_kills {s : State} {c : Nat} (hst : (s.ctx c).st = .resident) (hv : ¬ (s.ctx c).Violates) :
    s.killContext c = s.endTeam c .killed := by
  rw [State.killContext, endAs_quiet _ hv, hst]
  rfl

/-- A context that violated keeps that cause when its launch is killed. -/
theorem killContext_violates {s : State} {c : Nat} (h : (s.ctx c).st = .held ∧ ((s.ctx c).fault.extractLsb' 0 8).toNat = 4 ∨
    (s.ctx c).Violates) (hd : s.drayCmds c = []) : ∃ fault faddr, s.Ends (s.killContext c) c .violation fault faddr := by
  unfold State.killContext
  dsimp only
  by_cases hv : (s.ctx c).Violates
  · exact endAs_violates _ hv hd
  · obtain ⟨hst, hcode⟩ := h.resolve_right hv
    have hcause : (if ((s.ctx c).st = .held && !resumable (s.ctx c).fault) = true then causeOf (s.ctx c).fault else .killed) =
        Cause.violation := by
      simp [hst, resumable, hcode, causeOf_violation]
    rw [hcause, endAs_quiet _ hv]
    exact ⟨_, _, endTeam_ends .violation hd⟩

/-- The records of a launch whose teams are killed where they wait. -/
def State.closeKill (s : State) (n count : Nat) : State :=
  (List.range count).foldl (fun s t => s.modTeam n t Team.killed)
    (s.modLaunch n fun x => { x with claiming := false, claims := [], pass := [] })

theorem Team.killed_killed (t : Team) : t.killed.killed = t.killed := by
  by_cases h : t.queued = true
  · rw [show t.killed = { t with st := .ended, cause := .killed } from if_pos h]
    rfl
  · rw [show t.killed = t from if_neg h, show t.killed = t from if_neg h]

theorem foldl_killed (l : List Nat) (n : Nat) (s : State) :
    let t := l.foldl (fun s i => s.modTeam n i Team.killed) s
    t = { s with launches := t.launches } ∧ t.launch n = { s.launch n with teams := (t.launch n).teams } ∧
      ∀ i, (t.launch n).team i = if i ∈ l then ((s.launch n).team i).killed else (s.launch n).team i := by
  induction l generalizing s with
  | nil => exact ⟨rfl, rfl, fun _ => rfl⟩
  | cons k l ih =>
    obtain ⟨honly, hlaunch, hteam⟩ := ih (s.modTeam n k Team.killed)
    have hn : (s.modTeam n k Team.killed).launch n =
        { s.launch n with teams := fput (s.launch n).teams k ((s.launch n).team k).killed } := State.launch_modLaunch_same ..
    have hk (i : Nat) : ((s.modTeam n k Team.killed).launch n).team i =
        if i = k then ((s.launch n).team k).killed else (s.launch n).team i := by
      rw [hn]; exact fget_fput ..
    refine ⟨?_, ?_, fun i => ?_⟩
    · rw [List.foldl_cons, honly]; rfl
    · rw [List.foldl_cons, hlaunch, hn]
    · rw [List.foldl_cons, hteam, hk]
      by_cases hi : i = k
      · subst hi; simp [Team.killed_killed]
      · simp [hi]

theorem closeKill_leaves (s : State) (n count : Nat) :
    let t := s.closeKill n count
    t = { s with launches := t.launches } ∧ (t.launch n).killing = (s.launch n).killing ∧ (t.launch n).claiming = false ∧
      (t.launch n).claims = [] ∧ (t.launch n).pass = [] ∧
      ∀ i, (t.launch n).team i = if i < count then ((s.launch n).team i).killed else (s.launch n).team i := by
  obtain ⟨honly, hlaunch, hteam⟩ := foldl_killed (List.range count) n
    (s.modLaunch n fun x => { x with claiming := false, claims := [], pass := [] })
  rw [State.launch_modLaunch_same] at hlaunch hteam
  have hn : (s.closeKill n count).launch n = { s.launch n with
      claiming := false, claims := [], pass := [], teams := ((s.closeKill n count).launch n).teams } := hlaunch
  refine ⟨?_, by rw [hn], by rw [hn], by rw [hn], by rw [hn], fun i => (hteam i).trans ?_⟩
  · rw [State.closeKill, honly]; rfl
  · simp only [List.mem_range]
    rfl

section Kill
variable {s : State} {n : Nat} {l : Launch}

theorem kill_absent (h : ffind s.launches n = none) : exec (.kill n) s = .next s := by
  rw [exec_kill, execKill, h]

theorem kill_none (h : ffind s.launches n = some l) (he : l.ended = false) (hc : s.contextsIn n = []) :
    exec (.kill n) s = .next ((s.condemn n).closeKill n l.count) := by
  rw [exec_kill, execKill, h]
  dsimp only
  rw [he, hc]
  rfl

theorem kill_one {c : Nat} (h : ffind s.launches n = some l) (he : l.ended = false) (hc : s.contextsIn n = [c])
    (hst : (s.ctx c).st = .resident ∨ (s.ctx c).st = .held) :
    exec (.kill n) s = .next (((s.condemn n).killContext c).closeKill n l.count) := by
  have hst' : ((s.condemn n).ctx c).st = (s.ctx c).st := rfl
  rw [exec_kill, execKill, h]
  dsimp only
  rw [he, hc]
  simp only [List.foldl_cons, List.foldl_nil, hst']
  obtain hst | hst := hst <;> rw [hst] <;> rfl

theorem condemn_launch (s : State) (n : Nat) : (s.condemn n).launch n = { s.launch n with killing := true } :=
  State.launch_modLaunch_same ..

theorem launch_of_ffind (h : ffind s.launches n = some l) : s.launch n = l := fget_of_ffind h

end Kill

/-- The end of one team leaves it so when the records of its launch are closed. -/
theorem closeKill_ends {s u : State} {c : Nat} {cause : Cause} {fault faddr : Word} (count : Nat)
    (h : s.Ends u c cause fault faddr) :
    let n := (s.ctx c).launch
    let t := u.closeKill n count
    (∀ d, t.ctx d = u.ctx d) ∧ (∀ k, t.core k = u.core k) ∧ (t.launch n).killing = (u.launch n).killing ∧
      (t.launch n).team (s.ctx c).team = (u.launch n).team (s.ctx c).team := by
  obtain ⟨honly, hkilling, -, -, -, hteam⟩ := closeKill_leaves u (s.ctx c).launch count
  refine ⟨fun d => by rw [honly]; rfl, fun k => by rw [honly]; rfl, hkilling, (hteam _).trans ?_⟩
  have hover : ((u.launch (s.ctx c).launch).team (s.ctx c).team).queued = false := by
    rw [h.team]
    cases cause <;> rfl
  split
  · exact if_neg (by simp [hover])
  · rfl

/-! ## Finishing (R145, R253, R277) -/

theorem team_modTeam_same (s : State) (l t : Nat) (f : Team → Team) :
    ((s.modTeam l t f).launch l).team t = f ((s.launch l).team t) := by
  rw [show (s.modTeam l t f).launch l = _ from State.launch_modLaunch_same ..]
  exact fget_fput_same ..

section Finish
variable {s : State} {c : Nat}

theorem isDone_iff (x : Ctx) : x.isDone = true ↔ x.iss.done = true ∧ x.skip = 0#6 := by simp [Ctx.isDone]

theorem teamFinish_passes (hst : (s.ctx c).st = .resident) (hd : (s.ctx c).isDone = true)
    (hl : (s.core (coreOf c)).lease = some c) (hb : (s.core (coreOf c)).matrixBusy c = false)
    (hf : s.feedsShares (coreOf c) = false) : exec (.teamFinish c) s = .next (s.passLease (coreOf c)) := by
  refine if_pos ?_
  simp [hst, hd, hl, hb, hf]

theorem teamFinish_finishes (hf : s.finishable c = true) (hl : (s.core (coreOf c)).lease ≠ some c) (hr : s.recording c = false) :
    exec (.teamFinish c) s = .next (((s.modTeam (s.ctx c).launch (s.ctx c).team fun t => { t with
      st := .finished, mstall := (s.ctx c).man.mstall, fault := (s.ctx c).fault, faddr := (s.ctx c).faddr }).modCtx c
        Ctx.leaving).dropWidth c) := by
  refine (if_neg ?_).trans (if_pos ?_)
  · simp [hl]
  · simp [hf, hr]

theorem teamFinish_waits (h : (s.ctx c).isDone = false) : exec (.teamFinish c) s = .next s := by
  have hf : s.finishable c = false := by simp [State.finishable, h]
  refine (if_neg ?_).trans (if_neg ?_)
  · simp [h]
  · simp [hf]

theorem finishable_facts (h : s.finishable c = true) : (s.ctx c).st = .resident ∧ (s.ctx c).isDone = true ∧
    (s.ctx c).accesses = [] ∧ (s.ctx c).pend = [] ∧ s.drayCmds c = [] ∧ ¬ (s.ctx c).Violates := by
  simp only [State.finishable, Bool.and_eq_true, decide_eq_true_eq, List.isEmpty_iff, Bool.not_eq_true'] at h
  obtain ⟨⟨⟨⟨⟨⟨⟨⟨hst, hd⟩, ha⟩, hp⟩, hc⟩, -⟩, -⟩, hr⟩, -⟩ := h
  refine ⟨hst, hd, ha, hp, hc, fun ⟨r, hmem, hcode⟩ => ?_⟩
  exact absurd (decide_eq_true hcode) (List.any_eq_false.mp hr r hmem)

/-! ## The scrub (R39) -/

theorem scrubComplete_scrubs (hst : (s.ctx c).st = .releasing) (ha : (s.ctx c).accesses = []) (hd : s.drayCmds c = [])
    (hw : ∀ y, y ∈ s.ms.sent → y.owner ≠ c) : exec (.scrubComplete c) s = .next (s.scrub c) := by
  have hsent : s.sentBy c = false := List.any_eq_false.mpr fun y hy => by simpa using hw y hy
  refine if_pos ?_
  simp [hst, ha, hd, hsent]

theorem scrubComplete_refused (h : (s.ctx c).st ≠ .releasing ∨ (s.ctx c).accesses ≠ [] ∨ s.drayCmds c ≠ [] ∨
    ∃ y, y ∈ s.ms.sent ∧ y.owner = c) : exec (.scrubComplete c) s = .next s := by
  refine if_neg ?_
  simp only [Bool.and_eq_true, decide_eq_true_eq, List.isEmpty_iff, Bool.not_eq_true']
  rintro ⟨⟨⟨hst, ha⟩, hd⟩, hs⟩
  obtain h | h | h | ⟨y, hy, ho⟩ := h
  · exact h hst
  · exact h ha
  · exact h hd
  · exact absurd (decide_eq_true ho) (List.any_eq_false.mp hs y hy)

end Finish

/-- A table without the entries of some keys holds nothing under them. -/
theorem fget_dropKeys {β : Type} (d : β) (p : Nat → Bool) (m : FMap β) (k : Nat) (h : p k = true) :
    fget d (m.filter fun e => !p e.1) k = d := by
  induction m with
  | nil => rfl
  | cons e l ih =>
    rw [List.filter_cons]
    split
    · next he =>
      have hne : e.1 ≠ k := fun heq => by simp [heq, h] at he
      rw [fget, if_neg hne, ih]
    · exact ih

/-- A table without the entries of a value holds it nowhere. -/
theorem fget_dropValue (v : Nat) (hv : v ≠ 0) (m : FMap Nat) (k : Nat) : fget 0 (m.filter fun e => e.2 != v) k ≠ v := by
  induction m with
  | nil => exact hv.symm
  | cons e l ih =>
    rw [List.filter_cons]
    split
    · next he =>
      rw [fget]
      split
      · simpa using he
      · exact ih
    · exact ih

theorem scrub_leaves (s : State) (c : Nat) :
    let t := s.scrub c
    let x := s.ctx c
    let k := t.core (coreOf c)
    t.ctx c = { iss := { off := x.iss.off } } ∧ (∀ d, d ≠ c → t.ctx d = s.ctx d) ∧ (∀ b, fget 0 k.bankOwner b ≠ c + 1) ∧
      k.lease ≠ some c ∧ (∀ r, x.accbase ≤ r → r < x.acclim → fget 0#4096 k.acc r = 0#4096) ∧
      ∀ r, x.cwbase ≤ r → r < x.cwlim → fget 0#256 k.cwt r = 0#256 := by
  obtain ⟨honly, -, hlease⟩ := dropMatrix_leaves s c
  have hother (d : Nat) (hd : d ≠ c) : (s.scrub c).ctx d = s.ctx d := by
    refine (fget_fput_ne _ _ _ _ _ hd).trans ?_
    change ((s.dropMatrix c).dropWidth c).ctx d = _
    rw [dropWidth_ctx, honly]
    rfl
  unfold State.scrub at hother ⊢
  dsimp only at hother ⊢
  refine ⟨fget_fput_same .., hother, ?_, ?_, ?_, ?_⟩
  all_goals rw [State.setCtx_core, State.core_modCore_same]
  · exact fget_dropValue (c + 1) (by omega) _
  · rw [← dropWidth_lease _ c] at hlease
    exact hlease
  · intro r hlo hhi
    exact fget_dropKeys _ (fun r => decide ((s.ctx c).accbase ≤ r) && decide (r < (s.ctx c).acclim)) _ r (by simp [hlo, hhi])
  · intro r hlo hhi
    exact fget_dropKeys _ (fun r => decide ((s.ctx c).cwbase ≤ r) && decide (r < (s.ctx c).cwlim)) _ r (by simp [hlo, hhi])

/-! ## The end of a launch (R145, R153) -/

section LaunchEnd
variable {s : State} {n : Nat} {l : Launch}

theorem launchEnd_absent (h : ffind s.launches n = none) : exec (.launchEnd n) s = .next s := by
  rw [exec_launchEnd, execLaunchEnd, h]

theorem launchEnd_waits (h : ffind s.launches n = some l) (hw : (∃ i, i < l.count ∧ (l.team i).over = false) ∨ s.underWay n = true) :
    exec (.launchEnd n) s = .next s := by
  rw [exec_launchEnd, execLaunchEnd, h]
  refine if_pos ?_
  obtain ⟨i, hi, ho⟩ | hu := hw
  · have hall : ((List.range l.count).all fun t => (l.team t).over) = false :=
      List.all_eq_false.mpr ⟨i, List.mem_range.mpr hi, by simp [ho]⟩
    simp [hall]
  · simp [hu]

theorem launchEnd_ends (h : ffind s.launches n = some l) (he : l.ended = false) (ho : ∀ i, i < l.count → (l.team i).over = true)
    (hu : s.underWay n = false) : exec (.launchEnd n) s = .next ((s.modLaunch n fun x => { x with
      ended := true, status := l.finalStatus, tend := s.tick }).writeReport n) := by
  rw [exec_launchEnd, execLaunchEnd, h]
  refine if_neg ?_
  have hall : ((List.range l.count).all fun t => (l.team t).over) = true :=
    List.all_eq_true.mpr fun i hi => ho i (List.mem_range.mp hi)
  simp [he, hall, hu]

/-- The report changes memory and what firmware is told. -/
theorem writeReport_only (s : State) (n : Nat) :
    let t := s.writeReport n
    t = { s with mem := t.mem, pf := t.pf } := by
  have hw (u : State) (tenant va : Nat) (b : List (List Byte)) :
      (u.vwrite tenant va b).2 = { u with mem := (u.vwrite tenant va b).2.mem, pf := (u.vwrite tenant va b).2.pf } := by
    rw [vwrite_only b tenant u va]
  have hu (u : State) (tenant queue : Nat) (report : Word) :
      u.unreported tenant queue report = { u with pf := (u.unreported tenant queue report).pf } := rfl
  have hfst {b : Bool} {t u : State} {tenant va : Nat} {w : List (List Byte)} (h : u.vwrite tenant va w = (b, t)) :
      t = { u with mem := t.mem, pf := t.pf } := by
    have := hw u tenant va w
    rwa [h] at this
  unfold State.writeReport
  dsimp only
  split
  · next t ht => rw [hu, hfst ht]
  · next t ht =>
    split
    · next u hu' => rw [hfst hu', hfst ht]
    · next u hu' => rw [hu, hfst hu', hfst ht]

theorem launchEnd_leaves (h : ffind s.launches n = some l) (he : l.ended = false) (ho : ∀ i, i < l.count → (l.team i).over = true)
    (hu : s.underWay n = false) : ∃ t, exec (.launchEnd n) s = .next t ∧ (∀ d, t.ctx d = s.ctx d) ∧
      t.launch n = { s.launch n with ended := true, status := l.finalStatus, tend := s.tick } := by
  refine ⟨_, launchEnd_ends h he ho hu, fun d => ?_, ?_⟩
  · rw [writeReport_only]; rfl
  · rw [writeReport_only]
    exact fget_fput_same ..

end LaunchEnd

/-- Some team of a launch ended with a cause. -/
theorem anyCause_iff {l : Launch} {cause : Cause} :
    (l.teams.any fun e => decide (e.2.cause = cause)) = true ↔ ∃ e, e ∈ l.teams ∧ e.2.cause = cause := by simp

theorem anyCause_none {l : Launch} {cause : Cause} (h : ∀ e, e ∈ l.teams → e.2.cause ≠ cause) :
    (l.teams.any fun e => decide (e.2.cause = cause)) = false :=
  List.any_eq_false.mpr fun e he => by simpa using h e he

theorem finalStatus_violation {l : Launch} (h : l.violated = true ∨ ∃ e, e ∈ l.teams ∧ e.2.cause = .violation) :
    l.finalStatus = 0x0C := by
  refine if_pos ?_
  rw [Bool.or_eq_true]
  exact h.imp_right anyCause_iff.mpr

theorem finalStatus_memerr {l : Launch} (hv : l.violated = false) (hn : ∀ e, e ∈ l.teams → e.2.cause ≠ .violation)
    (h : ∃ e, e ∈ l.teams ∧ e.2.cause = .memerr) : l.finalStatus = 0x0D := by
  simp only [Launch.finalStatus, hv, anyCause_none hn, anyCause_iff.mpr h]
  rfl

theorem finalStatus_killed {l : Launch} (hv : l.violated = false)
    (hn : ∀ e, e ∈ l.teams → e.2.cause = .none ∨ e.2.cause = .killed) (h : ∃ e, e ∈ l.teams ∧ e.2.cause = .killed) :
    l.finalStatus = 0x0F := by
  have no {cause : Cause} (h₁ : cause ≠ .none) (h₂ : cause ≠ .killed) : (l.teams.any fun e => decide (e.2.cause = cause)) = false :=
    anyCause_none fun e he => (hn e he).elim (fun h => h ▸ h₁.symm) fun h => h ▸ h₂.symm
  simp only [Launch.finalStatus, hv, no (cause := .violation) nofun nofun, no (cause := .memerr) nofun nofun,
    no (cause := .nokey) nofun nofun, no (cause := .fault) nofun nofun, anyCause_iff.mpr h]
  rfl

theorem finalStatus_done {l : Launch} (hv : l.violated = false) (hn : ∀ e, e ∈ l.teams → e.2.cause = .none) :
    l.finalStatus = 1 := by
  have no {cause : Cause} (h : cause ≠ .none) : (l.teams.any fun e => decide (e.2.cause = cause)) = false :=
    anyCause_none fun e he => hn e he ▸ h.symm
  simp only [Launch.finalStatus, hv, no (cause := .violation) nofun, no (cause := .memerr) nofun, no (cause := .nokey) nofun,
    no (cause := .fault) nofun, no (cause := .killed) nofun]
  rfl

/-! ## A Caravan's other member (R140) -/

/-- The other member of a Caravan is killed with the one that ends. -/
theorem killOthers_one {s : State} {b : Nat} (hst : (s.ctx b).st = .resident) (hv : ¬ (s.ctx b).Violates) :
    s.killOthers [b] = s.endTeam b .killed := by
  simp only [State.killOthers, List.foldl_cons, List.foldl_nil, hst]
  exact killContext_kills hst hv

/-- A team ends, with the cause that it is to end with or with another. -/
theorem endAs_ends {s : State} {c : Nat} (cause : Cause) (hd : s.drayCmds c = []) :
    ∃ final fault faddr, s.Ends (s.endAs c cause) c final fault faddr := by
  by_cases hv : (s.ctx c).Violates
  · exact ⟨_, endAs_violates cause hv hd⟩
  · exact ⟨_, _, _, endAs_quiet cause hv ▸ endTeam_ends cause hd⟩

theorem firmwareEndTeam_pair {s : State} {c b : Nat} (hst : (s.ctx c).st = .held)
    (hg : (s.gangOf c).filter (fun d => d != c) = [b]) (hs : s.stranded b = false) (hc : s.drayCmds c = [])
    (hb : s.drayCmds b = []) (hy : (s.ctx b).st = .resident) (hv : ¬ (s.ctx b).Violates) :
    ∃ t, exec (.firmwareEndTeam c) s = .next t ∧ (t.ctx c).st = .releasing ∧ (t.ctx b).st = .releasing ∧
      ((t.launch (s.ctx b).launch).team (s.ctx b).team).st = .ended ∧
      ((t.launch (s.ctx b).launch).team (s.ctx b).team).cause = .killed ∧ ∀ d, d ≠ c → d ≠ b → t.ctx d = s.ctx d := by
  have hne : b ≠ c := by
    have : b ∈ (s.gangOf c).filter (fun d => d != c) := by rw [hg]; exact List.mem_singleton_self b
    simpa using (List.mem_filter.mp this).2
  obtain ⟨cause, fault, faddr, h⟩ := endAs_ends (causeOf (s.ctx c).fault) hc
  generalize hu : s.endAs c (causeOf (s.ctx c).fault) = u at h
  have hub : u.ctx b = s.ctx b := h.others b hne
  have hk : u.killOthers [b] = u.endTeam b .killed := killOthers_one (hub ▸ hy) (hub ▸ hv)
  have he := endTeam_ends .killed (drayCmds_nil_of h.cmds hb)
  refine ⟨u.endTeam b .killed, ?_, ?_, he.st, ?_, ?_, fun d hdc hdb => (he.others d hdb).trans (h.others d hdc)⟩
  · rw [firmwareEndTeam_ends hst hg (by simpa using hs), hu, hk]
  · rw [he.others c hne.symm]; exact h.st
  · rw [← hub, he.team]; rfl
  · rw [← hub, he.team]; rfl

/-- Settles O43: a team's end withdraws what is under way, records its cause and its fault, condemns its launch where the cause is
a violation or a memory error, and releases the context, which the scrub frees once nothing of it is left; a kill does so for every
team, and a launch ends with the status that the causes of its teams give. -/
theorem teamEnds : Obligations.TeamEnds := by
  unfold Obligations.TeamEnds
  intro s c b n mask l x k code detail violates resumes left ended
  have hresumes : resumable x.fault = true ↔ resumes := resumable_iff x.fault
  have hended {t : State} {cause : Cause} {fault faddr : Word} (h : s.Ends t c cause fault faddr) :
      ended (endState cause) cause t := by
    refine ⟨⟨h.st, h.pend, h.others⟩, ?_, ?_, ?_, h.lease⟩
    all_goals rw [h.team]; rfl
  have hcond {u : State} {cause : Cause} {fault faddr : Word} (h : (s.condemn x.launch).Ends u c cause fault faddr) :
      (u.launch x.launch).killing = true := h.killing _ (by rw [condemn_launch])
  have hteam {u : State} {cause : Cause} {fault faddr : Word} (h : (s.condemn x.launch).Ends u c cause fault faddr) :
      (u.launch x.launch).team x.team = ((s.launch x.launch).team x.team).endedBy x.man.mstall cause fault faddr :=
    h.team.trans (by rw [show (s.condemn x.launch).ctx c = x from rfl, condemn_launch]; rfl)
  have hkept {t u : State} {cause : Cause} {fault faddr : Word} (h : (s.condemn x.launch).Ends u c cause fault faddr)
      (hc : ∀ d, t.ctx d = u.ctx d) (hk : ∀ d, t.core d = u.core d)
      (ht : (t.launch x.launch).team x.team = (u.launch x.launch).team x.team) : ended (endState cause) cause t := by
    refine ⟨⟨by rw [hc]; exact h.st, by rw [hc]; exact h.pend, fun d hd => (hc d).trans (h.others d hd)⟩, ?_, ?_, ?_, ?_⟩
    · rw [ht, hteam h]; rfl
    · rw [ht, hteam h]; rfl
    · rw [ht, hteam h]; rfl
    · rw [hk]; exact h.lease
  have halone (hst : x.st = .held) (hsize : x.csize = 0) :
      exec (.firmwareEndTeam c) s = .next (s.endAs c (causeOf x.fault)) :=
    firmwareEndTeam_ends hst (gangOf_alone hsize) nofun
  refine ⟨fun hst hr hf => ⟨_, firmwareResume_resumes mask hst (hresumes.mpr hr) hf, ⟨rfl, fun d hd => State.ctx_modCtx_ne _ _ _ _ hd, modCtx_sameBytes ..⟩, State.ctx_modCtx_same ..⟩,
    fun h => firmwareResume_refused mask (h.imp_right (Or.imp_left fun h => h ∘ hresumes.mp)),
    fun h => firmwareEndTeam_refused (.inl h), fun _ h => firmwareEndTeam_refused (.inr h),
    fun hst hg hs hc hb hy hv => firmwareEndTeam_pair hst hg hs hc hb hy hv,
    fun hst hsize hd => ⟨fun h => ?violation, fun hcode hdetail hv => ?memerr, fun hcode hdetail hv => ?fault⟩,
    fun hst hdone hskip hl hb hf => ?pass, fun hf hl hr => ?finish, fun hf => ?finishable, fun h => teamFinish_waits ?waits,
    fun hst ha hd hw => ⟨_, scrubComplete_scrubs hst ha hd hw, scrub_leaves s c⟩, scrubComplete_refused,
    fun h => ⟨kill_absent h, launchEnd_absent h⟩,
    fun h he => ⟨fun hc => ?killNone, fun hc hn ht hst hv hd => ?killOne, fun hc hn ht hv hd => ?killViolates,
      launchEnd_waits h, fun ho hu => ?launchEnd⟩⟩
  case violation =>
    by_cases hv : x.Violates
    · obtain ⟨_, _, hend⟩ := endAs_violates (causeOf x.fault) hv hd
      exact ⟨_, halone hst hsize, hended hend, hend.condemned (.inl rfl)⟩
    · have hend := endTeam_ends .violation hd
      refine ⟨_, halone hst hsize, ?_⟩
      rw [endAs_quiet _ hv, causeOf_violation (h.resolve_right hv)]
      exact ⟨hended hend, hend.condemned (.inl rfl)⟩
  case memerr =>
    have hend := endTeam_ends .memerr hd
    refine ⟨_, halone hst hsize, ?_⟩
    rw [endAs_quiet _ hv, causeOf_memerr hcode hdetail]
    exact ⟨hended hend, hend.condemned (.inr rfl)⟩
  case fault =>
    have hend := endTeam_ends .fault hd
    refine ⟨_, halone hst hsize, ?_⟩
    rw [endAs_quiet _ hv, causeOf_fault hcode hdetail]
    refine ⟨hended hend, ?_, ?_⟩
    all_goals rw [hend.team]; rfl
  case pass =>
    exact ⟨_, teamFinish_passes hst ((isDone_iff x).mpr ⟨hdone, hskip⟩) hl hb hf, modCore_onlyCore .., State.core_modCore_same ..⟩
  case finish =>
    obtain ⟨hc, ho, hl', -⟩ := leave_leaves (s.modTeam x.launch x.team fun t => { t with
      st := .finished, mstall := x.man.mstall, fault := x.fault, faddr := x.faddr }) c
    refine ⟨_, teamFinish_finishes hf hl hr, ⟨by rw [hc]; rfl, by rw [hc]; rfl, ho⟩, ?_, ?_⟩
    all_goals
      rw [hl', team_modTeam_same]
  case finishable =>
    obtain ⟨hst, hd, ha, hp, hc, hv⟩ := finishable_facts hf
    obtain ⟨hdone, hskip⟩ := (isDone_iff x).mp hd
    exact ⟨hst, hdone, hskip, ha, hp, hc, hv⟩
  case waits =>
    rw [Bool.eq_false_iff, Ne, isDone_iff]
    rintro ⟨hdone, hskip⟩
    exact h.elim (fun h => absurd (hdone.symm.trans h) Bool.noConfusion) (fun h => h hskip)
  case killNone =>
    obtain ⟨-, hkilling, hclaiming, hclaims, hpass, hteam⟩ := closeKill_leaves (s.condemn n) n l.count
    rw [condemn_launch, launch_of_ffind h] at hkilling hteam
    refine ⟨_, kill_none h he hc, hkilling, hclaiming, hclaims, hpass, fun i hi => ?_⟩
    have hi' := (hteam i).trans (if_pos hi)
    split
    · next hq =>
      have hk : (l.team i).killed = { l.team i with st := .ended, cause := .killed } := if_pos (by simpa [Team.queued] using hq)
      rw [hi']
      exact ⟨congrArg Team.st hk, congrArg Team.cause hk⟩
    · next hq =>
      have hk : (l.team i).killed = l.team i := if_neg (by simpa [Team.queued] using hq)
      exact hi'.trans hk
  case killOne =>
    subst hn
    have hend : (s.condemn x.launch).Ends ((s.condemn x.launch).endTeam c .killed) c .killed x.fault x.faddr := endTeam_ends .killed hd
    obtain ⟨hc', hk, hkilling, hsame⟩ := closeKill_ends l.count hend
    rw [← killContext_kills (s := s.condemn x.launch) hst hv] at hend hc' hk hkilling hsame
    exact ⟨_, kill_one h he hc (.inl hst), hkept hend hc' hk hsame, hkilling.trans (hcond hend)⟩
  case killViolates =>
    subst hn
    have hst : x.st = .resident ∨ x.st = .held := hv.elim (fun h => .inr h.1) fun h => h.1.symm
    obtain ⟨_, _, hend⟩ := killContext_violates (s := s.condemn x.launch) (c := c) (hv.imp_right And.right) hd
    obtain ⟨hc', hk, hkilling, hsame⟩ := closeKill_ends l.count hend
    exact ⟨_, kill_one h he hc hst, hkept hend hc' hk hsame, hkilling.trans (hcond hend)⟩
  case launchEnd =>
    obtain ⟨t, hex, hc, hn⟩ := launchEnd_leaves h he ho hu
    refine ⟨t, hex, hc, by rw [hn], by rw [hn], fun hv => ?_, fun hv hn' hm => ?_, fun hv hn' hk => ?_, fun hv hn' => ?_⟩
    all_goals rw [hn]
    · exact finalStatus_violation hv
    · exact finalStatus_memerr hv hn' hm
    · exact finalStatus_killed hv hn' hk
    · exact finalStatus_done hv hn'

end Sys2Proof.Machine

/-! # Proofs: how a command runs, and the loader (R62, R63, R129, R132, R339, R346) -/

namespace Sys2Proof.Machine

/-! ## The run of a command (R338, R339) -/

/-- A function's command of a code runs and has no outcome yet. -/
def State.Runs (s : State) (fn code : Nat) : Prop :=
  s.pf.boot = 1 ∧ (s.fn fn).st = 1 ∧ (s.fn fn).outcome = none ∧ (s.fn fn).code = code

theorem running_iff {s : State} {fn code : Nat} : s.running fn code = true ↔ s.Runs fn code := by
  simp [State.running, State.Runs, and_assoc]

/-- One function is as given, and the others are as before. -/
def State.FnFrame (s t : State) (fn : Nat) (g : HostFn) : Prop := t.fn fn = g ∧ ∀ m, m ≠ fn → t.fn m = s.fn m

/-- A command that is refused, or ends with no effect but its outcome. -/
theorem outcome_leaves (s : State) (fn status : Nat) (res : List Word) :
    let t := s.outcome fn status res
    s.OnlyPlatform t ∧ s.SameContexts t ∧ s.FnFrame t fn { s.fn fn with outcome := some (status, res) } :=
  ⟨modFn_onlyPlatform .., fun _ => rfl, State.fn_modFn_same .., fun m h => State.fn_modFn_ne s fn m _ h⟩

theorem fnFrame_outcome {s t : State} {fn : Nat} {g : HostFn} (status : Nat) (res : List Word) (h : s.FnFrame t fn g) :
    s.FnFrame (t.outcome fn status res) fn { g with outcome := some (status, res) } := by
  obtain ⟨hfn, hothers⟩ := h
  obtain ⟨-, -, hsame, hne⟩ := outcome_leaves t fn status res
  exact ⟨by rw [hsame, hfn], fun m hm => (hne m hm).trans (hothers m hm)⟩

section Command
variable {s : State} {fn code : Nat} {refuse : Option Nat} {f : State → State}

theorem command_idle (h : ¬ s.Runs fn code) : s.command fn code refuse f = .next s := by
  have hr : s.running fn code = false := Bool.eq_false_iff.mpr (mt running_iff.mp h)
  exact if_pos (by simp [hr])

variable (h : s.Runs fn code)
include h

theorem command_refused {status : Nat} (hr : refuse = some status) :
    s.command fn code refuse f = .next (s.outcome fn status []) := by
  subst hr
  exact if_neg (by simp [running_iff.mpr h])

theorem command_runs (hr : refuse = none) : s.command fn code refuse f = .next (f s) := by
  subst hr
  exact if_neg (by simp [running_iff.mpr h])

end Command

theorem firstStatus_none {l : List (Bool × Nat)} (h : ∀ e, e ∈ l → e.1 = false) : firstStatus l = none := by
  induction l with
  | nil => rfl
  | cons e l ih =>
    obtain ⟨b, n⟩ := e
    have hb : b = false := h (b, n) List.mem_cons_self
    subst hb
    exact ih fun e he => h e (List.mem_cons_of_mem _ he)

theorem firstStatus_next {b : Bool} {n : Nat} {l : List (Bool × Nat)} (h : b = false) : firstStatus ((b, n) :: l) = firstStatus l := by
  subst h; rfl

/-- The status of the first check that fails, where all that may fail have the same. -/
theorem firstStatus_some {l : List (Bool × Nat)} {n : Nat} (hn : ∀ e, e ∈ l → e.1 = true → e.2 = n)
    (h : ∃ e, e ∈ l ∧ e.1 = true) : firstStatus l = some n := by
  induction l with
  | nil => obtain ⟨_, he, _⟩ := h; cases he
  | cons e l ih =>
    obtain ⟨b, m⟩ := e
    cases b with
    | true => exact congrArg some (hn (true, m) List.mem_cons_self rfl)
    | false =>
      refine ih (fun e he => hn e (List.mem_cons_of_mem _ he)) ?_
      obtain ⟨e, he, ht⟩ := h
      obtain rfl | he := List.mem_cons.mp he
      · cases ht
      · exact ⟨e, he, ht⟩

theorem outOfHost_iff {a : Word} {n : Nat} : outOfHost a n = true ↔ 0x1000000000000 < a.toNat + n := decide_eq_true_iff

theorem foreign_iff {f : HostFn} {tenant : Word} : f.foreign tenant = true ↔ tenant.toNat ∉ f.tenants := by
  simp [HostFn.foreign]

theorem lacks_iff {f : HostFn} {bit : Nat} : f.lacks bit = true ↔ ∀ v, f.accepted = some v → v.getLsbD bit = false := by
  unfold HostFn.lacks
  split
  · next v hv => simp [hv]
  · next hv => simp [hv]

/-! ## Lines that leave the fetch levels (R62, R63) -/

/-- A core after lines have gone from its L1I. -/
def CoreState.dropLines (k : CoreState) (gone : Nat → Nat → Bool) : CoreState :=
  { k with l1i := k.l1i.filter fun e => !gone (e.1 / 2 ^ 64) (e.1 % 2 ^ 64) }

theorem CoreState.dropLines_empty {k : CoreState} (h : k.l1i = []) (gone : Nat → Nat → Bool) : k.dropLines gone = k := by
  rw [CoreState.dropLines, h, List.filter_nil, ← h]

theorem foldl_dropL1i (l : List Nat) (gone : Nat → Nat → Bool) (s : State) :
    let t := l.foldl (fun s n => s.dropL1i n gone) s
    t = { s with ctxs := t.ctxs, cores := t.cores } ∧
      (∀ c, t.ctx c = if coreOf c ∈ l then (s.ctx c).dropLine gone else s.ctx c) ∧
      ∀ n, t.core n = if n ∈ l then (s.core n).dropLines gone else s.core n := by
  induction l generalizing s with
  | nil => exact ⟨rfl, fun _ => rfl, fun _ => rfl⟩
  | cons k l ih =>
    obtain ⟨honly, hctx, hcore⟩ := ih (s.dropL1i k gone)
    obtain ⟨sonly, sctx, score⟩ := dropL1i_leaves s k gone
    refine ⟨?_, fun c => ?_, fun n => ?_⟩
    · rw [List.foldl_cons, honly, sonly]
    · rw [List.foldl_cons, hctx, sctx]
      by_cases hk : coreOf c = k <;> by_cases hl : coreOf c ∈ l <;> simp [hk, hl, Ctx.dropLine_dropLine]
    · rw [List.foldl_cons, hcore, score]
      by_cases hk : n = k
      · subst hk
        by_cases hl : n ∈ l <;> simp [CoreState.dropLines, hl]
      · by_cases hl : n ∈ l <;> simp [hk, hl]

/-- Lines go from every L1I, line buffer and Plaza, and nothing else changes. -/
theorem dropFetch_leaves (s : State) (gone : Nat → Nat → Bool) :
    let t := s.dropFetch gone
    t = { s with ctxs := t.ctxs, cores := t.cores, ms := { s.ms with plaza := t.ms.plaza } } ∧
      (∀ c, t.ctx c = (s.ctx c).dropLine gone) ∧ ∀ n, t.core n = (s.core n).dropLines gone := by
  obtain ⟨honly, hctx, hcore⟩ := foldl_dropL1i (s.listedCores ++ s.ctxs.map fun e => coreOf e.1) gone s
  refine ⟨?_, fun c => (hctx c).trans ?_, fun n => (hcore n).trans ?_⟩
  · rw [State.dropFetch, honly]; rfl
  · split
    · rfl
    · next hc =>
      obtain h | h := fget_listed ({} : Ctx) s.ctxs c
      · exact absurd (List.mem_append_right _ (List.mem_map.mpr ⟨_, h, rfl⟩)) hc
      · rw [show s.ctx c = {} from h]; rfl
  · split
    · rfl
    · next hn => exact (CoreState.dropLines_empty (l1i_unlisted fun h => hn (List.mem_append_left _ h)) gone).symm

/-! ## Storing in device memory (R19, R132) -/

/-- Firmware has written memory, its owners, and the page of its next table, and nothing else. -/
def State.Stores (s t : State) : Prop :=
  t = { s with mem := t.mem, ms := t.ms, pf := { s.pf with tablePage := t.pf.tablePage } } ∧
    (Memory.wf s.mem = true → Memory.wf t.mem = true)

theorem stores_refl (s : State) : s.Stores s := ⟨rfl, id⟩

theorem stores_trans {s t u : State} (h : s.Stores t) (k : t.Stores u) : s.Stores u := by
  obtain ⟨ht, hw⟩ := h
  obtain ⟨hu, kw⟩ := k
  exact ⟨by rw [hu, ht], kw ∘ hw⟩

theorem stores_foldl {α : Type} (f : State → α → State) (hf : ∀ (s : State) (a : α), s.Stores (f s a)) (l : List α) (s : State) :
    s.Stores (l.foldl f s) := by
  induction l generalizing s with
  | nil => exact stores_refl s
  | cons a l ih => exact stores_trans (hf s a) (ih _)

theorem deviceWrite_stores (s : State) (pa : Nat) (b : List Byte) : s.Stores (s.deviceWrite pa b) := by
  unfold State.deviceWrite
  split
  · exact ⟨rfl, wf_mwrite b s.mem pa⟩
  · exact stores_refl s

theorem takeGranule_stores (s : State) (n : Nat) (owner : BitVec 5) : s.Stores (s.takeGranule n owner) :=
  ⟨rfl, wf_mclear s.mem _ _⟩

theorem newTable_stores {s : State} {r : Nat × State} (h : s.newTable = some r) : s.Stores r.2 := by
  unfold State.newTable at h
  split at h
  · obtain ⟨n, _, rfl⟩ := Option.map_eq_some_iff.mp h
    exact stores_trans (takeGranule_stores s n 0x10#5) ⟨rfl, id⟩
  · cases h
    exact ⟨rfl, id⟩

theorem tableAt_stores {s : State} {entry : Nat} {r : Nat × State} (h : s.tableAt entry = some r) : s.Stores r.2 := by
  unfold State.tableAt at h
  dsimp only at h
  split at h
  · cases h
    exact stores_refl s
  · obtain ⟨q, hq, rfl⟩ := Option.map_eq_some_iff.mp h
    exact stores_trans (newTable_stores hq) (deviceWrite_stores ..)

theorem mapPage_stores {s t : State} {root va pa : Nat} (h : s.mapPage root va pa = some t) : s.Stores t := by
  unfold State.mapPage at h
  obtain ⟨a, ha, h⟩ := Option.bind_eq_some_iff.mp h
  obtain ⟨b, hb, rfl⟩ := Option.map_eq_some_iff.mp h
  exact stores_trans (tableAt_stores ha) (stores_trans (tableAt_stores hb) (deviceWrite_stores ..))

theorem mapPages_stores {root : Nat} {l : List (Nat × Nat)} {s t : State} (h : s.mapPages root l = some t) : s.Stores t := by
  induction l generalizing s with
  | nil => cases h; exact stores_refl _
  | cons x l ih =>
    rw [State.mapPages] at h
    obtain ⟨u, hu, h⟩ := Option.bind_eq_some_iff.mp h
    exact stores_trans (mapPage_stores hu) (ih h)

theorem storeSection_stores (s : State) (o : Object) (off : Nat) (b : List Byte) : s.Stores (s.storeSection o off b) :=
  stores_foldl _ (fun _ _ => deviceWrite_stores ..) _ s

theorem storeSection_nil {s : State} {o : Object} {off : Nat} {b : List Byte} (h : b.length = 0) :
    s.storeSection o off b = s := by
  obtain rfl := List.length_eq_zero_iff.mp h
  rfl

theorem unmapPage_stores (s : State) (tenant va : Nat) : s.Stores (s.unmapPage tenant va) := by
  unfold State.unmapPage
  split
  · exact deviceWrite_stores ..
  · exact stores_refl s

/-! ## The bytes of an object's first page (R132) -/

theorem backed_hbm (s : State) {pa : Nat} (h : pa < 0xC000000000) : s.backed pa = true := by
  have hr : region pa = .hbm := if_pos h
  simp [State.backed, hr]

theorem deviceWrite_holds {s : State} {pa : Nat} {b : List Byte} (hb : s.backed pa = true) (hm : Memory.wf s.mem = true) :
    s.Holds (s.deviceWrite pa b) pa b := by
  have h : s.deviceWrite pa b = ({ s with mem := mwrite s.mem pa b } : State).modMs fun m =>
      { m with poison := m.poison.filter fun l => !(decide (pa ≤ l * 256) && decide (l * 256 + 256 ≤ pa + b.length)) } := if_pos hb
  refine holds_mwrite hm ?_ ?_ ?_ <;> rw [h] <;> rfl

/-- Firmware's write leaves the bytes outside its range. -/
theorem deviceWrite_outside {s : State} {pa a : Nat} {b : List Byte} (hm : Memory.wf s.mem = true)
    (h : a < pa ∨ pa + b.length ≤ a) : mget (s.deviceWrite pa b).mem a = mget s.mem a := by
  by_cases hb : s.backed pa = true
  · exact (deviceWrite_holds hb hm).2.1 a h
  · rw [show s.deviceWrite pa b = s from if_neg hb]

theorem pa_zero (o : Object) : o.pa 0 = o.home.getD 0 0 * 0x20000000 := by simp [Object.pa, granuleSize]

/-- The pages of an object lie apart. -/
theorem pa_apart {o : Object} {i : Nat} (hd : o.home.Nodup) (hi : 0 < i) (hl : i / 8192 < o.home.length) :
    o.pa (0x10000 * i) + 0x10000 ≤ o.pa 0 ∨ o.pa 0 + 0x10000 ≤ o.pa (0x10000 * i) := by
  have hpos : 0 < o.home.length := by omega
  have hq : 0x10000 * i / granuleSize = i / 8192 := by rw [granuleSize]; omega
  have hr : 0x10000 * i % granuleSize = 0x10000 * (i % 8192) := by rw [granuleSize]; omega
  have hi' : o.pa (0x10000 * i) = o.home.getD (i / 8192) 0 * 0x20000000 + 0x10000 * (i % 8192) := by
    rw [Object.pa, hq, hr, granuleSize]
  rw [pa_zero, hi']
  by_cases hz : i / 8192 = 0
  · rw [hz]; omega
  · have hne : o.home.getD (i / 8192) 0 ≠ o.home.getD 0 0 := by
      rw [List.getD_eq_getElem _ _ hl, List.getD_eq_getElem _ _ hpos]
      exact fun h => hz ((List.Nodup.getElem_inj_iff hd).mp h)
    omega

theorem storeSection_firstPage {s : State} {o : Object} {b : List Byte} {j : Nat} (hm : Memory.wf s.mem = true)
    (hb : o.pa 0 < 0xC000000000) (hd : o.home.Nodup) (hl : (b.length + 0xFFFF) / 0x10000 ≤ 8192 * o.home.length)
    (hj : j < 0x10000) (hjb : j < b.length) : mget (s.storeSection o 0 b).mem (o.pa 0 + j) = b.getD j 0#8 := by
  have hfold (k : Nat) (hk : k ≤ 8192 * o.home.length) (hpos : 0 < k) :
      mget ((List.range k).foldl (fun s i =>
        s.deviceWrite (o.pa (0 + 0x10000 * i)) ((b.drop (0x10000 * i)).take 0x10000)) s).mem (o.pa 0 + j) = b.getD j 0#8 := by
    induction k with
    | zero => cases hpos
    | succ k ih =>
      rw [List.range_succ, List.foldl_append, List.foldl_cons, List.foldl_nil]
      have hwf := (stores_foldl (fun (s : State) i => s.deviceWrite (o.pa (0 + 0x10000 * i)) ((b.drop (0x10000 * i)).take 0x10000))
        (fun _ _ => deviceWrite_stores ..) (List.range k) s).2 hm
      by_cases hz : k = 0
      · subst hz
        have h := (deviceWrite_holds (b := b.take 0x10000) (backed_hbm s hb) hm).1 j (by simp; omega)
        exact h.trans (by simp [List.getD_eq_getElem?_getD, hj])
      · refine (deviceWrite_outside hwf ?_).trans (ih (by omega) (by omega))
        have := pa_apart (o := o) (i := k) hd (by omega) (by omega)
        have : ((b.drop (0x10000 * k)).take 0x10000).length ≤ 0x10000 := by simp
        rw [Nat.zero_add]
        omega
  exact hfold _ hl (by omega)

/-! ## LOAD (R132, R339, R346) -/

/-- The pages that a file's sections take. -/
def objectPages (b : List Byte) : Nat := pagesOf (sectionBytes b 1).length (sectionBytes b 2).length (sectionBytes b 3).length

/-- The granules that a file's pages take. -/
def State.homesFor (s : State) (b : List Byte) : List Nat := s.freeGranules.take ((objectPages b + 8191) / 8192)

/-- The place of an object: the one required, where it is vacant, or one of the loader's own. -/
def State.placeFor (s : State) (tenant required pages : Nat) : Option Nat :=
  if required = 0 then s.loaderChoice tenant pages (2 ^ 39) (Config.loaderPlace s.pf.objectSeq)
  else if s.vacant tenant required pages then some required
  else none

theorem vacant_iff {s : State} {tenant va pages : Nat} : s.vacant tenant va pages = true ↔
    va + pages * 0x10000 ≤ 2 ^ 55 ∧ ∀ i, i < pages → s.unmapped tenant (va + 0x10000 * i) = true := by
  simp [State.vacant]

theorem placeFor_choice (s : State) (tenant pages : Nat) :
    s.placeFor tenant 0 pages = s.loaderChoice tenant pages (2 ^ 39) (Config.loaderPlace s.pf.objectSeq) := if_pos rfl

theorem placeFor_required {s : State} {tenant required pages : Nat} (hr : required ≠ 0)
    (h : s.vacant tenant required pages = true) : s.placeFor tenant required pages = some required :=
  (if_neg hr).trans (if_pos h)

theorem placeFor_taken {s : State} {tenant required pages : Nat} (hr : required ≠ 0)
    (h : ¬ s.vacant tenant required pages = true) : s.placeFor tenant required pages = none :=
  (if_neg hr).trans (if_neg h)

section LoadObject
variable {s : State} {fn tenant required root va : Nat} {b : List Byte}

theorem loadObject_noRoot (h : fget none s.ms.xlbase tenant = none) : s.loadObject fn tenant required b = s.outcome fn 0x11 [] := by
  unfold State.loadObject
  dsimp only
  rw [h]

variable (hroot : fget none s.ms.xlbase tenant = some root)
include hroot

theorem loadObject_noPlace (h : s.placeFor tenant required (objectPages b) = none) : s.loadObject fn tenant required b =
    s.outcome fn (if 2 ^ 55 < required + objectPages b * 0x10000 then 0x11 else 0x10) [] := by
  unfold State.placeFor at h
  unfold State.loadObject
  dsimp only
  rw [hroot, ← objectPages, h]

variable (hplace : s.placeFor tenant required (objectPages b) = some va)
include hplace

theorem loadObject_noRoom (h : (s.homesFor b).length ≠ (objectPages b + 8191) / 8192 ∨
    s.placeObject (objectOf b s.nextHandle tenant va (s.homesFor b)) b root = none) :
    s.loadObject fn tenant required b = s.outcome fn 0x10 [] := by
  unfold State.placeFor at hplace
  unfold State.loadObject
  dsimp only
  rw [hroot, ← objectPages, hplace]
  dsimp only
  rw [← State.homesFor, show (objectOf b s.nextHandle tenant va (s.homesFor b)).home = s.homesFor b from rfl]
  obtain h | h := h
  · rw [if_neg h]
  · rw [h, ite_self]

theorem loadObject_places {u : State} (hlen : (s.homesFor b).length = (objectPages b + 8191) / 8192)
    (hu : s.placeObject (objectOf b s.nextHandle tenant va (s.homesFor b)) b root = some u) :
    let o := objectOf b s.nextHandle tenant va (s.homesFor b)
    s.loadObject fn tenant required b =
      u.outcome fn 1 [o.handle, BitVec.ofNat 64 o.bundleVa, BitVec.ofNat 64 o.litVa, BitVec.ofNat 64 o.cwtVa] := by
  unfold State.placeFor at hplace
  unfold State.loadObject
  dsimp only
  rw [hroot, ← objectPages, hplace]
  dsimp only
  rw [← State.homesFor, show (objectOf b s.nextHandle tenant va (s.homesFor b)).home = s.homesFor b from rfl, if_pos hlen, hu]

end LoadObject

/-- The sections of an object are stored. -/
def State.storeObject (s : State) (o : Object) (b : List Byte) : State :=
  ((s.storeSection o 0 (sectionBytes b 1)).storeSection o (o.litVa - o.bundleVa) (sectionBytes b 2)).storeSection o
    (o.cwtVa - o.bundleVa) (sectionBytes b 3)

theorem storeObject_stores (s : State) (o : Object) (b : List Byte) : s.Stores (s.storeObject o b) :=
  stores_trans (stores_trans (storeSection_stores ..) (storeSection_stores ..)) (storeSection_stores ..)

theorem placeObject_some {s u : State} {o : Object} {b : List Byte} {root : Nat} (h : s.placeObject o b root = some u) :
    ∃ v, s.Stores v ∧ u = ((v.storeObject o b).dropFetch o.holds).modPf fun p =>
      { p with objects := p.objects ++ [o], objectSeq := p.objectSeq + 1 } := by
  unfold State.placeObject at h
  obtain ⟨v, hv, rfl⟩ := Option.map_eq_some_iff.mp h
  exact ⟨v, stores_trans (stores_foldl _ (fun _ _ => takeGranule_stores ..) o.home s) (mapPages_stores hv), rfl⟩

/-- An object that is placed stands among the objects, and the lines of its pages have left the fetch levels. -/
theorem placeObject_leaves {s u : State} {o : Object} {b : List Byte} {root : Nat} (h : s.placeObject o b root = some u) :
    (∀ m, u.fn m = s.fn m) ∧ (∀ c, u.ctx c = (s.ctx c).dropLine o.holds) ∧ u.pf.objects = s.pf.objects ++ [o] ∧
      u.pf.objectSeq = s.pf.objectSeq + 1 := by
  obtain ⟨v, hv, rfl⟩ := placeObject_some h
  obtain ⟨hw, -⟩ := stores_trans hv (storeObject_stores v o b)
  obtain ⟨hdrop, hctx, -⟩ := dropFetch_leaves (v.storeObject o b) o.holds
  have hpf : ((v.storeObject o b).dropFetch o.holds).pf = { s.pf with tablePage := (v.storeObject o b).pf.tablePage } := by
    rw [hdrop, hw]
  refine ⟨fun m => ?_, fun c => (hctx c).trans ?_, ?_, ?_⟩
  · change fget {} ((v.storeObject o b).dropFetch o.holds).pf.fns m = _
    rw [hpf]; rfl
  · rw [hw]; rfl
  · change ((v.storeObject o b).dropFetch o.holds).pf.objects ++ [o] = _
    rw [hpf]
  · change ((v.storeObject o b).dropFetch o.holds).pf.objectSeq + 1 = _
    rw [hpf]

theorem freeGranules_lt {s : State} {n : Nat} (h : n ∈ s.freeGranules) : n < 1536 :=
  List.mem_range.mp (List.mem_filter.mp h).1

theorem freeGranules_nodup (s : State) : s.freeGranules.Nodup := List.Nodup.filter _ List.nodup_range

/-- The pages of a file that has bundles alone. -/
theorem objectPages_bundles {b : List Byte} (h2 : (sectionBytes b 2).length = 0) (h3 : (sectionBytes b 3).length = 0) :
    objectPages b = ((sectionBytes b 1).length + 0xFFFF) / 0x10000 := by
  rw [objectPages, h2, h3]
  simp only [pagesOf, roundUp]
  omega

/-- The bundles of an object that has no other section stand from its first granule on. -/
theorem placeObject_bytes {s u : State} {o : Object} {root i : Nat} {b : List Byte} (hhome : o.home = s.homesFor b)
    (h : s.placeObject o b root = some u) (hm : Memory.wf s.mem = true)
    (hlen : (s.homesFor b).length = (objectPages b + 8191) / 8192) (h2 : (sectionBytes b 2).length = 0)
    (h3 : (sectionBytes b 3).length = 0) (hi : i < 0x10000) (hib : i < (sectionBytes b 1).length) :
    mget u.mem ((s.homesFor b).getD 0 0 * 0x20000000 + i) = (sectionBytes b 1).getD i 0#8 := by
  obtain ⟨v, ⟨-, hwf⟩, rfl⟩ := placeObject_some h
  have hpages := objectPages_bundles h2 h3
  rw [← hhome] at hlen ⊢
  have hpos : 0 < o.home.length := by omega
  have hfirst : o.home.getD 0 0 < 1536 := by
    rw [List.getD_eq_getElem _ _ hpos]
    exact freeGranules_lt (List.mem_of_mem_take ((congrArg (o.home[0] ∈ ·) hhome).mp (List.getElem_mem hpos)))
  have hnodup : o.home.Nodup := hhome ▸ (freeGranules_nodup s).sublist (List.take_sublist ..)
  have hmem := storeSection_firstPage (hwf hm) (by rw [pa_zero]; omega) hnodup (by omega) hi hib
  obtain ⟨hdrop, -, -⟩ := dropFetch_leaves (v.storeObject o b) o.holds
  have hu : (((v.storeObject o b).dropFetch o.holds).modPf fun p =>
      { p with objects := p.objects ++ [o], objectSeq := p.objectSeq + 1 }).mem = (v.storeSection o 0 (sectionBytes b 1)).mem := by
    change ((v.storeObject o b).dropFetch o.holds).mem = _
    rw [hdrop, State.storeObject, storeSection_nil h3, storeSection_nil h2]
  rw [← pa_zero, hu, hmem]

end Sys2Proof.Machine

/-! # Proofs: LOAD, UNLOAD and INVAL (R22, R23, R132, R133, R339) -/

namespace Sys2Proof.Machine

theorem exec_load (fn : Nat) (s : State) : exec (.load fn) s = execLoad fn s := rfl
theorem exec_unload (fn : Nat) (s : State) : exec (.unload fn) s = execUnload fn s := rfl
theorem exec_inval (fn : Nat) (s : State) : exec (.inval fn) s = execInval fn s := rfl

/-! ## LOAD -/

section Load
variable {s : State} {fn : Nat}

/-- The bytes of the object that a LOAD names. -/
def State.loadFile (s : State) (fn : Nat) : List Byte := s.hostRead ((s.fn fn).arg 0) ((s.fn fn).arg 1).toNat

/-- That object verifies under the key that the LOAD names. -/
def State.loadVerified (s : State) (fn : Nat) : Bool :=
  s.verifies ((s.fn fn).arg 3).toNat (s.loadFile fn) (s.hostRead ((s.fn fn).arg 2) signatureSize)

/-- The arguments of a LOAD name something that its function does not have, or cannot be. -/
def HostFn.BadLoad (f : HostFn) : Prop :=
  (f.arg 4).toNat ∉ f.tenants ∨ 32 ≤ (f.arg 3).toNat ∨ (f.arg 5).toNat % 0x10000 ≠ 0 ∨ 2 ^ 55 ≤ (f.arg 5).toNat ∨
    0x1000000000000 < (f.arg 0).toNat + (f.arg 1).toNat ∨ 0x1000000000000 < (f.arg 2).toNat + 29792

/-- The checks on the arguments of a LOAD. -/
def HostFn.loadChecks (f : HostFn) : List (Bool × Nat) :=
  [(f.foreign (f.arg 4), 0x11), (decide (32 ≤ (f.arg 3).toNat), 0x11), ((f.arg 5).toNat % 0x10000 != 0, 0x11),
    (decide (2 ^ 55 ≤ (f.arg 5).toNat), 0x11), (outOfHost (f.arg 0) (f.arg 1).toNat, 0x11), (outOfHost (f.arg 2) signatureSize, 0x11)]

theorem HostFn.badLoad_iff {f : HostFn} : f.BadLoad ↔ ∃ e, e ∈ f.loadChecks ∧ e.1 = true := by
  simp [HostFn.BadLoad, HostFn.loadChecks, foreign_iff, outOfHost_iff, signatureSize]

theorem load_unaccepted (h : s.Runs fn 3) (ha : (s.fn fn).accepted = none) :
    exec (.load fn) s = .next (s.outcome fn 0x12 []) := by
  rw [exec_load, execLoad]
  exact command_refused h (by rw [ha]; rfl)

theorem load_badArgs (h : s.Runs fn 3) (ha : (s.fn fn).accepted ≠ none) (hb : (s.fn fn).BadLoad) :
    exec (.load fn) s = .next (s.outcome fn 0x11 []) := by
  have hchecks : firstStatus (s.fn fn).loadChecks = some 0x11 :=
    firstStatus_some (by simp [HostFn.loadChecks]) (HostFn.badLoad_iff.mp hb)
  obtain ⟨v, hv⟩ := Option.ne_none_iff_exists'.mp ha
  rw [exec_load, execLoad]
  exact command_refused h ((firstStatus_next (by rw [hv]; rfl)).trans hchecks)

variable (h : s.Runs fn 3) (ha : (s.fn fn).accepted ≠ none) (hb : ¬ (s.fn fn).BadLoad)
include h ha hb

/-- A LOAD whose object fails a check ends with its status; one that does not verify leaves an audit record. -/
theorem load_fails {status : Nat} (hs : objectStatus (s.loadFile fn) ((s.fn fn).arg 1).toNat (s.loadVerified fn)
    ((s.fn fn).accepted.getD 0#128) = some status) : exec (.load fn) s = .next (State.outcome
      (if headerGood (s.loadFile fn) ((s.fn fn).arg 1).toNat && !s.loadVerified fn then
        s.audit 7 ((s.fn fn).arg 4).toNat 0xFF [(s.fn fn).arg 0, (s.fn fn).arg 3] else s) fn status []) := by
  obtain ⟨v, hv⟩ := Option.ne_none_iff_exists'.mp ha
  have hchecks : firstStatus (s.fn fn).loadChecks = none :=
    firstStatus_none fun e he => Bool.eq_false_iff.mpr fun ht => hb (HostFn.badLoad_iff.mpr ⟨e, he, ht⟩)
  rw [exec_load, execLoad]
  refine (command_runs h ((firstStatus_next (by rw [hv]; rfl)).trans hchecks)).trans ?_
  unfold State.loadVerified State.loadFile at hs
  dsimp only
  rw [hs]
  rfl

theorem load_loads (hs : objectStatus (s.loadFile fn) ((s.fn fn).arg 1).toNat (s.loadVerified fn)
    ((s.fn fn).accepted.getD 0#128) = none) :
    exec (.load fn) s = .next (s.loadObject fn ((s.fn fn).arg 4).toNat ((s.fn fn).arg 5).toNat (s.loadFile fn)) := by
  obtain ⟨v, hv⟩ := Option.ne_none_iff_exists'.mp ha
  have hchecks : firstStatus (s.fn fn).loadChecks = none :=
    firstStatus_none fun e he => Bool.eq_false_iff.mpr fun ht => hb (HostFn.badLoad_iff.mpr ⟨e, he, ht⟩)
  rw [exec_load, execLoad]
  refine (command_runs h ((firstStatus_next (by rw [hv]; rfl)).trans hchecks)).trans ?_
  unfold State.loadVerified State.loadFile at hs
  dsimp only
  rw [hs]
  rfl

end Load

/-! ## UNLOAD -/

/-- A team whose image is left without its object. -/
def Team.orphaned (t : Team) : Team := { t with orphan := t.orphan || t.st = .saved }

theorem foldl_orphan (l : List Nat) (s : State) :
    let t := l.foldl State.orphan s
    t = { s with launches := t.launches } ∧
      ∀ m i, (t.launch m).team i = if m ∈ l then ((s.launch m).team i).orphaned else (s.launch m).team i := by
  induction l generalizing s with
  | nil => exact ⟨rfl, fun _ _ => rfl⟩
  | cons k l ih =>
    obtain ⟨honly, hteam⟩ := ih (s.orphan k)
    have hk (m i : Nat) : ((s.orphan k).launch m).team i = if m = k then ((s.launch m).team i).orphaned else (s.launch m).team i := by
      split
      · next h =>
        subst h
        rw [State.orphan, State.launch_modLaunch_same]
        exact fget_map ({} : Team) Team.orphaned _ i
      · next h => rw [State.orphan, State.launch_modLaunch_ne _ _ _ _ h]
    refine ⟨?_, fun m i => ?_⟩
    · rw [List.foldl_cons, honly]; rfl
    · rw [List.foldl_cons, hteam, hk]
      by_cases hm : m = k
      · by_cases hl : m ∈ l <;> simp [hm, Team.orphaned]
      · simp [hm]

/-- The granules of a list are on their way to another owner: their windows are emptied, and translations go. -/
theorem foldl_beginGranule (l : List Nat) (s : State) :
    let t := l.foldl State.beginGranule s
    t = { s with cores := t.cores, quarters := t.quarters, ms := { s.ms with owners := t.ms.owners }
                 pf := { s.pf with fns := t.pf.fns } } ∧
      (∀ k e, e ∈ (t.core k).tlb → e ∈ (s.core k).tlb) ∧ (∀ q e, e ∈ (t.quarter q).tlb → e ∈ (s.quarter q).tlb) ∧
      (∀ g, g ∈ l ∨ (s.granule g).getLsbD 5 = true → (t.granule g).getLsbD 5 = true) ∧
      ∀ m, t.fn m = { s.fn m with winmap := (s.fn m).winmap.filter fun w => l.all fun g => w.2 != some (g * granuleSize) } := by
  induction l generalizing s with
  | nil =>
    refine ⟨rfl, fun _ _ => id, fun _ _ => id, fun g h => h.resolve_left List.not_mem_nil, fun m => ?_⟩
    simp
  | cons n l ih =>
    obtain ⟨honly, hcore, hquarter, hgranule, hfn⟩ := ih (s.beginGranule n)
    obtain ⟨-, -, sgranule, ⟨score, squarter⟩, -⟩ := beginGranule_leaves s n
    refine ⟨?_, fun k e he => ((score k e).mp (hcore k e he)).1, fun q e he => ((squarter q e).mp (hquarter q e he)).1,
      fun g hg => hgranule g ?_, fun m => (hfn m).trans ?_⟩
    · rw [List.foldl_cons, honly]; rfl
    · rw [sgranule]
      by_cases hn : g = n
      · subst hn
        rw [if_pos rfl]
        simp
      · rw [if_neg hn]
        exact hg.imp_left fun h => (List.mem_cons.mp h).resolve_left hn
    · have hs : (s.beginGranule n).fn m = { s.fn m with winmap := (s.fn m).winmap.filter fun w => w.2 != some (n * granuleSize) } :=
        fget_map ({} : HostFn) (fun f => { f with winmap := f.winmap.filter fun w => w.2 != some (n * granuleSize) }) s.pf.fns m
      rw [hs]
      simp only [List.filter_filter, List.all_cons]
      congr 2
      funext w
      rw [Bool.and_comm]

/-- No window shows a granule of the list. -/
theorem winmap_unlisted {m : FMap (Option Nat)} {l : List Nat} {g k : Nat} (hg : g ∈ l) :
    fget none (m.filter fun w => l.all fun g => w.2 != some (g * granuleSize)) k ≠ some (g * 0x20000000) := by
  intro h
  obtain hm | hd := fget_listed none (m.filter fun w => l.all fun g => w.2 != some (g * granuleSize)) k
  · have hall := List.all_eq_true.mp (List.mem_filter.mp hm).2 g hg
    rw [h] at hall
    simp [granuleSize] at hall
  · rw [h] at hd
    cases hd

/-- A translation of a tenant space into a virtual range. -/
def Tlb.Inside (e : Tlb) (tenant base len : Nat) : Prop :=
  let size := if e.big = true then 0x20000000 else 0x10000
  e.tenant = tenant ∧ e.page * size < base + len ∧ base < e.page * size + size

theorem within_iff {e : Tlb} {tenant base len : Nat} : e.within tenant base len = true ↔ e.Inside tenant base len := by
  simp only [Tlb.within, Bool.and_eq_true, decide_eq_true_iff, and_assoc]
  rfl

/-- No TLB holds a translation of a tenant space into a virtual range. -/
def State.Forgotten (s : State) (tenant base len : Nat) : Prop :=
  (∀ k e, e ∈ (s.core k).tlb → ¬ e.Inside tenant base len) ∧ ∀ q e, e ∈ (s.quarter q).tlb → ¬ e.Inside tenant base len

theorem dropTlbs_forgotten (s : State) (tenant base len : Nat) :
    (s.dropTlbs fun e => e.within tenant base len).Forgotten tenant base len := by
  refine ⟨fun k e he hin => ?_, fun q e he hin => ?_⟩
  · rw [dropTlbs_core] at he
    simp [within_iff.mpr hin] at he
  · rw [dropTlbs_quarter] at he
    simp [within_iff.mpr hin] at he

/-- Translations do not come where TLBs only lose them. -/
theorem forgotten_of {s t : State} {tenant base len : Nat} (h : s.Forgotten tenant base len)
    (hc : ∀ k e, e ∈ (t.core k).tlb → e ∈ (s.core k).tlb) (hq : ∀ q e, e ∈ (t.quarter q).tlb → e ∈ (s.quarter q).tlb) :
    t.Forgotten tenant base len :=
  ⟨fun k e he => h.1 k e (hc k e he), fun q e he => h.2 q e (hq q e he)⟩

theorem dropFetch_forgotten {s : State} {tenant base len : Nat} (gone : Nat → Nat → Bool) (h : s.Forgotten tenant base len) :
    (s.dropFetch gone).Forgotten tenant base len := by
  obtain ⟨honly, -, hcore⟩ := dropFetch_leaves s gone
  refine forgotten_of h (fun k e he => ?_) fun q e he => ?_
  · rw [hcore] at he; exact he
  · rw [honly] at he; exact he

/-- What the removal of an object leaves. -/
structure State.Removes (s t : State) (o : Object) : Prop where
  fn : ∀ m, t.fn m = { s.fn m with winmap := (t.fn m).winmap }
  ctx : ∀ c, t.ctx c = (s.ctx c).dropLine o.holds
  launch : ∀ m, t.launch m = s.launch m
  objects : t.pf.objects = s.pf.objects.filter fun x => x.handle != o.handle
  forgotten : t.Forgotten o.tenant o.bundleVa (o.pages * 0x10000)
  granules : ∀ g, g ∈ o.home → (t.granule g).getLsbD 5 = true ∧ ∀ m k, fget none (t.fn m).winmap k ≠ some (g * 0x20000000)

theorem removeObject_removes (s : State) (o : Object) : s.Removes (s.removeObject o) o := by
  let u := o.map.foldl (fun s x => s.unmapPage o.tenant x.1) s
  let v := u.dropTlbs fun e => e.within o.tenant o.bundleVa (o.pages * 0x10000)
  let w := v.dropFetch o.holds
  have hdef : s.removeObject o = (o.home.foldl State.beginGranule w).modPf fun p =>
    { p with objects := p.objects.filter fun x => x.handle != o.handle } := rfl
  obtain ⟨hu, -⟩ : s.Stores u := stores_foldl _ (fun _ _ => unmapPage_stores ..) o.map s
  obtain ⟨hw, hctx, -⟩ := dropFetch_leaves v o.holds
  obtain ⟨hbegin, hcore, hquarter, hgranule, hfn⟩ := foldl_beginGranule o.home w
  have hwpf : w.pf = { s.pf with tablePage := u.pf.tablePage } := by
    rw [show w.pf = v.pf by rw [show w = _ from hw], show v.pf = u.pf from rfl, hu]
  have hwfn (m : Nat) : w.fn m = s.fn m := by rw [State.fn, hwpf]; rfl
  have hforgotten : w.Forgotten o.tenant o.bundleVa (o.pages * 0x10000) :=
    dropFetch_forgotten _ (dropTlbs_forgotten u o.tenant o.bundleVa (o.pages * 0x10000))
  rw [hdef]
  refine ⟨fun m => ?_, fun c => ?_, fun m => ?_, ?_, ?_, fun g hg => ⟨?_, fun m k => ?_⟩⟩
  · change (o.home.foldl State.beginGranule w).fn m = { s.fn m with winmap := ((o.home.foldl State.beginGranule w).fn m).winmap }
    rw [hfn, hwfn]
  · change (o.home.foldl State.beginGranule w).ctx c = _
    rw [hbegin]
    refine (hctx c).trans ?_
    rw [show v.ctx c = u.ctx c from rfl, hu]
    rfl
  · change (o.home.foldl State.beginGranule w).launch m = _
    rw [hbegin]
    change w.launch m = _
    rw [show w = _ from hw]
    change u.launch m = _
    rw [hu]
    rfl
  · change (o.home.foldl State.beginGranule w).pf.objects.filter _ = _
    rw [hbegin, hwpf]
  · exact forgotten_of hforgotten hcore hquarter
  · exact hgranule g (.inl hg)
  · change fget none ((o.home.foldl State.beginGranule w).fn m).winmap k ≠ _
    rw [hfn]
    exact winmap_unlisted hg

section Unload
variable {s : State} {fn : Nat}

/-- The object that a command's first argument names, of a tenant space of its function (R133, R191). -/
def State.NamesObject (s : State) (fn : Nat) (o : Object) : Prop :=
  s.object ((s.fn fn).arg 0) = some o ∧ o.tenant ∈ (s.fn fn).tenants

theorem named_some {o : Object} (h : s.NamesObject fn o) :
    (s.object ((s.fn fn).arg 0)).filter (fun o => (s.fn fn).tenants.contains o.tenant) = some o :=
  Option.filter_eq_some_iff.mpr ⟨h.1, by simpa using h.2⟩

theorem named_none (h : ∀ o, ¬ s.NamesObject fn o) :
    (s.object ((s.fn fn).arg 0)).filter (fun o => (s.fn fn).tenants.contains o.tenant) = none := by
  rw [Option.filter_eq_none_iff]
  intro o ho ht
  exact h o ⟨ho, by simpa using ht⟩

variable (h : s.Runs fn 4)
include h

theorem unload_unnamed (hb : (s.fn fn).began = none) (ho : ∀ o, ¬ s.NamesObject fn o) :
    exec (.unload fn) s = .next (s.outcome fn 0x11 []) := by
  rw [exec_unload, execUnload]
  exact command_refused h (by rw [hb, named_none ho]; rfl)

theorem unload_busy {o : Object} (hb : (s.fn fn).began = none) (ho : s.NamesObject fn o)
    (hbusy : ((s.launchesOf ((s.fn fn).arg 0)).any s.needsObject || s.posted ((s.fn fn).arg 0)) = true ∨
      (!((s.fn fn).arg 1).getLsbD 0 && (s.launchesOf ((s.fn fn).arg 0)).any s.savedImages) = true) :
    exec (.unload fn) s = .next (s.outcome fn 0x10 []) := by
  have hchecks : firstStatus [((s.launchesOf ((s.fn fn).arg 0)).any s.needsObject || s.posted ((s.fn fn).arg 0), 0x10),
      (!((s.fn fn).arg 1).getLsbD 0 && (s.launchesOf ((s.fn fn).arg 0)).any s.savedImages, 0x10)] = some 0x10 := by
    refine firstStatus_some (by simp) ?_
    obtain hbusy | hbusy := hbusy
    · exact ⟨_, List.mem_cons_self, hbusy⟩
    · exact ⟨_, List.mem_cons_of_mem _ List.mem_cons_self, hbusy⟩
  rw [exec_unload, execUnload]
  exact command_refused h (by rw [hb, named_some ho]; exact hchecks)

theorem unload_removes {o : Object} (hb : (s.fn fn).began = none) (ho : s.NamesObject fn o)
    (hbusy : ((s.launchesOf ((s.fn fn).arg 0)).any s.needsObject || s.posted ((s.fn fn).arg 0)) = false)
    (hsaved : (!((s.fn fn).arg 1).getLsbD 0 && (s.launchesOf ((s.fn fn).arg 0)).any s.savedImages) = false) :
    exec (.unload fn) s = .next ((((s.launchesOf ((s.fn fn).arg 0)).foldl State.orphan s).removeObject o).modFn fn fun f =>
      { f with began := some s.cycle, removing := f.removing ++ o.home }) := by
  rw [exec_unload, execUnload]
  refine (command_runs h ?_).trans ?_
  · rw [hb, named_some ho]
    exact (firstStatus_next (n := 0x10) hbusy).trans (firstStatus_next hsaved)
  · rw [hb, named_some ho]

theorem unload_waits {n g : Nat} (hb : (s.fn fn).began = some n) (hg : g ∈ (s.fn fn).removing)
    (ho : s.outstanding (g * 0x20000000) 0x20000000 = true) : exec (.unload fn) s = .next s := by
  have hany : ((s.fn fn).removing.any fun n => s.outstanding (n * granuleSize) granuleSize) = true :=
    List.any_eq_true.mpr ⟨g, hg, ho⟩
  rw [exec_unload, execUnload]
  refine (command_runs h (by rw [hb]; rfl)).trans ?_
  rw [hb]
  exact congrArg Host.Outcome.next (if_pos hany)

theorem unload_ends {n : Nat} (hb : (s.fn fn).began = some n)
    (ho : ∀ g, g ∈ (s.fn fn).removing → s.outstanding (g * 0x20000000) 0x20000000 = false) :
    exec (.unload fn) s = .next ((((s.fn fn).removing.foldl (fun s n => s.endGranule n 0x1F#5) s).modFn fn fun f =>
      { f with removing := [] }).outcome fn 1 []) := by
  have hany : ¬ ((s.fn fn).removing.any fun n => s.outstanding (n * granuleSize) granuleSize) = true := by
    rw [List.any_eq_true]
    rintro ⟨g, hg, hout⟩
    exact absurd ((ho g hg).symm.trans hout) Bool.false_ne_true
  rw [exec_unload, execUnload]
  refine (command_runs h (by rw [hb]; rfl)).trans ?_
  rw [hb]
  exact congrArg Host.Outcome.next (if_neg hany)

end Unload

/-- Granules that become unassigned are zeroed. -/
theorem foldl_endGranule (l : List Nat) (s : State) :
    let t := l.foldl (fun s n => s.endGranule n 0x1F#5) s
    t = { s with mem := t.mem, ms := t.ms } ∧ (∀ g, t.granule g = if g ∈ l then 0x1F#8 else s.granule g) ∧
      ∀ a, mget t.mem a = if a / 0x20000000 ∈ l then 0#8 else mget s.mem a := by
  induction l generalizing s with
  | nil => exact ⟨rfl, fun _ => rfl, fun _ => rfl⟩
  | cons n l ih =>
    obtain ⟨honly, hgranule, hmem⟩ := ih (s.endGranule n 0x1F#5)
    obtain ⟨⟨hzero, hrest, -⟩, sgranule⟩ := endGranule_leaves s n 0x1F#5
    refine ⟨?_, fun g => ?_, fun a => ?_⟩
    · rw [List.foldl_cons, honly]; rfl
    · rw [List.foldl_cons, hgranule, sgranule]
      by_cases hn : g = n
      · simp [hn]
      · simp [hn]
    · rw [List.foldl_cons, hmem]
      by_cases ha : a / 0x20000000 = n
      · rw [hzero a (by omega) (by omega)]
        simp [ha]
      · rw [hrest a (by omega)]
        simp [ha]

/-! ## INVAL (R22, R23) -/

/-- A line of a tenant space that lies in a virtual range. -/
def lineIn (tenant base len : Nat) (u n : Nat) : Bool := u = tenant && decide (base ≤ n * 128) && decide (n * 128 < base + len)

/-- A context asks anew for what walks refused its tenant. -/
def Ctx.asksAnew (x : Ctx) (tenant : Nat) : Ctx := if x.tenant = tenant then { x with walkFail := [] } else x

/-- A core's drays ask anew for what walks refused their tenant. -/
def CoreState.asksAnew (k : CoreState) (tenant : Nat) : CoreState :=
  { k with drays := k.drays.map fun (d : Nat × Dray) => (d.1, d.2.forget tenant) }

theorem Ctx.asksAnew_eq (x : Ctx) (tenant : Nat) : x.asksAnew tenant = { x with walkFail := (x.asksAnew tenant).walkFail } := by
  unfold Ctx.asksAnew
  split <;> rfl

/-- What goes with the translations of a range: no more than the lines fetched through them, and what walks refused. -/
theorem invalidate_leaves (s : State) (tenant base len : Nat) :
    let t := s.invalidate tenant base len
    t = { s with ctxs := t.ctxs, cores := t.cores, quarters := t.quarters, ms := { s.ms with plaza := t.ms.plaza } } ∧
      (∀ c, t.ctx c = ((s.ctx c).dropLine (lineIn tenant base len)).asksAnew tenant) ∧
      (∀ k, (t.core k).l1i = ((s.core k).dropLines (lineIn tenant base len)).l1i ∧ (t.core k).scratch = (s.core k).scratch) ∧
      t.Forgotten tenant base len := by
  let u := s.dropTlbs fun e => e.within tenant base len
  let v := u.dropFetch (lineIn tenant base len)
  obtain ⟨honly, hctx, hcore⟩ := dropFetch_leaves u (lineIn tenant base len)
  have hctxs : (s.invalidate tenant base len).ctxs = v.ctxs.map fun e => (e.1, e.2.asksAnew tenant) := by
    refine List.map_congr_left fun e _ => ?_
    unfold Ctx.asksAnew
    split <;> rfl
  have htcore (k : Nat) : (s.invalidate tenant base len).core k = (v.core k).asksAnew tenant :=
    fget_map (freshCore k) (fun k : CoreState => k.asksAnew tenant) v.cores k
  have hforgotten : v.Forgotten tenant base len := dropFetch_forgotten _ (dropTlbs_forgotten s tenant base len)
  refine ⟨?_, fun c => ?_, fun k => ?_, forgotten_of hforgotten (fun k e he => ?_) fun q e he => he⟩
  · have hv : v = { s with ctxs := v.ctxs, cores := v.cores, quarters := v.quarters, ms := { s.ms with plaza := v.ms.plaza } } := by
      rw [show v = _ from honly]; rfl
    change { v with ctxs := (s.invalidate tenant base len).ctxs, cores := (s.invalidate tenant base len).cores } = _
    rw [hv]
    rfl
  · rw [State.ctx, hctxs, fget_map ({} : Ctx) (fun x : Ctx => x.asksAnew tenant) v.ctxs c (ite_self _)]
    exact congrArg (fun x : Ctx => x.asksAnew tenant) (hctx c)
  · rw [htcore, show v.core k = _ from hcore k, show u.core k = _ from dropTlbs_core ..]
    exact ⟨rfl, rfl⟩
  · rw [htcore] at he
    exact he

theorem invalidate_sameBytes (s : State) (tenant base len : Nat) : s.SameBytes (s.invalidate tenant base len) := by
  obtain ⟨honly, -, hcore, -⟩ := invalidate_leaves s tenant base len
  exact ⟨fun a => by rw [honly], fun a => by rw [honly], fun k a => by rw [(hcore k).2]⟩

section Inval
variable {s : State} {fn : Nat}

/-- The start of the range that an INVAL names. -/
def HostFn.invalBase (f : HostFn) : Nat := if f.arg 2 = 0#64 then 0 else (f.arg 1).toNat

variable (h : s.Runs fn 5)
include h

theorem inval_refused (hb : (s.fn fn).foreign ((s.fn fn).arg 0) = true ∨ ((s.fn fn).arg 1).toNat % 0x10000 ≠ 0 ∨
    2 ^ 55 < (s.fn fn).invalBase + invalLength ((s.fn fn).arg 2)) : exec (.inval fn) s = .next (s.outcome fn 0x11 []) := by
  have hchecks : firstStatus [((s.fn fn).foreign ((s.fn fn).arg 0), 0x11), (((s.fn fn).arg 1).toNat % 0x10000 != 0, 0x11),
      (decide (2 ^ 55 < (s.fn fn).invalBase + invalLength ((s.fn fn).arg 2)), 0x11)] = some 0x11 :=
    firstStatus_some (by simp) (by simpa using hb)
  rw [exec_inval, execInval]
  exact command_refused h hchecks

variable (hf : (s.fn fn).foreign ((s.fn fn).arg 0) = false) (ha : ((s.fn fn).arg 1).toNat % 0x10000 = 0)
  (hl : (s.fn fn).invalBase + invalLength ((s.fn fn).arg 2) ≤ 2 ^ 55)
include hf ha hl

omit h in
theorem inval_checks : firstStatus [((s.fn fn).foreign ((s.fn fn).arg 0), 0x11), (((s.fn fn).arg 1).toNat % 0x10000 != 0, 0x11),
    (decide (2 ^ 55 < (s.fn fn).invalBase + invalLength ((s.fn fn).arg 2)), 0x11)] = none :=
  firstStatus_none (by simpa [hf, ha] using hl)

theorem inval_begins (hb : (s.fn fn).began = none) : exec (.inval fn) s = .next ((s.invalidate ((s.fn fn).arg 0).toNat
    (s.fn fn).invalBase (invalLength ((s.fn fn).arg 2))).modFn fn fun f => { f with began := some s.cycle }) := by
  rw [exec_inval, execInval]
  refine (command_runs h (inval_checks hf ha hl)).trans ?_
  rw [hb]
  rfl

theorem inval_waits {n : Nat} (hb : (s.fn fn).began = some n) (ho : s.oldAccess ((s.fn fn).arg 0).toNat (s.fn fn).invalBase
    (invalLength ((s.fn fn).arg 2)) n = true) : exec (.inval fn) s = .next s := by
  rw [exec_inval, execInval]
  refine (command_runs h (inval_checks hf ha hl)).trans ?_
  rw [hb]
  exact congrArg Host.Outcome.next (if_pos ho)

theorem inval_ends {n : Nat} (hb : (s.fn fn).began = some n) (ho : s.oldAccess ((s.fn fn).arg 0).toNat (s.fn fn).invalBase
    (invalLength ((s.fn fn).arg 2)) n = false) : exec (.inval fn) s = .next (s.outcome fn 1 []) := by
  rw [exec_inval, execInval]
  refine (command_runs h (inval_checks hf ha hl)).trans ?_
  rw [hb]
  exact congrArg Host.Outcome.next (if_neg (fun ht => absurd (ho.symm.trans ht) Bool.false_ne_true))

end Inval

end Sys2Proof.Machine

/-! # Proofs: keys, the end of a tenant space, updates and adoption (R36–R38, R191, R342) -/

namespace Sys2Proof.Machine

theorem exec_keyimport (fn : Nat) (s : State) : exec (.keyimport fn) s = execKeyimport fn s := rfl
theorem exec_tenantend (fn : Nat) (s : State) : exec (.tenantend fn) s = execTenantend fn s := rfl
theorem exec_update (fn : Nat) (s : State) : exec (.update fn) s = execUpdate fn s := rfl
theorem exec_updateTakeover (s : State) : exec .updateTakeover s = execUpdateTakeover s := rfl
theorem exec_imgadopt (fn : Nat) (s : State) : exec (.imgadopt fn) s = execImgadopt fn s := rfl

/-! ## KEYIMPORT (R36, R37) -/

section Keyimport
variable {s : State} {fn : Nat}

/-- The key that a KEYIMPORT brings, where it unwraps. -/
def State.importedKey (s : State) (fn : Nat) : Option (BitVec 256) := Config.unwrapKey (s.hostRead ((s.fn fn).arg 1) 40)

/-- A key slot after an import: the same key again keeps its counter. -/
def KeySlot.imported (slot : KeySlot) (key : BitVec 256) : KeySlot := if slot.key = some key then slot else { key := some key, counter := 0 }

/-- A tenant space's slot takes a key. -/
def State.importKey (s : State) (tenant : Nat) (key : BitVec 256) : State :=
  s.modPf fun p => { p with keys := fput p.keys tenant (KeySlot.imported (fget {} p.keys tenant) key) }

variable (h : s.Runs fn 0x0C)
include h

theorem keyimport_refused (hb : (s.fn fn).foreign ((s.fn fn).arg 0) = true ∨ outOfHost ((s.fn fn).arg 1) 40 = true ∨
    s.importedKey fn = none) : exec (.keyimport fn) s = .next (s.outcome fn 0x11 []) := by
  have hchecks : firstStatus [((s.fn fn).foreign ((s.fn fn).arg 0), 0x11), (outOfHost ((s.fn fn).arg 1) 40, 0x11),
      ((s.importedKey fn).isNone, 0x11)] = some 0x11 := firstStatus_some (by simp) (by simpa using hb)
  rw [exec_keyimport, execKeyimport]
  exact command_refused h hchecks

theorem keyimport_imports {key : BitVec 256} (hf : (s.fn fn).foreign ((s.fn fn).arg 0) = false)
    (ho : outOfHost ((s.fn fn).arg 1) 40 = false) (hk : s.importedKey fn = some key) : exec (.keyimport fn) s =
      .next (((s.importKey ((s.fn fn).arg 0).toNat key).audit 5 ((s.fn fn).arg 0).toNat 0xFF []).outcome fn 1 []) := by
  have hchecks : firstStatus [((s.fn fn).foreign ((s.fn fn).arg 0), 0x11), (outOfHost ((s.fn fn).arg 1) 40, 0x11),
      ((s.importedKey fn).isNone, 0x11)] = none := firstStatus_none (by simp [hf, ho, hk])
  rw [exec_keyimport, execKeyimport]
  refine (command_runs h hchecks).trans ?_
  rw [show Config.unwrapKey (s.hostRead ((s.fn fn).arg 1) 40) = some key from hk]
  rfl

end Keyimport

/-! ## The end of a tenant space (R38) -/

theorem foldl_condemn (l : List Nat) (s : State) :
    let t := l.foldl State.condemn s
    t = { s with launches := t.launches } ∧ ∀ m, m ∈ l ∨ (s.launch m).killing = true → (t.launch m).killing = true := by
  induction l generalizing s with
  | nil => exact ⟨rfl, fun m h => h.resolve_left List.not_mem_nil⟩
  | cons n l ih =>
    obtain ⟨honly, hkill⟩ := ih (s.condemn n)
    refine ⟨?_, fun m hm => hkill m ?_⟩
    · rw [List.foldl_cons, honly]; rfl
    · by_cases hn : m = n
      · subst hn
        exact .inr (by rw [condemn_launch])
      · rw [State.condemn, State.launch_modLaunch_ne _ _ _ _ hn]
        exact hm.imp_left fun h => (List.mem_cons.mp h).resolve_left hn

/-- A queue of a tenant space that ends. -/
def Queue.endedFor (q : Queue) (tenant : Nat) : Queue := if q.tenant = tenant then { q with bound := false, mapped := false } else q

/-- The first step: the tenant's launches are ended, and its queues post no more. -/
theorem endLaunches_leaves (s : State) (t : Nat) :
    let w := s.endLaunches t
    w = { s with launches := w.launches, pf := { s.pf with queues := w.pf.queues } } ∧
      (∀ l, l ∈ s.launchesIn t → (w.launch l).killing = true) ∧ ∀ q, w.queue q = (s.queue q).endedFor t := by
  obtain ⟨honly, hkill⟩ := foldl_condemn (s.launchesIn t) s
  refine ⟨?_, fun l hl => hkill l (.inl hl), fun q => ?_⟩
  · rw [State.endLaunches, honly]; rfl
  · have hqueues : (s.endLaunches t).pf.queues = s.pf.queues.map fun e => (e.1, e.2.endedFor t) := by
      rw [State.endLaunches, honly]
      refine List.map_congr_left fun e _ => ?_
      unfold Queue.endedFor
      split <;> rfl
    rw [State.queue, hqueues]
    exact fget_map ({} : Queue) (fun q => q.endedFor t) s.pf.queues q (ite_self _)

/-- Storage has been given up: what was zero is zero, and the device's own registers change in the windows of functions
alone. -/
structure State.Frees (s t : State) : Prop where
  tick : t.tick = s.tick
  pf : t.pf = { s.pf with fns := t.pf.fns }
  zero : ∀ a, mget s.mem a = 0#8 → mget t.mem a = 0#8

theorem frees_refl (s : State) : s.Frees s := ⟨rfl, rfl, fun _ => id⟩

theorem frees_trans {s t u : State} (h : s.Frees t) (k : t.Frees u) : s.Frees u :=
  ⟨k.tick.trans h.tick, by rw [k.pf, h.pf], fun a ha => k.zero a (h.zero a ha)⟩

theorem frees_of_mclear {s t : State} {b l : Nat} (ht : t.tick = s.tick) (hp : t.pf = s.pf) (hm : t.mem = mclear s.mem b l) :
    s.Frees t := by
  refine ⟨ht, by rw [hp], fun a ha => ?_⟩
  rw [hm, mget_mclear, ha, ite_self]

theorem freeGranule_frees (s : State) (n : Nat) : s.Frees ((s.beginGranule n).endGranule n 0x1F#5) :=
  frees_trans (t := s.beginGranule n) ⟨rfl, rfl, fun _ => id⟩ (frees_of_mclear rfl rfl rfl)

theorem beginWindow_frees (s : State) (base len : Nat) : s.Frees (s.beginWindow base len) := by
  unfold State.beginWindow
  dsimp only
  split <;> exact ⟨rfl, rfl, fun _ => id⟩

theorem endWindow_frees (s : State) (base len : Nat) (owner : BitVec 5) : s.Frees (s.endWindow base len owner) := by
  unfold State.endWindow
  dsimp only
  split <;> exact frees_of_mclear rfl rfl rfl

theorem beginWindow_owners (s : State) (base len : Nat) : (s.beginWindow base len).ms.owners = s.ms.owners := by
  unfold State.beginWindow
  dsimp only
  split <;> rfl

theorem endWindow_owners (s : State) (base len : Nat) (owner : BitVec 5) :
    (s.endWindow base len owner).ms.owners = s.ms.owners := by
  unfold State.endWindow
  dsimp only
  split <;> rfl

/-- Storage of other kinds is given up, and the ownership map stays. -/
theorem foldl_frees {α : Type} (f : State → α → State) (hf : ∀ (s : State) (a : α), s.Frees (f s a) ∧ (f s a).ms.owners = s.ms.owners)
    (l : List α) (s : State) : s.Frees (l.foldl f s) ∧ (l.foldl f s).ms.owners = s.ms.owners := by
  induction l generalizing s with
  | nil => exact ⟨frees_refl s, rfl⟩
  | cons a l ih =>
    obtain ⟨hfrees, howners⟩ := ih (f s a)
    exact ⟨frees_trans (hf s a).1 hfrees, howners.trans (hf s a).2⟩

/-- Granules that are given up become unassigned and zero. -/
theorem foldl_freeGranule (l : List Nat) (s : State) :
    let t := l.foldl (fun s n => (s.beginGranule n).endGranule n 0x1F#5) s
    s.Frees t ∧ (∀ g, g ∈ l ∨ s.granule g = 0x1F#8 → t.granule g = 0x1F#8) ∧
      ∀ a, a / 0x20000000 ∈ l → mget t.mem a = 0#8 := by
  induction l generalizing s with
  | nil => exact ⟨frees_refl s, fun g h => h.resolve_left List.not_mem_nil, nofun⟩
  | cons n l ih =>
    obtain ⟨hfrees, hgranule, hzero⟩ := ih ((s.beginGranule n).endGranule n 0x1F#5)
    obtain ⟨⟨ezero, -⟩, egranule⟩ := endGranule_leaves (s.beginGranule n) n 0x1F#5
    obtain ⟨-, -, bgranule, -⟩ := beginGranule_leaves s n
    refine ⟨frees_trans (freeGranule_frees s n) hfrees, fun g hg => hgranule g ?_, fun a ha => ?_⟩
    · by_cases hn : g = n
      · exact .inr ((egranule g).trans (if_pos hn))
      · rw [egranule, if_neg hn, bgranule, if_neg hn]
        exact hg.imp_left fun h => (List.mem_cons.mp h).resolve_left hn
    · by_cases hn : a / 0x20000000 = n
      · exact hfrees.zero a (ezero a (by omega) (by omega))
      · exact hzero a ((List.mem_cons.mp ha).resolve_left hn)

theorem mem_granulesOf {s : State} {t g : Nat} (ht : t < 16) (h : ((s.granule g).extractLsb' 0 5).toNat = t) :
    g ∈ s.granulesOf t := by
  obtain hm | hd := fget_listed 0x1F#8 s.ms.owners g
  · exact List.mem_map.mpr ⟨_, List.mem_filter.mpr ⟨hm, decide_eq_true h⟩, rfl⟩
  · rw [State.granule, hd] at h
    exact absurd ((show ((0x1F#8).extractLsb' 0 5).toNat = 31 by decide).symm.trans h) (by omega)

/-- What a tenant space owned becomes unassigned and zero. -/
theorem disown_leaves (s : State) (t : Nat) :
    let w := s.disown t
    s.Frees w ∧ ∀ g, g ∈ s.granulesOf t → w.granule g = 0x1F#8 ∧ ∀ a, a / 0x20000000 = g → mget w.mem a = 0#8 := by
  let u := (s.granulesOf t).foldl (fun s n => (s.beginGranule n).endGranule n 0x1F#5) s
  let v := (u.ms.windows.filter fun w => w.owner = t).foldl
    (fun s w => (s.beginWindow w.base w.length).endWindow w.base w.length 0x1F#5) u
  obtain ⟨hu, hgranule, hzero⟩ := foldl_freeGranule (s.granulesOf t) s
  obtain ⟨hv, vowners⟩ := foldl_frees (fun s (w : Window) => (s.beginWindow w.base w.length).endWindow w.base w.length 0x1F#5)
    (fun s w => ⟨frees_trans (beginWindow_frees s w.base w.length) (endWindow_frees _ _ _ _),
      (endWindow_owners _ _ _ _).trans (beginWindow_owners s w.base w.length)⟩) (u.ms.windows.filter fun w => w.owner = t) u
  obtain ⟨hw, wowners⟩ := foldl_frees (fun s (e : Nat × BitVec 8) => s.grantBlock (e.1 / 28) (e.1 % 28) 0x1F#5)
    (fun s e => ⟨⟨rfl, rfl, fun _ => id⟩, rfl⟩) (v.ms.grants.filter fun e => (e.2.extractLsb' 0 5).toNat = t) v
  refine ⟨frees_trans hu (frees_trans hv hw), fun g hg => ⟨?_, fun a ha => ?_⟩⟩
  · exact (granule_congr (wowners.trans vowners) g).trans (hgranule g (.inl hg))
  · exact hw.zero a (hv.zero a (hzero a (ha ▸ hg)))

/-- What the end of a tenant space leaves. -/
structure State.Retires (s w : State) (t : Nat) : Prop where
  audits : s.Audits w 4 t 0xFF []
  tenants : ∀ m, t ∉ (w.fn m).tenants
  key : (fget {} w.pf.keys t : KeySlot) = {}
  root : fget none w.ms.xlbase t = none
  objects : ∀ x, x ∈ w.pf.objects → x.tenant ≠ t
  forgotten : w.Forgotten t 0 (2 ^ 55)
  granules : ∀ g, g ∈ s.granulesOf t → w.granule g = 0x1F#8 ∧ ∀ a, a / 0x20000000 = g → mget w.mem a = 0#8

/-- A function that holds a tenant space no more. -/
def HostFn.without (f : HostFn) (t : Nat) : HostFn := { f with tenants := f.tenants.filter (· != t) }

/-- The translations and the lines of a tenant space go. -/
theorem forgetTenant_leaves (s : State) (t len : Nat) :
    let w := (s.invalidate t 0 len).dropFetch fun u _ => u = t
    w.tick = s.tick ∧ w.pf = s.pf ∧ w.mem = s.mem ∧ w.ms.owners = s.ms.owners ∧ w.Forgotten t 0 len := by
  obtain ⟨honly, -, -, hforgotten⟩ := invalidate_leaves s t 0 len
  obtain ⟨hdrop, -, -⟩ := dropFetch_leaves (s.invalidate t 0 len) fun u _ => u = t
  refine ⟨?_, ?_, ?_, ?_, dropFetch_forgotten _ hforgotten⟩ <;> rw [hdrop, honly]

/-- The last steps of the end of a tenant space, once its memory and its translations are gone. -/
def State.strikeTenant (s : State) (t : Nat) : State :=
  ((s.modMs fun m => { m with xlbase := fput m.xlbase t none, ovl := m.ovl.filter (· != t) }).modPf fun p =>
    { p with fns := p.fns.map fun (e : Nat × HostFn) => (e.1, e.2.without t) }).audit 4 t 0xFF []

/-- The key of a tenant space is zeroed, and its objects go. -/
def State.dropKey (s : State) (t : Nat) : State :=
  s.modPf fun p => { p with keys := fput p.keys t {}, objects := p.objects.filter fun o => o.tenant != t }

theorem retireTenant_eq (s : State) (t : Nat) : s.retireTenant t =
    ((((s.dropKey t).disown t).invalidate t 0 (2 ^ 55)).dropFetch fun u _ => u = t).strikeTenant t := rfl

theorem strikeTenant_retires {s d : State} {t : Nat} (htick : d.tick = s.tick) (hpf : d.pf = { (s.dropKey t).pf with fns := d.pf.fns })
    (hforgotten : d.Forgotten t 0 (2 ^ 55)) (hgranules : ∀ g, g ∈ s.granulesOf t → d.granule g = 0x1F#8 ∧
      ∀ a, a / 0x20000000 = g → mget d.mem a = 0#8) : s.Retires (d.strikeTenant t) t := by
  refine ⟨?_, fun m => ?_, ?_, fget_fput_same .., fun x hx => ?_, hforgotten, hgranules⟩
  · have haudit : d.Audits (d.strikeTenant t) 4 t 0xFF [] :=
      audits_congr (audit_audits _ 4 t 0xFF []) rfl rfl rfl rfl rfl rfl rfl
    exact audits_congr haudit (by rw [hpf]; rfl) (by rw [hpf]; rfl) (by rw [hpf]; rfl) htick rfl rfl rfl
  · have hfn : (d.strikeTenant t).fn m = (d.fn m).without t := fget_map ({} : HostFn) (fun f => f.without t) d.pf.fns m
    rw [hfn]
    simp [HostFn.without]
  · change (fget {} d.pf.keys t : KeySlot) = {}
    rw [hpf]
    exact fget_fput_same ..
  · have hx' : x ∈ d.pf.objects := hx
    rw [hpf] at hx'
    simpa using (List.mem_filter.mp hx').2

theorem retireTenant_retires (s : State) (t : Nat) : s.Retires (s.retireTenant t) t := by
  obtain ⟨hfrees, hgranules⟩ := disown_leaves (s.dropKey t) t
  obtain ⟨htick, hpf, hmem, howners, hforgotten⟩ := forgetTenant_leaves ((s.dropKey t).disown t) t (2 ^ 55)
  rw [retireTenant_eq]
  refine strikeTenant_retires (htick.trans hfrees.tick) ?_ hforgotten fun g hg => ⟨?_, fun a ha => ?_⟩
  · rw [hpf]; exact hfrees.pf
  · exact (granule_congr howners g).trans (hgranules g hg).1
  · rw [hmem]; exact (hgranules g hg).2 a ha

section Tenantend
variable {s : State} {fn : Nat} (h : s.Runs fn 0x0D)
include h

theorem tenantend_refused (hf : (s.fn fn).foreign ((s.fn fn).arg 0) = true) :
    exec (.tenantend fn) s = .next (s.outcome fn 0x11 []) := by
  rw [exec_tenantend, execTenantend]
  exact command_refused h (by rw [hf]; rfl)

variable (hf : (s.fn fn).foreign ((s.fn fn).arg 0) = false)
include hf

theorem tenantend_begins (hb : (s.fn fn).began = none) : exec (.tenantend fn) s =
    .next ((s.endLaunches ((s.fn fn).arg 0).toNat).modFn fn fun f => { f with began := some s.cycle }) := by
  rw [exec_tenantend, execTenantend]
  refine (command_runs h (by rw [hf]; rfl)).trans ?_
  rw [hb]

theorem tenantend_waits {n : Nat} (hb : (s.fn fn).began = some n) (hi : s.tenantIdle ((s.fn fn).arg 0).toNat = false) :
    exec (.tenantend fn) s = .next s := by
  rw [exec_tenantend, execTenantend]
  refine (command_runs h (by rw [hf]; rfl)).trans ?_
  rw [hb]
  exact congrArg Host.Outcome.next (if_neg (by simp [hi]))

theorem tenantend_ends {n : Nat} (hb : (s.fn fn).began = some n) (hi : s.tenantIdle ((s.fn fn).arg 0).toNat = true) :
    exec (.tenantend fn) s = .next ((s.retireTenant ((s.fn fn).arg 0).toNat).outcome fn 1 []) := by
  rw [exec_tenantend, execTenantend]
  refine (command_runs h (by rw [hf]; rfl)).trans ?_
  rw [hb]
  exact congrArg Host.Outcome.next (if_pos hi)

end Tenantend

/-! ## UPDATE (R342) -/

/-- The image and the signature that an UPDATE names. -/
def State.updateParts (s : State) (fn : Nat) : List Byte × List Byte :=
  imageParts (s.hostRead ((s.fn fn).arg 0) ((s.fn fn).arg 1).toNat)

section Update
variable {s : State} {fn : Nat} (h : s.Runs fn 0x11)
include h

theorem update_lacks (hl : (s.fn fn).lacks 6 = true) : exec (.update fn) s = .next (s.outcome fn 0x12 []) := by
  rw [exec_update, execUpdate]
  exact command_refused h (by rw [hl]; rfl)

variable (hl : (s.fn fn).lacks 6 = false)
include hl

theorem update_beyond (ho : outOfHost ((s.fn fn).arg 0) ((s.fn fn).arg 1).toNat = true) :
    exec (.update fn) s = .next (s.outcome fn 0x11 []) := by
  rw [exec_update, execUpdate]
  exact command_refused h (by rw [hl, ho]; rfl)

variable (ho : outOfHost ((s.fn fn).arg 0) ((s.fn fn).arg 1).toNat = false)
include ho

theorem update_busy {n : Nat} (hu : s.pf.updating = some n) (hn : n ≠ fn) :
    exec (.update fn) s = .next (s.outcome fn 0x10 []) := by
  have hbusy : (s.pf.updating.isSome && s.pf.updating != some fn) = true := by simp [hu, hn]
  rw [exec_update, execUpdate]
  exact command_refused h (by rw [hl, ho, hbusy]; rfl)

theorem update_waits (hu : s.pf.updating = some fn) : exec (.update fn) s = .next s := by
  have hbusy : (s.pf.updating.isSome && s.pf.updating != some fn) = false := by simp [hu]
  rw [exec_update, execUpdate]
  refine (command_runs h (by rw [hl, ho, hbusy]; rfl)).trans ?_
  exact congrArg Host.Outcome.next (if_pos hu)

variable (hu : s.pf.updating = none)
include hu

theorem update_runs : exec (.update fn) s = .next
    (if !signed Config.vendorKey (s.updateParts fn).1 (s.updateParts fn).2 then s.outcome fn 2 []
      else if !Config.stateTableAccepted (s.updateParts fn).1 then (s.extend 2 (s.updateParts fn).1).outcome fn 0x13 []
        else (s.extend 2 (s.updateParts fn).1).modPf fun q => { q with updating := some fn }) := by
  have hbusy : (s.pf.updating.isSome && s.pf.updating != some fn) = false := by simp [hu]
  rw [exec_update, execUpdate]
  refine (command_runs h (by rw [hl, ho, hbusy]; rfl)).trans ?_
  exact congrArg Host.Outcome.next (if_neg (by simp [hu]))

theorem update_unsigned (hs : signed Config.vendorKey (s.updateParts fn).1 (s.updateParts fn).2 = false) :
    exec (.update fn) s = .next (s.outcome fn 2 []) := by
  rw [update_runs h hl ho hu, if_pos (by simp [hs])]

variable (hs : signed Config.vendorKey (s.updateParts fn).1 (s.updateParts fn).2 = true)
include hs

theorem update_rejected (ht : Config.stateTableAccepted (s.updateParts fn).1 = false) :
    exec (.update fn) s = .next ((s.extend 2 (s.updateParts fn).1).outcome fn 0x13 []) := by
  rw [update_runs h hl ho hu, if_neg (by simp [hs]), if_pos (by simp [ht])]

theorem update_begins (ht : Config.stateTableAccepted (s.updateParts fn).1 = true) : exec (.update fn) s =
    .next ((s.extend 2 (s.updateParts fn).1).modPf fun q => { q with updating := some fn }) := by
  rw [update_runs h hl ho hu, if_neg (by simp [hs]), if_neg (by simp [ht])]

end Update

theorem updateTakeover_none {s : State} (hu : s.pf.updating = none) : exec .updateTakeover s = .next s := by
  rw [exec_updateTakeover, execUpdateTakeover, hu]

theorem updateTakeover_waits {s : State} {fn : Nat} (hu : s.pf.updating = some fn) (hb : s.boundary fn = false) :
    exec .updateTakeover s = .next s := by
  rw [exec_updateTakeover, execUpdateTakeover, hu]
  exact if_neg (by simp [hb])

theorem updateTakeover_takes {s : State} {fn : Nat} (hu : s.pf.updating = some fn) (hb : s.boundary fn = true) :
    exec .updateTakeover s = .next (((s.modPf fun p => { p with active := 1 - p.active, updating := none }).audit 6 0xFF 0xFF
      []).outcome fn 1 []) := by
  rw [exec_updateTakeover, execUpdateTakeover, hu]
  exact if_pos hb

/-! ## IMGADOPT (R191) -/

/-- The record that an IMGADOPT admits: the object's handle is the one named. -/
def State.adoptRecord (s : State) (fn : Nat) : LaunchRecord :=
  { bytes := toBytes 8 ((s.fn fn).arg 0).toNat ++ (s.hostRead ((s.fn fn).arg 1) 128).drop 8 }

/-- The launch that an IMGADOPT admits. -/
def State.adoptedLaunch (s : State) (fn : Nat) : Launch :=
  adopted (s.launchOf (s.adoptRecord fn) (s.levelsFor (s.adoptRecord fn)) 0xFFFF) (s.counters ((s.fn fn).arg 2) ((s.fn fn).arg 3).toNat)

/-- The checks of an IMGADOPT that names an object. -/
def State.adoptChecks (s : State) (fn : Nat) (o : Object) : List (Bool × Nat) :=
  [(outOfHost ((s.fn fn).arg 1) 128, 0x11), (outOfHost ((s.fn fn).arg 2) (8 * ((s.fn fn).arg 3).toNat), 0x11),
    (!s.reportWritable (s.adoptRecord fn), 0x11), ((s.launchStatus (s.adoptRecord fn) o.tenant).isSome, 0x11),
    (decide ((s.adoptedLaunch fn).count < ((s.fn fn).arg 3).toNat), 0x11),
    ((s.adoptedLaunch fn).teams.any fun e => (s.admitLaunch (s.adoptedLaunch fn)).imageAstray s.launchSeq e.1 o, 0x11)]

section Imgadopt
variable {s : State} {fn : Nat} (h : s.Runs fn 0x12)
include h

theorem imgadopt_unnamed (ho : ∀ o, ¬ s.NamesObject fn o) : exec (.imgadopt fn) s = .next (s.outcome fn 0x11 []) := by
  rw [exec_imgadopt, execImgadopt]
  exact command_refused h (by rw [named_none ho]; rfl)

theorem imgadopt_refused {o : Object} (ho : s.NamesObject fn o) (hc : ∃ e, e ∈ s.adoptChecks fn o ∧ e.1 = true) :
    exec (.imgadopt fn) s = .next (s.outcome fn 0x11 []) := by
  have hchecks : firstStatus (s.adoptChecks fn o) = some 0x11 := firstStatus_some (by simp [State.adoptChecks]) hc
  rw [exec_imgadopt, execImgadopt]
  exact command_refused h (by rw [named_some ho]; exact (firstStatus_next (b := (some o).isNone) (n := 0x11) rfl).trans hchecks)

theorem imgadopt_adopts {o : Object} (ho : s.NamesObject fn o) (hc : ∀ e, e ∈ s.adoptChecks fn o → e.1 = false) :
    exec (.imgadopt fn) s = .next (((s.admitLaunch (s.adoptedLaunch fn)).audit Config.adoptAuditType (s.adoptRecord fn).tenant 0xFF
      [BitVec.ofNat 64 (s.adoptedLaunch fn).teams.length]).outcome fn 1 [BitVec.ofNat 64 s.launchSeq]) := by
  have hchecks : firstStatus (s.adoptChecks fn o) = none := firstStatus_none hc
  rw [exec_imgadopt, execImgadopt]
  exact command_runs h (by rw [named_some ho]; exact (firstStatus_next (b := (some o).isNone) (n := 0x11) rfl).trans hchecks)

end Imgadopt

/-- A saved team of an adopted launch has the counter that the table gives. -/
theorem adopted_counter {l : Launch} {counters : List Nat} {i : Nat} (h : ((adopted l counters).team i).st = .saved) :
    i < counters.length ∧ ((adopted l counters).team i).counter = counters.getD i 0 := by
  obtain hm | hd := fget_listed ({} : Team) (adopted l counters).teams i
  · obtain ⟨e, he, heq⟩ := List.mem_map.mp hm
    obtain ⟨hkey, hteam⟩ := Prod.ext_iff.mp heq
    obtain ⟨hi, hget⟩ := List.mem_zipIdx' (List.mem_filter.mp he).1
    dsimp only at hkey hteam
    subst hkey
    refine ⟨hi, ?_⟩
    rw [Launch.team, ← hteam, List.getD_eq_getElem _ _ hi]
    exact hget
  · rw [Launch.team, hd] at h
    cases h

end Sys2Proof.Machine

/-! # Proofs: what the commands on code and tenant spaces leave -/

namespace Sys2Proof.Machine

theorem onlyPlatform_of {s t : State} (h : t = { s with pf := t.pf }) : s.OnlyPlatform t := by
  rw [h]; exact ⟨rfl, fun _ => rfl, fun _ => rfl, fun _ _ => rfl⟩

/-- An object that has gone is not found, and the others are. -/
theorem object_removed {s t : State} {o : Object} (h : t.pf.objects = s.pf.objects.filter fun x => x.handle != o.handle) (n : Word) :
    t.object n = if n = o.handle then none else s.object n := by
  rw [State.object, h, List.find?_filter]
  split
  · next hn =>
    subst hn
    refine List.find?_eq_none.mpr fun x _ => ?_
    simp
  · next hn =>
    refine congrArg (s.pf.objects.find? ·) (funext fun x => ?_)
    by_cases hx : x.handle = n
    · simp [hx, hn]
    · simp [hx]

theorem object_handle {s : State} {n : Word} {o : Object} (h : s.object n = some o) : o.handle = n := by
  simpa using List.find?_some h

theorem dropLine_line (x : Ctx) (gone : Nat → Nat → Bool) : x.dropLine gone = { x with line := (x.dropLine gone).line } := rfl

/-- What an UNLOAD leaves when it begins. -/
theorem unload_leaves (s : State) (fn : Nat) {o : Object} (ho : s.object ((s.fn fn).arg 0) = some o) :
    let w := ((((s.launchesOf ((s.fn fn).arg 0)).foldl State.orphan s).removeObject o).modFn fn fun f =>
      { f with began := some s.cycle, removing := f.removing ++ o.home })
    w.fn fn = { s.fn fn with began := some s.cycle, removing := (s.fn fn).removing ++ o.home, winmap := (w.fn fn).winmap } ∧
      (∀ c, w.ctx c = { s.ctx c with line := (w.ctx c).line }) ∧ w.object ((s.fn fn).arg 0) = none ∧
      (∀ h, h ≠ o.handle → w.object h = s.object h) ∧ w.Forgotten o.tenant o.bundleVa (o.pages * 0x10000) ∧
      (∀ g, g ∈ o.home → (w.granule g).getLsbD 5 = true ∧ ∀ m k, fget none (w.fn m).winmap k ≠ some (g * 0x20000000)) ∧
      ∀ l, l ∈ s.launchesOf ((s.fn fn).arg 0) → ∀ i, ((s.launch l).team i).st = .saved → ((w.launch l).team i).orphan = true := by
  let u := (s.launchesOf ((s.fn fn).arg 0)).foldl State.orphan s
  obtain ⟨hu, hteam⟩ := foldl_orphan (s.launchesOf ((s.fn fn).arg 0)) s
  have r := removeObject_removes u o
  let v := u.removeObject o
  have hfn (m : Nat) : v.fn m = { s.fn m with winmap := (v.fn m).winmap } := by
    rw [r.fn m, show u.fn m = s.fn m by rw [show u = _ from hu]; rfl]
  have hobjects : v.pf.objects = s.pf.objects.filter fun x => x.handle != o.handle := by
    rw [r.objects, show u.pf = s.pf by rw [show u = _ from hu]]
  let w := v.modFn fn fun f => { f with began := some s.cycle, removing := f.removing ++ o.home }
  have hwfn : w.fn fn = { v.fn fn with began := some s.cycle, removing := (v.fn fn).removing ++ o.home } := State.fn_modFn_same ..
  have hwinmap (m : Nat) : (w.fn m).winmap = (v.fn m).winmap := by
    by_cases hm : m = fn
    · rw [hm, hwfn]
    · rw [State.fn_modFn_ne _ _ _ _ hm]
  refine ⟨?_, fun c => ?_, ?_, fun h hh => ?_, r.forgotten, fun g hg => ⟨(r.granules g hg).1, fun m k => ?_⟩, fun l hl i hi => ?_⟩
  · change w.fn fn = { s.fn fn with
      began := some s.cycle, removing := (s.fn fn).removing ++ o.home, winmap := (w.fn fn).winmap }
    rw [hwfn, hfn fn]
  · change v.ctx c = { s.ctx c with line := (v.ctx c).line }
    rw [r.ctx c, show u.ctx c = s.ctx c by rw [show u = _ from hu]; rfl]
    rfl
  · exact (object_removed (t := w) hobjects _).trans (if_pos (object_handle ho).symm)
  · exact (object_removed (t := w) hobjects h).trans (if_neg hh)
  · change fget none (w.fn m).winmap k ≠ _
    rw [hwinmap]
    exact (r.granules g hg).2 m k
  · change ((v.launch l).team i).orphan = true
    rw [r.launch, hteam, if_pos hl]
    simp [Team.orphaned, hi]

/-- What an UNLOAD leaves when it ends. -/
theorem unload_end_leaves (s : State) (fn : Nat) :
    let w := (((s.fn fn).removing.foldl (fun s n => s.endGranule n 0x1F#5) s).modFn fn fun f =>
      { f with removing := [] }).outcome fn 1 []
    s.FnFrame w fn { s.fn fn with removing := [], outcome := some (1, []) } ∧ s.SameContexts w ∧
      (∀ g, g ∈ (s.fn fn).removing → w.granule g = 0x1F#8) ∧ (∀ g, g ∉ (s.fn fn).removing → w.granule g = s.granule g) ∧
      ∀ a, mget w.mem a = if a / 0x20000000 ∈ (s.fn fn).removing then 0#8 else mget s.mem a := by
  let u := (s.fn fn).removing.foldl (fun s n => s.endGranule n 0x1F#5) s
  obtain ⟨hu, hgranule, hmem⟩ := foldl_endGranule (s.fn fn).removing s
  have hfn (m : Nat) : u.fn m = s.fn m := by rw [show u = _ from hu]; rfl
  have hframe : s.FnFrame (u.modFn fn fun f => { f with removing := [] }) fn { s.fn fn with removing := [] } := by
    refine ⟨?_, fun m hm => ?_⟩
    · rw [State.fn_modFn_same]
      exact congrArg (fun f : HostFn => { f with removing := [] }) (hfn fn)
    · rw [State.fn_modFn_ne _ _ _ _ hm]
      exact hfn m
  refine ⟨fnFrame_outcome 1 [] hframe, fun c => ?_, fun g hg => (hgranule g).trans (if_pos hg),
    fun g hg => (hgranule g).trans (if_neg hg), hmem⟩
  · change u.ctx c = _
    rw [show u = _ from hu]
    rfl

theorem lineIn_iff {tenant base len u n : Nat} :
    lineIn tenant base len u n = true ↔ u = tenant ∧ base ≤ n * 128 ∧ n * 128 < base + len := by
  simp [lineIn, and_assoc]

/-- What an INVAL leaves when it begins. -/
theorem inval_leaves (s : State) (fn tenant base len : Nat) :
    let w := (s.invalidate tenant base len).modFn fn fun f => { f with began := some s.cycle }
    s.SameBytes w ∧ s.FnFrame w fn { s.fn fn with began := some s.cycle } ∧ w.Forgotten tenant base len ∧
      (∀ c, w.ctx c = { s.ctx c with line := (w.ctx c).line, walkFail := (w.ctx c).walkFail }) ∧
      (∀ c z y, (w.ctx c).line = some (z, y) → (w.ctx c).tenant = tenant → ¬ (base ≤ z * 128 ∧ z * 128 < base + len)) ∧
      ∀ k e, e ∈ (w.core k).l1i → e.1 / 2 ^ 64 = tenant → ¬ (base ≤ e.1 % 2 ^ 64 * 128 ∧ e.1 % 2 ^ 64 * 128 < base + len) := by
  let u := s.invalidate tenant base len
  obtain ⟨hu, hctx, hcore, hforgotten⟩ := invalidate_leaves s tenant base len
  have hfn (m : Nat) : u.fn m = s.fn m := by rw [show u = _ from hu]; rfl
  have hanew (c : Nat) := (hctx c).trans (Ctx.asksAnew_eq ..)
  refine ⟨invalidate_sameBytes .., ⟨?_, fun m hm => ?_⟩, hforgotten, fun c => ?_, fun c z y hl ht hin => ?_, fun k e he ht hin => ?_⟩
  · rw [State.fn_modFn_same]
    exact congrArg (fun f : HostFn => { f with began := some s.cycle }) (hfn fn)
  · rw [State.fn_modFn_ne _ _ _ _ hm]
    exact hfn m
  · change u.ctx c = { s.ctx c with line := (u.ctx c).line, walkFail := (u.ctx c).walkFail }
    rw [show u.ctx c = _ from hanew c]
    rfl
  · change (u.ctx c).line = _ at hl
    change (u.ctx c).tenant = _ at ht
    rw [show u.ctx c = _ from hanew c] at hl ht
    have hkept := (Option.filter_eq_some_iff.mp hl).2
    have hin' : lineIn tenant base len (s.ctx c).tenant z = true := lineIn_iff.mpr ⟨ht, hin⟩
    simp [hin'] at hkept
  · change e ∈ (u.core k).l1i at he
    rw [(hcore k).1] at he
    have hkept := (List.mem_filter.mp he).2
    have hin' : lineIn tenant base len (e.1 / 2 ^ 64) (e.1 % 2 ^ 64) = true := lineIn_iff.mpr ⟨ht, hin⟩
    rw [hin'] at hkept
    cases hkept

/-- What a KEYIMPORT leaves. -/
theorem keyimport_leaves (s : State) (fn tenant : Nat) (key : BitVec 256) :
    let w := ((s.importKey tenant key).audit 5 tenant 0xFF []).outcome fn 1 []
    s.OnlyPlatform w ∧ s.FnFrame w fn { s.fn fn with outcome := some (1, []) } ∧ s.Audits w 5 tenant 0xFF [] ∧
      (fget {} w.pf.keys tenant : KeySlot) = KeySlot.imported (fget {} s.pf.keys tenant) key ∧
      ∀ m, m ≠ tenant → (fget {} w.pf.keys m : KeySlot) = fget {} s.pf.keys m :=
  ⟨onlyPlatform_of rfl, fnFrame_outcome (t := (s.importKey tenant key).audit 5 tenant 0xFF []) 1 [] ⟨rfl, fun _ _ => rfl⟩,
    audits_congr (audit_audits (s.importKey tenant key) 5 tenant 0xFF []) rfl rfl rfl rfl rfl rfl rfl,
    fget_fput_same .., fun _ hm => fget_fput_ne _ _ _ _ _ hm⟩

/-- What a TENANTEND leaves when it begins. -/
theorem tenantend_leaves (s : State) (fn tenant : Nat) :
    let w := (s.endLaunches tenant).modFn fn fun f => { f with began := some s.cycle }
    s.SameBytes w ∧ s.SameContexts w ∧ s.FnFrame w fn { s.fn fn with began := some s.cycle } ∧
      (∀ l, l ∈ s.launchesIn tenant → (w.launch l).killing = true) ∧
      ∀ q, (s.queue q).bound = true → (s.queue q).tenant = tenant → (w.queue q).bound = false ∧ (w.queue q).mapped = false := by
  let u := s.endLaunches tenant
  obtain ⟨hu, hkill, hqueue⟩ := endLaunches_leaves s tenant
  have hfn (m : Nat) : u.fn m = s.fn m := by rw [show u = _ from hu]; rfl
  refine ⟨⟨fun a => ?_, fun a => ?_, fun n a => ?_⟩, fun c => ?_, ⟨?_, fun m hm => ?_⟩, hkill, fun q _ ht => ?_⟩
  · change mget u.mem a = _; rw [show u = _ from hu]
  · change mget u.ms.staging a = _; rw [show u = _ from hu]
  · change mget (u.core n).scratch a = _; rw [show u = _ from hu]; rfl
  · change u.ctx c = _; rw [show u = _ from hu]; rfl
  · rw [State.fn_modFn_same]
    exact congrArg (fun f : HostFn => { f with began := some s.cycle }) (hfn fn)
  · rw [State.fn_modFn_ne _ _ _ _ hm]
    exact hfn m
  · have hq : (s.queue q).endedFor tenant = { s.queue q with bound := false, mapped := false } := if_pos ht
    change (u.queue q).bound = false ∧ (u.queue q).mapped = false
    rw [show u.queue q = _ from hqueue q, hq]
    exact ⟨rfl, rfl⟩

theorem retires_outcome {s w : State} {t : Nat} (fn : Nat) (r : s.Retires w t) : s.Retires (w.outcome fn 1 []) t := by
  obtain ⟨-, -, hfn, hothers⟩ := outcome_leaves w fn 1 []
  refine ⟨audits_congr r.audits rfl rfl rfl rfl rfl rfl rfl, fun m => ?_, r.key, r.root, r.objects, r.forgotten, r.granules⟩
  by_cases hm : m = fn
  · rw [hm, hfn]; exact r.tenants fn
  · rw [hothers m hm]; exact r.tenants m

/-- What a TENANTEND leaves when it ends. -/
theorem tenantend_end_leaves (s : State) (fn : Nat) {t : Nat} (gr a : Nat) (ht : t < 16) :
    let w := (s.retireTenant t).outcome fn 1 []
    s.Audits w 4 t 0xFF [] ∧ (w.fn fn).outcome = some (1, []) ∧ (∀ m, t ∉ (w.fn m).tenants) ∧ (fget {} w.pf.keys t : KeySlot) = {} ∧
      fget none w.ms.xlbase t = none ∧ (∀ x, x ∈ w.pf.objects → x.tenant ≠ t) ∧ w.Forgotten t 0 (2 ^ 55) ∧
      (((s.granule gr).extractLsb' 0 5).toNat = t → w.granule gr = 0x1F#8 ∧
        (gr * 0x20000000 ≤ a → a < (gr + 1) * 0x20000000 → mget w.mem a = 0#8)) := by
  obtain ⟨haudit, htenants, hkey, hroot, hobjects, hforgotten, hgranules⟩ := retires_outcome fn (retireTenant_retires s t)
  refine ⟨haudit, ?_, htenants, hkey, hroot, hobjects, hforgotten, fun hg => ?_⟩
  · rw [(outcome_leaves (s.retireTenant t) fn 1 []).2.2.1]
  · obtain ⟨hgranule, hzero⟩ := hgranules gr (mem_granulesOf ht hg)
    exact ⟨hgranule, fun hlo hhi => hzero a (by omega)⟩

theorem update_leaves (s : State) (fn : Nat) (image : List Byte) :
    let w := (s.extend 2 image).modPf fun q => { q with updating := some fn }
    s.OnlyPlatform w ∧ s.SameContexts w ∧ s.FnFrame w fn (s.fn fn) ∧ w.pf.updating = some fn ∧
      fget 0#256 w.pf.mreg 2 = shake256 (toBytes 32 (fget 0#256 s.pf.mreg 2).toNat ++ toBytes 32 (shake256 image).toNat) :=
  ⟨onlyPlatform_of rfl, fun _ => rfl, ⟨rfl, fun _ _ => rfl⟩, rfl, fget_fput_same ..⟩

theorem updateTakeover_leaves (s : State) (fn : Nat) :
    let w := ((s.modPf fun p => { p with active := 1 - p.active, updating := none }).audit 6 0xFF 0xFF []).outcome fn 1 []
    s.OnlyPlatform w ∧ s.FnFrame w fn { s.fn fn with outcome := some (1, []) } ∧ s.Audits w 6 0xFF 0xFF [] ∧
      w.pf.updating = none ∧ w.pf.active = 1 - s.pf.active := by
  let u := s.modPf fun p => { p with active := 1 - p.active, updating := none }
  exact ⟨onlyPlatform_of rfl, fnFrame_outcome (t := u.audit 6 0xFF 0xFF []) 1 [] ⟨rfl, fun _ _ => rfl⟩,
    audits_congr (audit_audits u 6 0xFF 0xFF []) rfl rfl rfl rfl rfl rfl rfl, rfl, rfl⟩

/-- The checks of an IMGADOPT that names an object (R191). -/
theorem adoptChecks_iff {s : State} {fn : Nat} {o : Object} : (∃ e, e ∈ s.adoptChecks fn o ∧ e.1 = true) ↔
    0x1000000000000 < ((s.fn fn).arg 1).toNat + 128 ∨
      0x1000000000000 < ((s.fn fn).arg 2).toNat + 8 * ((s.fn fn).arg 3).toNat ∨ s.reportWritable (s.adoptRecord fn) = false ∨
      s.launchStatus (s.adoptRecord fn) o.tenant ≠ none ∨ (s.adoptedLaunch fn).count < ((s.fn fn).arg 3).toNat ∨
      ∃ e, e ∈ (s.adoptedLaunch fn).teams ∧ (s.admitLaunch (s.adoptedLaunch fn)).imageAstray s.launchSeq e.1 o = true := by
  simp only [State.adoptChecks, List.mem_cons, List.not_mem_nil, or_false, exists_eq_or_imp, exists_eq_left, outOfHost_iff,
    Bool.not_eq_true', Option.isSome_iff_ne_none, decide_eq_true_iff, List.any_eq_true]

theorem counters_getD {s : State} {table : Word} {n i : Nat} (h : i < (s.counters table n).length) :
    (s.counters table n).getD i 0 = ofBytes (s.hostRead (table + BitVec.ofNat 64 (8 * i)) 8) := by
  rw [List.getD_eq_getElem _ _ h]
  simp [State.counters]

theorem imgadopt_leaves (s : State) (fn tenant type : Nat) (l : Launch) (detail res : List Word) :
    let w := ((s.admitLaunch l).audit type tenant 0xFF detail).outcome fn 1 res
    s.FnFrame w fn { s.fn fn with outcome := some (1, res) } ∧ s.SameBytes w ∧ s.SameContexts w ∧ w.launchSeq = s.launchSeq + 1 ∧
      w.launch s.launchSeq = l ∧ ∀ m, m ≠ s.launchSeq → w.launch m = s.launch m :=
  ⟨fnFrame_outcome (t := (s.admitLaunch l).audit type tenant 0xFF detail) 1 res ⟨rfl, fun _ _ => rfl⟩,
    ⟨fun _ => rfl, fun _ => rfl, fun _ _ => rfl⟩, fun _ => rfl, rfl, fget_fput_same .., fun _ hm => fget_fput_ne _ _ _ _ _ hm⟩

/-- What a LOAD leaves that places its object. -/
theorem load_leaves {s u : State} {o : Object} {b : List Byte} {root : Nat} (fn : Nat) (res : List Word)
    (h : s.placeObject o b root = some u) :
    let w := u.outcome fn 1 res
    s.FnFrame w fn { s.fn fn with outcome := some (1, res) } ∧ (∀ c, w.ctx c = { s.ctx c with line := (w.ctx c).line }) ∧
      w.pf.objects = s.pf.objects ++ [o] ∧ w.pf.objectSeq = s.pf.objectSeq + 1 := by
  obtain ⟨hfn, hctx, hobjects, hseq⟩ := placeObject_leaves h
  refine ⟨fnFrame_outcome 1 res ⟨hfn fn, fun m _ => hfn m⟩, fun c => ?_, hobjects, hseq⟩
  change u.ctx c = { s.ctx c with line := (u.ctx c).line }
  rw [hctx]
  rfl

/-- The status that the loader's checks give, in their order (R132). -/
theorem objectStatus_header {b : List Byte} {n : Nat} {v : Bool} {a : BitVec 128} (h : headerGood b n = false) :
    objectStatus b n v a = some 2 := by simp [objectStatus, firstStatus, h]

section ObjectStatus
variable {b : List Byte} {n : Nat} {a : BitVec 128} (hh : headerGood b n = true)
include hh

theorem objectStatus_unverified : objectStatus b n false a = some 2 := by simp [objectStatus, firstStatus, hh]

theorem objectStatus_sections (h : sectionsGood b = false) : objectStatus b n true a = some 3 := by
  simp [objectStatus, firstStatus, hh, h]

variable (hs : sectionsGood b = true)
include hs

theorem objectStatus_notes (h : notesGood b = false) : objectStatus b n true a = some 4 := by
  simp [objectStatus, firstStatus, hh, hs, h]

variable (hn : notesGood b = true)
include hn

theorem objectStatus_version (h : field b 6 2 ≠ 1) : objectStatus b n true a = some 5 := by
  simp [objectStatus, firstStatus, hh, hs, hn, h]

variable (hv : field b 6 2 = 1)
include hv

theorem objectStatus_features (h : featuresOf b &&& ~~~a ≠ 0#128) : objectStatus b n true a = some 6 := by
  simp [objectStatus, firstStatus, hh, hs, hn, hv, h]

theorem objectStatus_good (h : featuresOf b &&& ~~~a = 0#128) : objectStatus b n true a = none := by
  simp [objectStatus, firstStatus, hh, hs, hn, hv, h]

end ObjectStatus

/-- Settles O50: a command is refused at the first of its checks that fails; each that waits does so between what it does first and
what it does once the accesses or the launches that it waits for are over. -/
theorem codeAndTenantCommands : Obligations.CodeAndTenantCommands := by
  unfold Obligations.CodeAndTenantCommands
  intro s u fn root place gr a n o key f arg runs frame refused ends beyond lacks inside forgets lines b verified badArgs loads checked
    size pages granules homes chosen vacant placed file words named busy pointed base len t slot
  have hrefused {i : Instr} {status : Nat} (h : exec i s = .next (s.outcome fn status [])) : refused i status :=
    ⟨_, h, outcome_leaves ..⟩
  have hstatus {status : Nat} (hl : loads) (hv : (headerGood b (arg 1) && !verified) = false)
      (h : objectStatus b (arg 1) verified (f.accepted.getD 0#128) = some status) : refused (.load fn) status := by
    refine hrefused ((load_fails hl.1 hl.2.1 hl.2.2 h).trans ?_)
    rw [if_neg]
    exact fun ht => absurd (hv.symm.trans ht) Bool.false_ne_true
  have hverified {status : Nat} (hl : loads) (hv : verified = true)
      (h : objectStatus b (arg 1) true (f.accepted.getD 0#128) = some status) : refused (.load fn) status :=
    hstatus hl (by rw [hv, Bool.not_true, Bool.and_false]) (by rw [hv]; exact h)
  have hloads (hl : loads) (hc : checked) : exec (.load fn) s = .next (s.loadObject fn (arg 4) (arg 5) b) := by
    obtain ⟨hh, hv, hs, hn, hv', hf⟩ := hc
    refine load_loads hl.1 hl.2.1 hl.2.2 ?_
    rw [show s.loadVerified fn = true from hv]
    exact objectStatus_good hh hs hn hv' hf
  have hplace (hp : placed place) : s.placeFor (arg 4) (arg 5) pages = some place := by
    by_cases hz : arg 5 = 0
    · rw [hz, placeFor_choice]; exact hp.1 hz
    · obtain ⟨hva, hvacant⟩ := hp.2 hz
      rw [hva] at hvacant ⊢
      exact placeFor_required hz (vacant_iff.mpr hvacant)
  have hnowhere (hl : loads) (hc : checked) {root : Nat} (hroot : fget none s.ms.xlbase (arg 4) = some root) {status : Nat}
      (hp : s.placeFor (arg 4) (arg 5) pages = none)
      (hst : (if 2 ^ 55 < arg 5 + pages * 0x10000 then 0x11 else 0x10) = status) : refused (.load fn) status :=
    hst ▸ hrefused ((hloads hl hc).trans (congrArg Host.Outcome.next (loadObject_noPlace hroot hp)))
  have htaken (hz : arg 5 ≠ 0) (h : ¬ vacant (arg 5)) : s.placeFor (arg 4) (arg 5) pages = none :=
    placeFor_taken hz fun hv => h (vacant_iff.mp hv)
  have hforeign {n : Nat} : f.foreign (f.arg n) = true ↔ arg n ∉ f.tenants := foreign_iff
  have hnotForeign {n : Nat} (h : arg n ∈ f.tenants) : f.foreign (f.arg n) = false :=
    Bool.eq_false_iff.mpr fun ht => hforeign.mp ht h
  have hinside {m n : Nat} (h : ¬ beyond (arg m) n) : outOfHost (f.arg m) n = false :=
    Bool.eq_false_iff.mpr fun ht => h (outOfHost_iff.mp ht)
  have haccepts {n : Nat} (h : ¬ lacks n) : f.lacks n = false := Bool.eq_false_iff.mpr fun ht => h (lacks_iff.mp ht)
  have hzero : f.arg 2 = 0#64 ↔ arg 2 = 0 := ⟨fun h => congrArg BitVec.toNat h, fun h => BitVec.eq_of_toNat_eq h⟩
  have hlen : invalLength (f.arg 2) = len := by
    unfold invalLength
    simp only [hzero]
    rfl
  have hbase : f.invalBase = base := by
    unfold HostFn.invalBase
    simp only [hzero]
    rfl
  have hbusy : ((s.launchesOf (f.arg 0)).any s.needsObject || s.posted (f.arg 0)) = true ↔ busy := by
    rw [Bool.or_eq_true, List.any_eq_true]
  have hpointed : (!(f.arg 1).getLsbD 0 && (s.launchesOf (f.arg 0)).any s.savedImages) = true ↔
      pointed ∧ (f.arg 1).getLsbD 0 = false := by
    rw [Bool.and_eq_true, List.any_eq_true, Bool.not_eq_true', and_comm]
  refine ⟨?idle, fun h ha => hrefused (load_unaccepted h ha), fun h ha hb => hrefused (load_badArgs h ha hb), fun hl =>
    ⟨fun hh => hstatus hl (by rw [hh]; rfl) (objectStatus_header hh), fun hh hv => ?loadUnverified, fun hh hv =>
      ⟨fun hs => hverified hl hv (objectStatus_sections hh hs), fun hs hn => hverified hl hv (objectStatus_notes hh hs hn),
        fun hs hn hf => hverified hl hv (objectStatus_version hh hs hn hf),
        fun hs hn hf hfeat => hverified hl hv (objectStatus_features hh hs hn hf hfeat)⟩,
      fun hc hroot => ?loadNoRoot, fun hc hroot => ⟨fun hz hpast => ?loadPast, fun hz hfits hv => ?loadTaken,
        fun hz hchosen hfits => ?loadNowhere, fun hp hroom => ?loadNoRoom, fun hp hroom hnone => ?loadNoTable,
        fun hp hroom hsome hmem => ?loadPlaces⟩⟩,
    fun h hb ho => hrefused (unload_unnamed h hb ho), fun h ho => hrefused (imgadopt_unnamed h ho),
    fun h hb ho hbad => hrefused (unload_busy h hb ho (hbad.imp hbusy.mpr hpointed.mpr)),
    fun h hb ho hnot hsaved => ⟨_, unload_removes h hb ho ?unloadIdle ?unloadUnsaved, unload_leaves s fn ho.1⟩,
    fun h hb ⟨g, hg, ho⟩ => unload_waits h hb hg ho, fun h hb ho => ⟨_, unload_ends h hb ho, unload_end_leaves s fn⟩,
    fun h hbad => ?invalRefused, fun h hf ha hl => ⟨fun hb => ?invalBegins, fun hb ho => ?invalWaits, fun hb ho => ?invalEnds⟩,
    fun h hbad => hrefused (keyimport_refused h (hbad.imp hforeign.mpr (Or.imp_left outOfHost_iff.mpr))), fun h hf ho hk => ⟨_, keyimport_imports h (hnotForeign hf) (hinside ho) hk, ?keyimport⟩,
    fun h hf => hrefused (tenantend_refused h (hforeign.mpr hf)),
    fun h hf => ⟨fun hb => ⟨_, tenantend_begins h (hnotForeign hf) hb, tenantend_leaves s fn t⟩,
      fun hb hi => tenantend_waits h (hnotForeign hf) hb hi,
      fun hb hi ht => ⟨_, tenantend_ends h (hnotForeign hf) hb hi, tenantend_end_leaves s fn gr a ht⟩⟩,
    fun h hl => hrefused (update_lacks h (lacks_iff.mpr hl)), fun h hl ho => hrefused (update_beyond h (haccepts hl) (outOfHost_iff.mpr ho)),
    fun h hl ho => ?update, updateTakeover_none, updateTakeover_waits, fun hu hb => ⟨_, updateTakeover_takes hu hb, updateTakeover_leaves s fn⟩,
    ?adopt⟩
  case idle =>
    simp only [List.mem_cons, List.not_mem_nil, or_false]
    rintro p (rfl | rfl | rfl | rfl | rfl | rfl | rfl) h
    · rw [exec_load, execLoad]; exact command_idle h
    · rw [exec_unload, execUnload]; exact command_idle h
    · rw [exec_inval, execInval]; exact command_idle h
    · rw [exec_keyimport, execKeyimport]; exact command_idle h
    · rw [exec_tenantend, execTenantend]; exact command_idle h
    · rw [exec_update, execUpdate]; exact command_idle h
    · rw [exec_imgadopt, execImgadopt]; exact command_idle h
  case loadUnverified =>
    have hv' : s.loadVerified fn = false := hv
    refine ⟨_, load_fails hl.1 hl.2.1 hl.2.2 (status := 2) ?_, ?_⟩
    · rw [hv']; exact objectStatus_unverified hh
    · have hbad : (headerGood (s.loadFile fn) (arg 1) && !s.loadVerified fn) = true := by
        rw [hv', show headerGood (s.loadFile fn) (arg 1) = true from hh]; rfl
      rw [if_pos hbad]
      exact ⟨onlyPlatform_of rfl, audits_congr (audit_audits s 7 (arg 4) 0xFF [f.arg 0, f.arg 3]) rfl rfl rfl rfl rfl rfl rfl,
        fnFrame_outcome (t := s.audit 7 (arg 4) 0xFF [f.arg 0, f.arg 3]) 2 [] ⟨rfl, fun _ _ => rfl⟩⟩
  case loadNoRoot => exact hrefused ((hloads hl hc).trans (congrArg Host.Outcome.next (loadObject_noRoot hroot)))
  case loadPast => exact hnowhere hl hc hroot (htaken hz fun hv => absurd hv.1 (by omega)) (if_pos hpast)
  case loadTaken => exact hnowhere hl hc hroot (htaken hz hv) (if_neg (by omega))
  case loadNowhere =>
    refine hnowhere hl hc hroot ?_ (if_neg (by omega))
    rw [hz, placeFor_choice]; exact hchosen
  case loadNoRoom =>
    exact hrefused ((hloads hl hc).trans (congrArg Host.Outcome.next (loadObject_noRoom hroot (hplace hp) (.inl hroom))))
  case loadNoTable =>
    exact hrefused ((hloads hl hc).trans (congrArg Host.Outcome.next (loadObject_noRoom hroot (hplace hp) (.inr hnone))))
  case loadPlaces =>
    obtain ⟨hframe, hlines, hobjects, hseq⟩ := load_leaves fn (words file) hsome
    exact ⟨_, (hloads hl hc).trans (congrArg Host.Outcome.next (loadObject_places hroot (hplace hp) hroom hsome)), hframe, hlines,
      hobjects, hseq, fun h2 h3 i hi hib => placeObject_bytes (u := u) rfl hsome (memoriesOk_mem hmem) hroom h2 h3 hi hib⟩
  case unloadIdle => exact Bool.eq_false_iff.mpr (mt hbusy.mp hnot)
  case unloadUnsaved =>
    refine Bool.eq_false_iff.mpr fun ht => ?_
    obtain ⟨hp, hbit⟩ := hpointed.mp ht
    exact hsaved.elim (fun h => h hp) fun h => absurd (hbit.symm.trans h) Bool.false_ne_true
  case invalRefused =>
    refine hrefused (inval_refused h (hbad.imp hforeign.mpr (Or.imp_right fun h => ?_)))
    rw [hbase, hlen]; exact h
  case invalBegins =>
    have hex := inval_begins h (hnotForeign hf) ha (by rw [hbase, hlen]; exact hl) hb
    rw [hbase, hlen] at hex
    exact ⟨_, hex, inval_leaves s fn t base len⟩
  case invalWaits =>
    exact inval_waits h (hnotForeign hf) ha (by rw [hbase, hlen]; exact hl) hb (by rw [hbase, hlen]; exact ho)
  case invalEnds =>
    obtain ⟨honly, -, hframe⟩ := outcome_leaves s fn 1 []
    exact ⟨_, inval_ends h (hnotForeign hf) ha (by rw [hbase, hlen]; exact hl) hb (by rw [hbase, hlen]; exact ho), honly, hframe⟩
  case keyimport =>
    obtain ⟨honly, hframe, haudit, hkey, hkeys⟩ := keyimport_leaves s fn t key
    exact ⟨honly, hframe, haudit, hkey, hkeys⟩
  case update =>
    have hl := haccepts hl
    have ho := hinside ho
    exact ⟨fun hu hn => hrefused (update_busy h hl ho hu hn), update_waits h hl ho,
      fun hu hs => hrefused (update_unsigned h hl ho hu hs), fun hu hs ht => ⟨_, update_rejected h hl ho hu hs ht, onlyPlatform_of rfl,
        fun _ => rfl, fnFrame_outcome (t := s.extend 2 (s.updateParts fn).1) 0x13 [] ⟨rfl, fun _ _ => rfl⟩⟩,
      fun hu hs ht => ⟨_, update_begins h hl ho hu hs ht, update_leaves s fn _⟩⟩
  case adopt =>
    intro record l good astray
    refine ⟨fun h ho hbad => hrefused (imgadopt_refused h ho (adoptChecks_iff.mpr ?_)), fun h hgood hastray => ?_⟩
    · by_contra hc
      simp only [not_or] at hc
      obtain ⟨hrecord, htable, hreport, hstatus, hcount, hast⟩ := hc
      refine hbad.elim (fun hg => hg ⟨ho, hrecord, htable, ?_, ?_, ?_⟩) hast
      · exact Bool.eq_true_of_not_eq_false hreport
      · exact not_not.mp hstatus
      · exact not_lt.mp hcount
    · obtain ⟨ho, hrecord, htable, hreport, hstatus, hcount⟩ := hgood
      have hc : ∀ e, e ∈ s.adoptChecks fn o → e.1 = false := by
        refine fun e he => Bool.eq_false_iff.mpr fun ht => ?_
        obtain hc | hc | hc | hc | hc | hc := adoptChecks_iff.mp ⟨e, he, ht⟩
        · exact hrecord hc
        · exact htable hc
        · exact Bool.false_ne_true (hc.symm.trans hreport)
        · exact hc hstatus
        · exact absurd hcount (not_le.mpr hc)
        · exact hastray hc
      obtain ⟨hframe, hbytes, hctxs, hseq, hlaunch, hothers⟩ := imgadopt_leaves s fn (s.adoptRecord fn).tenant Config.adoptAuditType
        (s.adoptedLaunch fn) [BitVec.ofNat 64 (s.adoptedLaunch fn).teams.length] [BitVec.ofNat 64 s.launchSeq]
      refine ⟨_, imgadopt_adopts h ho hc, hframe, hbytes, hctxs, hseq, hlaunch, hothers, fun i hi => ?_⟩
      obtain ⟨hlt, hcounter⟩ := adopted_counter hi
      exact hcounter.trans (counters_getD hlt)

end Sys2Proof.Machine

/-! # Proofs: the pieces that engines move, and the commands that they move them for (R28, R81–R83, R177) -/

namespace Sys2Proof.Machine

theorem fput_fput {β : Type} (m : FMap β) (k : Nat) (v w : β) : fput (fput m k v) k w = fput m k w := by
  induction m with
  | nil => simp [fput]
  | cons e l ih =>
    obtain ⟨x, u⟩ := e
    simp only [fput]
    split
    · simp [fput]
    · next hx =>
      split
      · simp [fput]
      · next hlt => simp [fput, hx, hlt, ih]

/-! ## The running command of a dray -/

/-- A core differs by its scratchpad and the use of its engine ports alone. -/
def State.Beside (s t : State) (core : Nat) : Prop :=
  t.core core = { s.core core with port := (t.core core).port, scratch := (t.core core).scratch, spPoison := (t.core core).spPoison }

/-- A core differs by that, and by the command that a dray runs. -/
def State.Moves (s t : State) (core d : Nat) (c : DrayCmd) : Prop :=
  t.core core = { s.core core with
    drays := fput (s.core core).drays d { (s.core core).dray d with running := some c }, port := (t.core core).port
    scratch := (t.core core).scratch, spPoison := (t.core core).spPoison }

/-- A dray whose running command has changed. -/
def Dray.mapRunning (x : Dray) (f : DrayCmd → DrayCmd) : Dray := { x with running := x.running.map f }

/-- A dray whose running command is over: the one in the shadow place runs. -/
def Dray.promoted (x : Dray) : Dray := { x with running := x.shadow, shadow := none }

section Moves
variable {s t u : State} {core d : Nat} {c : DrayCmd}

theorem core_modRunning (s : State) (core d n : Nat) (f : DrayCmd → DrayCmd) : (s.modRunning core d f).core n =
    if n = core then { s.core core with drays := fput (s.core core).drays d (((s.core core).dray d).mapRunning f) } else s.core n :=
  State.core_modDray ..

theorem moves_dray (h : s.Moves t core d c) : (t.core core).dray d = { (s.core core).dray d with running := some c } := by
  rw [h]; exact (CoreState.dray_fput ..).trans (if_pos rfl)

/-- The running command changes. -/
theorem beside_modRunning (h : s.Beside t core) (hr : ((s.core core).dray d).running = some c) (f : DrayCmd → DrayCmd) :
    s.Moves (t.modRunning core d f) core d (f c) := by
  have hdray : (t.core core).dray d = (s.core core).dray d := by rw [h]; rfl
  have hdrays : (t.core core).drays = (s.core core).drays := by rw [h]
  rw [State.Moves, core_modRunning, if_pos rfl, hdray, hdrays, Dray.mapRunning, hr]
  conv_lhs => rw [h]
  rfl

/-- The running command changes once more. -/
theorem moves_modRunning (h : s.Moves t core d c) (f : DrayCmd → DrayCmd) : s.Moves (t.modRunning core d f) core d (f c) := by
  have hdrays : (t.core core).drays = fput (s.core core).drays d { (s.core core).dray d with running := some c } := by rw [h]
  rw [State.Moves, core_modRunning, if_pos rfl, moves_dray h, hdrays, fput_fput]
  conv_lhs => rw [h]
  rfl

theorem moves_of_beside (h : s.Moves t core d c) (hb : t.Beside u core) : s.Moves u core d c := by
  rw [State.Moves, hb, h]

theorem beside_refl (s : State) (core : Nat) : s.Beside s core := rfl

theorem beside_of_core (h : t.core core = s.core core) : s.Beside t core := by rw [State.Beside, h]

theorem servePort_beside (s : State) (core d : Nat) (p : Span) : s.Beside (s.servePort core d p) core := by
  rw [State.Beside, State.servePort, State.core_modCore_same]

/-- The bytes and the contexts are as before, and a dray runs a command. -/
def State.Reads (s t : State) (core d : Nat) (c : DrayCmd) : Prop := s.SameBytes t ∧ s.SameContexts t ∧ s.Moves t core d c

/-- The bytes and the contexts are as before, and so is a core, but for the use of its engine ports. -/
def State.Passes (s t : State) (core : Nat) : Prop := s.SameBytes t ∧ s.SameContexts t ∧ s.Beside t core

theorem passes_refl (s : State) (core : Nat) : s.Passes s core := ⟨sameBytes_refl s, fun _ => rfl, rfl⟩

theorem modRunning_sameBytes (s : State) (core d : Nat) (f : DrayCmd → DrayCmd) : s.SameBytes (s.modRunning core d f) :=
  modDray_sameBytes ..

theorem passes_modRunning (h : s.Passes t core) (hr : ((s.core core).dray d).running = some c) (f : DrayCmd → DrayCmd) :
    s.Reads (t.modRunning core d f) core d (f c) :=
  ⟨sameBytes_trans h.1 (modRunning_sameBytes ..), h.2.1, beside_modRunning h.2.2 hr f⟩

theorem reads_modRunning (h : s.Reads t core d c) (f : DrayCmd → DrayCmd) : s.Reads (t.modRunning core d f) core d (f c) :=
  ⟨sameBytes_trans h.1 (modRunning_sameBytes ..), h.2.1, moves_modRunning h.2.2 f⟩

theorem reads_passes (h : s.Reads t core d c) (k : t.Passes u core) : s.Reads u core d c :=
  ⟨sameBytes_trans h.1 k.1, fun n => (k.2.1 n).trans (h.2.1 n), moves_of_beside h.2.2 k.2.2⟩

/-- Free values go by, and ports serve. -/
theorem fresh_servePort_passes (s : State) (core d n : Nat) (p : Span) :
    s.Passes (({ s with fresh := n } : State).servePort core d p) core :=
  ⟨modCore_sameBytes { s with fresh := n } core _ rfl, fun _ => rfl, servePort_beside { s with fresh := n } core d p⟩

end Moves

/-! ## The end of a running command (R177) -/

/-- A token after its command has ended. -/
def Token.ended (t : Token) (e : DrayEnd) (tick : Nat) : Token :=
  match e with
  | .done status => { t with st := 2, status := status, stamp := tick }
  | .error f => { t with st := 3, err := f, stamp := tick }

/-- A context one of whose tokens has completed. -/
def Ctx.endToken (x : Ctx) (token : Nat) (e : DrayEnd) (tick : Nat) : Ctx :=
  { x with tokens := fput x.tokens token (Token.ended (fget {} x.tokens token) e tick) }

theorem endRunning_ctx (s : State) (core d : Nat) (c : DrayCmd) (e : DrayEnd) (n : Nat) : (s.endRunning core d c e).ctx n =
    if n = c.owner then (s.ctx c.owner).endToken c.token e s.tick else s.ctx n := by
  cases e with
  | done status => exact State.ctx_modCtx s c.owner n fun x => x.endToken c.token (.done status) s.tick
  | error f => exact State.ctx_modCtx s c.owner n fun x => x.endToken c.token (.error f) s.tick

theorem endRunning_core (s : State) (core d : Nat) (c : DrayCmd) (e : DrayEnd) (n : Nat) : (s.endRunning core d c e).core n =
    if n = core then { s.core core with drays := fput (s.core core).drays d ((s.core core).dray d).promoted } else s.core n := by
  cases e <;> exact State.core_modDray ..

theorem endRunning_only (s : State) (core d : Nat) (c : DrayCmd) (e : DrayEnd) :
    let t := s.endRunning core d c e
    t = { s with ctxs := t.ctxs, cores := t.cores } := by cases e <;> rfl

theorem endRunning_sameBytes (s : State) (core d : Nat) (c : DrayCmd) (e : DrayEnd) : s.SameBytes (s.endRunning core d c e) := by
  have h := endRunning_only s core d c e
  refine ⟨fun a => by rw [h], fun a => by rw [h], fun n a => ?_⟩
  rw [endRunning_core]
  split
  · next hn => rw [hn]
  · rfl

/-- The running command of a dray has ended: its token, the dray, and what stays. -/
theorem endRunning_ends (s : State) (core d : Nat) (c : DrayCmd) (e : DrayEnd) :
    let t := s.endRunning core d c e
    (fget {} (t.ctx c.owner).tokens c.token : Token) = Token.ended (fget {} (s.ctx c.owner).tokens c.token) e s.tick ∧
      (t.core core).dray d = ((s.core core).dray d).promoted ∧
      (∀ n, n ≠ c.owner → t.ctx n = s.ctx n) ∧ s.SameBytes t := by
  refine ⟨?_, ?_, fun n hn => (endRunning_ctx ..).trans (if_neg hn), endRunning_sameBytes ..⟩
  · rw [endRunning_ctx, if_pos rfl]; exact fget_fput_same ..
  · rw [endRunning_core, if_pos rfl]; exact (CoreState.dray_fput ..).trans (if_pos rfl)

/-! ## A command that stops (R28, R40) -/

section FailDray
variable {s : State} {core d : Nat} {c : DrayCmd} {f : EngineFault} (hr : ((s.core core).dray d).running = some c)
  (he : c.ending = none) (hf : f.code ≠ 4)
include hr he hf

theorem failDray_eq : s.failDray core d f = s.stopRunning core d c (.error f) := by
  simp [State.failDray, hr, he, hf]

/-- One that has not begun to act, or is malformed, ends at once. -/
theorem failDray_ends (h : c.started = false ∨ c.bad = true) : s.failDray core d f = s.endRunning core d c (.error f) := by
  rw [failDray_eq hr he hf, State.stopRunning, if_neg (by simp [he]), if_pos]
  obtain h | h := h <;> simp [h]

/-- Another stops between two lines. -/
theorem failDray_stops (hs : c.started = true) (hb : c.bad = false) :
    s.failDray core d f = s.modRunning core d fun x => { x with ending := some (.error f) } := by
  rw [failDray_eq hr he hf, State.stopRunning, if_neg (by simp [he]), if_neg (by simp [hs, hb])]

/-- A line that cannot be moved: the command stops, and stands after it. -/
theorem lineFails_stops (hs : c.started = true) (hb : c.bad = false) {r : State} (h : r.Reads s core d c) :
    r.Reads (s.lineFails core d f) core d (DrayCmd.advance { c with ending := some (.error f) }) := by
  rw [State.lineFails, failDray_stops hr he hf hs hb]
  exact reads_modRunning (reads_modRunning h fun x => { x with ending := some (.error f) }) DrayCmd.advance

end FailDray

/-! ## Bytes in mixed sizes (R82) -/

theorem mread_eq_map (m : Memory) (a n : Nat) : mread m a n = (List.range n).map fun i => mget m (a + i) := by
  induction n generalizing a with
  | zero => rfl
  | succ n ih =>
    rw [mread, ih, List.range_succ_eq_map, List.map_cons, List.map_map]
    refine congrArg (_ :: ·) (List.map_congr_left fun i _ => ?_)
    rw [Function.comp_apply, Nat.add_assoc, Nat.add_comm 1 i]

theorem pickByte_nil (seed : Nat) (b : Byte) : pickByte seed b [] = b := rfl

theorem mixRead_none (s : State) (pa n : Nat) : s.mixRead [] [] pa n = mread s.mem pa n := (mread_eq_map ..).symm

theorem mixOver_none (s : State) (n : Nat) : s.mixOver [] [] n = s := rfl

theorem mixWrite_none (s : State) (pa : Nat) (bytes : List Byte) : s.mixWrite [] [] pa bytes = bytes := by
  have h : s.mixWrite [] [] pa bytes = (bytes.zip (List.range bytes.length)).map Prod.fst := rfl
  rw [h, List.map_fst_zip (by simp)]

/-! ## Reading a piece (R11, R28, R31, R59, R81–R83) -/

section ReadPiece
variable {s : State} {e : Engine} {p whole : Span}

theorem readPiece_scratch (hk : p.kind = 1) (hf : s.pieceFault e p false = none) :
    s.readPiece e p whole = (.ok (mread (s.core e.core).scratch p.addr.toNat p.size), s) := by
  simp only [State.readPiece, hk, hf]

theorem readPiece_fails (hk : p.kind = 1) {n unit : Nat} (hf : s.pieceFault e p false = some (n, unit)) :
    s.readPiece e p whole = (.fail (e.fault n unit p), s) := by
  simp only [State.readPiece, hk, hf]

/-- The lines that the command which an engine acts for holds. -/
def State.heldBy (s : State) (e : Engine) : List HeldLine := ((s.engineCmd e).map (·.held)).getD []

theorem readPiece_held (hk : p.kind = 0) {h : HeldLine} (hh : (s.heldBy e).find? (fun h => (h.line : Int) = p.addr / 256) = some h) :
    s.readPiece e p whole = s.readHeld e p h := by
  unfold State.heldBy at hh
  simp only [State.readPiece, hk, hh]

theorem readHeld_poisoned {h : HeldLine} (hhost : s.hostHeld none (h.pa + (p.addr % 256).toNat) = false)
    (hb : s.backed (h.pa + (p.addr % 256).toNat) = true) (hp : s.poisoned (h.pa + (p.addr % 256).toNat) = true) :
    s.readHeld e p h = (.fail (e.fault 0x14 2 p), s) := by
  simp [State.readHeld, hhost, hb, hp]

/-- A unit of a line that nothing else touches is read as it stands. -/
theorem readHeld_reads {h : HeldLine} (hhost : s.hostHeld none (h.pa + (p.addr % 256).toNat) = false)
    (hb : s.backed (h.pa + (p.addr % 256).toNat) = true) (hp : s.poisoned (h.pa + (p.addr % 256).toNat) = false)
    (hm : ((s.engineCmd e).map (·.mixed)).getD [] = [])
    (hr : s.rivals none (h.pa + (p.addr % 256).toNat) p.size h.size false = [])
    (hs : s.sentOver none (h.pa + (p.addr % 256).toNat) p.size h.size = []) :
    s.readHeld e p h = (.ok (mread s.mem (h.pa + (p.addr % 256).toNat) p.size), s) := by
  simp [State.readHeld, hhost, hb, hp, hm, hr, hs, mixRead_none, mixOver_none]

section Global
variable (hk : p.kind = 0) (hnone : (s.heldBy e).find? (fun h => (h.line : Int) = p.addr / 256) = none) (hlo : 0 ≤ p.addr)
  (hhi : p.addr < 2 ^ 55)
include hlo hhi

omit hlo hhi in
theorem inSpace (hlo : 0 ≤ p.addr) (hhi : p.addr < 2 ^ 55) : (decide (p.addr < 0) || decide ((2 ^ 55 : Int) ≤ p.addr)) = false := by
  simp only [Bool.or_eq_false_iff, decide_eq_false_iff_not]
  exact ⟨by omega, by omega⟩

theorem enginePa_ok {n : Need} {pa : Nat} {nb : Bool} (hc : s.engineCheck e p.word n = .ok pa nb) (hb : s.backed pa = true) :
    s.enginePa e p n = (.ok pa, s) := by
  simp only [State.enginePa, inSpace hlo hhi, hc, hb]
  rfl

theorem enginePa_miss {n : Need} (hc : s.engineCheck e p.word n = .miss) : s.enginePa e p n = (.wait, s.askEngine e p.word n) := by
  simp only [State.enginePa, inSpace hlo hhi, hc]
  rfl

include hk hnone

theorem readPiece_miss (hc : s.engineCheck e p.word { rd := true } = .miss) :
    s.readPiece e p whole = (.wait, s.askEngine e p.word { rd := true }) := by
  unfold State.heldBy at hnone
  simp only [State.readPiece, hk, hnone, enginePa_miss hlo hhi hc]

variable {pa : Nat} {nb : Bool} (hc : s.engineCheck e p.word { rd := true } = .ok pa nb) (hb : s.backed pa = true)
  (hhost : s.hostHeld none pa = false)
include hc hb hhost

theorem readPiece_refused (ho : s.overlapFires e.tenant (pa - (p.addr % 256).toNat + ((whole.inLine p.addr).addr % 256).toNat)
    (whole.inLine p.addr).size e.master 0 = true) : s.readPiece e p whole = (.fail (e.fault 0x0D 0 p), s) := by
  unfold State.heldBy at hnone
  simp only [State.readPiece, hk, hnone, enginePa_ok hlo hhi hc hb, hhost, ho]
  rfl

/-- A line that is translated and compared now, and held from now on. -/
def State.newLine (s : State) (p whole : Span) (pa : Nat) : HeldLine :=
  { line := p.addr.toNat / 256, pa := pa - (p.addr % 256).toNat, lo := ((whole.inLine p.addr).addr % 256).toNat
    size := (whole.inLine p.addr).size, since := s.cycle }

theorem readPiece_opens (ho : s.overlapFires e.tenant (pa - (p.addr % 256).toNat + ((whole.inLine p.addr).addr % 256).toNat)
    (whole.inLine p.addr).size e.master 0 = false) : s.readPiece e p whole =
      (s.modRunning e.core e.dray fun c => { c with held := c.held ++ [s.newLine p whole pa] }).readHeld e p (s.newLine p whole pa) := by
  unfold State.heldBy at hnone
  simp only [State.readPiece, hk, hnone, enginePa_ok hlo hhi hc hb, hhost, ho]
  rfl

end Global

end ReadPiece

/-! ## Writing a piece (R31, R79) -/

section WritePiece
variable {s : State} {e : Engine} {p : Span} (bytes : List Byte)

theorem writePiece_scratch (hk : p.kind = 1) (hf : s.pieceFault e p true = none) :
    s.writePiece e p bytes = (.ok (), s.modCore e.core fun k => k.engineWrite p.addr.toNat bytes) := by
  simp only [State.writePiece, hk, hf]

theorem writePiece_sends (hk : p.kind = 0) (hlo : 0 ≤ p.addr) (hhi : p.addr < 2 ^ 55) {pa : Nat} {nb : Bool}
    (hc : s.engineCheck e p.word { wr := true } = .ok pa nb) (hb : s.backed pa = true) :
    s.writePiece e p bytes = (.ok (), s.send e p pa bytes) := by
  simp only [State.writePiece, hk, enginePa_ok hlo hhi hc hb]

theorem writePiece_staging (hk : p.kind = 2) (hg : s.granted e.tenant p = true) : s.writePiece e p bytes =
    (.ok (), s.modMs fun m => { m with staging := mwrite m.staging p.addr.toNat bytes
                                       stagingPoison := clearUnits m.stagingPoison p.addr.toNat p.size }) := by
  simp only [State.writePiece, hk, hg]
  rfl

/-- A write that is sent towards its home: one more is on its way, and no byte changes. -/
theorem send_leaves (s : State) (e : Engine) (p : Span) (pa : Nat) (bytes : List Byte) :
    let t := s.send e p pa bytes
    t = { s with ms := t.ms } ∧ t.ms.staging = s.ms.staging ∧
      t.ms.sent = s.ms.sent ++ [{ id := s.ms.sentSeq, core := e.core, engid := e.engid, owner := e.owner, cmd := e.cmd
                                  launch := e.launch, tenant := e.tenant, va := p.word, pa := pa, size := p.size
                                  left := (unitParts p.addr p.size).map fun u => (u.1, (bytes.drop u.1).take u.2) }] :=
  ⟨rfl, rfl, rfl⟩

end WritePiece

end Sys2Proof.Machine

/-! # Proofs: the events of the drays (R28, R78, R79, R81, R177, R178, R316–R318) -/

namespace Sys2Proof.Machine

theorem exec_drayCommandStart (core d : Nat) (s : State) : exec (.drayCommandStart core d) s = execDrayCommandStart core d s := rfl
theorem exec_drayLineTransfer (core d : Nat) (s : State) : exec (.drayLineTransfer core d) s = execDrayLineTransfer core d s := rfl
theorem exec_drayCommandComplete (core d : Nat) (s : State) :
    exec (.drayCommandComplete core d) s = execDrayCommandComplete core d s := rfl
theorem exec_engineThaw (target : ThawTarget) (s : State) : exec (.engineThaw target) s = execEngineThaw target s := rfl

/-- A dray that runs nothing has nothing to start, to move or to complete. -/
theorem dray_idle {s : State} {core d : Nat} (h : ((s.core core).dray d).running = none) :
    exec (.drayCommandStart core d) s = .next s ∧ exec (.drayLineTransfer core d) s = .next s ∧
      exec (.drayCommandComplete core d) s = .next s := by
  refine ⟨?_, ?_, ?_⟩
  · rw [exec_drayCommandStart, execDrayCommandStart, h]
  · rw [exec_drayLineTransfer, execDrayLineTransfer, h]
  · rw [exec_drayCommandComplete, execDrayCommandComplete, h]

/-! ## The start of a command (R78, R316) -/

/-- The descriptor row of a command. -/
def DrayCmd.descriptor (c : DrayCmd) : Span := { kind := 1, addr := c.row, size := 64 }

section Start
variable {s : State} {core d : Nat} {c : DrayCmd} (hr : ((s.core core).dray d).running = some c)

/-- A command's start waits for its issuer's clock, or for its descriptor row. -/
def State.StartWaits (s : State) (core d : Nat) (c : DrayCmd) : Prop :=
  (s.ctx c.owner).engineK < c.issueK + 3 ∨ c.kind ≠ 0 ∧ s.spanServed core d c.descriptor = false

include hr

theorem start_waits (hw : s.StartWaits core d c) : exec (.drayCommandStart core d) s = .next s := by
  rw [exec_drayCommandStart, execDrayCommandStart, hr]
  refine if_pos ?_
  obtain h | ⟨hk, hs⟩ := hw
  · simp [h]
  · simp [hk, show s.spanServed core d { kind := 1, addr := c.row, size := 64 } = false from hs]

theorem start_starts (hs : c.started = false) (hf : ((s.core core).dray d).frozen = false) (hw : ¬ s.StartWaits core d c) :
    exec (.drayCommandStart core d) s = .next (s.startDray core d c parseRow) := by
  rw [exec_drayCommandStart, execDrayCommandStart, hr]
  refine if_neg fun h => hw ?_
  simp only [hs, hf, Bool.false_or, Bool.or_eq_true, Bool.and_eq_true, decide_eq_true_eq, bne_iff_ne, Bool.not_eq_true'] at h
  exact h

omit hr in
/-- A command without a descriptor row starts at once. -/
theorem startDray_plain (hk : c.kind = 0) :
    s.startDray core d c parseRow = s.modRunning core d fun x => { x with started := true } := if_pos hk

/-- A command whose row cannot be read ends. -/
theorem startDray_fails (hk : c.kind ≠ 0) (hs : c.started = false) (he : c.ending = none) {n unit : Nat} (hn : n ≠ 4)
    (hf : s.pieceFault (c.engine core d) c.descriptor false = some (n, unit)) : s.startDray core d c parseRow =
      s.endRunning core d c (.error ((c.engine core d).fault n unit c.descriptor)) := by
  have hread : s.readPiece (c.engine core d) c.descriptor c.descriptor =
      (.fail ((c.engine core d).fault n unit c.descriptor), s) := readPiece_fails rfl hf
  unfold DrayCmd.descriptor at hread
  rw [State.startDray, if_neg hk]
  dsimp only
  rw [hread]
  exact failDray_ends hr he hn (.inl hs)

/-- A token that learns from the descriptor how its command orders itself. -/
def Ctx.noteScope (x : Ctx) (c : DrayCmd) : Ctx :=
  { x with tokens := fput x.tokens c.token { (fget {} x.tokens c.token : Token) with rel := c.rel, scope := c.scope } }

omit hr in
/-- A command that reads its row has the fields that the row gives. -/
theorem startDray_parses (hk : c.kind = 1) (hf : s.pieceFault (c.engine core d) c.descriptor false = none) :
    s.startDray core d c parseRow = ((s.servePort core d c.descriptor).modRunning core d fun _ =>
      c.parse2 (mread (s.core core).scratch c.row 64)).modCtx c.owner
        (·.noteScope (c.parse2 (mread (s.core core).scratch c.row 64))) := by
  have hread : s.readPiece (c.engine core d) c.descriptor c.descriptor = (.ok (mread (s.core core).scratch c.row 64), s) :=
    readPiece_scratch rfl hf
  have hparse (b : List Byte) : parseRow s c b = c.parse2 b := if_pos hk
  unfold DrayCmd.descriptor at hread
  rw [State.startDray, if_neg (by rw [hk]; exact Nat.one_ne_zero)]
  dsimp only
  rw [hread]
  dsimp only
  rw [hparse]
  rfl

end Start

theorem servePort_passes (s : State) (core d : Nat) (p : Span) : s.Passes (s.servePort core d p) core :=
  ⟨modCore_sameBytes s core _ rfl, fun _ => rfl, servePort_beside s core d p⟩

/-! ## The next part of a line (R28, R81, R317) -/

/-- A command's first access, or its engine's reports, hold it. -/
def State.Held (s : State) (d : Nat) (c : DrayCmd) : Prop := s.acqHolds c = true ∨ s.depHolds c = true ∨ s.watchHolds d c = true

theorem held_iff {s : State} {d : Nat} {c : DrayCmd} : (s.firstHolds c || s.watchHolds d c) = true ↔ s.Held d c := by
  simp [State.firstHolds, State.Held, or_assoc]

/-- The next part of a line, read or written. -/
def State.actLine (s : State) (core d : Nat) (c : DrayCmd) : State :=
  if !c.lineRead then s.readUnit core d c else if locKind c.dst = 0 then s.sendLine core d c else s.writeUnit core d c

section Transfer
variable {s : State} {core d : Nat} {c : DrayCmd} (hr : ((s.core core).dray d).running = some c)
include hr

theorem transfer_unstarted (hs : c.started = false) : exec (.drayLineTransfer core d) s = .next s := by
  rw [exec_drayLineTransfer, execDrayLineTransfer, hr]
  exact if_pos (by simp [hs])

variable (hs : c.started = true) (hk : c.kind ≠ 2) (hf : ((s.core core).dray d).frozen = false ∨ c.ending ≠ none)
include hs hk hf

theorem transfer_acts_eq (hb : c.bad = false) : execDrayLineTransfer core d s = .next
    (if c.moved then s
      else if s.firstHolds c || s.watchHolds d c then if c.ending.isSome && c.unitsDone.isEmpty then s.dropLines core d else s
      else if c.choosing then s.strayLine core d else s.actLine core d c) := by
  have hfrozen : (!c.started || (((s.core core).dray d).frozen && c.ending.isNone)) = false := by
    obtain hf | hf := hf
    · simp [hs, hf]
    · simp [hs, Option.isNone_eq_false_iff.mpr (Option.isSome_iff_ne_none.mpr hf)]
  have hkind : (c.kind = 2 || c.moved) = c.moved := by simp [hk]
  rw [execDrayLineTransfer, hr]
  dsimp only
  rw [hfrozen, hb, hkind, State.actLine]
  simp only [Bool.false_eq_true, if_false, apply_ite (Host.Outcome.next (σ := State) (φ := Fault) (ρ := Refusal))]

omit hf in
theorem transfer_bad (hf : ((s.core core).dray d).frozen = false) (he : c.ending = none) (hb : c.bad = true) :
    exec (.drayLineTransfer core d) s = .next (s.endRunning core d c (.error
      { engid := d, code := 2, detail := 0, addr := if c.kind = 0 then c.src else BitVec.ofNat 64 c.row })) := by
  rw [exec_drayLineTransfer, execDrayLineTransfer, hr]
  dsimp only
  rw [hs, hf, hb, if_neg hk, failDray_ends hr he (by decide : (2 : Nat) ≠ 4) (.inr hb)]
  rfl

variable (hb : c.bad = false)
include hb

theorem transfer_moved (hm : c.moved = true) : exec (.drayLineTransfer core d) s = .next s := by
  rw [exec_drayLineTransfer, transfer_acts_eq hr hs hk hf hb, if_pos hm]

theorem transfer_held (he : c.ending = none) (hh : s.Held d c) : exec (.drayLineTransfer core d) s = .next s := by
  rw [exec_drayLineTransfer, transfer_acts_eq hr hs hk hf hb, he]
  split
  · rfl
  · rw [if_pos (held_iff.mpr hh)]; rfl

variable (hm : c.moved = false)
include hm

theorem transfer_drops {z : DrayEnd} (he : c.ending = some z) (hh : s.Held d c) (hu : c.unitsDone = []) :
    exec (.drayLineTransfer core d) s = .next (s.dropLines core d) := by
  rw [exec_drayLineTransfer, transfer_acts_eq hr hs hk hf hb, hm, if_pos (held_iff.mpr hh), he, hu]
  rfl

theorem transfer_strays {z : DrayEnd} (he : c.ending = some z) (hh : ¬ s.Held d c) (hu : c.unitsDone = [])
    (hc : c.chosen = false) : exec (.drayLineTransfer core d) s = .next (s.strayLine core d) := by
  have hchoosing : c.choosing = true := by simp [DrayCmd.choosing, he, hu, hc]
  rw [exec_drayLineTransfer, transfer_acts_eq hr hs hk hf hb, hm, if_neg (mt held_iff.mp hh), hchoosing]
  rfl

theorem transfer_acts (he : c.ending = none) (hh : ¬ s.Held d c) :
    exec (.drayLineTransfer core d) s = .next (s.actLine core d c) := by
  have hchoosing : c.choosing = false := by simp [DrayCmd.choosing, he]
  rw [exec_drayLineTransfer, transfer_acts_eq hr hs hk hf hb, hm, if_neg (mt held_iff.mp hh), hchoosing]
  rfl

end Transfer

/-- A command that stops moves a line, passes over it, or is done with its lines. -/
theorem strayLine_reads {s : State} {core d : Nat} {c : DrayCmd} (hr : ((s.core core).dray d).running = some c) :
    s.Reads (s.strayLine core d) core d { c.advance with atRow := c.rows } ∨ s.Reads (s.strayLine core d) core d c.advance ∨
      s.Reads (s.strayLine core d) core d { c with chosen := true } := by
  have h : s.Passes { s with fresh := s.fresh + 1 } core := ⟨sameBytes_refl s, fun _ => rfl, rfl⟩
  unfold State.strayLine
  dsimp only
  split
  · exact .inl (passes_modRunning h hr fun c => { c.advance with atRow := c.rows })
  · exact .inr (.inl (passes_modRunning h hr DrayCmd.advance))
  · exact .inr (.inr (passes_modRunning h hr fun c => { c with chosen := true }))

/-! ## Reading a unit -/

theorem pickUnit_mem (s : State) {l : List Nat} (h : l ≠ []) : s.pickUnit l ∈ l := by
  have hlt : (Config.freeWord s.fresh).toNat % l.length < l.length := Nat.mod_lt _ (List.length_pos_iff.mpr h)
  rw [State.pickUnit, List.getD_eq_getElem _ _ hlt]
  exact List.getElem_mem hlt

/-- The next unit of a line's source. -/
def State.nextRead (s : State) (c : DrayCmd) : Span := c.lineSrc.unit (s.pickUnit c.unread)

theorem spanServed_global (s : State) (core d : Nat) {p : Span} (h : p.kind ≠ 1) : s.spanServed core d p = true := by
  simp [State.spanServed, Span.rows, h]

section ReadUnit
variable {s : State} {core d : Nat} {c : DrayCmd}

theorem readUnit_waits (h : s.spanServed core d (s.nextRead c) = false) : s.readUnit core d c = s := by
  unfold State.nextRead at h
  exact if_pos (by simp [h])

variable (h : s.spanServed core d (s.nextRead c) = true)
include h

theorem readUnit_ok {b : List Byte} {t : State} (hp : s.readPiece (c.engine core d) (s.nextRead c) c.lineSrc = (.ok b, t)) :
    s.readUnit core d c = (({ t with fresh := t.fresh + 1 } : State).servePort core d (s.nextRead c)).modRunning core d fun x =>
      { x with got := fput x.got (s.pickUnit c.unread) b } := by
  unfold State.nextRead at h hp
  rw [State.readUnit, if_neg (by simpa using h), hp]
  rfl

theorem readUnit_waitsWalk {t : State} (hp : s.readPiece (c.engine core d) (s.nextRead c) c.lineSrc = (.wait, t)) :
    s.readUnit core d c = t := by
  unfold State.nextRead at h hp
  rw [State.readUnit, if_neg (by simpa using h), hp]

theorem readUnit_fails {f : EngineFault} {t : State} (hp : s.readPiece (c.engine core d) (s.nextRead c) c.lineSrc = (.fail f, t)) :
    s.readUnit core d c = t.lineFails core d f := by
  unfold State.nextRead at h hp
  rw [State.readUnit, if_neg (by simpa using h), hp]

end ReadUnit

/-- A unit that has been read stands among those of its line. -/
theorem readUnit_reads {s t : State} {core d : Nat} {c' : DrayCmd} {p : Span} {u : Nat} {b : List Byte}
    (h : s.Reads t core d c') : s.Reads ((({ t with fresh := t.fresh + 1 } : State).servePort core d p).modRunning core d fun x =>
      { x with got := fput x.got u b }) core d { c' with got := fput c'.got u b } :=
  reads_modRunning (reads_passes h (fresh_servePort_passes t core d (t.fresh + 1) p)) fun x => { x with got := fput x.got u b }

theorem readUnit_passes {s : State} {core d : Nat} {c : DrayCmd} {p : Span} {u : Nat} {b : List Byte}
    (hr : ((s.core core).dray d).running = some c) :
    s.Reads ((({ s with fresh := s.fresh + 1 } : State).servePort core d p).modRunning core d fun x =>
      { x with got := fput x.got u b }) core d { c with got := fput c.got u b } :=
  passes_modRunning (fresh_servePort_passes s core d (s.fresh + 1) p) hr fun x => { x with got := fput x.got u b }

/-! ## Writing a unit, and sending a line -/

/-- A piece of a command's destination that its source does not overlap. -/
def DrayCmd.Apart (c : DrayCmd) (p : Span) : Prop :=
  c.zero = true ∨ locKind c.src ≠ locKind c.dst ∨ ∀ i : Nat, i < p.size → c.inSource (p.addr + i) = false

theorem outBytes_apart {s : State} {e : Engine} {c : DrayCmd} {p : Span} {bytes : List Byte} (h : c.Apart p)
    (hlen : bytes.length = p.size) : s.outBytes e c p bytes = bytes := by
  unfold State.outBytes
  split
  · rfl
  · next hc =>
    obtain ⟨hz, hk⟩ : c.zero = false ∧ locKind c.src = locKind c.dst := by simpa using hc
    have hin : ∀ i : Nat, i < p.size → c.inSource (p.addr + i) = false :=
      (h.resolve_left (by simp [hz])).resolve_left fun hne => hne hk
    calc (bytes.zip (List.range bytes.length)).map _
        = (bytes.zip (List.range bytes.length)).map Prod.fst := by
          refine List.map_congr_left fun x hx => if_neg ?_
          have hlt := List.mem_range.mp (List.of_mem_zip hx).2
          rw [hin x.2 (by omega)]
          exact Bool.false_ne_true
      _ = bytes := by rw [List.map_fst_zip (by simp)]

theorem core_wf {s : State} {core : Nat} (h : s.memoriesOk = true) : Memory.wf (s.core core).scratch = true := by
  simp only [State.memoriesOk, Bool.and_eq_true, List.all_eq_true] at h
  obtain ⟨-, hall⟩ := h
  obtain hm | hd := fget_listed (freshCore core) s.cores core
  · exact hall _ hm
  · rw [State.core, hd]; rfl

/-- The next unit of a line's destination. -/
def State.nextWrite (s : State) (c : DrayCmd) : Span := c.lineDst.unit (s.pickUnit c.unwritten)

/-- The bytes of that unit. -/
def State.nextBytes (s : State) (c : DrayCmd) : List Byte := (c.lineBytes.drop (16 * s.pickUnit c.unwritten)).take 16

theorem servePort_core (s : State) (core d : Nat) (p : Span) : (s.servePort core d p).core core =
    { s.core core with port := ((s.servePort core d p).core core).port } := by
  rw [State.servePort, State.core_modCore_same]

/-- The bytes written at an address. -/
theorem mget_mwrite_at {m : Memory} (a : Nat) (b : List Byte) (h : Memory.wf m = true) {i : Nat} (hi : i < b.length) :
    mget (mwrite m a b) (a + i) = b.getD i 0#8 := by
  have hread := mread_mwrite b m a h
  rw [mread_eq_map] at hread
  calc mget (mwrite m a b) (a + i) = ((List.range b.length).map fun i => mget (mwrite m a b) (a + i)).getD i 0#8 := by
        simp [List.getD_eq_getElem?_getD, hi]
    _ = b.getD i 0#8 := by rw [hread]

section WriteUnit
variable {s : State} {core d : Nat} {c : DrayCmd}

/-- A command after a unit of its line has been written. -/
def DrayCmd.wrote (c : DrayCmd) (u : Nat) : DrayCmd :=
  if c.unwritten.length ≤ 1 then c.advance else { c with unitsDone := u :: c.unitsDone }

theorem lineMoved_core (s : State) (engid n : Nat) (c : DrayCmd) : (s.lineMoved engid c).core n = s.core n := rfl

theorem writeUnit_eq (h : s.spanServed core d (s.nextWrite c) = true) {t : State}
    (hp : s.writePiece (c.engine core d) (s.nextWrite c) (s.outBytes (c.engine core d) c (s.nextWrite c) (s.nextBytes c)) = (.ok (), t)) :
    s.writeUnit core d c =
      if c.unwritten.length ≤ 1 then
        ((({ t with fresh := t.fresh + 17 } : State).servePort core d (s.nextWrite c)).lineMoved d c).modRunning core d DrayCmd.advance
      else (({ t with fresh := t.fresh + 17 } : State).servePort core d (s.nextWrite c)).modRunning core d fun x =>
        { x with unitsDone := s.pickUnit c.unwritten :: x.unitsDone } := by
  unfold State.nextWrite State.nextBytes at hp
  unfold State.nextWrite at h
  rw [State.writeUnit, if_neg (by simpa using h), hp]
  rfl

/-- A unit of a line is in the scratchpad, and its command stands after it. -/
theorem writeUnit_leaves (hr : ((s.core core).dray d).running = some c) (hm : s.memoriesOk = true)
    (hk : (s.nextWrite c).kind = 1) (h : s.spanServed core d (s.nextWrite c) = true)
    (hf : s.pieceFault (c.engine core d) (s.nextWrite c) true = none) (ha : c.Apart (s.nextWrite c))
    (hlen : (s.nextBytes c).length = 16) :
    let t := s.writeUnit core d c
    let a := (s.nextWrite c).addr.toNat
    s.SameGlobal t ∧ s.Moves t core d (c.wrote (s.pickUnit c.unwritten)) ∧
      (∀ i, i < 16 → mget (t.core core).scratch (a + i) = (s.nextBytes c).getD i 0#8) ∧
      ∀ i, i < a ∨ a + 16 ≤ i → mget (t.core core).scratch i = mget (s.core core).scratch i := by
  have hout : s.outBytes (c.engine core d) c (s.nextWrite c) (s.nextBytes c) = s.nextBytes c := outBytes_apart ha hlen
  let w := s.modCore core fun k => k.engineWrite (s.nextWrite c).addr.toNat (s.nextBytes c)
  have hpiece : s.writePiece (c.engine core d) (s.nextWrite c) (s.outBytes (c.engine core d) c (s.nextWrite c) (s.nextBytes c)) =
      (.ok (), w) := by rw [hout]; exact writePiece_scratch _ hk hf
  let v := ({ w with fresh := w.fresh + 17 } : State).servePort core d (s.nextWrite c)
  have hwcore : w.core core = (s.core core).engineWrite (s.nextWrite c).addr.toNat (s.nextBytes c) := State.core_modCore_same ..
  have hv : v.core core = { (s.core core).engineWrite (s.nextWrite c).addr.toNat (s.nextBytes c) with port := (v.core core).port } := by
    rw [← hwcore]; exact servePort_core ..
  have hscratch : (v.core core).scratch = mwrite (s.core core).scratch (s.nextWrite c).addr.toNat (s.nextBytes c) := by rw [hv]; rfl
  have hbeside : s.Beside v core := by
    rw [State.Beside]; conv_lhs => rw [hv]
    rw [hscratch, show (v.core core).spPoison = ((s.core core).engineWrite (s.nextWrite c).addr.toNat (s.nextBytes c)).spPoison by
      rw [hv]]
    rfl
  have hglobal (t : State) (h : t.mem = s.mem ∧ t.ms = s.ms) : s.SameGlobal t := ⟨fun a => by rw [h.1], fun a => by rw [h.2]⟩
  have hsc {t : State} (h : (t.core core).scratch = (v.core core).scratch) :
      (∀ i, i < 16 → mget (t.core core).scratch ((s.nextWrite c).addr.toNat + i) = (s.nextBytes c).getD i 0#8) ∧
        ∀ i, i < (s.nextWrite c).addr.toNat ∨ (s.nextWrite c).addr.toNat + 16 ≤ i →
          mget (t.core core).scratch i = mget (s.core core).scratch i := by
    rw [h, hscratch, ← hlen]
    exact ⟨fun i hi => mget_mwrite_at _ _ (core_wf hm) hi, fun i hi => mget_mwrite_ne _ _ _ _ (core_wf hm) hi⟩
  rw [writeUnit_eq h hpiece, DrayCmd.wrote]
  split
  · refine ⟨hglobal _ ⟨rfl, rfl⟩, beside_modRunning (t := v.lineMoved d c) hbeside hr DrayCmd.advance, hsc ?_⟩
    rw [core_modRunning, if_pos rfl]; rfl
  · refine ⟨hglobal _ ⟨rfl, rfl⟩,
      beside_modRunning hbeside hr fun x => { x with unitsDone := s.pickUnit c.unwritten :: x.unitsDone }, hsc ?_⟩
    rw [core_modRunning, if_pos rfl]

end WriteUnit

/-- A line for global memory is on its way, and its command stands after it. -/
theorem sendLine_leaves {s : State} {core d pa : Nat} {c : DrayCmd} {nb : Bool} (hr : ((s.core core).dray d).running = some c)
    (hk : locKind c.dst = 0) (hlo : 0 ≤ c.lineDst.addr) (hhi : c.lineDst.addr < 2 ^ 55) (ha : c.Apart c.lineDst)
    (hlen : c.lineBytes.length = c.lineSize) (hc : s.engineCheck (c.engine core d) c.lineDst.word { wr := true } = .ok pa nb)
    (hb : s.backed pa = true) :
    let t := s.sendLine core d c
    s.SameBytes t ∧ s.Moves t core d c.advance ∧
      ∃ y, t.ms.sent = s.ms.sent ++ [y] ∧ y.pa = pa ∧ y.size = c.lineSize ∧ y.owner = c.owner ∧ y.cmd = c.issueSeq ∧
        y.left = (unitParts c.lineDst.addr c.lineSize).map fun z => (z.1, (c.lineBytes.drop z.1).take z.2) := by
  have hout : s.outBytes (c.engine core d) c c.lineDst c.lineBytes = c.lineBytes := outBytes_apart ha hlen
  let w := s.send (c.engine core d) c.lineDst pa c.lineBytes
  have hpiece : s.writePiece (c.engine core d) c.lineDst (s.outBytes (c.engine core d) c c.lineDst c.lineBytes) = (.ok (), w) := by
    rw [hout]; exact writePiece_sends _ hk hlo hhi hc hb
  have hline : s.sendLine core d c = (({ w with fresh := w.fresh + c.lineSize } : State).lineMoved d c).modRunning core d
      DrayCmd.advance := by
    rw [State.sendLine, hpiece]
  rw [hline]
  exact ⟨modRunning_sameBytes (({ w with fresh := w.fresh + c.lineSize } : State).lineMoved d c) core d DrayCmd.advance,
    beside_modRunning (t := ({ w with fresh := w.fresh + c.lineSize } : State).lineMoved d c) (beside_refl s core) hr DrayCmd.advance,
    _, rfl, rfl, rfl, rfl, rfl, rfl⟩

/-! ## Completion (R79, R177) -/

/-- A command's writes hold its token no more (R79, R83). -/
def State.Settled (s : State) (core d : Nat) (c : DrayCmd) : Prop :=
  (c.rel = true → s.sentPerformed core d c = true) ∧
    (s.ms.ovl.contains c.tenant = true → ∀ y, y ∈ s.ms.sent → y.isOf core d c = true → y.compared = true)

theorem settled_iff {s : State} {core d : Nat} {c : DrayCmd} : s.sentOver' core d c = true ↔ s.Settled core d c := by
  simp only [State.sentOver', State.Settled, Bool.and_eq_true, Bool.or_eq_true, Bool.not_eq_true', List.all_eq_true,
    ← Bool.not_eq_true, imp_iff_not_or]

section Complete
variable {s : State} {core d : Nat} {c : DrayCmd} (hr : ((s.core core).dray d).running = some c) (hs : c.started = true)
  (hb : c.bad = false) (hk : c.kind ≠ 2)
include hr hs hb hk

omit hr in
theorem mayComplete_iff : s.mayComplete core d c = true ↔ c.moved = true ∧ s.Settled core d c := by
  have hgone : s.collGone core d c = false := by simp [State.collGone, hk]
  simp [State.mayComplete, hs, hb, hk, hgone, settled_iff]

theorem complete_ends (hf : ((s.core core).dray d).frozen = false ∨ c.ending ≠ none) (hm : c.moved = true)
    (hset : s.Settled core d c) : exec (.drayCommandComplete core d) s = .next (s.endRunning core d c (c.ending.getD (.done 0))) := by
  rw [exec_drayCommandComplete, execDrayCommandComplete, hr]
  refine if_pos ?_
  rw [(mayComplete_iff hs hb hk).mpr ⟨hm, hset⟩]
  obtain hf | hf := hf
  · simp [hf]
  · simp [Option.isSome_iff_ne_none.mpr hf]

theorem complete_waits (hset : ¬ s.Settled core d c) : exec (.drayCommandComplete core d) s = .next s := by
  have h : s.mayComplete core d c = false := Bool.eq_false_iff.mpr fun h => hset ((mayComplete_iff hs hb hk).mp h).2
  rw [exec_drayCommandComplete, execDrayCommandComplete, hr]
  exact if_neg (by simp [h])

end Complete

end Sys2Proof.Machine

/-! # Proofs: writes of engines reach their homes, and engines thaw (R40, R57, R59, R79, R81–R83) -/

namespace Sys2Proof.Machine

/-! ## Commands and operations that stop (R28, R185) -/

/-- Commands stop, and those who wait for them are told: memory, what is on its way, the Quarters and the launches are as before. -/
structure State.OnlyStops (s t : State) : Prop where
  only : t = { s with ctxs := t.ctxs, cores := t.cores, pf := t.pf, fresh := t.fresh }
  scratch : ∀ n, (t.core n).scratch = (s.core n).scratch

theorem onlyStops_refl (s : State) : s.OnlyStops s := ⟨rfl, fun _ => rfl⟩

theorem onlyStops_trans {s t u : State} (h : s.OnlyStops t) (k : t.OnlyStops u) : s.OnlyStops u :=
  ⟨by rw [k.only, h.only], fun n => (k.scratch n).trans (h.scratch n)⟩

theorem onlyStops_sameBytes {s t : State} (h : s.OnlyStops t) : s.SameBytes t :=
  ⟨fun a => by rw [h.only], fun a => by rw [h.only], fun n a => by rw [h.scratch]⟩

/-- Where no core changes. -/
theorem onlyStops_of {s t : State} (h : t = { s with ctxs := t.ctxs, pf := t.pf, fresh := t.fresh }) : s.OnlyStops t :=
  ⟨by rw [h], fun n => by rw [h]; rfl⟩

theorem modRunning_onlyStops (s : State) (core d : Nat) (f : DrayCmd → DrayCmd) : s.OnlyStops (s.modRunning core d f) := by
  refine ⟨rfl, fun n => ?_⟩
  rw [core_modRunning]
  split
  · next h => rw [h]
  · rfl

theorem endRunning_onlyStops (s : State) (core d : Nat) (c : DrayCmd) (e : DrayEnd) : s.OnlyStops (s.endRunning core d c e) := by
  refine ⟨?_, fun n => ?_⟩
  · rw [endRunning_only]
  · rw [endRunning_core]
    split
    · next h => rw [h]
    · rfl

theorem stopRunning_onlyStops (s : State) (core d : Nat) (c : DrayCmd) (e : DrayEnd) : s.OnlyStops (s.stopRunning core d c e) := by
  unfold State.stopRunning
  split
  · exact onlyStops_refl s
  · split
    · exact endRunning_onlyStops ..
    · exact modRunning_onlyStops ..

theorem failDray_onlyStops (s : State) (core d : Nat) {f : EngineFault} (hf : f.code ≠ 4) : s.OnlyStops (s.failDray core d f) := by
  unfold State.failDray
  split
  · exact onlyStops_refl s
  · split
    · exact onlyStops_refl s
    · exact stopRunning_onlyStops ..

theorem onlyStops_foldl {α : Type} (f : State → α → State) (hf : ∀ (s : State) (a : α), s.OnlyStops (f s a)) (l : List α) (s : State) :
    s.OnlyStops (l.foldl f s) := by
  induction l generalizing s with
  | nil => exact onlyStops_refl s
  | cons a l ih => exact onlyStops_trans (hf s a) (ih _)

theorem endParts_onlyStops (s : State) (l : List Part') (e : Part' → DrayEnd) : s.OnlyStops (s.endParts l e) :=
  onlyStops_foldl _ (fun _ _ => modRunning_onlyStops ..) l s

theorem modGroup_some {s : State} {g : Nat} {x : Group} (h : ffind s.pf.groups g = some x) (f : Group → Group) :
    s.modGroup g f = { s with pf := { s.pf with groups := fput s.pf.groups g (f x) } } := by
  simp only [State.modGroup, State.modPf, h]

theorem modGroup_onlyStops (s : State) (g : Nat) (f : Group → Group) : s.OnlyStops (s.modGroup g f) := onlyStops_of rfl

theorem stopRun_onlyStops (s : State) (g : Nat) (r : CollRun) : s.OnlyStops (s.stopRun g r) := by
  unfold State.stopRun
  cases r.writes <;> exact onlyStops_of rfl

theorem collFail_onlyStops (s : State) (g : Nat) (r : CollRun) (p : Part') {f : EngineFault} (hf : f.code ≠ 4) :
    s.OnlyStops (s.collFail g r p f) := by
  unfold State.collFail
  dsimp only
  rw [if_neg hf]
  split
  · exact modGroup_onlyStops ..
  · exact onlyStops_trans (endParts_onlyStops ..) (stopRun_onlyStops ..)

theorem sentFails_onlyStops (s : State) (x : Sent) {f : EngineFault} (hf : f.code ≠ 4) : s.OnlyStops (s.sentFails x f) := by
  unfold State.sentFails
  split
  · exact onlyStops_refl s
  · split
    · exact failDray_onlyStops s x.core _ hf
    · split
      · split
        · exact collFail_onlyStops _ _ _ _ hf
        · exact onlyStops_refl s
      · exact onlyStops_refl s

/-! ## A part of a write at its home (R79, R81, R83, R354) -/

/-- Where memory, staging and the cores stand, so do all bytes. -/
theorem sameBytes_of {s t : State} (hm : t.mem = s.mem) (hs : t.ms.staging = s.ms.staging) (hc : t.cores = s.cores) : s.SameBytes t :=
  ⟨fun a => by rw [hm], fun a => by rw [hs], fun n a => by rw [State.core, State.core, hc]⟩

theorem foldl_reportEngine (l : List Nat) (c engid cmd : Nat) (va : Word) (s : State) :
    let t := l.foldl (fun s n => s.reportMatch (.engine c engid cmd va) n) s
    t = { s with ctxs := t.ctxs } := by
  induction l generalizing s with
  | nil => rfl
  | cons n l ih => rw [List.foldl_cons, ih]; rfl

/-- A write of an engine at a home: its bytes, and the reports of watchpoints to its context. -/
theorem homeWrite_engine (s : State) (c engid cmd : Nat) (va : Word) (tenant pa : Nat) (b : List Byte) :
    let t := s.homeWrite (.engine c engid cmd va) tenant pa b
    t = { s with mem := mwrite s.mem pa b, ctxs := t.ctxs } := by
  unfold State.homeWrite
  dsimp only
  rw [foldl_reportEngine]

theorem noteMixed_sameBytes (s : State) (before : Memory) (pa n size : Nat) : s.SameBytes (s.noteMixed before [] pa n size) := by
  refine ⟨fun _ => rfl, fun _ => rfl, fun k a => ?_⟩
  have h : (s.noteMixed before [] pa n size).core k = { s.core k with drays := (s.core k).drays.map fun (d : Nat × Dray) =>
      (d.1, { d.2 with running := d.2.running.map fun c => c.noteMixed before s.mem pa n size }) } :=
    fget_map (freshCore k) (fun x : CoreState => { x with drays := x.drays.map fun (d : Nat × Dray) =>
      (d.1, { d.2 with running := d.2.running.map fun c => c.noteMixed before s.mem pa n size }) }) s.cores k
  rw [h]

theorem markDirty_sameBytes (s : State) (l va pa : Nat) : s.SameBytes (s.markDirty l va pa) := by
  unfold State.markDirty
  dsimp only
  split
  · cases region pa <;> exact sameBytes_of rfl rfl rfl
  · exact sameBytes_refl s

theorem noteWrite_sameBytes (s : State) (tenant pa size master cls : Nat) : s.SameBytes (s.noteWrite tenant pa size master cls) := by
  rw [noteWrite_only]; exact sameBytes_of rfl rfl rfl

theorem sentOff_only (s : State) (x : Sent) (off : Nat) :
    s.sentOff x off = { s with ms := { s.ms with sent := (s.sentOff x off).ms.sent } } := by
  unfold State.sentOff
  split
  · split <;> rfl
  · rfl

theorem sentOff_sameBytes (s : State) (x : Sent) (off : Nat) : s.SameBytes (s.sentOff x off) := by
  rw [sentOff_only]; exact sameBytes_of rfl rfl rfl

/-- The bytes written stand where nothing changes a byte afterwards. -/
theorem holds_sameBytes {s t u : State} {pa : Nat} {b : List Byte} (h : s.Holds t pa b) (k : t.SameBytes u) : s.Holds u pa b := by
  obtain ⟨hb, hm, hs, hc⟩ := h
  obtain ⟨km, ks, kc⟩ := k
  exact ⟨fun i hi => (km _).trans (hb i hi), fun n hn => (km n).trans (hm n hn), fun n => (ks n).trans (hs n),
    fun n a => (kc n a).trans (hc n a)⟩

section ApplySent
variable {s : State} {o : Sent} {off : Nat} {b : List Byte}

/-- A part that reaches memory which nothing else touches leaves its bytes there. -/
theorem applySent_holds (hb : s.backed (o.pa + off) = true) (hm : Memory.wf s.mem = true) (hmixed : o.mixed = [])
    (hr : s.rivals none (o.pa + off) b.length o.size true = [])
    (hs : s.sentOver (some o.id) (o.pa + off) b.length o.size = []) : s.Holds (s.applySent o off b) (o.pa + off) b := by
  unfold State.applySent
  dsimp only
  rw [hb, hr, hs, hmixed, List.append_nil, mixWrite_none, mixOver_none]
  have hhome := homeWrite_engine s o.owner o.engid o.cmd o.va o.tenant (o.pa + off) b
  have hwrites : s.Holds (s.homeWrite (.engine o.owner o.engid o.cmd o.va) o.tenant (o.pa + off) b) (o.pa + off) b := by
    refine holds_mwrite hm ?_ ?_ ?_ <;> rw [hhome]
  refine holds_sameBytes hwrites (sameBytes_trans (noteMixed_sameBytes _ s.mem (o.pa + off) b.length o.size) ?_)
  refine sameBytes_trans (noteWrite_sameBytes _ o.tenant o.pa o.size (0x10000 + o.core * 4 + o.engid) 0) ?_
  refine sameBytes_trans (markDirty_sameBytes _ o.launch o.va.toNat o.pa) ?_
  split
  · contradiction
  · split
    · exact sameBytes_trans (sameBytes_of (s := State.markDirty _ _ _ _) rfl rfl rfl) (sentOff_sameBytes ..)
    · exact sentOff_sameBytes ..

/-- A part for memory that is not there is discarded, and its command is told. -/
theorem applySent_discards (hb : s.backed (o.pa + off) = false) :
    s.SameBytes (s.applySent o off b) ∧ ((s.applySent o off b).quarter (homeQuarter (o.pa + off))).discards =
      (s.quarter (homeQuarter (o.pa + off))).discards + 1 := by
  let q := homeQuarter (o.pa + off)
  let u := s.modQuarter q fun q => { q with discards := q.discards + 1 }
  let v := (u.tellAbsent o.owner (o.pa + off) o.va.toNat).sentOff o off
  let w := v.sentFails o { engid := o.engid, code := 0x14, detail := 3, addr := o.va }
  have hdef : s.applySent o off b = w := if_pos (by simp [hb])
  have hw : v.OnlyStops w := sentFails_onlyStops v o (by decide : (0x14 : Nat) ≠ 4)
  have hv : v = { s with quarters := u.quarters, pf := v.pf, ms := { s.ms with sent := v.ms.sent } } := by
    rw [show v = _ from sentOff_only .., tellAbsent_eq]
    rfl
  rw [hdef]
  refine ⟨sameBytes_trans (sameBytes_of ?_ ?_ ?_) (onlyStops_sameBytes hw), ?_⟩
  · rw [hv]
  · rw [hv]
  · rw [hv]
  · rw [show w.quarter q = u.quarter q by rw [State.quarter, hw.only, hv]; rfl]
    rw [show u.quarter q = _ from State.quarter_modQuarter_same ..]

end ApplySent

section SentUnit
variable {s : State} {o : Sent} {unit off : Nat} {b : List Byte} (hs : s.ms.sent = [o]) (hu : o.left[unit]? = some (off, b))
  (hh : s.hostHeld none o.pa = false)
include hs hu hh

theorem sentUnit_compares : s.sentUnit o.id unit = s.compareSent o off b := by
  have hfind : (s.ms.sent.find? fun x => x.id = o.id) = some o := by rw [hs]; simp
  have hbehind : s.sentBehind o off b.length = false := by simp [State.sentBehind, hs]
  rw [State.sentUnit, hfind]
  dsimp only
  rw [hu]
  dsimp only
  rw [hh, hbehind]
  rfl

/-- A write that the check lets through is applied. -/
theorem sentUnit_applies (h : o.compared = true ∨ s.overlapFires o.tenant o.pa o.size (0x10000 + o.core * 4 + o.engid) 0 = false) :
    ∃ u, s.sentUnit o.id unit = u.applySent o off b ∧ (u = s ∨ u = s.modSent o.id fun y => { y with compared := true }) := by
  rw [sentUnit_compares hs hu hh, State.compareSent]
  by_cases hc : o.compared = true
  · exact ⟨s, if_pos hc, .inl rfl⟩
  · rw [if_neg hc, if_neg (by simp [h.resolve_left hc])]
    exact ⟨_, rfl, .inr rfl⟩

theorem sentUnit_refused (hc : o.compared = false)
    (h : s.overlapFires o.tenant o.pa o.size (0x10000 + o.core * 4 + o.engid) 0 = true) :
    s.sentUnit o.id unit = (s.dropSent o.id).sentFails o { engid := o.engid, code := 0x0D, detail := 0, addr := o.va } := by
  rw [sentUnit_compares hs hu hh, State.compareSent, if_neg (by simp [hc]), if_pos h]

end SentUnit

end Sys2Proof.Machine

/-! # Proofs: what the drays read, and the thaw of engines (R28, R31, R40, R78, R81–R83, R177, R316–R318) -/

namespace Sys2Proof.Machine

/-! ## The thaw of an engine (R40) -/

section Thaw
variable {s : State} {core d q : Nat}

/-- The launch that an engine froze for has ended as faulted. -/
def State.Faulted (s : State) (l : Nat) : Prop := (s.launch l).ended = true ∧ (s.launch l).status = 0x0C

theorem thaw_dray (hf : ((s.core core).dray d).frozen = true) (h : s.Faulted ((s.core core).dray d).blame) :
    exec (.engineThaw (.dray core d)) s = .next (s.modDray core d fun x => { x with frozen := false }) := by
  obtain ⟨he, hst⟩ := h
  rw [exec_engineThaw]
  exact if_pos (by simp [hf, he, hst])

theorem thaw_dray_idle (h : ((s.core core).dray d).frozen = false ∨ (s.launch ((s.core core).dray d).blame).ended = false ∨
    (s.launch ((s.core core).dray d).blame).status ≠ 0x0C) : exec (.engineThaw (.dray core d)) s = .next s := by
  rw [exec_engineThaw]
  refine if_neg ?_
  obtain h | h | h := h <;> simp [h]

theorem modDray_leaves (s : State) (core d : Nat) (f : Dray → Dray) : s.OnlyCore (s.modDray core d f) core ∧
    (s.modDray core d f).core core = { s.core core with drays := fput (s.core core).drays d (f ((s.core core).dray d)) } :=
  ⟨⟨rfl, fun _ hn => (State.core_modDray ..).trans (if_neg hn), fun _ => rfl, fun _ => rfl⟩,
    (State.core_modDray ..).trans (if_pos rfl)⟩

theorem thaw_collective (hf : (s.quarter q).collFrozen = true) (h : s.Faulted (s.quarter q).collBlame) :
    exec (.engineThaw (.collective q)) s = .next (s.modQuarter q fun x => { x with collFrozen := false }) := by
  obtain ⟨he, hst⟩ := h
  rw [exec_engineThaw]
  exact if_pos (by simp [hf, he, hst])

theorem modQuarter_leaves (s : State) (q : Nat) (f : Quarter → Quarter) :
    s.OnlyQuarter (s.modQuarter q f) q ∧ (s.modQuarter q f).quarter q = f (s.quarter q) :=
  ⟨⟨rfl, fun _ h => State.quarter_modQuarter_ne _ _ _ _ h, fun _ => rfl, fun _ => rfl, fun _ _ => rfl⟩,
    State.quarter_modQuarter_same ..⟩

end Thaw

/-! ## The fields of a descriptor (R316) -/

/-- A command has the fields of a row. -/
structure DrayCmd.HasFields (c' c : DrayCmd) (row : List Byte) : Prop where
  started : c'.started = true
  src : c'.src = BitVec.ofNat 64 (ofBytes (row.take 8))
  dst : c'.dst = BitVec.ofNat 64 (ofBytes ((row.drop 8).take 8))
  rowlen : c'.rowlen = ofBytes ((row.drop 16).take 4)
  rows : c'.rows = ofBytes ((row.drop 20).take 4)
  sstride : c'.sstride = (BitVec.ofNat 64 (ofBytes ((row.drop 24).take 8))).toInt
  dstride : c'.dstride = (BitVec.ofNat 64 (ofBytes ((row.drop 32).take 8))).toInt
  owner : c'.owner = c.owner
  token : c'.token = c.token

theorem parse2_hasFields (c : DrayCmd) (row : List Byte) : (c.parse2 row).HasFields c row :=
  ⟨rfl, rfl, rfl, rfl, rfl, rfl, rfl, rfl, rfl⟩

/-! ## A unit of a line, read (R28, R31, R81–R83) -/

section Read
variable {s : State} {core d : Nat} {c : DrayCmd} (hr : ((s.core core).dray d).running = some c)

/-- The command has one more unit of its line. -/
def DrayCmd.read (c : DrayCmd) (u : Nat) (b : List Byte) : DrayCmd := { c with got := fput c.got u b }

/-- The command stops, and stands after the line that it could not move. -/
def DrayCmd.stopped (c : DrayCmd) (f : EngineFault) : DrayCmd := DrayCmd.advance { c with ending := some (.error f) }

include hr

theorem engineCmd_running : s.engineCmd (c.engine core d) = some c := hr

theorem heldBy_running : s.heldBy (c.engine core d) = c.held := by rw [State.heldBy, engineCmd_running hr]; rfl

/-- A unit that cannot be read: the command stops, and stands after the line. -/
theorem lineFails_here (hs : c.started = true) (hb : c.bad = false) (he : c.ending = none) {f : EngineFault} (hf : f.code ≠ 4) :
    s.Reads (s.lineFails core d f) core d (c.stopped f) := by
  rw [State.lineFails, failDray_stops hr he hf hs hb]
  exact reads_modRunning (passes_modRunning (passes_refl s core) hr fun x => { x with ending := some (.error f) }) DrayCmd.advance

/-- A unit from the scratchpad. -/
theorem readUnit_scratch (hserved : s.spanServed core d (s.nextRead c) = true) (hk : (s.nextRead c).kind = 1)
    (hf : s.pieceFault (c.engine core d) (s.nextRead c) false = none) : s.Reads (s.readUnit core d c) core d
      (c.read (s.pickUnit c.unread) (mread (s.core core).scratch (s.nextRead c).addr.toNat 16)) := by
  have hp : s.readPiece (c.engine core d) (s.nextRead c) c.lineSrc =
      (.ok (mread (s.core core).scratch (s.nextRead c).addr.toNat 16), s) := readPiece_scratch hk hf
  rw [readUnit_ok hserved hp]
  exact readUnit_passes hr

section Stops
variable (hs : c.started = true) (hb : c.bad = false) (he : c.ending = none)
include hs hb he

theorem readUnit_scratch_fails (hserved : s.spanServed core d (s.nextRead c) = true) (hk : (s.nextRead c).kind = 1) {n unit : Nat}
    (hn : n ≠ 4) (hf : s.pieceFault (c.engine core d) (s.nextRead c) false = some (n, unit)) :
    s.Reads (s.readUnit core d c) core d (c.stopped ((c.engine core d).fault n unit (s.nextRead c))) := by
  rw [readUnit_fails hserved (readPiece_fails hk hf)]
  exact lineFails_here hr hs hb he hn

end Stops

section Global
variable (hk : (s.nextRead c).kind = 0)
include hk

omit hr in
theorem served : s.spanServed core d (s.nextRead c) = true := spanServed_global s core d (by rw [hk]; exact Nat.zero_ne_one)

section HeldLine
variable {h : HeldLine} (hh : (c.held.find? fun h => (h.line : Int) = (s.nextRead c).addr / 256) = some h)
  (hhost : s.hostHeld none (h.pa + ((s.nextRead c).addr % 256).toNat) = false)
  (hback : s.backed (h.pa + ((s.nextRead c).addr % 256).toNat) = true)
include hh hhost hback

theorem readUnit_held_poisoned (hs : c.started = true) (hb : c.bad = false) (he : c.ending = none)
    (hp : s.poisoned (h.pa + ((s.nextRead c).addr % 256).toNat) = true) :
    s.Reads (s.readUnit core d c) core d (c.stopped ((c.engine core d).fault 0x14 2 (s.nextRead c))) := by
  rw [readUnit_fails (served hk) ((readPiece_held hk (by rwa [heldBy_running hr])).trans (readHeld_poisoned hhost hback hp))]
  exact lineFails_here hr hs hb he (by decide : (0x14 : Nat) ≠ 4)

theorem readUnit_held_reads (hp : s.poisoned (h.pa + ((s.nextRead c).addr % 256).toNat) = false) (hm : c.mixed = [])
    (hv : s.rivals none (h.pa + ((s.nextRead c).addr % 256).toNat) 16 h.size false = [])
    (ho : s.sentOver none (h.pa + ((s.nextRead c).addr % 256).toNat) 16 h.size = []) : s.Reads (s.readUnit core d c) core d
      (c.read (s.pickUnit c.unread) (mread s.mem (h.pa + ((s.nextRead c).addr % 256).toNat) 16)) := by
  have hmixed : ((s.engineCmd (c.engine core d)).map (·.mixed)).getD [] = [] := by rw [engineCmd_running hr]; exact hm
  rw [readUnit_ok (served hk) ((readPiece_held hk (by rwa [heldBy_running hr])).trans
    (readHeld_reads hhost hback hp hmixed hv ho))]
  exact readUnit_passes hr

end HeldLine

section NewLine
variable (hnone : (c.held.find? fun h => (h.line : Int) = (s.nextRead c).addr / 256) = none) (hlo : 0 ≤ (s.nextRead c).addr)
  (hhi : (s.nextRead c).addr < 2 ^ 55)
include hnone hlo hhi

/-- The address is not translated: it is asked for, and the command waits. -/
theorem readUnit_miss (hc : s.engineCheck (c.engine core d) (s.nextRead c).word { rd := true } = .miss) :
    s.Reads (s.readUnit core d c) core d { c with asked := some ((s.nextRead c).word.toNat / 0x10000) } ∧
      ∃ w, w ∈ ((s.readUnit core d c).quarter (quarterOf core)).walks ∧ w.tenant = c.tenant ∧
        w.page = (s.nextRead c).word.toNat / 0x10000 := by
  rw [readUnit_waitsWalk (served hk) (readPiece_miss hk (by rwa [heldBy_running hr]) hlo hhi hc)]
  refine ⟨?_, askWalkOf_walks s (quarterOf core) c.tenant (s.nextRead c).word false⟩
  have hpass : s.Passes (s.askWalkOf (quarterOf core) c.tenant (s.nextRead c).word false) core :=
    ⟨(askWalkOf_onlyQuarter ..).2.2, fun _ => rfl, rfl⟩
  exact passes_modRunning hpass hr fun x => { x with asked := some ((s.nextRead c).word.toNat / 0x10000) }

section Translated
variable {pa : Nat} {nb : Bool} (hc : s.engineCheck (c.engine core d) (s.nextRead c).word { rd := true } = .ok pa nb)
  (hback : s.backed pa = true) (hhost : s.hostHeld none pa = false)
include hc hback hhost

/-- Whether the overlap check refuses a line that is translated now. -/
def State.lineRefused (s : State) (core d : Nat) (c : DrayCmd) (pa : Nat) : Bool :=
  s.overlapFires c.tenant (pa - ((s.nextRead c).addr % 256).toNat + ((c.lineSrc.inLine (s.nextRead c).addr).addr % 256).toNat)
    (c.lineSrc.inLine (s.nextRead c).addr).size (c.engine core d).master 0

theorem readUnit_refused (hs : c.started = true) (hb : c.bad = false) (he : c.ending = none)
    (h : s.lineRefused core d c pa = true) :
    s.Reads (s.readUnit core d c) core d (c.stopped ((c.engine core d).fault 0x0D 0 (s.nextRead c))) := by
  rw [readUnit_fails (served hk) (readPiece_refused hk (by rwa [heldBy_running hr]) hlo hhi hc hback hhost h)]
  exact lineFails_here hr hs hb he (by decide : (0x0D : Nat) ≠ 4)

variable (hoff : ((s.nextRead c).addr % 256).toNat ≤ pa) (hopen : s.lineRefused core d c pa = false)
include hoff hopen

omit hr hk hnone hlo hhi hc hback hhost hopen in
/-- The line that is held from now on holds the unit at its address. -/
theorem newLine_pa : (s.newLine (s.nextRead c) c.lineSrc pa).pa + ((s.nextRead c).addr % 256).toNat = pa := Nat.sub_add_cancel hoff

/-- The command holds one more line. -/
def DrayCmd.hold (c : DrayCmd) (h : HeldLine) : DrayCmd := { c with held := c.held ++ [h] }

omit hk hnone hlo hhi hc hback hhost hoff hopen in
theorem hold_reads (h : HeldLine) : s.Reads (s.modRunning core d (·.hold h)) core d (c.hold h) :=
  passes_modRunning (passes_refl s core) hr (·.hold h)

omit hoff in
theorem readPiece_newLine : s.readPiece (c.engine core d) (s.nextRead c) c.lineSrc =
    (s.modRunning core d (·.hold (s.newLine (s.nextRead c) c.lineSrc pa))).readHeld (c.engine core d) (s.nextRead c)
      (s.newLine (s.nextRead c) c.lineSrc pa) :=
  readPiece_opens hk (by rwa [heldBy_running hr]) hlo hhi hc hback hhost hopen

theorem readUnit_opens_poisoned (hs : c.started = true) (hb : c.bad = false) (he : c.ending = none) (hp : s.poisoned pa = true) :
    s.Reads (s.readUnit core d c) core d (c.stopped ((c.engine core d).fault 0x14 2 (s.nextRead c))) := by
  have hh := hold_reads hr (s.newLine (s.nextRead c) c.lineSrc pa)
  have hread := readPiece_newLine hr hk hnone hlo hhi hc hback hhost hopen
  rw [readHeld_poisoned (by rw [newLine_pa hoff]; exact hhost) (by rw [newLine_pa hoff]; exact hback)
    (by rw [newLine_pa hoff]; exact hp)] at hread
  rw [readUnit_fails (served hk) hread]
  exact lineFails_stops (c := c.hold (s.newLine (s.nextRead c) c.lineSrc pa)) (congrArg Dray.running (moves_dray hh.2.2)) he
    (by decide : (0x14 : Nat) ≠ 4) hs hb hh

theorem readUnit_opens_reads (hp : s.poisoned pa = false) (hm : c.mixed = [])
    (hv : s.rivals none pa 16 (c.lineSrc.inLine (s.nextRead c).addr).size false = [])
    (ho : s.sentOver none pa 16 (c.lineSrc.inLine (s.nextRead c).addr).size = []) : s.Reads (s.readUnit core d c) core d
      ((c.read (s.pickUnit c.unread) (mread s.mem pa 16)).hold (s.newLine (s.nextRead c) c.lineSrc pa)) := by
  have hh := hold_reads hr (s.newLine (s.nextRead c) c.lineSrc pa)
  have hread := readPiece_newLine hr hk hnone hlo hhi hc hback hhost hopen
  have hrun : ((s.modRunning core d (·.hold (s.newLine (s.nextRead c) c.lineSrc pa))).engineCmd (c.engine core d)) =
      some (c.hold (s.newLine (s.nextRead c) c.lineSrc pa)) :=
    congrArg Dray.running (moves_dray hh.2.2)
  rw [readHeld_reads (by rw [newLine_pa hoff]; exact hhost) (by rw [newLine_pa hoff]; exact hback)
    (by rw [newLine_pa hoff]; exact hp) (by rw [hrun]; exact hm)
    (by rw [newLine_pa hoff]; exact hv) (by rw [newLine_pa hoff]; exact ho), newLine_pa hoff] at hread
  rw [readUnit_ok (served hk) hread]
  exact readUnit_reads hh

end Translated

end NewLine

end Global

end Read

/-! ## The one write on its way (R79, R81, R83) -/

section OneSent
variable {s : State} {o : Sent} {unit off : Nat} {b : List Byte} (hs : s.ms.sent = [o]) (hu : o.left[unit]? = some (off, b))
  (hh : s.hostHeld none o.pa = false)
include hs

omit hs in
/-- A write is not in its own way. -/
theorem sentOver_self (h : ∀ y ∈ s.ms.sent, y.id = o.id) (pa n size : Nat) : s.sentOver (some o.id) pa n size = [] := by
  rw [State.sentOver, List.filter_eq_nil_iff.mpr fun y hy => by simp [h y hy]]
  rfl

/-- The write is compared once. -/
def Sent.asCompared (y : Sent) : Sent := { y with compared := true }

theorem sent_compared : ∀ y ∈ (s.modSent o.id Sent.asCompared).ms.sent, y.id = o.id := by
  simp [State.modSent, State.modMs, hs, Sent.asCompared]

include hu hh

section Applies
variable (h : o.compared = true ∨ s.overlapFires o.tenant o.pa o.size (0x10000 + o.core * 4 + o.engid) 0 = false)
include h

theorem sentUnit_holds (hb : s.backed (o.pa + off) = true) (hm : Memory.wf s.mem = true) (hmixed : o.mixed = [])
    (hr : s.rivals none (o.pa + off) b.length o.size true = []) : s.Holds (s.sentUnit o.id unit) (o.pa + off) b := by
  obtain ⟨u, hunit, rfl | rfl⟩ := sentUnit_applies hs hu hh h
  · rw [hunit]
    exact applySent_holds hb hm hmixed hr (sentOver_self (by simp [hs]) ..)
  · rw [hunit]
    exact applySent_holds (s := s.modSent o.id Sent.asCompared) hb hm hmixed hr (sentOver_self (sent_compared hs) ..)

theorem sentUnit_discards (hb : s.backed (o.pa + off) = false) : s.SameBytes (s.sentUnit o.id unit) ∧
    ((s.sentUnit o.id unit).quarter (homeQuarter (o.pa + off))).discards = (s.quarter (homeQuarter (o.pa + off))).discards + 1 := by
  obtain ⟨u, hunit, rfl | rfl⟩ := sentUnit_applies hs hu hh h
  · rw [hunit]
    exact applySent_discards hb
  · rw [hunit]
    exact applySent_discards (s := s.modSent o.id Sent.asCompared) hb

end Applies

theorem sentUnit_drops (hc : o.compared = false)
    (h : s.overlapFires o.tenant o.pa o.size (0x10000 + o.core * 4 + o.engid) 0 = true) :
    s.SameBytes (s.sentUnit o.id unit) ∧ (s.sentUnit o.id unit).ms.sent = [] := by
  rw [sentUnit_refused hs hu hh hc h]
  have k := sentFails_onlyStops (s.dropSent o.id) o (f := { engid := o.engid, code := 0x0D, detail := 0, addr := o.va })
    (by decide : (0x0D : Nat) ≠ 4)
  refine ⟨sameBytes_trans (t := s.dropSent o.id) (sameBytes_of rfl rfl rfl) (onlyStops_sameBytes k), ?_⟩
  rw [k.only]
  simp [State.dropSent, State.modMs, hs]

end OneSent

/-! ## The obligation -/

/-- The descriptor of a command that a row gives. -/
theorem startDray_parses_leaves {s : State} {core d : Nat} {c : DrayCmd} (hr : ((s.core core).dray d).running = some c)
    (hk : c.kind = 1) (hf : s.pieceFault (c.engine core d) c.descriptor false = none) :
    s.SameBytes (s.startDray core d c parseRow) ∧
      s.Moves (s.startDray core d c parseRow) core d (c.parse2 (mread (s.core core).scratch c.row 64)) := by
  have h := passes_modRunning (servePort_passes s core d c.descriptor) hr fun _ => c.parse2 (mread (s.core core).scratch c.row 64)
  rw [startDray_parses hk hf]
  exact ⟨sameBytes_trans h.1 (modCtx_sameBytes ..), h.2.2⟩

/-- Settles O36: a command by its start, its lines and its end; a line by the units read and written; what is sent by its home. -/
theorem drayEvents_holds : Obligations.DrayEvents := by
  intro s core d q pa n unit off nb c o b h z x k e descriptor row waits runs reads tok record ends stops toRead toWrite apart held
    settled unmixed
  have hends (z : DrayEnd) : ends z (s.endRunning core d c z) := by
    have h := endRunning_ends s core d c z
    cases z <;> exact h
  have hheld : s.Held d c ↔ held := Iff.rfl
  refine ⟨dray_idle, fun hr hs hf he => ⟨transfer_unstarted hr hs, start_waits hr, fun hw hk => ?plain, fun hw hk hp hn => ?fails,
      fun hw hk hp => ?parses⟩,
    fun hr hs hf hk he => ⟨fun hb => ?bad, fun hb hm => ⟨transfer_moved hr hs hk (.inl hf) hb hm, fun hset => ?ends,
      complete_waits hr hs hb hk⟩, fun hb hh => transfer_held hr hs hk (.inl hf) hb he hh, fun hb hm hh hmem => ?acts⟩,
    fun hr hs hb hk he => ⟨fun hm hset => ?stopped, fun _ => complete_waits hr hs hb hk, fun hm hh hu hc => ?strays,
      fun hm hh hu => ?drops⟩,
    fun hs hu hh => ?sent, fun hf he hst => ?thaw, thaw_dray_idle, fun hf he hst => ?collective⟩
  case plain =>
    have h := modDray_leaves s core d (·.mapRunning fun x => { x with started := true })
    refine ⟨_, start_starts hr hs hf hw, ?_⟩
    rw [startDray_plain hk]
    exact ⟨h.1, beside_modRunning (beside_refl s core) hr fun x => { x with started := true }, by rw [core_modRunning, if_pos rfl]⟩
  case fails =>
    refine ⟨_, start_starts hr hs hf hw, ?_⟩
    rw [startDray_fails hr hk hs he hn hp]
    exact hends _
  case parses =>
    have h := startDray_parses_leaves hr hk hp
    obtain ⟨h1, h2, h3, h4, h5, h6, h7, h8, h9⟩ := parse2_hasFields c (mread (s.core core).scratch c.row 64)
    exact ⟨_, start_starts hr hs hf hw, h.1, _, h.2, h1, h2, h3, h4, h5, h6, h7, h8, h9⟩
  case bad => exact ⟨_, transfer_bad hr hs hk hf he hb, hends _⟩
  case ends =>
    refine ⟨_, complete_ends hr hs hb hk (.inl hf) hm hset, ?_⟩
    rw [he]
    exact hends _
  case stopped =>
    refine ⟨_, complete_ends hr hs hb hk (.inr (by simp [he])) hm hset, ?_⟩
    rw [he]
    exact hends _
  case strays => exact ⟨_, transfer_strays hr hs hk (.inr (by simp [he])) hb hm he hh hu hc, strayLine_reads hr⟩
  case drops =>
    exact ⟨_, transfer_drops hr hs hk (.inr (by simp [he])) hb hm he hh hu,
      passes_modRunning (passes_refl s core) hr fun c => { c.advance with atRow := c.rows }⟩
  case acts =>
    have hexec : exec (.drayLineTransfer core d) s = .next (s.actLine core d c) := transfer_acts hr hs hk (.inl hf) hb hm he hh
    refine ⟨fun hl => ?read, fun hl hd => ?write, fun hl hd hlo hhi ha hlen hc hback => ?send⟩
    case read =>
      obtain ⟨hz, hgot⟩ : c.zero = false ∧ _ := Bool.or_eq_false_iff.mp hl
      have hunread : c.unread = toRead := by rw [DrayCmd.unread, hz]; rfl
      have hact : exec (.drayLineTransfer core d) s = .next (s.readUnit core d c) := by rw [hexec, State.actLine, hl]; rfl
      dsimp only
      rw [← hunread]
      refine ⟨pickUnit_mem s, fun h => by rw [hact, readUnit_waits h], fun hp hk hf => ⟨_, hact, readUnit_scratch hr hp hk hf⟩,
        fun hp hk hf hn => ⟨_, hact, readUnit_scratch_fails hr hs hb he hp hk hn hf⟩, fun hk hh hhost hback =>
          ⟨fun hp => ⟨_, hact, readUnit_held_poisoned hr hk hh hhost hback hs hb he hp⟩, fun hp hun => ?_⟩,
        fun hk hnone hlo hhi => ⟨fun hc => ⟨_, hact, readUnit_miss hr hk hnone hlo hhi hc⟩, fun hc hback hhost hoff =>
          ⟨fun h => ⟨_, hact, readUnit_refused hr hk hnone hlo hhi hc hback hhost hs hb he h⟩, fun h hp =>
            ⟨_, hact, readUnit_opens_poisoned hr hk hnone hlo hhi hc hback hhost hoff h hs hb he hp⟩, fun h hp hun => ?_⟩⟩⟩
      · obtain ⟨hm, hv, ho⟩ := hun
        exact ⟨_, hact, readUnit_held_reads hr hk hh hhost hback hp hm hv ho⟩
      · obtain ⟨hm, hv, ho⟩ := hun
        exact ⟨_, hact, readUnit_opens_reads hr hk hnone hlo hhi hc hback hhost hoff h hp hm hv ho⟩
    case write =>
      have hact : exec (.drayLineTransfer core d) s = .next (s.writeUnit core d c) := by rw [hexec, State.actLine, hl, hd]; rfl
      exact fun hp hf ha hlen => ⟨_, hact, writeUnit_leaves hr hmem hd hp hf ha hlen⟩
    case send =>
      have hact : exec (.drayLineTransfer core d) s = .next (s.sendLine core d c) := by rw [hexec, State.actLine, hl, hd]; rfl
      exact ⟨_, hact, sendLine_leaves hr hd hlo hhi ha hlen hc hback⟩
  case sent =>
    refine ⟨fun h hback hm hv hmem => ?_, fun h hback => ?_, fun hc h he => ?_⟩
    · exact sentUnit_holds hs hu hh h hback (memoriesOk_mem hmem) hm hv
    · exact sentUnit_discards hs hu hh h hback
    · exact sentUnit_drops hs hu hh hc h
  case thaw => exact ⟨_, thaw_dray hf ⟨he, hst⟩, modDray_leaves ..⟩
  case collective => exact ⟨_, thaw_collective hf ⟨he, hst⟩, modQuarter_leaves ..⟩

end Sys2Proof.Machine

/-! # Proofs: what a reduction, a gather and a broadcast leave (R113, R319) -/

namespace Sys2Proof.Machine

/-! ## Sums over the fixed tree (R113) -/

theorem intOf_emod (n : Nat) : intOf 32 n % 2 ^ 32 = (n : Int) % 2 ^ 32 := by
  unfold intOf
  split <;> omega

/-- The sum of 32-bit integers wraps. -/
theorem combine_add {y : Coll} (ht : y.type = 2) (hr : y.red = 0) (a b : Nat) : y.combine a b = (a + b) % 2 ^ 32 := by
  have h : y.combine a b = ((intOf 32 a + intOf 32 b) % 2 ^ 32).toNat % 2 ^ 32 := by
    unfold Coll.combine Coll.elemSize
    rw [ht, hr]
    rfl
  have ha := intOf_emod a
  have hb := intOf_emod b
  rw [h]
  omega

section Tree
variable {m : Nat} {f : Nat → Nat → Nat} (hf : ∀ a b, f a b = (a + b) % m)
include hf

theorem treeUp_sum (l : List Nat) : (treeUp f l).sum % m = l.sum % m := by
  induction l using treeUp.induct with
  | case1 a b l ih =>
    rw [treeUp, List.sum_cons, List.sum_cons, List.sum_cons, hf, Nat.mod_add_mod, Nat.add_mod, ih, ← Nat.add_mod, Nat.add_assoc]
  | case2 l h => rw [treeUp.eq_2 f l h]

theorem treeUp_lt (hm : 0 < m) (l : List Nat) (hl : ∀ a ∈ l, a < m) : ∀ a ∈ treeUp f l, a < m := by
  induction l using treeUp.induct with
  | case1 a b l ih =>
    rw [treeUp, List.forall_mem_cons]
    exact ⟨by rw [hf]; exact Nat.mod_lt _ hm, ih fun c hc => hl c (by simp [hc])⟩
  | case2 l h => rw [treeUp.eq_2 f l h]; exact hl

omit hf in
theorem treeUp_length (l : List Nat) : (treeUp f l).length = (l.length + 1) / 2 := by
  induction l using treeUp.induct with
  | case1 a b l ih => rw [treeUp, List.length_cons, ih, List.length_cons, List.length_cons]; omega
  | case2 l h =>
    match l, h with
    | [], _ => rfl
    | [a], h => rw [treeUp.eq_2 f [a] h, List.length_singleton]
    | a :: b :: l, h => exact absurd rfl (h a b l)

/-- The fixed tree of wrapping sums is the wrapped sum. -/
theorem fixedTree_sum (hm : 0 < m) (n : Nat) (l : List Nat) (hlen : l.length ≤ n) (hl : ∀ a ∈ l, a < m) :
    fixedTree f n l = l.sum % m := by
  induction n generalizing l with
  | zero => rw [List.eq_nil_of_length_eq_zero (Nat.le_zero.mp hlen)]; exact (Nat.zero_mod m).symm
  | succ n ih =>
    match l, hlen with
    | [], _ => exact (Nat.zero_mod m).symm
    | [a], _ => rw [List.sum_singleton, Nat.mod_eq_of_lt (hl a (by simp))]; rfl
    | a :: b :: l, hlen =>
      have hup : (treeUp f (a :: b :: l)).length ≤ n := by
        rw [treeUp_length, List.length_cons, List.length_cons]
        simp only [List.length_cons] at hlen
        omega
      calc fixedTree f (n + 1) (a :: b :: l) = fixedTree f n (treeUp f (a :: b :: l)) := rfl
        _ = (treeUp f (a :: b :: l)).sum % m := ih _ hup (treeUp_lt hf hm _ hl)
        _ = (a :: b :: l).sum % m := treeUp_sum hf _

end Tree

/-! ## Results -/

/-- The elements of a rank's source, cut to their size. -/
def Coll.source (y : Coll) (src : List (Nat × List Nat)) (fresh q : Nat) : List Nat :=
  (sourceElems src fresh q y.count).map fun v => v % 2 ^ (8 * y.elemSize)

section Result
variable {y : Coll} (src : List (Nat × List Nat)) (fresh rank : Nat)

/-- An element of a sum of 32-bit integers over all ranks. -/
theorem fixedTree_sources (ht : y.type = 2) (hr : y.red = 0) (e : Nat) :
    fixedTree y.combine y.size (((List.range y.size).map (y.source src fresh)).map fun v => v.getD e 0) =
      ((List.range y.size).map fun q => (y.source src fresh q).getD e 0).sum % 2 ^ 32 := by
  rw [List.map_map]
  refine fixedTree_sum (combine_add ht hr) (by decide) _ _ (by simp) fun a ha => ?_
  obtain ⟨q, -, rfl⟩ := List.mem_map.mp ha
  have hsize : y.elemSize = 4 := by rw [Coll.elemSize, ht]; rfl
  simp only [Function.comp_apply, Coll.source, hsize, List.getD_eq_getElem?_getD, List.getElem?_map]
  cases (sourceElems src fresh q y.count)[e]? with
  | none => decide
  | some v => exact Nat.mod_lt _ (by decide)

theorem result_allreduce {e : Nat} (ho : y.op = 0) (ht : y.type = 2) (hr : y.red = 0) (he : e < y.count) :
    (y.result true src fresh rank).getD e 0 =
      ((List.range y.size).map fun q => (y.source src fresh q).getD e 0).sum % 2 ^ 32 := by
  rw [← fixedTree_sources src fresh ht hr]
  simp only [Coll.result, ho, List.getD_eq_getElem?_getD, List.getElem?_map, List.getElem?_range he]
  rfl

theorem result_reduceScatter {e : Nat} (ho : y.op = 1) (ht : y.type = 2) (hr : y.red = 0) (he : e < y.count / y.size) :
    (y.result true src fresh rank).getD e 0 =
      ((List.range y.size).map fun q => (y.source src fresh q).getD (rank * (y.count / y.size) + e) 0).sum % 2 ^ 32 := by
  rw [← fixedTree_sources src fresh ht hr]
  simp only [Coll.result, ho, List.getD_eq_getElem?_getD, List.getElem?_map, List.getElem?_range he]
  rfl

theorem result_gather (ho : y.op = 2) : y.result true src fresh rank = ((List.range y.size).map (y.source src fresh)).flatten := by
  rw [Coll.result, ho]
  rfl

theorem result_broadcast (ho : y.op = 3) (h : 0 < y.size) : y.result true src fresh rank = y.source src fresh 0 := by
  obtain ⟨n, hn⟩ := Nat.exists_eq_succ_of_ne_zero h.ne'
  rw [Coll.result, ho, hn, List.range_succ_eq_map]
  rfl

end Result

/-! ## Pieces of results -/

theorem cutPieces_fst (l : List CollLine) (b : List Byte) : (cutPieces l b).map (·.1) = l := by
  induction l generalizing b with
  | nil => rfl
  | cons x l ih => rw [cutPieces, List.map_cons, ih]

theorem cutPieces_bytes (l : List CollLine) (b : List Byte) : (cutPieces l b).flatMap (·.2) = b.take (l.map (·.size)).sum := by
  induction l generalizing b with
  | nil => rfl
  | cons x l ih => rw [cutPieces, List.flatMap_cons, ih, List.map_cons, List.sum_cons, List.take_add]

end Sys2Proof.Machine

/-! # Proofs: the operation of a group (R28, R113, R185, R319) -/

namespace Sys2Proof.Machine

theorem exec_collectiveComplete (q : Nat) (s : State) : exec (.collectiveComplete q) s = execCollectiveComplete q s := rfl
theorem exec_collectiveAbort (g : Nat) (s : State) : exec (.collectiveAbort g) s = execCollectiveAbort g s := rfl

theorem ffind_fput_same {β : Type} (m : FMap β) (k : Nat) (v : β) : ffind (fput m k v) k = some v := by
  induction m with
  | nil => simp [fput, ffind]
  | cons e l ih =>
    obtain ⟨x, w⟩ := e
    simp only [fput]
    split
    · simp [ffind]
    · split
      · simp [ffind]
      · next hx _ => simp [ffind, hx, ih]

/-! ## The operation that runs in a group -/

/-- A group, otherwise as it was, runs an operation. -/
def State.RunsGroup (t : State) (g : Nat) (x : Group) (r : CollRun) : Prop :=
  ∃ y, ffind t.pf.groups g = some y ∧ y.run = some r ∧ y.members = x.members ∧ y.done = x.done

theorem ffind_modGroup {s : State} {g : Nat} {x : Group} (h : ffind s.pf.groups g = some x) (f : Group → Group) :
    ffind (s.modGroup g f).pf.groups g = some (f x) := by
  rw [modGroup_some h]
  exact ffind_fput_same ..

theorem setRun_runs {s : State} {g : Nat} {x : Group} (h : ffind s.pf.groups g = some x) (r : CollRun) : (s.setRun g r).RunsGroup g x r :=
  ⟨_, ffind_modGroup h _, rfl, rfl, rfl⟩

theorem setRun_onlyStops (s : State) (g : Nat) (r : CollRun) : s.OnlyStops (s.setRun g r) := modGroup_onlyStops ..

/-- The operation has stopped. -/
theorem stopRun_stops {s : State} {g : Nat} {x : Group} (h : ffind s.pf.groups g = some x) (r : CollRun) :
    ∃ y r', ffind (s.stopRun g r).pf.groups g = some y ∧ y.done = x.done + 1 ∧ y.run = some r' ∧ r'.stopped = true := by
  unfold State.stopRun
  cases r.writes <;> exact ⟨_, _, ffind_modGroup (ffind_modGroup h _) _, rfl, rfl, rfl⟩

theorem stopRun_core (s : State) (g n : Nat) (r : CollRun) : (s.stopRun g r).core n = s.core n := by
  unfold State.stopRun
  cases r.writes <;> rfl

/-! ## A piece that is read leaves the bytes and the groups -/

/-- The bytes and the groups are as before. -/
def State.Probes (s t : State) : Prop := s.SameBytes t ∧ t.pf.groups = s.pf.groups

theorem probes_refl (s : State) : s.Probes s := ⟨sameBytes_refl s, rfl⟩

theorem probes_trans {s t u : State} (h : s.Probes t) (k : t.Probes u) : s.Probes u :=
  ⟨sameBytes_trans h.1 k.1, k.2.trans h.2⟩

theorem modRunning_probes (s : State) (core d : Nat) (f : DrayCmd → DrayCmd) : s.Probes (s.modRunning core d f) :=
  ⟨modRunning_sameBytes .., rfl⟩

theorem tellAbsent_probes (s : State) (who pa va : Nat) : s.Probes (s.tellAbsent who pa va) := by
  refine ⟨by rw [tellAbsent_eq]; exact sameBytes_of rfl rfl rfl, ?_⟩
  unfold State.tellAbsent
  dsimp only
  split <;> rfl

theorem askEngine_probes (s : State) (e : Engine) (va : Word) (n : Need) : s.Probes (s.askEngine e va n) :=
  probes_trans (t := s.askWalkOf (quarterOf e.core) e.tenant va n.wr) ⟨(askWalkOf_onlyQuarter ..).2.2, rfl⟩ (modRunning_probes ..)

theorem mixOver_probes (s : State) (m : List (Nat × Byte)) (r : List (Nat × Access)) (n : Nat) : s.Probes (s.mixOver m r n) := by
  unfold State.mixOver
  split
  · exact probes_refl s
  · exact ⟨sameBytes_of rfl rfl rfl, rfl⟩

theorem readHeld_probes (s : State) (e : Engine) (p : Span) (h : HeldLine) : s.Probes (s.readHeld e p h).2 := by
  unfold State.readHeld
  dsimp only
  split
  · exact probes_refl s
  · split
    · exact tellAbsent_probes ..
    · split
      · exact probes_refl s
      · exact mixOver_probes ..

theorem enginePa_probes (s : State) (e : Engine) (p : Span) (n : Need) : s.Probes (s.enginePa e p n).2 := by
  unfold State.enginePa
  split
  · exact probes_refl s
  · split
    · split
      · exact probes_refl s
      · exact tellAbsent_probes ..
    · exact probes_refl s
    · exact askEngine_probes ..

theorem readPiece_probes {s u : State} {e : Engine} {p whole : Span} {x : Try (List Byte)} (h : s.readPiece e p whole = (x, u)) :
    s.Probes u := by
  suffices k : s.Probes (s.readPiece e p whole).2 by rw [h] at k; exact k
  clear h
  unfold State.readPiece
  split
  · split
    · exact readHeld_probes ..
    · have hpa := enginePa_probes s e p { rd := true }
      split
      · next heq => rw [heq] at hpa; exact hpa
      · next heq => rw [heq] at hpa; exact hpa
      · next heq =>
        rw [heq] at hpa
        dsimp only
        split
        · exact hpa
        · split
          · exact hpa
          · exact probes_trans hpa (probes_trans (modRunning_probes ..) (readHeld_probes ..))
  · split <;> exact probes_refl s
  · split
    · exact probes_refl s
    · split <;> exact probes_refl s

/-! ## The commands that drays run -/

/-- The command that a dray runs. -/
def State.runningAt (s : State) (core d : Nat) : Option DrayCmd := ((s.core core).dray d).running

theorem runningAt_modRunning (s : State) (core d n j : Nat) (f : DrayCmd → DrayCmd) : (s.modRunning core d f).runningAt n j =
    if n = core ∧ j = d then (s.runningAt core d).map f else s.runningAt n j := by
  rw [State.runningAt, core_modRunning]
  by_cases hn : n = core
  · subst hn
    rw [if_pos rfl]
    rw [show CoreState.dray { s.core n with drays := _ } j = _ from CoreState.dray_fput ..]
    by_cases hj : j = d
    · rw [if_pos hj, if_pos ⟨rfl, hj⟩]; rfl
    · rw [if_neg hj, if_neg fun h => hj h.2]; rfl
  · rw [if_neg hn, if_neg fun h => hn h.1]; rfl

/-- A command that is to end in a way, unless it ends in another already. -/
def DrayCmd.endWith (e : DrayEnd) (c : DrayCmd) : DrayCmd := if c.ending.isSome then c else { c with ending := some e }

theorem endWith_eq (e : DrayEnd) (c : DrayCmd) : c.endWith e = { c with ending := some (c.ending.getD e) } := by
  rw [DrayCmd.endWith]
  cases h : c.ending with
  | none => rfl
  | some z => rw [if_pos Option.isSome_some, Option.getD_some, ← h]

theorem endParts_ctxs (s : State) (l : List Part') (e : Part' → DrayEnd) : (s.endParts l e).ctxs = s.ctxs := by
  induction l generalizing s with
  | nil => rfl
  | cons p l ih => exact (ih _).trans rfl

/-- All that are to end in one way end so, however often they are told. -/
theorem endParts_running {s : State} {e : DrayEnd} {l : List Part'} {core d : Nat} {c : DrayCmd}
    (h : s.runningAt core d = some c ∧ (∃ q ∈ l, q.1 = core ∧ q.2.1 = d) ∨ s.runningAt core d = some (c.endWith e)) :
    (s.endParts l fun _ => e).runningAt core d = some (c.endWith e) := by
  induction l generalizing s with
  | nil =>
    obtain ⟨-, q, hq, -⟩ | h := h
    · cases hq
    · exact h
  | cons p l ih =>
    refine ih (s := s.modRunning p.1 p.2.1 (·.endWith e)) ?_
    rw [runningAt_modRunning]
    by_cases hp : core = p.1 ∧ d = p.2.1
    · obtain ⟨rfl, rfl⟩ := hp
      rw [if_pos ⟨rfl, rfl⟩]
      obtain ⟨h, -⟩ | h := h
      · exact .inr (by rw [h]; rfl)
      · refine .inr ?_
        rw [h, Option.map_some, endWith_eq e (c.endWith e), endWith_eq]
        rfl
    · rw [if_neg hp]
      obtain ⟨h, q, hq, hcore, hdray⟩ | h := h
      · refine .inl ⟨h, q, (List.mem_cons.mp hq).resolve_left ?_, hcore, hdray⟩
        rintro rfl
        exact hp ⟨hcore.symm, hdray.symm⟩
      · exact .inr h

/-! ## The parts of an operation (R319) -/

theorem runParts_running {s : State} {r : CollRun} {q : Part'} (h : q ∈ s.runParts r) :
    ((s.core q.1).dray q.2.1).running = some q.2.2 := by
  obtain ⟨n, -, hn⟩ := List.mem_filterMap.mp h
  obtain ⟨c, hc, rfl⟩ := Option.map_eq_some_iff.mp hn
  exact hc

theorem pickPiece_single {α : Type} (s : State) (at' : α → CollLine) (x : α) : s.pickPiece at' x [] = x := by
  simp [State.pickPiece, CollLine.sameLine, Nat.mod_one]

section Line
variable {s : State} {g : Nat} {x : Group} (hx : ffind s.pf.groups g = some x)
include hx

theorem collLine_begins (hr : x.run = none) (hready : s.collReady g x = true) (hm : mismatched (s.participants g) = false) :
    (s.collLine g).RunsGroup g x { parts := (s.participants g).map fun q => (q.1, q.2.1), reads := (s.participants g).flatMap sourcePieces } := by
  have h : s.collLine g = s.collBegin g := by simp only [State.collLine, hx, hr, hready, hm]; rfl
  rw [h]
  exact setRun_runs hx _

variable {r : CollRun} (hr : x.run = some r)
include hr

theorem collLine_reads {piece : CollLine} (hreads : r.reads = [piece]) : s.collLine g = s.collRead g r piece [] := by
  simp only [State.collLine, hx, hr, hreads]

theorem collLine_makes (hreads : r.reads = []) (hw : r.writes = none) : s.collLine g = s.collMake g r := by
  simp only [State.collLine, hx, hr, hreads, hw]

theorem collLine_writes {y : CollLine × List Byte} (hreads : r.reads = []) (hw : r.writes = some [y]) :
    s.collLine g = s.collWrite g r y [] := by
  simp only [State.collLine, hx, hr, hreads, hw]

section Read
variable {u : State} {piece : CollLine} {p : Part'} (hreads : r.reads = [piece]) (hp : s.pieceOwner piece = some p)
include hreads hp

/-- A piece that is read stands among those of its operation. -/
theorem collRead_ok {b : List Byte} (h : s.readPiece (collEngine p) piece.span (sourceSpan p) = (.ok b, u)) :
    (s.collLine g).RunsGroup g x { r with reads := [], got := r.got ++ [(piece, b)] } ∧ s.SameBytes (s.collLine g) := by
  have hprobe := readPiece_probes h
  rw [collLine_reads hx hr hreads, State.collRead]
  dsimp only
  rw [pickPiece_single, hp]
  dsimp only
  rw [h, hreads]
  dsimp only
  have hleft : [piece].filter (· != piece) = [] := by simp
  rw [hleft, List.any_nil, if_neg Bool.false_ne_true]
  have hmod (f : DrayCmd → DrayCmd) : s.Probes { u.modRunning piece.core piece.dray f with fresh := u.fresh + 1 } :=
    probes_trans hprobe ⟨(modRunning_probes u piece.core piece.dray f).1, rfl⟩
  refine ⟨setRun_runs (by rw [(hmod _).2]; exact hx) _, sameBytes_trans (hmod _).1 (onlyStops_sameBytes (setRun_onlyStops ..))⟩

/-- A source that cannot be read stops the operation. -/
theorem collRead_fails {f : EngineFault} {q : Part'} (h : s.readPiece (collEngine p) piece.span (sourceSpan p) = (.fail f, u))
    (hs : r.stopped = false) (hq : u.runParts r = [q]) (hcore : q.1 = p.1) (hdray : q.2.1 = p.2.1) (he : q.2.2.ending = none)
    (hf : f.code ≠ 4) : s.SameBytes (s.collLine g) ∧
      (((s.collLine g).core q.1).dray q.2.1).running = some { q.2.2 with ending := some (.error f) } ∧
      ∃ y r', ffind (s.collLine g).pf.groups g = some y ∧ y.done = x.done + 1 ∧ y.run = some r' ∧ r'.stopped = true := by
  have hprobe := readPiece_probes h
  let w := u.endParts [q] fun q => if q.1 = p.1 && q.2.1 = p.2.1 then .error f else .done 1
  have hline : s.collLine g = w.stopRun g { r with reads := r.reads.filter (· != piece) } := by
    have hparts : u.runParts { r with reads := r.reads.filter (· != piece) } = [q] := hq
    rw [collLine_reads hx hr hreads, State.collRead]
    dsimp only
    rw [pickPiece_single, hp]
    dsimp only
    rw [h]
    dsimp only
    rw [State.collFail, if_neg (by simp [hs]), if_neg hf, hparts]
  have hend : w.runningAt q.1 q.2.1 = some (q.2.2.endWith (.error f)) := by
    show (u.modRunning q.1 q.2.1 (DrayCmd.endWith (if q.1 = p.1 && q.2.1 = p.2.1 then .error f else .done 1))).runningAt q.1 q.2.1 = _
    rw [runningAt_modRunning, if_pos ⟨rfl, rfl⟩, show u.runningAt q.1 q.2.1 = _ from runParts_running (by rw [hq]; simp)]
    simp [hcore, hdray]
  rw [hline]
  refine ⟨sameBytes_trans hprobe.1 (sameBytes_trans (t := w) ?_ ?_), ?_, stopRun_stops ?_ _⟩
  · exact onlyStops_sameBytes (endParts_onlyStops ..)
  · exact onlyStops_sameBytes (stopRun_onlyStops ..)
  · rw [stopRun_core]
    refine hend.trans ?_
    rw [DrayCmd.endWith, he]
    rfl
  · show ffind u.pf.groups g = _
    rw [hprobe.2]; exact hx

end Read

omit hx hr in
/-- What one participant's destination gets. -/
theorem collOut_single {p : Part'} (hp : s.runParts r = [p]) (ho : overlaid [p] p = false) : s.collOut r =
    cutPieces (destPieces p) (destBytes (s.launch p.2.2.launch).det (r.sources [p]) s.fresh p) := by
  simp [State.collOut, State.destOut, hp, ho]

theorem collMake_leaves (hs : r.stopped = false) (hreads : r.reads = []) (hw : r.writes = none) :
    (s.collLine g).RunsGroup g x { r with writes := some (s.collOut r) } ∧ s.SameBytes (s.collLine g) := by
  have h : s.collLine g = ({ s with fresh := s.fresh + s.collFresh r } : State).setRun g { r with writes := some (s.collOut r) } := by
    rw [collLine_makes hx hr hreads hw, State.collMake]
    exact if_neg (by simp [hs])
  rw [h]
  exact ⟨setRun_runs hx _, sameBytes_of rfl rfl rfl⟩

section Write
variable {piece : CollLine} {b : List Byte} {p : Part'} (hreads : r.reads = []) (hw : r.writes = some [(piece, b)])
  (hp : s.pieceOwner piece = some p) (hh : s.watchHolds 2 p.2.2 = false)
include hreads hw hp hh

/-- A piece that is written, or sent, is written no more. -/
theorem collWrite_ok {t : State} (h : s.writePiece (collEngine p) piece.span b = (.ok (), t)) :
    ∃ v : State, s.collLine g = v.setRun g { r with writes := some [] } ∧ v = { t with ctxs := v.ctxs, fresh := v.fresh } := by
  have hline : s.collLine g = ({ (if piece.kind = 0 || (piece.addr + piece.size) % 256 = 0 then t.lineMoved 2 p.2.2 else t) with
      fresh := (if piece.kind = 0 || (piece.addr + piece.size) % 256 = 0 then t.lineMoved 2 p.2.2 else t).fresh + 1 } : State).setRun g
        { r with writes := some [] } := by
    rw [collLine_writes hx hr hreads hw, State.collWrite]
    dsimp only
    rw [pickPiece_single, hp]
    dsimp only
    rw [hh, if_neg Bool.false_ne_true, h, hw]
    simp
  refine ⟨_, hline, ?_⟩
  split <;> rfl

/-- A piece of staging. -/
theorem collWrite_staging (hk : piece.kind = 2) (hg : s.granted p.2.2.tenant piece.span = true) (hm : s.memoriesOk = true) :
    (s.collLine g).RunsGroup g x { r with writes := some [] } ∧ (∀ n, mget (s.collLine g).mem n = mget s.mem n) ∧
      (∀ i, i < b.length → mget (s.collLine g).ms.staging (piece.addr + i) = b.getD i 0#8) ∧
      ∀ n, n < piece.addr ∨ piece.addr + b.length ≤ n → mget (s.collLine g).ms.staging n = mget s.ms.staging n := by
  obtain ⟨v, hline, hv⟩ := collWrite_ok hx hr hreads hw hp hh (writePiece_staging b hk hg)
  have hwf : Memory.wf s.ms.staging = true := by
    simp only [State.memoriesOk, Bool.and_eq_true] at hm
    obtain ⟨⟨-, h⟩, -⟩ := hm
    exact h
  have hstaging : (s.collLine g).ms.staging = mwrite s.ms.staging piece.addr b := by
    rw [hline, show (v.setRun g _).ms = v.ms from rfl, hv]
    rfl
  refine ⟨?_, fun n => ?_, fun i hi => ?_, fun n hn => ?_⟩
  · rw [hline]
    exact setRun_runs (by rw [hv]; exact hx) _
  · rw [hline, show (v.setRun g _).mem = v.mem from rfl, hv]
    rfl
  · rw [hstaging]
    exact mget_mwrite_at _ _ hwf hi
  · rw [hstaging]
    exact mget_mwrite_ne _ _ _ _ hwf hn

/-- A line for global memory is on its way. -/
theorem collWrite_sends {pa : Nat} {nb : Bool} (hk : piece.kind = 0) (hhi : piece.addr < 2 ^ 55)
    (hc : s.engineCheck (collEngine p) (BitVec.ofNat 64 piece.addr) { wr := true } = .ok pa nb) (hb : s.backed pa = true) :
    (s.collLine g).RunsGroup g x { r with writes := some [] } ∧ s.SameBytes (s.collLine g) ∧
      ∃ y, (s.collLine g).ms.sent = s.ms.sent ++ [y] ∧ y.pa = pa ∧
        y.left = (unitParts piece.addr piece.size).map fun z => (z.1, (b.drop z.1).take z.2) := by
  have hpiece : s.writePiece (collEngine p) piece.span b = (.ok (), s.send (collEngine p) piece.span pa b) :=
    writePiece_sends b hk (Int.natCast_nonneg _) (by show (piece.addr : Int) < 2 ^ 55; exact_mod_cast hhi) hc hb
  obtain ⟨v, hline, hv⟩ := collWrite_ok hx hr hreads hw hp hh hpiece
  have hsent : (s.collLine g).ms.sent = (s.send (collEngine p) piece.span pa b).ms.sent := by
    rw [hline, show (v.setRun g _).ms = v.ms from rfl, hv]
  obtain ⟨-, -, hone⟩ := send_leaves s (collEngine p) piece.span pa b
  refine ⟨?_, ?_, _, hsent.trans hone, rfl, rfl⟩
  · rw [hline]
    exact setRun_runs (by rw [hv]; exact hx) _
  · rw [hline]
    exact sameBytes_trans (t := v) (by rw [hv]; exact sameBytes_of rfl rfl rfl) (onlyStops_sameBytes (setRun_onlyStops ..))

end Write

end Line

/-! ## Completion (R28, R122, R185) -/

/-- A participant's token. -/
def State.tokenOf (s : State) (q : Part') : Token := fget {} (s.ctx q.2.2.owner).tokens q.2.2.token

/-- Each of some participants ends, one after another. -/
def State.endEach (s : State) (e : Part' → DrayEnd) (l : List Part') : State :=
  l.foldl (fun s p => s.endRunning p.1 p.2.1 p.2.2 (e p)) s

/-- Two participants whose tokens are not one. -/
def Distinct (q q' : Part') : Prop := q.2.2.owner = q'.2.2.owner → q.2.2.token ≠ q'.2.2.token

section EndEach
variable (s : State) (e : Part' → DrayEnd)

theorem endRunning_tokenOf (p q : Part') : (s.endRunning p.1 p.2.1 p.2.2 (e p)).tokenOf q =
    if q.2.2.owner = p.2.2.owner ∧ q.2.2.token = p.2.2.token then (s.tokenOf p).ended (e p) s.tick else s.tokenOf q := by
  rw [State.tokenOf, endRunning_ctx]
  by_cases ho : q.2.2.owner = p.2.2.owner
  · rw [if_pos ho, Ctx.endToken, fget_fput]
    by_cases ht : q.2.2.token = p.2.2.token
    · rw [if_pos ht, if_pos ⟨ho, ht⟩]; rfl
    · rw [if_neg ht, if_neg fun h => ht h.2, State.tokenOf, ho]
  · rw [if_neg ho, if_neg fun h => ho h.1]; rfl

theorem endEach_sameBytes (l : List Part') : s.SameBytes (s.endEach e l) := by
  induction l generalizing s with
  | nil => exact sameBytes_refl s
  | cons p l ih => exact sameBytes_trans (endRunning_sameBytes ..) (ih _)

/-- A token of none of them stays. -/
theorem endEach_tokenOf_other {l : List Part'} {q : Part'} (h : ∀ p ∈ l, Distinct q p) : (s.endEach e l).tokenOf q = s.tokenOf q := by
  induction l generalizing s with
  | nil => rfl
  | cons p l ih =>
    refine (ih (s.endRunning p.1 p.2.1 p.2.2 (e p)) fun p' hp' => h p' (List.mem_cons_of_mem p hp')).trans ?_
    exact (endRunning_tokenOf ..).trans (if_neg fun hq => h p List.mem_cons_self hq.1 hq.2)

/-- Each token of them has ended. -/
theorem endEach_tokenOf {l : List Part'} (hl : l.Pairwise Distinct) {q : Part'} (hq : q ∈ l) :
    (s.endEach e l).tokenOf q = (s.tokenOf q).ended (e q) s.tick := by
  induction l generalizing s with
  | nil => cases hq
  | cons p l ih =>
    obtain ⟨hp, hl⟩ := List.pairwise_cons.mp hl
    obtain rfl | hq := List.mem_cons.mp hq
    · refine (endEach_tokenOf_other (s.endRunning q.1 q.2.1 q.2.2 (e q)) e hp).trans ?_
      exact (endRunning_tokenOf ..).trans (if_pos ⟨rfl, rfl⟩)
    · refine (ih (s.endRunning p.1 p.2.1 p.2.2 (e p)) hl hq).trans ?_
      have htick : (s.endRunning p.1 p.2.1 p.2.2 (e p)).tick = s.tick := by rw [endRunning_only]
      rw [endRunning_tokenOf, if_neg fun h => hp q hq h.1.symm h.2.symm, htick]

/-- The token of a command whose descriptor disagrees with the others'. -/
def Token.Disagrees (t : Token) : Prop := t.st = 3 ∧ t.err.engid = 2 ∧ t.err.code = 2

theorem endEach_disagrees (he : ∀ p, ∃ f, e p = .error f ∧ f.engid = 2 ∧ f.code = 2) {l : List Part'} {q : Part'}
    (h : q ∈ l ∨ (s.tokenOf q).Disagrees) : ((s.endEach e l).tokenOf q).Disagrees := by
  induction l generalizing s with
  | nil => exact h.resolve_left List.not_mem_nil
  | cons p l ih =>
    refine ih (s.endRunning p.1 p.2.1 p.2.2 (e p)) ?_
    rw [endRunning_tokenOf]
    obtain ⟨f, hf, hid, hcode⟩ := he p
    by_cases hq : q.2.2.owner = p.2.2.owner ∧ q.2.2.token = p.2.2.token
    · rw [if_pos hq, hf]
      exact .inr ⟨rfl, hid, hcode⟩
    · rw [if_neg hq]
      refine h.imp_left fun h => (List.mem_cons.mp h).resolve_left ?_
      rintro rfl
      exact hq ⟨rfl, rfl⟩

end EndEach

section Complete
variable {s : State} {quarter g : Nat} {x : Group}

theorem complete_idle (h : s.collGroup quarter = none) : exec (.collectiveComplete quarter) s = .next s := by
  rw [exec_collectiveComplete, execCollectiveComplete, h]

variable (h : s.collGroup quarter = some (g, x))
include h

theorem complete_completes : exec (.collectiveComplete quarter) s = .next (s.collComplete g x) := by
  rw [exec_collectiveComplete, execCollectiveComplete, h]

/-- An operation that can complete has read and written everything. -/
theorem collGroup_over {r : CollRun} (hr : x.run = some r) : r.reads = [] ∧ r.writes = some [] := by
  have hover := List.find?_some h
  simp only [hr, State.collOver, Bool.and_eq_true, List.isEmpty_iff, beq_iff_eq] at hover
  obtain ⟨⟨⟨hreads, hwrites⟩, -⟩, -⟩ := hover
  exact ⟨hreads, hwrites⟩

omit h in
theorem collComplete_run {r : CollRun} (hr : x.run = some r) (hrcd : ∀ q, q ∈ s.runParts r → q.2.2.rcd = none) :
    s.collComplete g x = (s.modGroup g fun y => { y with done := if r.stopped then y.done else y.done + 1, run := none }).endEach
      (fun p => p.2.2.ending.getD (.done 0)) (s.runParts r) := by
  rw [State.collComplete, hr]
  refine List.foldl_ext _ _ _ fun t p hp => ?_
  rw [hrcd p hp]
  dsimp only
  cases p.2.2.ending <;> rfl

omit h in
theorem collComplete_none (hr : x.run = none) :
    s.collComplete g x = (s.modGroup g fun y => { y with done := y.done + 1 }).endEach
      (fun p => .error { engid := 2, code := 2, addr := BitVec.ofNat 64 p.2.2.row }) (s.participants g) := by
  rw [State.collComplete, hr]
  rfl

end Complete

/-! ## Aborts (R185) -/

section Abort
variable {s : State} {g : Nat}

theorem abort_absent (h : ffind s.pf.groups g = none) : exec (.collectiveAbort g) s = .next s := by
  rw [exec_collectiveAbort, execCollectiveAbort, h]

variable {x : Group} (h : ffind s.pf.groups g = some x)
include h

theorem abort_running {r : CollRun} (hr : x.run = some r) : exec (.collectiveAbort g) s = .next s := by
  rw [exec_collectiveAbort, execCollectiveAbort, h]
  exact if_pos (by simp [hr])

/-- The members whose operation an abort ends. -/
def State.aborted (s : State) (g : Nat) (x : Group) : List Part' := (s.participants g).filter fun p => x.aborts.contains (rankOf p)

theorem abort_idle (hl : s.aborted g x = []) : exec (.collectiveAbort g) s = .next s := by
  rw [exec_collectiveAbort, execCollectiveAbort, h]
  unfold State.aborted at hl
  exact if_pos (by simp only [hl, List.isEmpty_nil, Bool.or_true])

theorem abort_ends (hr : x.run = none) (hl : s.aborted g x ≠ []) : ∃ t, exec (.collectiveAbort g) s = .next t ∧
    t = { s.endParts (s.aborted g x) fun _ => .done 1 with pf := t.pf, fresh := t.fresh } := by
  rw [exec_collectiveAbort, execCollectiveAbort, h]
  unfold State.aborted at hl ⊢
  exact ⟨_, if_neg (by simpa [hr] using hl), rfl⟩

end Abort

/-! ## The obligation -/

/-- Settles O37: the parts of an operation by what it still reads and writes; its end and its abort by the members' tokens. -/
theorem collectiveEvents : Obligations.CollectiveEvents := by
  intro s u quarter g x p f r piece b src y fresh rank e pa nb z a token run source running
  refine ⟨complete_idle, fun h => ⟨fun hr hrcd hdist => ?ends, fun hr => ?disagree⟩,
    fun hx => ⟨collLine_begins hx, fun hr hreads hp => ⟨collRead_ok hx hr hreads hp, fun q => collRead_fails hx hr hreads hp⟩,
      fun hr hs hreads hw hp ho => ?make, fun hr hreads hw hp hh => ⟨collWrite_staging hx hr hreads hw hp hh,
        collWrite_sends hx hr hreads hw hp hh⟩⟩,
    abort_absent, fun hx hr => abort_running hx hr, fun hx hr => ?abort, result_allreduce src fresh rank, result_reduceScatter src fresh rank,
    result_gather src fresh rank, result_broadcast src fresh rank⟩
  case ends =>
    obtain ⟨hreads, hwrites⟩ := collGroup_over h hr
    refine ⟨_, complete_completes h, ?_, hreads, hwrites, fun q hq => ?_⟩
    · rw [collComplete_run hr hrcd]
      exact sameBytes_trans (onlyStops_sameBytes (modGroup_onlyStops ..)) (endEach_sameBytes ..)
    · rw [collComplete_run hr hrcd]
      refine (endEach_tokenOf _ _ hdist hq).trans ?_
      dsimp only
      cases q.2.2.ending with
      | none => rfl
      | some z => cases z <;> rfl
  case disagree =>
    refine ⟨_, complete_completes h, ?_, fun q hq => ?_⟩
    · rw [collComplete_none hr]
      exact sameBytes_trans (onlyStops_sameBytes (modGroup_onlyStops ..)) (endEach_sameBytes ..)
    · rw [collComplete_none hr]
      exact endEach_disagrees _ _ (fun _ => ⟨_, rfl, rfl, rfl⟩) (.inl hq)
  case make =>
    obtain ⟨hrun, hbytes⟩ := collMake_leaves hx hr hs hreads hw
    have hout := collOut_single hp ho
    exact ⟨s.collOut r, hrun, by rw [hout]; exact cutPieces_fst .., by rw [hout]; exact cutPieces_bytes .., hbytes⟩
  case abort =>
    by_cases hl : s.aborted g x = []
    · refine ⟨s, abort_idle hx hl, sameBytes_refl s, fun _ => rfl, fun q hq ha => ?_⟩
      exact absurd (List.mem_filter.mpr ⟨hq, ha⟩) (by rw [← State.aborted, hl]; exact List.not_mem_nil)
    · obtain ⟨t, ht, hstate⟩ := abort_ends hx hr hl
      have hcores (n : Nat) : t.core n = (s.endParts (s.aborted g x) fun _ => .done 1).core n := by rw [State.core, hstate]; rfl
      refine ⟨t, ht, ?_, fun n => ?_, fun q hq ha hrun => ?_⟩
      · exact sameBytes_trans (onlyStops_sameBytes (endParts_onlyStops s (s.aborted g x) _))
          (sameBytes_of (by rw [hstate]) (by rw [hstate]) (by rw [hstate]))
      · rw [State.ctx, hstate]
        exact congrArg (fget _ · n) (endParts_ctxs ..)
      · have hend := endParts_running (e := .done 1) (l := s.aborted g x) (.inl ⟨hrun, q, List.mem_filter.mpr ⟨hq, ha⟩, rfl, rfl⟩)
        rw [endWith_eq] at hend
        exact (congrArg (fun k : CoreState => (k.dray q.2.1).running) (hcores q.1)).trans hend

end Sys2Proof.Machine

/-! # Proofs: accesses to the scratchpad (R43, R44, R46, R181, R305) -/

namespace Sys2Proof.Machine

theorem exec_scratchpadAccessActs (c : Nat) (s : State) :
    exec (.scratchpadAccessActs c) s =
      if (s.takeDue c Action.access).1.isEmpty then .next s
      else .next ((s.setCtx c (s.takeDue c Action.access).2).actAll c (s.takeDue c Action.access).1) := rfl

/-! ## Bytes and units -/

/-- A byte after a write: the one written, or the one that stood there. -/
theorem mget_mwrite (m : Memory) (a : Nat) (b : List Byte) (n : Nat) (h : Memory.wf m = true) :
    mget (mwrite m a b) n = if a ≤ n ∧ n < a + b.length then b.getD (n - a) 0#8 else mget m n := by
  split
  · next hn =>
    have := mget_mwrite_at a b h (i := n - a) (by omega)
    rwa [Nat.add_sub_cancel' hn.1] at this
  · next hn => exact mget_mwrite_ne b m a n h (by omega)

theorem mem_unitsOf (a size u : Nat) : u ∈ unitsOf a size ↔ a / 16 ≤ u ∧ u ≤ (a + size - 1) / 16 := by
  simp only [unitsOf, List.mem_map, List.mem_range]
  constructor
  · rintro ⟨i, hi, rfl⟩
    omega
  · intro h
    exact ⟨u - a / 16, by omega, by omega⟩

theorem wf_copyUnits (src : Memory) (l : List Nat) (dst : Memory) (h : Memory.wf dst = true) :
    Memory.wf (copyUnits src dst l) = true := by
  induction l generalizing dst with
  | nil => exact h
  | cons u l ih => exact ih _ (wf_mwrite _ _ _ h)

/-- A byte after units have been copied: the source's in those units. -/
theorem mget_copyUnits (src : Memory) (l : List Nat) (dst : Memory) (n : Nat) (h : Memory.wf dst = true) :
    mget (copyUnits src dst l) n = if n / 16 ∈ l then mget src n else mget dst n := by
  induction l generalizing dst with
  | nil => simp [copyUnits]
  | cons u l ih =>
    refine (ih (mwrite dst (16 * u) (mread src (16 * u) 16)) (wf_mwrite _ _ _ h)).trans ?_
    rw [mget_mwrite _ _ _ _ h, mread_eq_map]
    by_cases hl : n / 16 ∈ l
    · simp [hl]
    · by_cases hu : n / 16 = u
      · have hin : 16 * u ≤ n ∧ n < 16 * u + 16 := by omega
        simp [hu, hin, List.getD_eq_getElem?_getD, show n - 16 * u < 16 by omega]
      · have hout : ¬ (16 * u ≤ n ∧ n < 16 * u + 16) := by omega
        simp [hl, hu, hout]

theorem mread_getD (m : Memory) (a : Nat) {n i : Nat} (h : i < n) : (mread m a n).getD i 0#8 = mget m (a + i) := by
  simp [mread_eq_map, List.getD_eq_getElem?_getD, h]

theorem splitUnits_sub {fresh u : Nat} {l : List Nat} (h : u ∈ splitUnits fresh l) : u ∈ l := by
  simp only [splitUnits, List.mem_map, List.mem_filter] at h
  obtain ⟨x, ⟨hx, -⟩, rfl⟩ := h
  exact List.fst_mem_of_mem_zipIdx hx

/-! ## One bundle's two accesses (R44) -/

/-- The scratchpad after the two accesses of one bundle. -/
def pairMemory (m : Memory) (fresh : Nat) (p q : Action) : Memory :=
  let both := p.writes.filter q.writes.contains
  copyUnits (q.applyTo m) (copyUnits (p.applyTo m) (q.applyTo (p.applyTo m)) (splitUnits fresh both))
    (both.filter fun u => !(splitUnits fresh both).contains u)

/-- The scratchpad as the other access of its bundle shows it to one. -/
def seenBeside (m : Memory) (fresh : Nat) (other : Action) : Memory :=
  copyUnits (other.applyTo m) m (splitUnits fresh other.writes)

theorem wf_applyTo (m : Memory) (a : Action) (h : Memory.wf m = true) : Memory.wf (a.applyTo m) = true := by
  cases a with
  | spWrite parts =>
    change Memory.wf (parts.foldl _ m) = true
    induction parts generalizing m with
    | nil => exact h
    | cons x l ih => exact ih _ (wf_mwrite _ _ _ h)
  | _ => exact h

/-- In a unit that both accesses write, one of them has it as if it had acted alone. -/
theorem pairMemory_both (m : Memory) (fresh : Nat) (p q : Action) {u : Nat} (h : Memory.wf m = true) (hp : u ∈ p.writes)
    (hq : u ∈ q.writes) : (∀ n, n / 16 = u → mget (pairMemory m fresh p q) n = mget (p.applyTo m) n) ∨
      ∀ n, n / 16 = u → mget (pairMemory m fresh p q) n = mget (q.applyTo m) n := by
  have hwf := wf_applyTo _ q (wf_applyTo m p h)
  by_cases hs : u ∈ splitUnits fresh (p.writes.filter q.writes.contains)
  · refine .inl fun n hn => ?_
    rw [pairMemory, mget_copyUnits _ _ _ _ (wf_copyUnits _ _ _ hwf), mget_copyUnits _ _ _ _ hwf]
    simp [hn, hs]
  · refine .inr fun n hn => ?_
    rw [pairMemory, mget_copyUnits _ _ _ _ (wf_copyUnits _ _ _ hwf)]
    simp [hn, hs, hp, hq]

/-- Elsewhere the second has acted after the first. -/
theorem pairMemory_apart (m : Memory) (fresh : Nat) (p q : Action) {n : Nat} (h : Memory.wf m = true)
    (hn : ¬ (n / 16 ∈ p.writes ∧ n / 16 ∈ q.writes)) :
    mget (pairMemory m fresh p q) n = mget (q.applyTo (p.applyTo m)) n := by
  have hwf := wf_applyTo _ q (wf_applyTo m p h)
  have hboth : n / 16 ∉ p.writes.filter q.writes.contains := by simpa using hn
  have hs : n / 16 ∉ splitUnits fresh (p.writes.filter q.writes.contains) := fun h => hboth (splitUnits_sub h)
  rw [pairMemory, mget_copyUnits _ _ _ _ (wf_copyUnits _ _ _ hwf), mget_copyUnits _ _ _ _ hwf, if_neg hs,
    if_neg fun h => hboth (List.mem_filter.1 h).1]

/-- A byte that the other access leaves as it was shows as it was. -/
theorem seenBeside_unwritten (m : Memory) (fresh : Nat) (other : Action) {n : Nat} (h : Memory.wf m = true)
    (hn : mget (other.applyTo m) n = mget m n) : mget (seenBeside m fresh other) n = mget m n := by
  rw [seenBeside, mget_copyUnits _ _ _ _ h, hn, ite_self]

/-! ## What acts on a context's scratchpad -/

/-- The scratchpad, its poison and the context's pending effects are these, and nothing else of any core or context, and no byte of
global memory or staging, differs. -/
structure State.Acted (s t : State) (c : Nat) (m : Memory) (poison : List Nat) (pend : List Pending) : Prop where
  others : ∀ n, n ≠ c → t.ctx n = s.ctx n
  cores : ∀ n, n ≠ coreOf c → t.core n = s.core n
  global : s.SameGlobal t
  core : t.core (coreOf c) = { s.core (coreOf c) with scratch := m, spPoison := poison }
  ctx : t.ctx c = { s.ctx c with pend := pend }

theorem acted_trans {s t u : State} {c : Nat} {m m' : Memory} {l l' : List Nat} {p p' : List Pending} (h : s.Acted t c m l p)
    (k : t.Acted u c m' l' p') : s.Acted u c m' l' p' where
  others n hn := (k.others n hn).trans (h.others n hn)
  cores n hn := (k.cores n hn).trans (h.cores n hn)
  global := ⟨fun a => (k.global.1 a).trans (h.global.1 a), fun a => (k.global.2 a).trans (h.global.2 a)⟩
  core := by rw [k.core, h.core]
  ctx := by rw [k.ctx, h.ctx]

/-- The shape of every act on a scratchpad. -/
theorem modBoth_acted (s : State) (c fresh : Nat) (m : Memory) (poison : List Nat) (f : List Pending → List Pending) :
    s.Acted ((({ s with fresh := fresh } : State).modCore (coreOf c) fun k => { k with scratch := m, spPoison := poison }).modCtx c
      fun x => { x with pend := f x.pend }) c m poison (f (s.ctx c).pend) where
  others _ hn := State.ctx_modCtx_ne _ _ _ _ hn
  cores _ hn := by rw [State.modCtx_eq, State.setCtx_core, State.core_modCore_ne _ _ _ _ hn]; rfl
  global := ⟨fun _ => rfl, fun _ => rfl⟩
  core := by rw [State.modCtx_eq, State.setCtx_core, State.core_modCore_same]; rfl
  ctx := State.ctx_modCtx_same ..

theorem takeDue_acted (s : State) (c : Nat) (f : Action → Bool) :
    s.Acted (s.setCtx c (s.takeDue c f).2) c (s.core (coreOf c)).scratch (s.core (coreOf c)).spPoison (s.takeDue c f).2.pend where
  others _ hn := State.ctx_setCtx_ne _ _ _ _ hn
  cores _ _ := rfl
  global := ⟨fun _ => rfl, fun _ => rfl⟩
  core := rfl
  ctx := State.ctx_setCtx_same ..

theorem actOne_acted (s : State) (c : Nat) (p : Pending) : let k := s.core (coreOf c)
    s.Acted (s.actOne c p) c (p.act.applyTo k.scratch) (p.act.clean k.spPoison) ((s.ctx c).pend ++ readNow k.scratch p) :=
  modBoth_acted s c s.fresh _ _ fun l => l ++ readNow (s.core (coreOf c)).scratch p

theorem actPair_acted (s : State) (c : Nat) (p q : Pending) : let k := s.core (coreOf c)
    s.Acted (s.actPair c p q) c (pairMemory k.scratch s.fresh p.act q.act) (q.act.clean (p.act.clean k.spPoison))
      ((s.ctx c).pend ++ readNow (seenBeside k.scratch s.fresh q.act) p ++ readNow (seenBeside k.scratch s.fresh p.act) q) :=
  modBoth_acted s c (s.fresh + p.act.writes.length + q.act.writes.length) _ _ fun l =>
    l ++ readNow (seenBeside (s.core (coreOf c)).scratch s.fresh q.act) p ++
      readNow (seenBeside (s.core (coreOf c)).scratch s.fresh p.act) q

section Due
variable {s : State} {c : Nat} {p q : Pending}

theorem actsOn_none (h : (s.takeDue c Action.access).1 = []) : exec (.scratchpadAccessActs c) s = .next s := by
  rw [exec_scratchpadAccessActs, h]
  rfl

theorem actsOn_one (h : (s.takeDue c Action.access).1 = [p]) : let k := s.core (coreOf c)
    Completes (.scratchpadAccessActs c) s fun t => s.Acted t c (p.act.applyTo k.scratch) (p.act.clean k.spPoison)
      ((s.takeDue c Action.access).2.pend ++ readNow k.scratch p) := by
  refine ⟨(s.setCtx c (s.takeDue c Action.access).2).actOne c p, by rw [exec_scratchpadAccessActs, h]; rfl, ?_⟩
  have htake := takeDue_acted s c Action.access
  have hact := actOne_acted (s.setCtx c (s.takeDue c Action.access).2) c p
  rw [htake.core, htake.ctx] at hact
  exact acted_trans htake hact

/-- Accesses of different bundles act one after the other (R43). -/
theorem actsOn_two (h : (s.takeDue c Action.access).1 = [p, q]) (hne : p.due ≠ q.due ∨ p.bundle ≠ q.bundle) :
    let k := s.core (coreOf c)
    let m := p.act.applyTo k.scratch
    Completes (.scratchpadAccessActs c) s fun t => s.Acted t c (q.act.applyTo m) (q.act.clean (p.act.clean k.spPoison))
      ((s.takeDue c Action.access).2.pend ++ readNow k.scratch p ++ readNow m q) := by
  have hnot : (p.due = q.due && p.bundle = q.bundle) = false := by simpa [← not_and_or] using hne
  refine ⟨((s.setCtx c (s.takeDue c Action.access).2).actOne c p).actOne c q, ?_, ?_⟩
  · rw [exec_scratchpadAccessActs, h]
    simp [State.actAll, hnot]
  · have htake := takeDue_acted s c Action.access
    have hfirst := actOne_acted (s.setCtx c (s.takeDue c Action.access).2) c p
    have hsecond := actOne_acted ((s.setCtx c (s.takeDue c Action.access).2).actOne c p) c q
    rw [hfirst.core, hfirst.ctx, htake.core, htake.ctx] at hsecond
    exact acted_trans htake (acted_trans hfirst hsecond)

theorem actsOn_pair (h : (s.takeDue c Action.access).1 = [p, q]) (hd : p.due = q.due) (hb : p.bundle = q.bundle) :
    let k := s.core (coreOf c)
    Completes (.scratchpadAccessActs c) s fun t =>
      s.Acted t c (pairMemory k.scratch s.fresh p.act q.act) (q.act.clean (p.act.clean k.spPoison))
        ((s.takeDue c Action.access).2.pend ++ readNow (seenBeside k.scratch s.fresh q.act) p ++
          readNow (seenBeside k.scratch s.fresh p.act) q) := by
  refine ⟨(s.setCtx c (s.takeDue c Action.access).2).actPair c p q, ?_, ?_⟩
  · rw [exec_scratchpadAccessActs, h]
    simp [State.actAll, hd, hb]
  · have htake := takeDue_acted s c Action.access
    have hact := actPair_acted (s.setCtx c (s.takeDue c Action.access).2) c p q
    rw [htake.core, htake.ctx] at hact
    exact acted_trans htake hact

end Due

theorem completes_mono {i : Instr} {s : State} {P Q : State → Prop} (h : Completes i s P) (k : ∀ t, P t → Q t) :
    Completes i s Q := by
  obtain ⟨t, ht, hp⟩ := h
  exact ⟨t, ht, k t hp⟩

/-! ## The obligation -/

/-- Settles O31: the accesses due act one after the other, or, of one bundle, as a pair; then each byte by the runs that cover it. -/
theorem scratchpadActs : Obligations.ScratchpadActs := by
  intro s c p q a b es xs ys dest hm
  have hwf : Memory.wf (s.core (coreOf c)).scratch = true := core_wf hm
  intro x core old due rest within acts
  have hacts {t : State} {m : Memory} {l : List Nat} {pend : List Pending} (h : s.Acted t c m l pend) : acts t :=
    ⟨h.others, h.cores, h.global, by rw [h.core], by rw [h.ctx]⟩
  have hpend {t : State} {m : Memory} {l : List Nat} {pend : List Pending} (h : s.Acted t c m l pend) :
      (t.ctx c).pend = pend := by rw [h.ctx]
  have hmem {t : State} {m : Memory} {l : List Nat} {pend : List Pending} (h : s.Acted t c m l pend) :
      (t.core core).scratch = m ∧ (t.core core).spPoison = l := by rw [h.core]; exact ⟨rfl, rfl⟩
  have hone (n : Nat) : mget (mwrite old a xs) n = if within a xs n then xs.getD (n - a) 0#8 else mget old n :=
    mget_mwrite old a xs n hwf
  have htwo (n : Nat) : mget (mwrite (mwrite old a xs) b ys) n =
      if within b ys n then ys.getD (n - b) 0#8 else if within a xs n then xs.getD (n - a) 0#8 else mget old n := by
    rw [mget_mwrite _ _ _ _ (wf_mwrite _ _ _ hwf), hone]
  refine ⟨actsOn_none, fun h hp => ?write, fun h hp => ?read, fun h hp hq => ⟨fun hne => ?later, fun hd hb => ?pair⟩,
    fun h hp hq hor => ?beside⟩
  case write =>
    refine completes_mono (actsOn_one h) fun t ht => ?_
    simp only [hp, Action.applyTo, Action.clean, readNow, List.foldl_cons, List.foldl_nil, List.append_nil] at ht
    obtain ⟨hs, hl⟩ := hmem ht
    refine ⟨hacts ht, hpend ht, fun n hn => ?_, fun n hn => ?_, fun u => ?_⟩
    · rw [hs]; exact (hone n).trans (if_pos hn)
    · rw [hs]; exact (hone n).trans (if_neg hn)
    · rw [hl, clearUnits, List.mem_filter, Bool.not_eq_true', ← Bool.not_eq_true, Bool.and_eq_true, decide_eq_true_eq,
        decide_eq_true_eq]
  case read =>
    refine completes_mono (actsOn_one h) fun t ht => ?_
    simp only [hp, Action.applyTo, Action.clean, readNow, readParts, List.flatMap_cons, List.flatMap_nil, List.append_nil] at ht
    exact ⟨hacts ht, hpend ht, hmem ht⟩
  case later =>
    refine completes_mono (actsOn_two h hne) fun t ht => ?_
    simp only [hp, hq, Action.applyTo, readNow, List.foldl_cons, List.foldl_nil, List.append_nil] at ht
    have hs := (hmem ht).1
    refine ⟨hacts ht, hpend ht, fun n hn => ?_, fun n hn hna => ?_, fun n hn hna => ?_⟩
    all_goals rw [hs]; refine (htwo n).trans ?_
    · exact if_pos hn
    · rw [if_neg hn, if_pos hna]
    · rw [if_neg hn, if_neg hna]
  case pair =>
    refine completes_mono (actsOn_pair h hd hb) fun t ht => ?_
    simp only [hp, hq, readNow, List.append_nil] at ht
    have hs := (hmem ht).1
    refine ⟨hacts ht, hpend ht, fun u hu => ?_, fun n hn hna => ?_⟩
    · have h0 := hu 0 (by omega)
      have h15 := hu 15 (by omega)
      have hua : u ∈ (Action.spWrite [(a, xs)]).writes := by
        simp only [Action.writes, List.flatMap_cons, List.flatMap_nil, List.append_nil, mem_unitsOf]; omega
      have hub : u ∈ (Action.spWrite [(b, ys)]).writes := by
        simp only [Action.writes, List.flatMap_cons, List.flatMap_nil, List.append_nil, mem_unitsOf]; omega
      rw [hs]
      refine (pairMemory_both old s.fresh _ _ hwf hua hub).imp (fun hpair i hi => ?_) fun hpair i hi => ?_
      · exact (hpair _ (by omega)).trans ((hone _).trans (if_pos (hu i hi).1))
      · exact (hpair _ (by omega)).trans ((mget_mwrite old b ys _ hwf).trans (if_pos (hu i hi).2))
    · rw [hs]
      by_cases hu : n / 16 ∈ (Action.spWrite [(a, xs)]).writes ∧ n / 16 ∈ (Action.spWrite [(b, ys)]).writes
      · rcases pairMemory_both old s.fresh _ _ hwf hu.1 hu.2 with hpair | hpair
        · exact (hpair n rfl).trans ((hone n).trans (if_neg hna))
        · exact (hpair n rfl).trans ((mget_mwrite old b ys n hwf).trans (if_neg hn))
      · refine (pairMemory_apart old s.fresh _ _ hwf hu).trans ((htwo n).trans ?_)
        rw [if_neg hn, if_neg hna]
  case beside =>
    by_cases hne : p.due ≠ q.due ∨ p.bundle ≠ q.bundle
    · refine completes_mono (actsOn_two h hne) fun t ht => ?_
      simp only [hp, hq, Action.applyTo, readNow, readParts, List.foldl_cons, List.foldl_nil, List.flatMap_cons, List.flatMap_nil,
        List.append_nil] at ht
      refine ⟨hacts ht, _, hpend ht, by simp [mread_eq_map], fun i hi => ?_⟩
      exact (mread_getD _ _ hi).trans (hone _)
    · have hsame : p.due = q.due ∧ p.bundle = q.bundle := by simpa [not_or] using hne
      have hapart (n : Nat) (hn : within a xs n) : n / 16 + 1 ≤ b / 16 ∨ (b + es - 1) / 16 < n / 16 := by
        have := (hor.resolve_left (by simp [hsame.1])).resolve_left (by simp [hsame.2])
        exact this n hn
      refine completes_mono (actsOn_pair h hsame.1 hsame.2) fun t ht => ?_
      simp only [hp, hq, readNow, readParts, List.flatMap_cons, List.flatMap_nil, List.append_nil] at ht
      refine ⟨hacts ht, _, hpend ht, by simp [mread_eq_map], fun i hi => ?_⟩
      have hn : ¬ within a xs (b + i) := fun h => by have := hapart _ h; omega
      refine (mread_getD _ _ hi).trans ((seenBeside_unwritten old s.fresh _ hwf ?_).trans (if_neg hn).symm)
      exact (hone _).trans (if_neg hn)

end Sys2Proof.Machine

/-! # Proofs: the step of a decoded bundle (R62, R210) -/

namespace Sys2Proof.Machine

/-- A context waits for the walk of page 0 when its bundle is offered (R21). -/
def askedState : State := { State.reset with ctxs := [(0, { asked := some 0 })] }

/-- The page that a context waits for is found anew at each offer: taking its registers forgets it (R21). -/
theorem taken_asked (s : State) (c : Nat) : (s.taken c).me.asked = none := by
  rw [State.taken, State.me_modMe]

/-- Refutes O53: the context whose registers are taken for an offer keeps all but its cause, says the second clause, but the page
whose walk it had asked for is forgotten too. A context that has asked for page 0 shows it. -/
theorem not_stepRunsDecoded : ¬ Obligations.StepRunsDecoded := by
  intro h
  obtain ⟨-, hme, -⟩ := h askedState askedState 0 0 0 0 0#256 .nop [] .walk
  have hkept : (askedState.taken 0).me.asked = some 0 := congrArg Ctx.asked hme
  rw [taken_asked] at hkept
  cases hkept

end Sys2Proof.Machine

/-! # Proofs: an access performs (R51, R67, R72, R81, R82, R304) -/

namespace Sys2Proof.Machine

/-! ## The accesses of a load-store unit -/

/-- The numbers of the accesses of a list. -/
def idsOf : List LsuItem → List Nat
  | [] => []
  | .access a :: l => a.id :: idsOf l
  | _ :: l => idsOf l

theorem accesses_ids (x : Ctx) : x.accesses.map (·.id) = idsOf x.lsu := by
  unfold Ctx.accesses
  induction x.lsu with
  | nil => rfl
  | cons i l ih => cases i <;> simpa [idsOf] using ih

theorem access_isSome (x : Ctx) (i : Nat) : (x.access i).isSome = true ↔ i ∈ idsOf x.lsu := by
  rw [← accesses_ids, Ctx.access, List.find?_isSome]
  simp

theorem isSome_congr {x y : Ctx} {i : Nat} (h : i ∈ idsOf x.lsu ↔ i ∈ idsOf y.lsu) : (x.access i).isSome = (y.access i).isSome := by
  rw [Bool.eq_iff_iff, access_isSome, access_isSome, h]

theorem idsOf_dropAccess (id stamp : Nat) (acq : Bool) (l : List LsuItem) (past : Bool) :
    idsOf (dropAccess id stamp acq l past) = (idsOf l).filter (· != id) := by
  induction l generalizing past with
  | nil => rfl
  | cons i l ih =>
    cases i with
    | access a => by_cases h : a.id = id <;> simp [dropAccess, idsOf, h, ih]
    | _ => exact ih past

theorem idsOf_retireList (stamp : Nat) (far : List Nat) (l : List LsuItem) (accs : List Access) (floor : Nat) :
    idsOf (retireList stamp far l accs floor).1 = idsOf l := by
  induction l generalizing accs floor with
  | nil => rfl
  | cons i l ih =>
    cases i with
    | access a => simp only [retireList, idsOf, ih]
    | _ => simp only [retireList]; split <;> simp only [idsOf, ih]

/-- A change of an access that keeps its number. -/
theorem access_modAccess {x : Ctx} {id : Nat} (f : Access → Access) (hf : ∀ a, (f a).id = a.id) :
    ({ x with lsu := modAccess id f x.lsu } : Ctx).access id = (x.access id).map f := by
  unfold Ctx.access Ctx.accesses modAccess
  dsimp only
  induction x.lsu with
  | nil => rfl
  | cons i l ih =>
    cases i with
    | access a =>
      by_cases h : a.id = id
      · simp [h, hf]
      · simp only [List.map_cons, h, if_false, List.filterMap_cons, List.find?_cons, decide_false]
        exact ih
    | _ => simpa using ih

theorem access_id {x : Ctx} {id : Nat} {a : Access} (h : x.access id = some a) : a.id = id := by
  simpa using List.find?_some h

theorem performable_some {s : State} {c id : Nat} {a : Access} (h : s.performable c id = some a) :
    (s.ctx c).access id = some a ∧ a.id = id := by
  have hacc : (s.ctx c).access id = some a := by
    unfold State.performable at h
    dsimp only at h
    split at h
    · next b hb =>
      split at h
      · rw [hb, h]
      · cases h
    · cases h
  exact ⟨hacc, access_id hacc⟩

/-! ## What stands beside an access's performing -/

/-- Nothing of a context differs but what stands in its queues and what it is to be told of. -/
def Ctx.SameWork (x y : Ctx) : Prop := y = { x with q0 := y.q0, q1 := y.q1, overlap := y.overlap, doom := y.doom }

/-- Of the contexts only c differs, and of it only its queues and what it is to be told of. -/
def State.Prepares (s t : State) (c : Nat) : Prop := (∀ d, d ≠ c → t.ctx d = s.ctx d) ∧ (s.ctx c).SameWork (t.ctx c)

/-- Of the contexts only c differs, and of it only the faults it is to be told of. -/
def State.Aside (s t : State) (c : Nat) : Prop :=
  (∀ d, d ≠ c → t.ctx d = s.ctx d) ∧ t.ctx c = { s.ctx c with doom := (t.ctx c).doom }

theorem aside_of_ctxs {s t : State} {c : Nat} (h : t.ctxs = s.ctxs) : s.Aside t c := by
  have hctx (d : Nat) : t.ctx d = s.ctx d := by rw [State.ctx, State.ctx, h]
  exact ⟨fun d _ => hctx d, by rw [hctx]⟩

theorem aside_trans {s t u : State} {c : Nat} (h : s.Aside t c) (k : t.Aside u c) : s.Aside u c :=
  ⟨fun d hd => (k.1 d hd).trans (h.1 d hd), by rw [k.2, h.2]⟩

theorem aside_prepares {s t : State} {c : Nat} (h : s.Aside t c) : s.Prepares t c := ⟨h.1, by rw [Ctx.SameWork, h.2]⟩

theorem prepares_modCtx (s : State) (c : Nat) (f : Ctx → Ctx) (h : (s.ctx c).SameWork (f (s.ctx c))) : s.Prepares (s.modCtx c f) c :=
  ⟨fun _ hd => State.ctx_modCtx_ne _ _ _ _ hd, by rwa [State.ctx_modCtx_same]⟩

theorem performs_of_prepares {s u t : State} {c st : Nat} {a : Access} {q0 q1 : List QEntry} (h : s.Prepares u c)
    (k : u.Performs t c a st q0 q1) : s.Performs t c a st q0 q1 := by
  obtain ⟨hothers, hsame⟩ := h
  obtain ⟨hgone, hids, htoken, htokens, hq0, hq1, hr, hpc, hst, hpend, hbars, hman, hrest⟩ := k
  rw [hsame] at hids htokens hr hpc hst hpend hbars hman
  exact ⟨hgone, hids, htoken, htokens, hq0, hq1, hr, hpc, hst, hpend, hbars, hman, fun d hd => (hrest d hd).trans (hothers d hd)⟩

theorem performs_aside {s u t : State} {c st : Nat} {a : Access} {q0 q1 : List QEntry} (h : s.Performs u c a st q0 q1)
    (k : u.Aside t c) : s.Performs t c a st q0 q1 := by
  obtain ⟨hothers, hsame⟩ := k
  obtain ⟨hgone, hids, htoken, htokens, hq0, hq1, hr, hpc, hst, hpend, hbars, hman, hrest⟩ := h
  unfold State.Performs
  rw [hsame]
  exact ⟨hgone, hids, htoken, htokens, hq0, hq1, hr, hpc, hst, hpend, hbars, hman, fun d hd => (hothers d hd).trans (hrest d hd)⟩

/-! ## An access is over -/

theorem saw_only (x : Ctx) (a : Access) (at' : Nat × Nat) (now : Nat) :
    x.saw a at' now = { x with seen := (x.saw a at' now).seen } := by
  unfold Ctx.saw
  cases region a.pa <;> dsimp only <;> split <;> rfl

/-- An access that is over has left the list, and its token alone has a new state. -/
theorem performs_of_token {s t : State} {c st : Nat} {a : Access} {at' : Nat × Nat} (hothers : ∀ d, d ≠ c → t.ctx d = s.ctx d)
    (hctx : t.ctx c = { ((s.ctx c).performed a s.tick).saw a at' s.tick with tokens := (t.ctx c).tokens })
    (htoken : ∀ n, some n = a.token → (fget {} (t.ctx c).tokens n : Token).st = st)
    (htokens : ∀ n, some n ≠ a.token → (fget {} (t.ctx c).tokens n : Token) = fget {} (s.ctx c).tokens n) :
    s.Performs t c a st (s.ctx c).q0 (s.ctx c).q1 := by
  have hids : idsOf (t.ctx c).lsu = (idsOf (s.ctx c).lsu).filter (· != a.id) := by
    rw [hctx, saw_only]
    exact (idsOf_retireList ..).trans (idsOf_dropAccess ..)
  refine ⟨?_, fun i hi => isSome_congr (by simp [hids, hi]), htoken, htokens, ?_, ?_, ?_, ?_, ?_, ?_, ?_, ?_, hothers⟩
  · rw [← Option.not_isSome_iff_eq_none, access_isSome, hids]
    simp
  all_goals rw [hctx, saw_only]; rfl

/-- Nothing but contexts and the choices made differs. -/
def State.OnlyWork (s t : State) : Prop := t = { s with ctxs := t.ctxs, fresh := t.fresh }

theorem onlyWork_trans {s t u : State} (h : s.OnlyWork t) (k : t.OnlyWork u) : s.OnlyWork u := by
  unfold State.OnlyWork at *; rw [k, h]

theorem onlyWork_sameBytes {s t : State} (h : s.OnlyWork t) : s.SameBytes t := by
  rw [h]; exact sameBytes_of rfl rfl rfl

theorem onlyWork_ms {s t : State} (h : s.OnlyWork t) : t.ms = s.ms := by rw [h]

theorem accessDone_onlyWork (s : State) (c : Nat) (a : Access) : s.OnlyWork (s.accessDone c a) := by
  unfold State.accessDone; split <;> rfl

/-- The end of an access that has done its work. -/
theorem over_performs (s : State) (c : Nat) (a : Access) (at' : Nat × Nat) :
    s.Performs ((s.finishAt c a at').accessDone c a) c a 2 (s.ctx c).q0 (s.ctx c).q1 ∧
      s.OnlyWork ((s.finishAt c a at').accessDone c a) := by
  refine ⟨?_, onlyWork_trans (t := s.finishAt c a at') rfl (accessDone_onlyWork ..)⟩
  have hfin : (s.finishAt c a at').ctx c = ((s.ctx c).performed a s.tick).saw a at' s.tick := State.ctx_modCtx_same ..
  have htok : (((s.ctx c).performed a s.tick).saw a at' s.tick).tokens = (s.ctx c).tokens := by rw [saw_only]; rfl
  unfold State.accessDone
  cases ha : a.token with
  | none =>
    refine performs_of_token (at' := at') (fun d hd => State.ctx_modCtx_ne _ _ _ _ hd) (by rw [hfin]) ?_ ?_
    · intro n hn; rw [ha] at hn; cases hn
    · intro n _; rw [hfin, htok]
  | some k =>
    refine performs_of_token (at' := at') (fun d hd => ?_) ?_ ?_ ?_
    · rw [tokenDone_ctx, if_neg hd]; exact State.ctx_modCtx_ne _ _ _ _ hd
    · rw [tokenDone_ctx, if_pos rfl, hfin]
    · intro n hn
      rw [ha] at hn
      cases hn
      rw [tokenDone_ctx, if_pos rfl, fget_fput_same]
      rfl
    · intro n hn
      rw [ha] at hn
      rw [tokenDone_ctx, if_pos rfl, fget_fput_ne _ _ _ _ _ (fun h => hn (by rw [h])), hfin, htok]

theorem tokenError_ctx (s : State) (c tk n : Nat) (e : EngineFault) : (s.tokenError c tk e).ctx n =
    if n = c then { s.ctx c with tokens := fput (s.ctx c).tokens tk { fget {} (s.ctx c).tokens tk with
      st := 3, err := e, stamp := s.tick } }
    else s.ctx n := State.ctx_modCtx ..

/-- Firmware is told of a discard, which is counted at its home. -/
def State.countDiscard (s : State) (c : Nat) (a : Access) (d : Nat) : State :=
  let t := s.modQuarter (homeQuarter a.pa) fun q => { q with discards := q.discards + 1 }
  if d = 3 then t.tellAbsent c a.pa a.va.toNat else t.notice 7 c d a.va.toNat

theorem countDiscard_only (s : State) (c : Nat) (a : Access) (d : Nat) : s.countDiscard c a d =
    { s.modQuarter (homeQuarter a.pa) (fun q => { q with discards := q.discards + 1 }) with pf := (s.countDiscard c a d).pf } := by
  unfold State.countDiscard
  dsimp only
  split
  · rw [tellAbsent_eq]
  · rfl

/-- The end of an access that has been discarded. -/
theorem discard_performs (s : State) (c : Nat) (a : Access) (d : Nat) : let t := (s.finish c a).discard c a d
    s.Performs t c a 3 (s.ctx c).q0 (s.ctx c).q1 ∧ s.SameBytes t ∧ t.ms = s.ms ∧
      (t.quarter (homeQuarter a.pa)).discards = (s.quarter (homeQuarter a.pa)).discards + 1 := by
  have hdef : (s.finish c a).discard c a d = match a.token with
    | some t => ((s.finish c a).countDiscard c a d).tokenError c t { engid := 5, code := 0x14, detail := d, addr := a.va }
    | none => (s.finish c a).countDiscard c a d := rfl
  have honly := countDiscard_only (s.finish c a) c a d
  have hctx (n : Nat) : ((s.finish c a).countDiscard c a d).ctx n = (s.finish c a).ctx n := by rw [State.ctx, honly]; rfl
  have hquarter : (((s.finish c a).countDiscard c a d).quarter (homeQuarter a.pa)).discards =
      (s.quarter (homeQuarter a.pa)).discards + 1 := by
    rw [State.quarter, honly]
    exact congrArg Quarter.discards (State.quarter_modQuarter_same (s.finish c a) (homeQuarter a.pa) fun q =>
      { q with discards := q.discards + 1 })
  have hfin : (s.finish c a).ctx c = ((s.ctx c).performed a s.tick).saw a s.moment s.tick := State.ctx_modCtx_same ..
  have htok : (((s.ctx c).performed a s.tick).saw a s.moment s.tick).tokens = (s.ctx c).tokens := by rw [saw_only]; rfl
  have hothers (n : Nat) (hn : n ≠ c) : (s.finish c a).ctx n = s.ctx n := State.ctx_modCtx_ne _ _ _ _ hn
  dsimp only
  rw [hdef]
  cases ha : a.token with
  | none =>
    refine ⟨performs_of_token (at' := s.moment) (fun n hn => (hctx n).trans (hothers n hn)) (by rw [hctx, hfin]) ?_ ?_,
      ?_, ?_, hquarter⟩
    · intro n hn; rw [ha] at hn; cases hn
    · intro n _; rw [hctx, hfin, htok]
    · rw [honly]; exact sameBytes_of rfl rfl rfl
    · rw [honly]; rfl
  | some k =>
    refine ⟨performs_of_token (at' := s.moment) (fun n hn => ?_) ?_ ?_ ?_, ?_, ?_, hquarter⟩
    · rw [tokenError_ctx, if_neg hn, hctx, hothers n hn]
    · rw [tokenError_ctx, if_pos rfl, hctx, hfin]
    · intro n hn
      rw [ha] at hn
      cases hn
      rw [tokenError_ctx, if_pos rfl, fget_fput_same]
    · intro n hn
      rw [ha] at hn
      rw [tokenError_ctx, if_pos rfl, fget_fput_ne _ _ _ _ _ (fun h => hn (by rw [h])), hctx, hfin, htok]
    · refine sameBytes_trans ?_ (modCtx_sameBytes ..)
      rw [honly]; exact sameBytes_of rfl rfl rfl
    · exact (congrArg State.ms honly).trans rfl

/-! ## What an access reads and writes where nothing overlaps it (R51, R82) -/

/-- A part of a range meets no more than the range does. -/
theorem rivals_part {s : State} {self : Option (Nat × Nat)} {pa n pa' n' size : Nat} {w w' : Bool}
    (h : s.rivals self pa n size w = []) (hlo : pa ≤ pa') (hhi : pa' + n' ≤ pa + n) (hw : w' = true → w = true) :
    s.rivals self pa' n' size w' = [] := by
  simp only [State.rivals, List.flatMap_eq_nil_iff, List.map_eq_nil_iff, List.filter_eq_nil_iff, Bool.and_eq_true, Bool.or_eq_true,
    meets, decide_eq_true_eq, not_and] at h ⊢
  intro e he b hb hglobal
  obtain ⟨⟨⟨⟨⟨hg, hin⟩, hself⟩, hsize⟩, hwrites⟩, hmeets⟩ := hglobal
  exact h e he b hb ⟨⟨⟨⟨⟨hg, hin⟩, hself⟩, hsize⟩, hwrites.imp_left hw⟩, by omega⟩

section Unmixed
variable {s : State} {c off n : Nat} {a : Access}

theorem sentOver_none (h : s.ms.sent = []) (self : Option Nat) (pa n size : Nat) : s.sentOver self pa n size = [] := by
  simp [State.sentOver, h]

theorem unmixed_iff : s.unmixed c a = true ↔ a.mixed = [] ∧ s.accessRivals c a 0 a.size a.writes = [] ∧ s.ms.sent = [] := by
  simp [State.unmixed, and_assoc]

theorem accessRivals_part (h : s.unmixed c a = true) (ho : off + n ≤ a.size) {w : Bool} (hw : w = true → a.writes = true) :
    s.accessRivals c a off n w = [] :=
  rivals_part (unmixed_iff.1 h).2.1 (by omega) (by omega) hw

theorem noted_none (h : s.unmixed c a = true) : s.noted a off n = [] := by
  obtain ⟨hmixed, -, hsent⟩ := unmixed_iff.1 h
  rw [State.noted, hmixed, sentOver_none hsent]
  rfl

theorem homeRead_unmixed (h : s.unmixed c a = true) (ho : off + n ≤ a.size) {w : Bool} (hw : w = true → a.writes = true) :
    s.homeRead c a off n w = (mread s.mem (a.pa + off) n, s) := by
  rw [State.homeRead, accessRivals_part h ho hw, noted_none h, mixRead_none, mixOver_none]

/-- A write at a home: its bytes, what it is to be told of, and nothing else of translation, ownership and the homes but the writes
noted there. -/
structure State.Writes (s t : State) (c pa : Nat) (b : List Byte) : Prop where
  holds : s.Holds t pa b
  aside : s.Aside t c
  poison : t.ms.poison = s.ms.poison
  near : t.ms.near = s.ms.near
  rmw : t.ms.hostRmw = s.ms.hostRmw

theorem foldl_reportAccess (l : List Nat) (c slot : Nat) (va : Word) (s : State) :
    let t := l.foldl (fun s n => s.reportMatch (.access c slot va) n) s
    t = { s with ctxs := t.ctxs } ∧ s.Aside t c := by
  induction l generalizing s with
  | nil => exact ⟨rfl, aside_of_ctxs rfl⟩
  | cons n l ih =>
    obtain ⟨honly, haside⟩ := ih (s.reportMatch (.access c slot va) n)
    refine ⟨by rw [List.foldl_cons, honly]; rfl, aside_trans (t := s.reportMatch (.access c slot va) n)
      ⟨fun d hd => State.ctx_modCtx_ne _ _ _ _ hd, ?_⟩ haside⟩
    rw [show (s.reportMatch (.access c slot va) n).ctx c = _ from State.ctx_modCtx_same ..]

theorem markDirty_only (s : State) (l va pa : Nat) : s.markDirty l va pa = { s with launches := (s.markDirty l va pa).launches } := by
  unfold State.markDirty
  dsimp only
  split
  · cases region pa <;> rfl
  · rfl

theorem homeStore_writes (h : s.unmixed c a = true) {b : List Byte} (ho : off + b.length ≤ a.size) (hw : a.writes = true)
    (hm : s.memoriesOk = true) (tenant pa size cls : Nat) :
    s.Writes ((s.homeStore c a off b).noteWrite tenant pa size c cls) c (a.pa + off) b := by
  let u := s.homeWrite (.access c a.slot a.va) (s.ctx c).tenant (a.pa + off) b
  let v := u.markDirty (s.ctx c).launch a.va.toNat a.pa
  let w := v.noteMixed s.mem [] (a.pa + off) b.length a.size
  have hdef : s.homeStore c a off b = w := by
    rw [State.homeStore, accessRivals_part h ho fun _ => hw, noted_none h]
    simp only [mixWrite_none, mixOver_none]
    rfl
  obtain ⟨hu, haside⟩ := foldl_reportAccess ([0, 1, 2, 3].filter fun n =>
      (fget {} (s.quarter (homeQuarter (a.pa + off))).watch n : Watchpoint).hit (s.ctx c).tenant (a.pa + off) b.length s.mem
        (mwrite s.mem (a.pa + off) b)) c a.slot a.va { s with mem := mwrite s.mem (a.pa + off) b }
  change u = { s with mem := mwrite s.mem (a.pa + off) b, ctxs := u.ctxs } at hu
  have hv : v = { u with launches := v.launches } := markDirty_only ..
  have hx := noteWrite_only w tenant pa size c cls
  rw [hdef]
  have hms : (w.noteWrite tenant pa size c cls).ms = { s.ms with
      sent := w.ms.sent, lastWrites := (w.noteWrite tenant pa size c cls).ms.lastWrites } := by
    rw [hx, show w.ms = { v.ms with sent := w.ms.sent } from rfl, hv, hu]
  refine ⟨?_, ?_, by rw [hms], by rw [hms], by rw [hms]⟩
  · refine holds_sameBytes (holds_mwrite (t := u) (memoriesOk_mem hm) ?_ ?_ ?_) (sameBytes_trans (markDirty_sameBytes ..)
      (sameBytes_trans (noteMixed_sameBytes ..) (noteWrite_sameBytes ..))) <;> rw [hu]
  · refine aside_trans (t := u) haside (aside_of_ctxs ?_)
    rw [hx, show w.ctxs = v.ctxs from rfl, hv]

end Unmixed

theorem holds_of_mem {s u t : State} {pa : Nat} {b : List Byte} (hm : u.mem = s.mem) (hs : u.ms.staging = s.ms.staging)
    (hc : u.cores = s.cores) (h : u.Holds t pa b) : s.Holds t pa b := by
  have hsame : s.SameBytes u := sameBytes_of hm hs hc
  obtain ⟨hb, hmem, hst, hsc⟩ := h
  exact ⟨hb, fun n hn => (hmem n hn).trans (hsame.1 n), fun n => (hst n).trans (hsame.2.1 n),
    fun n a => (hsc n a).trans (hsame.2.2 n a)⟩

/-! ## Unit by unit (R81) -/

section Units
variable {s : State} {c u : Nat} {a : Access} {last : State → State}

theorem nextUnit_mem (h : a.unitsLeft ≠ []) : s.nextUnit a ∈ a.unitsLeft := by
  have hlen : 0 < a.unitsLeft.length := List.length_pos_iff.2 h
  rw [State.nextUnit, List.getD_eq_getElem _ _ (Nat.mod_lt _ hlen)]
  exact List.getElem_mem _

theorem nextUnit_single (h : a.unitsLeft = [u]) : s.nextUnit a = u := by
  have := nextUnit_mem (s := s) (a := a) (by simp [h])
  simpa [h] using this

theorem mem_unitsLeft : u ∈ a.unitsLeft ↔ u < a.units ∧ u ∉ a.unitsDone := by simp [Access.unitsLeft]

theorem unitOver_last (h : a.unitsLeft.length ≤ 1) : s.unitOver c a u last = last { s with fresh := s.fresh + 1 } := if_pos h

/-- An access with units left goes on without the one that has performed. -/
theorem unitOver_goesOn (h : 2 ≤ a.unitsLeft.length) (ha : (s.ctx c).access a.id = some a) : let t := s.unitOver c a u last
    s.OnlyWork t ∧ (∀ i, i ≠ c → t.ctx i = s.ctx i) ∧ (t.ctx c).access a.id = some { a with unitsDone := u :: a.unitsDone } ∧
      t.ctx c = { s.ctx c with lsu := (t.ctx c).lsu } := by
  have hdef : s.unitOver c a u last = ({ s with fresh := s.fresh + 1 } : State).modCtx c fun x =>
      { x with lsu := modAccess a.id (fun b => { b with unitsDone := u :: b.unitsDone }) x.lsu } := if_neg (by omega)
  dsimp only
  rw [hdef]
  refine ⟨rfl, fun i hi => State.ctx_modCtx_ne _ _ _ _ hi, ?_, by rw [State.ctx_modCtx_same]; rfl⟩
  rw [State.ctx_modCtx_same]
  exact (access_modAccess (fun b => { b with unitsDone := u :: b.unitsDone }) fun _ => rfl).trans (congrArg (Option.map _) ha)

end Units

/-! ## The end of a write (R67, R81) -/

section WriteOver
variable {s u : State} {c pa k : Nat} {b : List Byte} {a : Access} {last : State → State}

theorem writes_fresh (h : s.Writes u c pa b) (n : Nat) : s.Writes { u with fresh := n } c pa b :=
  ⟨h.holds, h.aside, h.poison, h.near, h.rmw⟩

/-- The state that an access leaves with its last write. -/
structure State.Stored (s t : State) (c : Nat) (a : Access) (pa : Nat) (b : List Byte) (q0 q1 : List QEntry) : Prop where
  holds : s.Holds t pa b
  performs : s.Performs t c a 2 q0 q1
  poison : t.ms.poison = s.ms.poison
  near : t.ms.near = s.ms.near
  rmw : t.ms.hostRmw = s.ms.hostRmw

/-- A write followed by what changes only the issuing context's work. -/
theorem writes_work {t : State} {q0 q1 : List QEntry} (h : s.Writes u c pa b) (hwork : u.OnlyWork t)
    (hperf : u.Performs t c a 2 q0 q1) : s.Stored t c a pa b q0 q1 where
  holds := holds_sameBytes h.holds (onlyWork_sameBytes hwork)
  performs := performs_of_prepares (aside_prepares h.aside) hperf
  poison := by rw [onlyWork_ms hwork, h.poison]
  near := by rw [onlyWork_ms hwork, h.near]
  rmw := by rw [onlyWork_ms hwork, h.rmw]

theorem writes_queues (h : s.Writes u c pa b) : (u.ctx c).q0 = (s.ctx c).q0 ∧ (u.ctx c).q1 = (s.ctx c).q1 := by
  rw [h.aside.2]
  exact ⟨rfl, rfl⟩

theorem writes_over (h : s.Writes u c pa b) :
    s.Stored ((u.finish c a).accessDone c a) c a pa b (s.ctx c).q0 (s.ctx c).q1 := by
  obtain ⟨hperf, hwork⟩ := over_performs u c a u.moment
  obtain ⟨hq0, hq1⟩ := writes_queues h
  rw [hq0, hq1] at hperf
  exact writes_work h hwork hperf

/-- A unit has been written and others are left. -/
theorem writes_goesOn (h : s.Writes u c pa b) (hl : 2 ≤ a.unitsLeft.length) (hacc : (s.ctx c).access a.id = some a) :
    let t := u.unitOver c a k last
    s.Holds t pa b ∧ t.ms.poison = s.ms.poison ∧ t.ms.near = s.ms.near ∧ (∀ i, i ≠ c → t.ctx i = s.ctx i) ∧
      (t.ctx c).access a.id = some { a with unitsDone := k :: a.unitsDone } ∧ (t.ctx c).tokens = (s.ctx c).tokens := by
  obtain ⟨hwork, hothers, haccess, honly⟩ := unitOver_goesOn (s := u) (c := c) (u := k) (last := last) hl
    (by rw [h.aside.2]; exact hacc)
  have hms := onlyWork_ms hwork
  refine ⟨holds_sameBytes h.holds (onlyWork_sameBytes hwork), by rw [hms, h.poison], by rw [hms, h.near],
    fun i hi => (hothers i hi).trans (h.aside.1 i hi), haccess, ?_⟩
  rw [honly, h.aside.2]

end WriteOver

end Sys2Proof.Machine

/-! # Proofs: loads and stores at their homes (R51–R55, R57, R59, R67, R68, R72, R81–R83) -/

namespace Sys2Proof.Machine

theorem exec_globalLoadPerforms (c id : Nat) (near : Bool) (s : State) :
    exec (.globalLoadPerforms c id near) s = execGlobalLoadPerforms c id near s := rfl
theorem exec_globalStorePerforms (c id : Nat) (s : State) :
    exec (.globalStorePerforms c id) s = execGlobalStorePerforms c id s := rfl
theorem exec_nearBufferExpiry (quarter line : Nat) (s : State) :
    exec (.nearBufferExpiry quarter line) s = execNearBufferExpiry quarter line s := rfl

theorem access_unperformable {s : State} {c id : Nat} (h : s.performable c id = none) (near : Bool) :
    exec (.globalLoadPerforms c id near) s = .next s ∧ exec (.globalStorePerforms c id) s = .next s := by
  rw [exec_globalLoadPerforms, exec_globalStorePerforms, execGlobalLoadPerforms, execGlobalStorePerforms, h]
  exact ⟨rfl, rfl⟩

/-! ## The near buffer (R53–R55, R68) -/

theorem leave_only (s : State) (c : Nat) (a : Access) : s.leave c a = { s with ms := { s.ms with near := (s.leave c a).ms.near } } := by
  unfold State.leave
  dsimp only
  split <;> rfl

theorem leave_ctxs (s : State) (c : Nat) (a : Access) : (s.leave c a).ctxs = s.ctxs := by rw [leave_only]

theorem leave_sameBytes (s : State) (c : Nat) (a : Access) : s.SameBytes (s.leave c a) := by
  rw [leave_only]; exact sameBytes_of rfl rfl rfl

theorem leave_ctx (s : State) (c : Nat) (a : Access) (n : Nat) : (s.leave c a).ctx n = s.ctx n := by rw [leave_only]; rfl

theorem leave_accessOverlaps (s : State) (c : Nat) (a : Access) : (s.leave c a).accessOverlaps c a = s.accessOverlaps c a := by
  rw [leave_only]; rfl

theorem leave_unmixed (s : State) (c : Nat) (a : Access) : (s.leave c a).unmixed c a = s.unmixed c a := by
  rw [leave_only]; rfl

theorem leave_memoriesOk (s : State) (c : Nat) (a : Access) : (s.leave c a).memoriesOk = s.memoriesOk := by
  rw [leave_only]; rfl

theorem leave_backed (s : State) (c : Nat) (a : Access) (pa : Nat) : (s.leave c a).backed pa = s.backed pa := by
  rw [leave_only]; rfl

/-- A write that leaves for another Quarter has no copy left in its own. -/
def State.NoCopy (t : State) (c : Nat) (a : Access) : Prop :=
  homeQuarter a.pa ≠ quarterOf (coreOf c) →
    ∀ l, l ∈ t.ms.near → ¬ (l.quarter = quarterOf (coreOf c) ∧ l.line = a.pa / 256)

theorem leave_noCopy (s : State) (c : Nat) (a : Access) : (s.leave c a).NoCopy c a := by
  intro hq l hl hcopy
  have hdef : s.leave c a = s.dropNear (quarterOf (coreOf c)) a.pa := if_neg hq
  rw [hdef] at hl
  simpa [hcopy] using (List.mem_filter.1 hl).2

theorem noCopy_of_near {t u : State} {c : Nat} {a : Access} (h : u.ms.near = t.ms.near) (k : t.NoCopy c a) : u.NoCopy c a := by
  unfold State.NoCopy at *
  rwa [h]

theorem nearFill_only (s : State) (c : Nat) (a : Access) : s.nearFill c a =
    { s with ms := { s.ms with near := (s.nearFill c a).ms.near, fillSeq := (s.nearFill c a).ms.fillSeq } } := by
  unfold State.nearFill
  dsimp only
  generalize (a.nb && homeQuarter a.pa != quarterOf (coreOf c) && _) = fills
  cases fills <;> rfl

theorem nearHit_young {s : State} {c : Nat} {a : Access} {l : NearLine} (h : s.nearHit c a = some l) :
    a.nb = true ∧ homeQuarter a.pa ≠ quarterOf (coreOf c) ∧ l.quarter = quarterOf (coreOf c) ∧ l.line = a.pa / 256 ∧
      s.tick < l.stamp + 16384 ∧ a.bound ≤ l.stamp ∧ (fget (0, 0) (s.ctx c).seen (seenKey a.cls a.pa)).2 ≤ l.seq := by
  unfold State.nearHit at h
  dsimp only at h
  rw [Option.ite_none_right_eq_some] at h
  obtain ⟨hnear, hfind⟩ := h
  have hl := List.find?_some hfind
  simp only [Bool.and_eq_true, decide_eq_true_eq, bne_iff_ne, ne_eq] at hnear hl
  obtain ⟨hnb, hquarter, -⟩ := hnear
  obtain ⟨⟨⟨⟨hq, hline⟩, hage⟩, hbound⟩, hseen⟩ := hl
  exact ⟨hnb, hquarter, hq, hline, hage, hbound, hseen⟩

theorem nearBufferExpiry_expires (s : State) (quarter line : Nat) : Completes (.nearBufferExpiry quarter line) s (fun t =>
    t = { s with ms := { s.ms with near := t.ms.near } } ∧
      ∀ l, l ∈ t.ms.near ↔ l ∈ s.ms.near ∧ ¬ (l.quarter = quarter ∧ l.line = line ∧ l.stamp + 16384 ≤ s.tick)) := by
  refine ⟨_, exec_nearBufferExpiry .., rfl, fun l => List.mem_filter.trans (and_congr_right fun _ => ?_)⟩
  rw [Bool.not_eq_true', ← Bool.not_eq_true, Bool.and_eq_true, Bool.and_eq_true, decide_eq_true_eq, decide_eq_true_eq,
    decide_eq_true_eq, and_assoc]
  rfl

/-! ## The end of a load or a store -/

section Over
variable {s : State} {c : Nat} {a : Access}

theorem deliver_prepares (s : State) (c : Nat) (a : Access) (f : QEntry → QEntry) : s.Prepares (s.deliver c a f) c :=
  prepares_modCtx s c _ rfl

theorem loadOver_performs (s : State) (c : Nat) (a : Access) (at' : Nat × Nat) (f : QEntry → QEntry) :
    s.Performs (s.loadOver c a at' f) c a 2 (fillEntry a.id f (s.ctx c).q0) (fillEntry a.id f (s.ctx c).q1) ∧
      s.OnlyWork (s.loadOver c a at' f) := by
  obtain ⟨hperf, hwork⟩ := over_performs (s.deliver c a f) c a at'
  rw [show (s.deliver c a f).ctx c = _ from State.ctx_modCtx_same ..] at hperf
  exact ⟨performs_of_prepares (deliver_prepares s c a f) hperf, onlyWork_trans (t := s.deliver c a f) rfl hwork⟩

theorem refuse_tagged (ht : a.kind.tagged = true) :
    s.refuseOverlap c a = s.loadOver c a s.moment fun e => { e with overlap := some a.va } := by
  unfold State.refuseOverlap
  dsimp only
  rw [if_pos ht]
  rfl

/-- An access without a tag that the check refuses is over; its fault waits for the next ordering point. -/
theorem refuse_untagged (ht : a.kind.tagged = false) : let t := s.refuseOverlap c a
    s.Performs t c a 2 (s.ctx c).q0 (s.ctx c).q1 ∧ s.OnlyWork t ∧ (t.ctx c).overlap = (s.ctx c).overlap ++ [a.va] := by
  let u := s.modCtx c fun x => { x with overlap := x.overlap ++ [a.va] }
  have hdef : s.refuseOverlap c a = (u.finishAt c a u.moment).accessDone c a := by
    unfold State.refuseOverlap
    dsimp only
    rw [if_neg (by simp [ht])]
    rfl
  obtain ⟨hperf, hwork⟩ := over_performs u c a u.moment
  have hu : u.ctx c = { s.ctx c with overlap := (s.ctx c).overlap ++ [a.va] } := State.ctx_modCtx_same ..
  dsimp only
  rw [hdef]
  rw [hu] at hperf
  have hprep : s.Prepares u c := prepares_modCtx s c _ rfl
  refine ⟨performs_of_prepares hprep hperf, onlyWork_trans (t := u) rfl hwork, ?_⟩
  have hfin : ((u.finishAt c a u.moment).ctx c).overlap = (u.ctx c).overlap := by
    rw [show (u.finishAt c a u.moment).ctx c = ((u.ctx c).performed a u.tick).saw a u.moment u.tick from State.ctx_modCtx_same .., saw_only]
    rfl
  unfold State.accessDone
  split
  · rw [tokenDone_ctx, if_pos rfl]
    exact hfin.trans (congrArg Ctx.overlap hu)
  · exact hfin.trans (congrArg Ctx.overlap hu)

theorem tellUnbacked_only (s : State) (c : Nat) (a : Access) (d : Nat) : s.tellUnbacked c a d =
    { s with pf := (s.tellUnbacked c a d).pf } := by
  unfold State.tellUnbacked
  split
  · rw [tellAbsent_eq]
  · rfl

/-- A load, `atomr` or `cas` that fails at its home is over with a poisoned entry. -/
theorem failed_performs (s : State) (c : Nat) (a : Access) (at' : Nat × Nat) (d : Nat) :
    let t := (s.tellUnbacked c a d).loadOver c a at' fun e => { e with poison := d }
    s.Performs t c a 2 (fillEntry a.id (fun e => { e with poison := d }) (s.ctx c).q0)
      (fillEntry a.id (fun e => { e with poison := d }) (s.ctx c).q1) ∧ s.SameBytes t := by
  obtain ⟨hperf, hwork⟩ := loadOver_performs (s.tellUnbacked c a d) c a at' fun e => { e with poison := d }
  have honly := tellUnbacked_only s c a d
  have hctxs : (s.tellUnbacked c a d).ctxs = s.ctxs := by rw [honly]
  rw [show (s.tellUnbacked c a d).ctx c = s.ctx c by rw [State.ctx, State.ctx, hctxs]] at hperf
  refine ⟨performs_of_prepares (aside_prepares (aside_of_ctxs hctxs)) hperf, sameBytes_trans ?_ (onlyWork_sameBytes hwork)⟩
  rw [honly]; exact sameBytes_of rfl rfl rfl

end Over

/-! ## A load -/

section Load
variable {s : State} {c id n : Nat} {near : Bool} {a : Access} (h : s.performable c id = some a) (hk : a.kind = .load n)

/-- A load is over with what a function puts into its entry, and no byte differs. -/
def State.Fills (s t : State) (c : Nat) (a : Access) (f : QEntry → QEntry) : Prop :=
  s.SameBytes t ∧ s.Performs t c a 2 (fillEntry a.id f (s.ctx c).q0) (fillEntry a.id f (s.ctx c).q1)

/-- The data of a unit in its place of the entry. -/
def putUnit (s : State) (a : Access) (u : Nat) (e : QEntry) : QEntry :=
  { e with data := e.data ||| (entryData (mread s.mem (a.pa + 16 * u) 16) <<< (128 * u)) }

theorem loadOver_fills (s : State) (c : Nat) (a : Access) (at' : Nat × Nat) (f : QEntry → QEntry) :
    s.Fills (s.loadOver c a at' f) c a f :=
  have ⟨hperf, hwork⟩ := loadOver_performs s c a at' f
  ⟨onlyWork_sameBytes hwork, hperf⟩

theorem fills_nearFill {t : State} {f : QEntry → QEntry} (h : s.Fills t c a f) : s.Fills (t.nearFill c a) c a f := by
  obtain ⟨hsame, hperf⟩ := h
  refine ⟨sameBytes_trans hsame ?_, performs_aside hperf (aside_of_ctxs ?_)⟩
  · rw [nearFill_only]; exact sameBytes_of rfl rfl rfl
  · rw [nearFill_only]

theorem deliverUnit_ctx (s : State) (c : Nat) (a : Access) (u : Nat) :
    (s.deliverUnit c a u (mread s.mem (a.pa + 16 * u) 16)).ctx c = { s.ctx c with
      q0 := (s.ctx c).q0.map fun e => if e.acc = a.id then putUnit s a u e else e
      q1 := (s.ctx c).q1.map fun e => if e.acc = a.id then putUnit s a u e else e } := State.ctx_modCtx_same ..

theorem deliverUnit_sameBytes (s : State) (c : Nat) (a : Access) (u : Nat) (b : List Byte) : s.SameBytes (s.deliverUnit c a u b) :=
  modCtx_sameBytes ..

theorem deliverUnit_prepares (s : State) (c : Nat) (a : Access) (u : Nat) (b : List Byte) : s.Prepares (s.deliverUnit c a u b) c :=
  prepares_modCtx s c _ rfl

include hk in
theorem load_units : a.units = n / 16 := by rw [Access.units, hk]

include hk in
theorem load_wide : a.wide = true ↔ 2 ≤ n / 16 := by
  rw [Access.wide, load_units hk, decide_eq_true_iff]; exact Nat.lt_iff_add_one_le

include hk in
theorem load_size : a.size = n := by rw [Access.size, hk]

include hk in
theorem loadAtHome_whole (hu : s.unmixed c a = true) (hn : n / 16 < 2) :
    s.Fills (s.loadAtHome c a) c a fun e => { e with data := entryData (mread s.mem a.pa n) } := by
  have hw : a.wide = false := by rw [← Bool.not_eq_true, load_wide hk]; omega
  have hr := homeRead_unmixed (off := 0) (n := a.size) (w := false) hu (by omega) (by simp)
  unfold State.loadAtHome
  simp only [hw, hr, Bool.false_eq_true, if_false]
  rw [load_size hk]
  exact fills_nearFill (loadOver_fills ..)

include hk in
/-- The next unit of a wide load is read and delivered; the rest is as the units left say. -/
theorem loadAtHome_unit (hu : s.unmixed c a = true) (hn : 2 ≤ n / 16) (hl : a.unitsLeft ≠ []) : let u := s.nextUnit a
    s.loadAtHome c a = (s.deliverUnit c a u (mread s.mem (a.pa + 16 * u) 16)).unitOver c a u fun s =>
      (s.loadOver c a s.moment fun e => e).nearFill c a := by
  have hunit := (mem_unitsLeft.1 (nextUnit_mem (s := s) hl)).1
  rw [load_units hk] at hunit
  have hr := homeRead_unmixed (off := 16 * s.nextUnit a) (n := 16) (w := false) hu (by rw [load_size hk]; omega) (by simp)
  dsimp only
  unfold State.loadAtHome
  rw [if_pos ((load_wide hk).2 hn)]
  simp only [hr]
  rfl

include hk in
theorem loadAtHome_last (hu : s.unmixed c a = true) (hn : 2 ≤ n / 16) {unit : Nat} (hl : a.unitsLeft = [unit]) :
    s.Fills (s.loadAtHome c a) c a (putUnit s a unit) := by
  rw [loadAtHome_unit hk hu hn (by simp [hl]), nextUnit_single hl, unitOver_last (by simp [hl])]
  let u : State := s.deliverUnit c a unit (mread s.mem (a.pa + 16 * unit) 16)
  let v : State := { u with fresh := u.fresh + 1 }
  obtain ⟨hsame, hperf⟩ := fills_nearFill (loadOver_fills v c a v.moment fun e => e)
  rw [show v.ctx c = _ from deliverUnit_ctx s c a unit] at hperf
  have hput (q : List QEntry) : fillEntry a.id (fun e => e) (q.map fun e => if e.acc = a.id then putUnit s a unit e else e) =
      fillEntry a.id (putUnit s a unit) q := by
    rw [fillEntry, fillEntry, List.map_map]
    refine List.map_congr_left fun e _ => ?_
    by_cases he : e.acc = a.id <;> simp [he, putUnit]
  rw [hput, hput] at hperf
  have hprep : s.Prepares v c := deliverUnit_prepares s c a unit _
  exact ⟨sameBytes_trans (t := v) (deliverUnit_sameBytes s c a unit (mread s.mem (a.pa + 16 * unit) 16)) hsame,
    performs_of_prepares hprep hperf⟩

include h hk in
theorem loadAtHome_goesOn (hu : s.unmixed c a = true) (hn : 2 ≤ n / 16) (hl : 2 ≤ a.unitsLeft.length) :
    let t := s.loadAtHome c a
    let u := s.nextUnit a
    s.SameBytes t ∧ u ∈ a.unitsLeft ∧ (∀ i, i ≠ c → t.ctx i = s.ctx i) ∧
      (t.ctx c).access id = some { a with unitsDone := u :: a.unitsDone } ∧ (t.ctx c).tokens = (s.ctx c).tokens ∧
      (t.ctx c).q0 = ((s.ctx c).q0.map fun e => if e.acc = a.id then putUnit s a u e else e) ∧
      (t.ctx c).q1 = (s.ctx c).q1.map fun e => if e.acc = a.id then putUnit s a u e else e := by
  have hne : a.unitsLeft ≠ [] := by intro hnil; simp [hnil] at hl
  obtain ⟨hacc, hid⟩ := performable_some h
  have hctx := deliverUnit_ctx s c a (s.nextUnit a)
  obtain ⟨hwork, hothers, haccess, honly⟩ := unitOver_goesOn
    (s := s.deliverUnit c a (s.nextUnit a) (mread s.mem (a.pa + 16 * s.nextUnit a) 16))
    (c := c) (u := s.nextUnit a) (last := fun s => (s.loadOver c a s.moment fun e => e).nearFill c a) hl
    (by rw [hctx, hid]; exact hacc)
  dsimp only
  rw [loadAtHome_unit hk hu hn hne]
  refine ⟨sameBytes_trans (deliverUnit_sameBytes ..) (onlyWork_sameBytes hwork), nextUnit_mem hne,
    fun i hi => (hothers i hi).trans (State.ctx_modCtx_ne _ _ _ _ hi), hid ▸ haccess, ?_, ?_, ?_⟩
  all_goals rw [honly, hctx]

include h hk in
theorem load_near (hn : near = true) (hf : a.unitsDone = []) {l : NearLine} (hl : s.nearHit c a = some l) :
    exec (.globalLoadPerforms c id near) s = .next (s.loadOver c a (l.stamp, l.seq) fun e =>
      { e with data := entryData ((l.bytes.drop (a.pa % 256)).take n) }) := by
  rw [exec_globalLoadPerforms]
  simp [execGlobalLoadPerforms, h, hk, hn, hf, hl]

section AtHome
variable (hn : near = false ∨ ¬ a.unitsDone = [] ∨ s.nearHit c a = none)
include hn

theorem no_near_line : (if near && a.unitsDone.isEmpty then s.nearHit c a else none) = none := by
  rcases hn with hn | hn | hn <;> simp [hn]

include h hk

theorem load_refused (ho : (a.unitsDone.isEmpty && s.accessOverlaps c a) = true) :
    exec (.globalLoadPerforms c id near) s = .next (s.refuseOverlap c a) := by
  rw [exec_globalLoadPerforms]
  simp only [execGlobalLoadPerforms, h, hk, no_near_line hn, ho, if_true]

theorem load_poisons {d : Nat} (ho : (a.unitsDone.isEmpty && s.accessOverlaps c a) = false) (he : s.homeError a.pa = some d) :
    exec (.globalLoadPerforms c id near) s =
      .next ((s.tellUnbacked c a d).loadOver c a s.moment fun e => { e with poison := d }) := by
  rw [exec_globalLoadPerforms]
  simp only [execGlobalLoadPerforms, h, hk, no_near_line hn, ho, he, Bool.false_eq_true, if_false]

theorem load_reads (ho : (a.unitsDone.isEmpty && s.accessOverlaps c a) = false) (he : s.homeError a.pa = none) :
    exec (.globalLoadPerforms c id near) s = .next (s.loadAtHome c a) := by
  rw [exec_globalLoadPerforms]
  simp only [execGlobalLoadPerforms, h, hk, no_near_line hn, ho, he, Bool.false_eq_true, if_false]

end AtHome
end Load

/-! ## A store -/

section Store
variable {s : State} {c id : Nat} {bytes : List Byte} {a : Access} (h : s.performable c id = some a) (hk : a.kind = .store bytes)

include h hk in
theorem store_eq : exec (.globalStorePerforms c id) s =
    if a.unitsDone.isEmpty && s.accessOverlaps c a then .next ((s.leave c a).refuseOverlap c a)
    else if !s.backed a.pa then .next (((s.leave c a).finish c a).discard c a 3)
    else .next ((s.leave c a).storeAtHome c a bytes) := by
  rw [exec_globalStorePerforms, execGlobalStorePerforms, h]
  dsimp only
  rw [hk]
  dsimp only
  rw [leave_accessOverlaps, leave_backed]

include hk in
theorem store_units : a.units = bytes.length / 16 := by rw [Access.units, hk]

include hk in
theorem store_wide : a.wide = true ↔ 2 ≤ bytes.length / 16 := by
  rw [Access.wide, store_units hk, decide_eq_true_iff]; exact Nat.lt_iff_add_one_le

include hk in
theorem store_size : a.size = bytes.length := by rw [Access.size, hk]

include hk in
theorem store_writes : a.writes = true := by rw [Access.writes, hk]

include hk in
theorem storeAtHome_whole (hu : s.unmixed c a = true) (hm : s.memoriesOk = true) (hn : bytes.length / 16 < 2) :
    s.Stored (s.storeAtHome c a bytes) c a a.pa bytes (s.ctx c).q0 (s.ctx c).q1 := by
  have hw : ¬ a.wide = true := by rw [store_wide hk]; omega
  unfold State.storeAtHome
  rw [if_neg hw]
  exact writes_over (homeStore_writes hu (by rw [store_size hk]; omega) (store_writes hk) hm ..)

include hk in
/-- A unit of a wide store has written its own bytes. -/
theorem storeAtHome_unit (hu : s.unmixed c a = true) (hm : s.memoriesOk = true) (hn : 2 ≤ bytes.length / 16) (hl : a.unitsLeft ≠ []) :
    let k := s.nextUnit a
    ∃ u, s.Writes u c (a.pa + 16 * k) ((bytes.drop (16 * k)).take 16) ∧
      s.storeAtHome c a bytes = u.unitOver c a k fun s => s.storeOver c a := by
  have hunit := (mem_unitsLeft.1 (nextUnit_mem (s := s) hl)).1
  rw [store_units hk] at hunit
  refine ⟨_, homeStore_writes hu ?_ (store_writes hk) hm (s.ctx c).tenant a.pa a.size a.cls, if_pos ((store_wide hk).2 hn)⟩
  rw [store_size hk, List.length_take, List.length_drop]
  omega

include hk in
theorem storeAtHome_last (hu : s.unmixed c a = true) (hm : s.memoriesOk = true) (hn : 2 ≤ bytes.length / 16) {unit : Nat}
    (hl : a.unitsLeft = [unit]) : s.Stored (s.storeAtHome c a bytes) c a (a.pa + 16 * unit) ((bytes.drop (16 * unit)).take 16)
      (s.ctx c).q0 (s.ctx c).q1 := by
  obtain ⟨u, hwrites, heq⟩ := storeAtHome_unit hk hu hm hn (by simp [hl])
  rw [nextUnit_single hl] at hwrites heq
  rw [heq, unitOver_last (by simp [hl])]
  exact writes_over (writes_fresh hwrites _)

/-- What is true of a write before which the line left the near buffer of its Quarter. -/
theorem stored_leave {t : State} {pa : Nat} {b : List Byte} {q0 q1 : List QEntry} (h : (s.leave c a).Stored t c a pa b q0 q1) :
    s.Holds t pa b ∧ s.Performs t c a 2 q0 q1 ∧ t.ms.poison = s.ms.poison ∧ t.NoCopy c a ∧ t.ms.hostRmw = s.ms.hostRmw := by
  have hleave := leave_only s c a
  refine ⟨holds_of_mem ?_ ?_ ?_ h.holds, performs_of_prepares (aside_prepares (aside_of_ctxs (leave_ctxs ..))) h.performs, ?_,
    noCopy_of_near h.near (leave_noCopy s c a), ?_⟩
  · rw [hleave]
  · rw [hleave]
  · rw [hleave]
  · rw [h.poison, hleave]
  · rw [h.rmw, hleave]

end Store

/-! ## The obligation -/

theorem first_not_refused {s : State} {c : Nat} {a : Access} (h : a.unitsDone = [] → s.accessOverlaps c a = false) :
    (a.unitsDone.isEmpty && s.accessOverlaps c a) = false := by
  rw [← Bool.not_eq_true, Bool.and_eq_true, List.isEmpty_iff]
  exact fun ⟨hfirst, hover⟩ => by simp [h hfirst] at hover

theorem first_refused {s : State} {c : Nat} {a : Access} (hf : a.unitsDone = []) (h : s.accessOverlaps c a = true) :
    (a.unitsDone.isEmpty && s.accessOverlaps c a) = true := by
  simp [hf, h]

/-- Settles O33: a load by where it reads and what stands there, a store by what stands at its home; either of them whole or unit by
unit. -/
theorem loadsAndStoresPerform : Obligations.LoadsAndStoresPerform := by
  intro s c id n d unit quarter line a near l bytes x q first part goesOn noCopy fill
  refine ⟨fun h => access_unperformable h near, fun h hk => ⟨fun hn hf hl => ?near, fun hn => ⟨fun hf ho => ?loadRefused,
    fun ho => ?load⟩⟩, nearHit_young, fun h hk => ⟨fun hf ho => ?storeRefused, fun ho => ?store⟩,
    nearBufferExpiry_expires s quarter line⟩
  case near => exact ⟨_, load_near h hk hn hf hl, loadOver_fills ..⟩
  case loadRefused =>
    refine ⟨_, load_refused h hk hn (first_refused hf ho), ?_⟩
    rw [refuse_tagged (by rw [hk]; rfl)]
    exact loadOver_fills ..
  case load =>
    refine ⟨fun he => ⟨_, load_poisons h hk hn (first_not_refused ho) he, (failed_performs ..).symm⟩, fun he hu => ?reads⟩
    case reads =>
      have hhome := load_reads h hk hn (first_not_refused ho) he
      refine ⟨fun hw => ⟨_, hhome, loadAtHome_whole hk hu hw⟩, fun hw hl => ⟨_, hhome, loadAtHome_last hk hu hw hl⟩,
        fun hw hl => ?_⟩
      obtain ⟨hsame, hunit, hothers, haccess, htokens, hq0, hq1⟩ := loadAtHome_goesOn h hk hu hw hl
      exact ⟨_, hhome, hsame, _, ⟨hunit, hothers, haccess, htokens⟩, hq0, hq1⟩
  case storeRefused =>
    refine ⟨_, (store_eq h hk).trans (if_pos (first_refused hf ho)), ?_⟩
    obtain ⟨hperf, hwork, hover⟩ := refuse_untagged (s := s.leave c a) (c := c) (a := a) (by rw [hk]; rfl)
    rw [leave_ctx] at hperf hover
    exact ⟨sameBytes_trans (leave_sameBytes ..) (onlyWork_sameBytes hwork),
      performs_of_prepares (aside_prepares (aside_of_ctxs (leave_ctxs ..))) hperf, hover,
      noCopy_of_near (congrArg MemSys.near (onlyWork_ms hwork)) (leave_noCopy s c a)⟩
  case store =>
    have hstore := store_eq h hk
    rw [first_not_refused ho, if_neg Bool.false_ne_true] at hstore
    refine ⟨fun hb => ?discarded, fun hb hm hu => ?writes⟩
    case discarded =>
      rw [hb] at hstore
      obtain ⟨hperf, hsame, hms, hcount⟩ := discard_performs (s.leave c a) c a 3
      rw [leave_ctx] at hperf
      exact ⟨_, hstore, sameBytes_trans (leave_sameBytes ..) hsame,
        performs_of_prepares (aside_prepares (aside_of_ctxs (leave_ctxs ..))) hperf,
        noCopy_of_near (congrArg MemSys.near hms) (leave_noCopy s c a), hcount.trans (by rw [leave_only]; rfl)⟩
    case writes =>
      rw [hb] at hstore
      have hm' := (leave_memoriesOk s c a).trans hm
      have hu' := (leave_unmixed s c a).trans hu
      refine ⟨fun hw => ⟨_, hstore, ?whole⟩, fun hw hl => ⟨_, hstore, ?last⟩, fun hw hl => ⟨_, hstore, ?unit⟩⟩
      case whole =>
        obtain ⟨hholds, hperf, hpoison, hnear, -⟩ := stored_leave (storeAtHome_whole hk hu' hm' hw)
        rw [leave_ctx] at hperf
        exact ⟨hholds, hperf, hpoison, hnear⟩
      case last =>
        obtain ⟨hholds, hperf, hpoison, hnear, -⟩ := stored_leave (storeAtHome_last hk hu' hm' hw hl)
        rw [leave_ctx] at hperf
        exact ⟨hholds, hperf, hpoison, hnear⟩
      case unit =>
        have hne : a.unitsLeft ≠ [] := by intro hnil; simp [hnil] at hl
        obtain ⟨hacc, hid⟩ := performable_some h
        obtain ⟨u, hwrites, heq⟩ := storeAtHome_unit hk hu' hm' hw hne
        obtain ⟨hholds, hpoison, hnear, hothers, haccess, htokens⟩ := writes_goesOn (k := (s.leave c a).nextUnit a)
          (last := fun s => s.storeOver c a) hwrites hl (by rw [leave_ctx, hid]; exact hacc)
        rw [heq]
        have hleave := leave_only s c a
        refine ⟨hpoison.trans (by rw [hleave]), noCopy_of_near hnear (leave_noCopy s c a), _,
          ⟨nextUnit_mem hne, fun i hi => (hothers i hi).trans (leave_ctx ..), hid ▸ haccess, htokens.trans (by rw [leave_ctx])⟩,
          holds_of_mem ?_ ?_ ?_ hholds⟩ <;> rw [hleave]

end Sys2Proof.Machine

/-! # Proofs: atomics at their homes (R57, R59, R60, R104, R106, R107, R110, R112, R315) -/

namespace Sys2Proof.Machine

theorem exec_atomicPerforms (c id : Nat) (s : State) : exec (.atomicPerforms c id) s = execAtomicPerforms c id s := rfl

/-! ## Values (R104, R106) -/

/-- What each operation of R104 makes of k bytes of memory and an operand. -/
def Combines (aop k m v new : Nat) : Prop :=
  let signed (x : Nat) : Int := intOf (8 * k) x
  let float (op : Nat) : Nat := (elemOp .f32 { rm := 0#2, daz := false, ftz := false, sat := false } op m v 0).1 % 2 ^ 32
  (aop = 0 → new = (m + v) % 2 ^ (8 * k)) ∧
  (k = 4 → (aop = 1 → new = float 0x01) ∧ (aop = 6 → new = float 0x06) ∧ (aop = 7 → new = float 0x07)) ∧
  (aop = 2 → new = if signed v < signed m then v else m) ∧ (aop = 3 → new = min m v) ∧
  (aop = 4 → new = if signed m < signed v then v else m) ∧ (aop = 5 → new = max m v) ∧
  (aop = 8 → new = m &&& v) ∧ (aop = 9 → new = m ||| v) ∧ (aop = 10 → new = m ^^^ v) ∧ (aop = 11 → new = v)

/-- The operations on FP32. -/
def IsFloatOp (aop : Nat) : Prop := aop = 1 ∨ aop = 6 ∨ aop = 7

section Values
variable {aop k m v : Nat}

theorem combines_integer (h : ¬ IsFloatOp aop) : Combines aop k m v (atomicNew aop k m v) := by
  refine ⟨?_, fun _ => ⟨fun h1 => absurd (Or.inl h1) h, fun h6 => absurd (Or.inr (Or.inl h6)) h,
    fun h7 => absurd (Or.inr (Or.inr h7)) h⟩, ?_, ?min, ?_, ?max, ?_, ?_, ?_, ?_⟩
  case min => rintro rfl; exact (min_def_lt v m).symm.trans (min_comm v m)
  case max => rintro rfl; exact (max_def_lt m v).symm
  all_goals rintro rfl; rfl

theorem combines_float (h : IsFloatOp aop) : Combines aop k m v (atomicNew aop k m v % 2 ^ (8 * k)) := by
  have hfloat : aop = 1 ∨ aop = 6 ∨ aop = 7 := h
  refine ⟨by omega, ?_, by omega, by omega, by omega, by omega, by omega, by omega, by omega, by omega⟩
  rintro rfl
  refine ⟨?_, ?_, ?_⟩ <;> rintro rfl <;> rfl

theorem atomicNew_lt (h : ¬ IsFloatOp aop) (hm : m < 2 ^ (8 * k)) (hv : v < 2 ^ (8 * k)) : atomicNew aop k m v < 2 ^ (8 * k) := by
  have hpick (p : Prop) [Decidable p] : (if p then v else m) < 2 ^ (8 * k) := by split <;> assumption
  unfold atomicNew
  split
  case h_1 => exact Nat.mod_lt _ (Nat.two_pow_pos _)
  case h_2 => exact absurd (Or.inl rfl) h
  case h_7 => exact absurd (Or.inr (Or.inl rfl)) h
  case h_8 => exact absurd (Or.inr (Or.inr rfl)) h
  case h_9 => exact Nat.and_lt_two_pow _ hv
  case h_10 => exact Nat.or_lt_two_pow hm hv
  case h_11 => exact Nat.xor_lt_two_pow hm hv
  case h_12 => exact hv
  all_goals exact hpick _

/-- An operation on what fits in k bytes, cut to k bytes. -/
theorem combines_mod (hm : m < 2 ^ (8 * k)) (hv : v < 2 ^ (8 * k)) : Combines aop k m v (atomicNew aop k m v % 2 ^ (8 * k)) := by
  by_cases h : IsFloatOp aop
  · exact combines_float h
  · rw [Nat.mod_eq_of_lt (atomicNew_lt h hm hv)]
    exact combines_integer h

theorem toBytes_mod (n x : Nat) : toBytes n (x % 2 ^ (8 * n)) = toBytes n x := by
  induction n generalizing x with
  | zero => rfl
  | succ n ih =>
    have hpow : 2 ^ (8 * (n + 1)) = 256 * 2 ^ (8 * n) := by rw [Nat.mul_add, pow_add, Nat.mul_comm]; norm_num
    rw [toBytes, toBytes, hpow, Nat.mod_mul_right_div_self, ih]
    congr 1
    refine BitVec.eq_of_toNat_eq ?_
    rw [BitVec.toNat_ofNat, BitVec.toNat_ofNat]
    exact Nat.mod_mul_right_mod x 256 _

/-- What an operation writes spells what R104 says. -/
theorem combines_written (aop k m v : Nat) : ∃ new, toBytes k (atomicNew aop k m v) = toBytes k new ∧ Combines aop k m v new := by
  by_cases h : IsFloatOp aop
  · exact ⟨_, (toBytes_mod ..).symm, combines_float h⟩
  · exact ⟨_, rfl, combines_integer h⟩

end Values

/-! ## Rows, element by element (R107, R315) -/

section Rows

theorem packElems_elem (w : Nat) (l : List Nat) (i : Nat) (h : i < l.length) : packElems w l / 2 ^ (w * i) % 2 ^ w = l[i] % 2 ^ w := by
  induction l generalizing i with
  | nil => cases h
  | cons x l ih =>
    cases i with
    | zero => simp [packElems]
    | succ i =>
      rw [Nat.mul_succ, Nat.add_comm, pow_add, ← Nat.div_div_eq_div_mul, packElems, Nat.add_mul_div_left _ _ (Nat.two_pow_pos w),
        Nat.div_eq_of_lt (Nat.mod_lt _ (Nat.two_pow_pos w)), Nat.zero_add, ih i (by simpa using h), List.getElem_cons_succ]

theorem packElems_lt (w : Nat) (l : List Nat) : packElems w l < 2 ^ (w * l.length) := by
  induction l with
  | nil => simp [packElems]
  | cons x l ih =>
    rw [packElems, List.length_cons, Nat.mul_succ, Nat.add_comm (w * _), pow_add]
    have hx := Nat.mod_lt x (Nat.two_pow_pos w)
    calc x % 2 ^ w + 2 ^ w * packElems w l < 2 ^ w + 2 ^ w * packElems w l := by omega
      _ = 2 ^ w * (packElems w l + 1) := by ring
      _ ≤ 2 ^ w * 2 ^ (w * l.length) := Nat.mul_le_mul_left _ ih

theorem length_elems (W w v : Nat) : (elems W w v).length = W / w := by simp [elems]

theorem rowElems_length (aop et bits old data : Nat) : let w := 8 * rowElemSize et
    (List.zipWith (atomicNew aop (rowElemSize et)) (elems bits w old) (elems bits w data)).length = bits / w := by
  simp [length_elems]

theorem rowNew_lt (aop et old data : Nat) : rowNew aop et 128 old data < 2 ^ 128 := by
  refine (packElems_lt _ _).trans_eq ?_
  rw [rowElems_length, rowElemSize]
  split <;> rfl

theorem rowNew_elem (aop et old data : Nat) {e : Nat} (he : e < 128 / (8 * rowElemSize et)) : let w := 8 * rowElemSize et
    rowNew aop et 128 old data / 2 ^ (w * e) % 2 ^ w =
      atomicNew aop (rowElemSize et) (old / 2 ^ (w * e) % 2 ^ w) (data / 2 ^ (w * e) % 2 ^ w) % 2 ^ w := by
  dsimp only
  rw [rowNew, packElems_elem _ _ _ (by rw [rowElems_length]; exact he)]
  simp [elems]

/-- Each element of a row's part is what R104 makes of it. -/
theorem rowNew_combines (aop et old data : Nat) {e : Nat} (he : e < 128 / (8 * rowElemSize et)) : let w := 8 * rowElemSize et
    Combines aop (rowElemSize et) (old / 2 ^ (w * e) % 2 ^ w) (data / 2 ^ (w * e) % 2 ^ w)
      (rowNew aop et 128 old data / 2 ^ (w * e) % 2 ^ w) := by
  dsimp only
  rw [rowNew_elem aop et old data he]
  exact combines_mod (Nat.mod_lt _ (Nat.two_pow_pos _)) (Nat.mod_lt _ (Nat.two_pow_pos _))

end Rows

/-! ## What an atomic does at its home -/

/-- Nothing differs but the lines of near buffers and what an atomic in the host window has read. -/
def State.AsideHome (s u : State) : Prop := u = { s with ms := { s.ms with near := u.ms.near, hostRmw := u.ms.hostRmw } }

section AsideHome
variable {s u : State} (h : s.AsideHome u)

theorem leave_asideHome (s : State) (c : Nat) (a : Access) : s.AsideHome (s.leave c a) := by
  unfold State.AsideHome; rw [leave_only]

theorem leave_hostRmw (s : State) (c : Nat) (a : Access) : (s.leave c a).ms.hostRmw = s.ms.hostRmw := by rw [leave_only]

include h

theorem asideHome_modRmw (r : Option HostRmw) : s.AsideHome (u.modMs fun m => { m with hostRmw := r }) := by
  unfold State.AsideHome; rw [h]; rfl

theorem asideHome_ctxs : u.ctxs = s.ctxs := by rw [h]
theorem asideHome_ctx (n : Nat) : u.ctx n = s.ctx n := by rw [State.ctx, State.ctx, asideHome_ctxs h]
theorem asideHome_prepares (c : Nat) : s.Prepares u c := aside_prepares (aside_of_ctxs (asideHome_ctxs h))
theorem asideHome_mem : u.mem = s.mem := by rw [h]
theorem asideHome_poison : u.ms.poison = s.ms.poison := by rw [h]
theorem asideHome_sameBytes : s.SameBytes u := by rw [h]; exact sameBytes_of rfl rfl rfl
theorem asideHome_memoriesOk : u.memoriesOk = s.memoriesOk := by rw [h]; rfl
theorem asideHome_unmixed (c : Nat) (a : Access) : u.unmixed c a = s.unmixed c a := by rw [h]; rfl
theorem asideHome_homeError (pa : Nat) : u.homeError pa = s.homeError pa := by rw [h]; rfl
theorem asideHome_splitAtHost (a : Access) : u.splitAtHost a = s.splitAtHost a := by rw [h]; rfl
theorem asideHome_quarter (n : Nat) : u.quarter n = s.quarter n := by rw [h]; rfl
theorem asideHome_launch (n : Nat) : u.launch n = s.launch n := by rw [h]; rfl

theorem asideHome_holds {t : State} {pa : Nat} {b : List Byte} (k : u.Holds t pa b) : s.Holds t pa b := by
  refine holds_of_mem ?_ ?_ ?_ k <;> rw [h]

theorem asideHome_stored {t : State} {c pa : Nat} {a : Access} {b : List Byte} {q0 q1 : List QEntry}
    (k : u.Stored t c a pa b q0 q1) : s.Holds t pa b ∧ s.Performs t c a 2 q0 q1 ∧ t.ms.poison = s.ms.poison :=
  ⟨asideHome_holds h k.holds, performs_of_prepares (asideHome_prepares h c) k.performs, k.poison.trans (asideHome_poison h)⟩

end AsideHome

section Exec
variable {s : State} {c id i : Nat} {a : Access} (h : s.performable c id = some a) (hk : a.kind.isAtomic = true)
  (ho : s.accessOverlaps c a = false)
include h hk ho

theorem atomic_performs (hi : a.interval = none) : exec (.atomicPerforms c id) s = .next ((s.leave c a).performAtomic c a) := by
  rw [exec_atomicPerforms]
  simp [execAtomicPerforms, h, hk, leave_accessOverlaps, ho, hi]

theorem atomic_batched (hi : a.interval = some i) : exec (.atomicPerforms c id) s = .next ((s.leave c a).joinBatch c a i) := by
  rw [exec_atomicPerforms]
  simp [execAtomicPerforms, h, hk, leave_accessOverlaps, ho, hi]

end Exec

/-- What the queues of an atomic's context hold after it has performed on what `old` was. -/
def answered (a : Access) (old : List Byte) (q : List QEntry) : List QEntry :=
  if a.kind.tagged then fillEntry a.id (fun e => { e with data := entryData old }) q else q

theorem answered_eq {a : Access} {r : Bool} (h : a.kind.tagged = r) (old : List Byte) (q : List QEntry) : answered a old q =
    (if r = true then fillEntry a.id fun e => { e with data := entryData old } else fun q => q) q := by
  unfold answered
  rw [h]
  split <;> rfl

section AtHome
variable {s u : State} {c d off pa : Nat} {a : Access} {old b : List Byte} {r : HostRmw}

theorem takeOrder_none (hr : a.rcd = none) (s : State) (c : Nat) (v : Option Word) : s.takeOrder c a v = s := by
  rw [State.takeOrder, hr]

theorem performAtomic_error (hr : a.rcd = none) (he : s.homeError a.pa = some d) : s.performAtomic c a =
    if a.kind.tagged = true then (s.tellUnbacked c a d).loadOver c a s.moment fun e => { e with poison := d }
    else (s.finish c a).discard c a d := by
  rw [State.performAtomic, he]
  dsimp only
  rw [takeOrder_none hr]

theorem performAtomic_idle (he : s.homeError a.pa = none) (hi : ∀ y, s.ms.hostRmw = some y → ¬ (y.ctx = c ∧ y.id = a.id)) :
    s.performAtomic c a = s.atomicNow c a := by
  rw [State.performAtomic, he]
  dsimp only
  cases hy : s.ms.hostRmw with
  | none => rfl
  | some y => exact if_neg (by simpa using hi y hy)

theorem performAtomic_mine (he : s.homeError a.pa = none) (hr : s.ms.hostRmw = some r) (hc : r.ctx = c) (hid : r.id = a.id) :
    s.performAtomic c a =
      ((s.modMs fun m => { m with hostRmw := none }).atomicWrite c a (16 * r.unit) r.old).partOver c a (16 * r.unit) r.old := by
  rw [State.performAtomic, he]
  dsimp only
  rw [hr]
  exact if_pos (by simp [hc, hid])

theorem atomic_writes (hk : a.kind.isAtomic = true) : a.writes = true := by
  unfold Access.writes
  cases hkind : a.kind <;> simp_all [AccKind.isAtomic]

theorem atomicPart_whole (hw : a.wide = false) : s.atomicPart a = (0, a.size) := if_neg (by simp [hw])
theorem atomicPart_unit (hw : a.wide = true) : s.atomicPart a = (16 * s.nextUnit a, 16) := if_pos hw

/-- An atomic acts inside its range. -/
theorem atomicPart_inside (hk : a.kind.isAtomic = true) (s : State) : (s.atomicPart a).1 + (s.atomicPart a).2 ≤ a.size := by
  unfold State.atomicPart
  by_cases hw : a.wide = true
  · rw [if_pos hw]
    by_cases hl : a.unitsLeft = []
    · have hzero : s.nextUnit a = 0 := by rw [State.nextUnit, hl]; rfl
      rw [hzero]
      cases hkind : a.kind <;> simp_all [Access.wide, Access.units, Access.size, AccKind.isAtomic]
    · have hunit := (mem_unitsLeft.1 (nextUnit_mem (s := s) hl)).1
      cases hkind : a.kind <;> simp_all [Access.wide, Access.units, Access.size, AccKind.isAtomic]
      omega
  · rw [if_neg hw]
    exact (Nat.zero_add _).le

theorem atomicRead_unmixed (hu : s.unmixed c a = true) (hk : a.kind.isAtomic = true) :
    s.homeRead c a (s.atomicPart a).1 (s.atomicPart a).2 true =
      (mread s.mem (a.pa + (s.atomicPart a).1) (s.atomicPart a).2, s) :=
  homeRead_unmixed hu (atomicPart_inside hk s) fun _ => atomic_writes hk

/-- What an atomic in the host window keeps of what it has read. -/
def State.readNow (s : State) (c : Nat) (a : Access) : HostRmw where
  ctx := c
  id := a.id
  unit := (s.atomicPart a).1 / 16
  old := mread s.mem (a.pa + (s.atomicPart a).1) (s.atomicPart a).2

theorem atomicNow_split (hu : s.unmixed c a = true) (hk : a.kind.isAtomic = true) (hs : s.splitAtHost a = true) :
    s.atomicNow c a = s.modMs fun m => { m with hostRmw := some (s.readNow c a) } := by
  unfold State.atomicNow
  dsimp only
  rw [if_pos hs, atomicRead_unmixed hu hk]
  rfl

theorem atomicNow_acts (hu : s.unmixed c a = true) (hk : a.kind.isAtomic = true) (hs : s.splitAtHost a = false) :
    let off := (s.atomicPart a).1
    let old := mread s.mem (a.pa + off) (s.atomicPart a).2
    s.atomicNow c a = (s.atomicWrite c a off old).partOver c a off old := by
  unfold State.atomicNow
  dsimp only
  rw [if_neg (by simp [hs]), atomicRead_unmixed hu hk]

theorem atomicWrite_writes (hu : s.unmixed c a = true) (hk : a.kind.isAtomic = true) (hm : s.memoriesOk = true)
    (hf : a.kind.fails old = false) (ho : off + (a.kind.apply off old).length ≤ a.size) :
    s.Writes (s.atomicWrite c a off old) c (a.pa + off) (a.kind.apply off old) := by
  unfold State.atomicWrite
  dsimp only
  rw [if_neg (by simp [hf])]
  exact homeStore_writes hu ho (atomic_writes hk) hm ..

theorem atomicOver_performs (hr : a.rcd = none) (s : State) (c : Nat) (old : List Byte) :
    s.Performs (s.atomicOver c a old) c a 2 (answered a old (s.ctx c).q0) (answered a old (s.ctx c).q1) ∧
      s.OnlyWork (s.atomicOver c a old) := by
  unfold State.atomicOver
  dsimp only
  rw [takeOrder_none hr]
  unfold answered
  cases ht : a.kind.tagged with
  | true => exact loadOver_performs s c a s.moment fun e => { e with data := entryData old }
  | false => exact over_performs s c a s.moment

theorem writes_atomicOver (hr : a.rcd = none) (h : s.Writes u c pa b) :
    s.Stored (u.atomicOver c a old) c a pa b (answered a old (s.ctx c).q0) (answered a old (s.ctx c).q1) := by
  obtain ⟨hperf, hwork⟩ := atomicOver_performs hr u c old
  obtain ⟨hq0, hq1⟩ := writes_queues h
  rw [hq0, hq1] at hperf
  exact writes_work h hwork hperf

theorem partOver_whole (hw : a.wide = false) (off : Nat) : s.partOver c a off old = s.atomicOver c a old := if_neg (by simp [hw])

theorem atomicNow_whole (hu : s.unmixed c a = true) (hk : a.kind.isAtomic = true) (hs : s.splitAtHost a = false)
    (hw : a.wide = false) : let old := mread s.mem a.pa a.size
    s.atomicNow c a = (s.atomicWrite c a 0 old).partOver c a 0 old := by
  have hnow := atomicNow_acts hu hk hs
  rw [atomicPart_whole hw] at hnow
  exact hnow

theorem partOver_unit (hw : a.wide = true) (k : Nat) :
    s.partOver c a (16 * k) old = s.unitOver c a k fun s => s.atomicOver c a [] := by
  rw [State.partOver, if_pos hw, Nat.mul_div_cancel_left k (by decide)]

end AtHome

/-! ## `atom` and `atomr` (R104) -/

section Atomic
variable {s : State} {c aop n : Nat} {a : Access} {v : Word} {r : Bool} (hk : a.kind = .atomic aop n v r) (hr : a.rcd = none)
  (hm : s.memoriesOk = true)
include hk

theorem atomic_kind : a.kind.isAtomic = true ∧ a.wide = false ∧ a.size = n ∧ a.kind.tagged = r := by
  simp [hk, AccKind.isAtomic, Access.wide, Access.units, Access.size, AccKind.tagged]

include hr hm

/-- What an operation leaves in memory and in the queues, where it has read `old`. -/
theorem atomic_acts (hu : s.unmixed c a = true) (old : List Byte) : ∃ new, Combines aop n (ofBytes old) v.toNat new ∧
    s.Stored ((s.atomicWrite c a 0 old).partOver c a 0 old) c a a.pa (toBytes n new)
      (answered a old (s.ctx c).q0) (answered a old (s.ctx c).q1) := by
  obtain ⟨hatomic, hwide, hsize, -⟩ := atomic_kind hk
  obtain ⟨new, hbytes, hcombines⟩ := combines_written aop n (ofBytes old) v.toNat
  have happly : a.kind.apply 0 old = toBytes n new := by rw [hk]; exact hbytes
  have hwrites := atomicWrite_writes (off := 0) (old := old) hu hatomic hm (by rw [hk]; rfl)
    (by rw [happly, length_toBytes, hsize, Nat.zero_add])
  rw [happly] at hwrites
  refine ⟨new, hcombines, ?_⟩
  rw [partOver_whole hwide]
  exact writes_atomicOver hr hwrites

end Atomic

/-! ## `cas` (R107) -/

section Cas
variable {s : State} {c n expect new : Nat} {a : Access} {old : List Byte} (hk : a.kind = .cas n expect new) (hr : a.rcd = none)
include hk

theorem cas_kind : a.kind.isAtomic = true ∧ a.wide = false ∧ a.size = n ∧ a.kind.tagged = true := by
  simp [hk, AccKind.isAtomic, Access.wide, Access.units, Access.size, AccKind.tagged]

include hr

theorem cas_swaps (hm : s.memoriesOk = true) (hu : s.unmixed c a = true) (he : ofBytes old = expect) :
    s.Stored ((s.atomicWrite c a 0 old).partOver c a 0 old) c a a.pa (toBytes n new)
      (answered a old (s.ctx c).q0) (answered a old (s.ctx c).q1) := by
  obtain ⟨hatomic, hwide, hsize, -⟩ := cas_kind hk
  have happly : a.kind.apply 0 old = toBytes n new := by rw [hk]; exact if_pos he
  have hwrites := atomicWrite_writes (off := 0) (old := old) hu hatomic hm (by rw [hk]; simp [AccKind.fails, he])
    (by rw [happly, length_toBytes, hsize, Nat.zero_add])
  rw [happly] at hwrites
  rw [partOver_whole hwide]
  exact writes_atomicOver hr hwrites

theorem cas_keeps (he : ofBytes old ≠ expect) : let t := (s.atomicWrite c a 0 old).partOver c a 0 old
    s.SameBytes t ∧ s.Performs t c a 2 (answered a old (s.ctx c).q0) (answered a old (s.ctx c).q1) := by
  obtain ⟨hatomic, hwide, hsize, -⟩ := cas_kind hk
  have hfails : a.kind.fails old = true := by rw [hk]; simp [AccKind.fails, he]
  have hwrite : s.atomicWrite c a 0 old = s.markDirty (s.ctx c).launch a.va.toNat a.pa := if_pos hfails
  have hctxs : (s.atomicWrite c a 0 old).ctxs = s.ctxs := by rw [hwrite, markDirty_only]
  obtain ⟨hperf, hwork⟩ := atomicOver_performs hr (s.atomicWrite c a 0 old) c old
  dsimp only
  rw [partOver_whole hwide]
  rw [State.ctx, hctxs] at hperf
  refine ⟨sameBytes_trans ?_ (onlyWork_sameBytes hwork), performs_of_prepares (aside_prepares (aside_of_ctxs hctxs)) hperf⟩
  rw [hwrite]
  exact markDirty_sameBytes ..

end Cas

/-! ## A row (R107, R315) -/

/-- Sixteen bytes of a row have been combined, element by element. -/
def State.RowPart (s t : State) (a : Access) (aop et : Nat) (data : Bay) (u : Nat) : Prop :=
  let w := if et = 1 then 64 else 32
  ∃ new, new < 2 ^ 128 ∧ (s.Holds t (a.pa + 16 * u) (toBytes 16 new) ∧ t.ms.poison = s.ms.poison) ∧
    ∀ e, e < 128 / w → Combines aop (w / 8) (ofBytes (mread s.mem (a.pa + 16 * u) 16) / 2 ^ (w * e) % 2 ^ w)
      (data.toNat / 2 ^ (128 * u) / 2 ^ (w * e) % 2 ^ w) (new / 2 ^ (w * e) % 2 ^ w)

section Row
variable {s : State} {c aop et unit : Nat} {a : Access} {data : Bay} (hk : a.kind = .row aop et data)
include hk

theorem row_kind : a.kind.isAtomic = true ∧ a.wide = true ∧ a.size = 128 ∧ a.units = 8 ∧ a.kind.tagged = false := by
  simp [hk, AccKind.isAtomic, Access.wide, Access.units, Access.size, AccKind.tagged]

/-- What a unit of a row is to hold. -/
def rowBytes (s : State) (a : Access) (aop et : Nat) (data : Bay) (u : Nat) : List Byte :=
  toBytes 16 (rowNew aop et 128 (ofBytes (mread s.mem (a.pa + 16 * u) 16)) (data.toNat / 2 ^ (128 * u)))

omit hk in
theorem asideHome_rowBytes {u : State} (h : s.AsideHome u) (k : Nat) : rowBytes u a aop et data k = rowBytes s a aop et data k := by
  rw [rowBytes, rowBytes, asideHome_mem h]

omit hk in
theorem rowPart_of_holds {t : State} {u : Nat} (h : s.Holds t (a.pa + 16 * u) (rowBytes s a aop et data u))
    (hp : t.ms.poison = s.ms.poison) : s.RowPart t a aop et data u := by
  refine ⟨_, rowNew_lt .., ⟨h, hp⟩, fun e he => ?_⟩
  have hwidth : (if et = 1 then 64 else 32) = 8 * rowElemSize et := by rw [rowElemSize]; split <;> rfl
  rw [hwidth] at he
  rw [hwidth, Nat.mul_div_cancel_left _ (by decide)]
  exact rowNew_combines aop et _ _ he

omit hk in
theorem length_mread (m : Memory) (pa n : Nat) : (mread m pa n).length = n := by simp [mread_eq_map]

theorem row_writes (hm : s.memoriesOk = true) (hu : s.unmixed c a = true) (hl : a.unitsLeft ≠ []) :
    let k := s.nextUnit a
    s.Writes (s.atomicWrite c a (16 * k) (mread s.mem (a.pa + 16 * k) 16)) c (a.pa + 16 * k) (rowBytes s a aop et data k) := by
  obtain ⟨hatomic, -, hsize, hunits, -⟩ := row_kind hk
  have hunit := (mem_unitsLeft.1 (nextUnit_mem (s := s) hl)).1
  rw [hunits] at hunit
  have happly : a.kind.apply (16 * s.nextUnit a) (mread s.mem (a.pa + 16 * s.nextUnit a) 16) =
      rowBytes s a aop et data (s.nextUnit a) := by
    rw [hk]
    simp only [AccKind.apply, length_mread, ← Nat.mul_assoc]
    rfl
  have hwrites := atomicWrite_writes (off := 16 * s.nextUnit a) (old := mread s.mem (a.pa + 16 * s.nextUnit a) 16) hu hatomic hm
    (by rw [hk]; rfl) (by rw [happly, rowBytes, length_toBytes, hsize]; omega)
  rwa [happly] at hwrites

theorem row_acts (hu : s.unmixed c a = true) (hs : s.splitAtHost a = false) : let k := s.nextUnit a
    s.atomicNow c a = (s.atomicWrite c a (16 * k) (mread s.mem (a.pa + 16 * k) 16)).unitOver c a k fun s => s.atomicOver c a [] := by
  obtain ⟨hatomic, hwide, -⟩ := row_kind hk
  have hnow := atomicNow_acts hu hatomic hs
  rw [atomicPart_unit hwide] at hnow
  dsimp only at hnow ⊢
  rw [hnow, partOver_unit hwide]

end Row

/-! ## A batched add (R110, R112) -/

/-- An access that has joined the batch of interval j. -/
def Access.joined (a : Access) (j early : Nat) : Access := { a with inBatch := true, interval := some j, early := early }

theorem onlyLaunches_ite {s u : State} (p : Prop) [Decidable p] (h : u = { s with launches := u.launches }) :
    (if p then u else s) = { s with launches := (if p then u else s).launches } := by
  split
  · exact h
  · rfl

/-- A batched add changes its own entry and the count of what found its home full. -/
theorem joinBatch_eq (s : State) (c : Nat) (a : Access) (i : Nat) : ∃ (u : State) (j early : Nat),
    u = { s with launches := u.launches } ∧ i ≤ j ∧
    (s.launch (s.ctx c).launch).closed ≤ j ∧
      s.joinBatch c a i = u.modCtx c fun y => { y with lsu := modAccess a.id (fun b => b.joined j early) y.lsu } := by
  have hfirst (p : Prop) [Decidable p] (f : Nat) : f ≤ if p then f + 1 else f := by split <;> omega
  refine ⟨_, _, _, ?_, ?_, ?_, rfl⟩
  · exact onlyLaunches_ite _ rfl
  · exact (le_max_left ..).trans (hfirst ..)
  · exact (le_max_right ..).trans (hfirst ..)

theorem joinBatch_joins {s : State} {c i : Nat} {a : Access} (hacc : (s.ctx c).access a.id = some a) :
    let t := s.joinBatch c a i
    s.SameBytes t ∧ (∀ n, n ≠ c → t.ctx n = s.ctx n) ∧ t.ctx c = { s.ctx c with lsu := (t.ctx c).lsu } ∧
      ∃ b, (t.ctx c).access a.id = some b ∧ b = { a with inBatch := true, interval := b.interval, early := b.early } ∧
        ∃ j, b.interval = some j ∧ i ≤ j ∧ (s.launch (s.ctx c).launch).closed ≤ j := by
  obtain ⟨u, j, early, honly, hi, hclosed, heq⟩ := joinBatch_eq s c a i
  have hctx (n : Nat) : u.ctx n = s.ctx n := by rw [honly]; rfl
  dsimp only
  rw [heq]
  refine ⟨sameBytes_trans (t := u) ?_ (modCtx_sameBytes ..), fun n hn => (State.ctx_modCtx_ne _ _ _ _ hn).trans (hctx n), ?_,
    a.joined j early, ?_, rfl, j, rfl, hi, hclosed⟩
  · rw [honly]; exact sameBytes_of rfl rfl rfl
  · rw [State.ctx_modCtx_same, hctx]
  · rw [State.ctx_modCtx_same, hctx]
    exact (access_modAccess (fun b => b.joined j early) fun _ => rfl).trans (congrArg (Option.map _) hacc)

/-! ## The event, kind by kind -/

section Clauses
variable {s : State} {c id : Nat} {a : Access} (h : s.performable c id = some a) (ho : s.accessOverlaps c a = false)

section Home
variable (hi : a.interval = none) (hr : a.rcd = none) (he : s.homeError a.pa = none) (hu : s.unmixed c a = true)
  (hm : s.memoriesOk = true)

section Now
variable (hidle : ∀ y, s.ms.hostRmw = some y → ¬ (y.ctx = c ∧ y.id = a.id))
include h ho hi he hidle

theorem atomic_now (hk : a.kind.isAtomic = true) : exec (.atomicPerforms c id) s = .next ((s.leave c a).atomicNow c a) := by
  rw [atomic_performs h hk ho hi, performAtomic_idle ((asideHome_homeError (leave_asideHome s c a) _).trans he)]
  rwa [leave_hostRmw]

include hu

theorem whole_now (hk : a.kind.isAtomic = true) (hs : s.splitAtHost a = false) (hw : a.wide = false) :
    let old := mread s.mem a.pa a.size
    exec (.atomicPerforms c id) s = .next (((s.leave c a).atomicWrite c a 0 old).partOver c a 0 old) := by
  have hb := leave_asideHome s c a
  rw [atomic_now h ho hi he hidle hk, atomicNow_whole ((asideHome_unmixed hb c a).trans hu) hk
    ((asideHome_splitAtHost hb a).trans hs) hw, asideHome_mem hb]

include hr hm

theorem atomic_completes {aop n : Nat} {v : Word} {r : Bool} (hs : s.splitAtHost a = false) (hk : a.kind = .atomic aop n v r) :
    let old := mread s.mem a.pa n
    let put := if r = true then fillEntry a.id fun e => { e with data := entryData old } else fun q => q
    Completes (.atomicPerforms c id) s (fun t => ∃ new, s.Performs t c a 2 (put (s.ctx c).q0) (put (s.ctx c).q1) ∧
      (s.Holds t a.pa (toBytes n new) ∧ t.ms.poison = s.ms.poison) ∧ Combines aop n (ofBytes old) v.toNat new) := by
  obtain ⟨hatomic, hwide, hsize, htagged⟩ := atomic_kind hk
  have hb := leave_asideHome s c a
  have hexec := whole_now h ho hi he hu hidle hatomic hs hwide
  obtain ⟨new, hcombines, hstored⟩ := atomic_acts hk hr ((asideHome_memoriesOk hb).trans hm) ((asideHome_unmixed hb c a).trans hu)
    (mread s.mem a.pa n)
  obtain ⟨hholds, hperf, hpoison⟩ := asideHome_stored hb hstored
  rw [asideHome_ctx hb, answered_eq htagged, answered_eq htagged] at hperf
  rw [hsize] at hexec
  exact ⟨_, hexec, new, hperf, ⟨hholds, hpoison⟩, hcombines⟩

theorem cas_completes {n expect new : Nat} (hs : s.splitAtHost a = false) (hk : a.kind = .cas n expect new) :
    let old := mread s.mem a.pa n
    let put := fillEntry a.id fun e => { e with data := entryData old }
    Completes (.atomicPerforms c id) s (fun t => s.Performs t c a 2 (put (s.ctx c).q0) (put (s.ctx c).q1) ∧
      (ofBytes old = expect → s.Holds t a.pa (toBytes n new) ∧ t.ms.poison = s.ms.poison) ∧
      (ofBytes old ≠ expect → s.SameBytes t)) := by
  obtain ⟨hatomic, hwide, hsize, htagged⟩ := cas_kind hk
  have hb := leave_asideHome s c a
  have hexec := whole_now h ho hi he hu hidle hatomic hs hwide
  rw [hsize] at hexec
  refine ⟨_, hexec, ?_⟩
  by_cases hexpect : ofBytes (mread s.mem a.pa n) = expect
  · obtain ⟨hholds, hperf, hpoison⟩ := asideHome_stored hb
      (cas_swaps hk hr ((asideHome_memoriesOk hb).trans hm) ((asideHome_unmixed hb c a).trans hu) hexpect)
    rw [asideHome_ctx hb, answered_eq htagged, answered_eq htagged] at hperf
    exact ⟨hperf, fun _ => ⟨hholds, hpoison⟩, fun hne => absurd hexpect hne⟩
  · obtain ⟨hsame, hperf⟩ := cas_keeps (s := s.leave c a) (c := c) hk hr hexpect
    rw [asideHome_ctx hb, answered_eq htagged, answered_eq htagged] at hperf
    exact ⟨performs_of_prepares (asideHome_prepares hb c) hperf, fun heq => absurd heq hexpect,
      fun _ => sameBytes_trans (asideHome_sameBytes hb) hsame⟩

theorem row_last_completes {aop et unit : Nat} {data : Bay} (hs : s.splitAtHost a = false) (hk : a.kind = .row aop et data)
    (hl : a.unitsLeft = [unit]) : Completes (.atomicPerforms c id) s (fun t =>
      s.Performs t c a 2 (s.ctx c).q0 (s.ctx c).q1 ∧ s.RowPart t a aop et data unit) := by
  obtain ⟨hatomic, -, -, -, htagged⟩ := row_kind hk
  have hb := leave_asideHome s c a
  have hu' := (asideHome_unmixed hb c a).trans hu
  have hexec := (atomic_now h ho hi he hidle hatomic).trans (congrArg Host.Outcome.next
    (row_acts hk hu' ((asideHome_splitAtHost hb a).trans hs)))
  have hwrites := row_writes hk ((asideHome_memoriesOk hb).trans hm) hu' (by simp [hl])
  rw [nextUnit_single hl] at hwrites hexec
  rw [unitOver_last (by simp [hl])] at hexec
  obtain ⟨hholds, hperf, hpoison⟩ := asideHome_stored hb (writes_atomicOver (old := []) hr (writes_fresh hwrites _))
  rw [asideHome_ctx hb, answered_eq htagged, answered_eq htagged] at hperf
  rw [asideHome_rowBytes hb] at hholds
  exact ⟨_, hexec, hperf, rowPart_of_holds hholds hpoison⟩

omit hr in
theorem row_unit_completes {aop et : Nat} {data : Bay} (hs : s.splitAtHost a = false) (hk : a.kind = .row aop et data)
    (hl : 2 ≤ a.unitsLeft.length) : Completes (.atomicPerforms c id) s (fun t => ∃ u, u ∈ a.unitsLeft ∧
      s.RowPart t a aop et data u ∧ (t.ctx c).access id = some { a with unitsDone := u :: a.unitsDone } ∧
        (t.ctx c).tokens = (s.ctx c).tokens ∧ ∀ i, i ≠ c → t.ctx i = s.ctx i) := by
  obtain ⟨hatomic, -, -, -, -⟩ := row_kind hk
  obtain ⟨hacc, hid⟩ := performable_some h
  have hne : a.unitsLeft ≠ [] := by intro hnil; simp [hnil] at hl
  have hb := leave_asideHome s c a
  have hu' := (asideHome_unmixed hb c a).trans hu
  have hexec := (atomic_now h ho hi he hidle hatomic).trans (congrArg Host.Outcome.next
    (row_acts hk hu' ((asideHome_splitAtHost hb a).trans hs)))
  obtain ⟨hholds, hpoison, -, hothers, haccess, htokens⟩ := writes_goesOn (k := (s.leave c a).nextUnit a)
    (last := fun s => s.atomicOver c a []) (row_writes hk ((asideHome_memoriesOk hb).trans hm) hu' hne) hl
    (by rw [asideHome_ctx hb, hid]; exact hacc)
  have hholds := asideHome_holds hb hholds
  rw [asideHome_rowBytes hb] at hholds
  exact ⟨_, hexec, _, nextUnit_mem hne, rowPart_of_holds hholds (hpoison.trans (asideHome_poison hb)), hid ▸ haccess,
    htokens.trans (by rw [asideHome_ctx hb]), fun k hk => (hothers k hk).trans (asideHome_ctx hb k)⟩

omit hr hm in
theorem split_completes (hs : s.splitAtHost a = true) (hk : a.kind.isAtomic = true) : Completes (.atomicPerforms c id) s (fun t =>
    s.SameBytes t ∧ s.SameContexts t ∧ ∃ y, t.ms.hostRmw = some y ∧ y.ctx = c ∧ y.id = a.id ∧
      (a.wide = false → y.unit = 0 ∧ y.old = mread s.mem a.pa a.size) ∧
      (a.wide = true → a.unitsLeft ≠ [] → y.unit ∈ a.unitsLeft ∧ y.old = mread s.mem (a.pa + 16 * y.unit) 16)) := by
  have hb := leave_asideHome s c a
  have hexec := (atomic_now h ho hi he hidle hk).trans (congrArg Host.Outcome.next
    (atomicNow_split ((asideHome_unmixed hb c a).trans hu) hk ((asideHome_splitAtHost hb a).trans hs)))
  have ht := asideHome_modRmw hb (some ((s.leave c a).readNow c a))
  refine ⟨_, hexec, asideHome_sameBytes ht, asideHome_ctx ht, _, rfl, rfl, rfl, fun hw => ?_, fun hw hl => ?_⟩
  · rw [State.readNow, atomicPart_whole hw, asideHome_mem hb]
    exact ⟨Nat.zero_div 16, rfl⟩
  · rw [State.readNow, atomicPart_unit hw, asideHome_mem hb]
    dsimp only
    rw [Nat.mul_div_cancel_left _ (by decide)]
    exact ⟨nextUnit_mem hl, rfl⟩

end Now

include h ho hi hr he hu hm in
/-- The write of an atomic that has read in the host window. -/
theorem later_completes {aop n : Nat} {v : Word} {r : Bool} {rmw : HostRmw} (hrmw : s.ms.hostRmw = some rmw) (hc : rmw.ctx = c)
    (hid : rmw.id = a.id) (hunit : rmw.unit = 0) (hk : a.kind = .atomic aop n v r) :
    let put := if r = true then fillEntry a.id fun e => { e with data := entryData rmw.old } else fun q => q
    Completes (.atomicPerforms c id) s (fun t => ∃ new, s.Performs t c a 2 (put (s.ctx c).q0) (put (s.ctx c).q1) ∧
      (s.Holds t a.pa (toBytes n new) ∧ t.ms.poison = s.ms.poison) ∧ t.ms.hostRmw = none ∧
        Combines aop n (ofBytes rmw.old) v.toNat new) := by
  obtain ⟨hatomic, hwide, hsize, htagged⟩ := atomic_kind hk
  have hb := leave_asideHome s c a
  have hb' := asideHome_modRmw hb none
  have hexec := (atomic_performs h hatomic ho hi).trans (congrArg Host.Outcome.next
    (performAtomic_mine ((asideHome_homeError hb _).trans he)
    ((leave_hostRmw s c a).trans hrmw) hc hid))
  obtain ⟨new, hcombines, hstored⟩ := atomic_acts hk hr ((asideHome_memoriesOk hb').trans hm) ((asideHome_unmixed hb' c a).trans hu)
    rmw.old
  obtain ⟨hholds, hperf, hpoison⟩ := asideHome_stored hb' hstored
  rw [asideHome_ctx hb', answered_eq htagged, answered_eq htagged] at hperf
  rw [hunit] at hexec
  exact ⟨_, hexec, new, hperf, ⟨hholds, hpoison⟩, hstored.rmw, hcombines⟩

end Home

section Elsewhere
variable (hk : a.kind.isAtomic = true)
include h ho hk

theorem atomic_fails {d : Nat} (hi : a.interval = none) (hr : a.rcd = none) (he : s.homeError a.pa = some d) :
    let put := fillEntry a.id fun e => { e with poison := d }
    (a.kind.tagged = true → Completes (.atomicPerforms c id) s (fun t =>
      s.SameBytes t ∧ s.Performs t c a 2 (put (s.ctx c).q0) (put (s.ctx c).q1))) ∧
    (a.kind.tagged = false → Completes (.atomicPerforms c id) s (fun t => s.SameBytes t ∧
      s.Performs t c a 3 (s.ctx c).q0 (s.ctx c).q1 ∧
        (t.quarter (homeQuarter a.pa)).discards = (s.quarter (homeQuarter a.pa)).discards + 1)) := by
  have hb := leave_asideHome s c a
  have hexec := (atomic_performs h hk ho hi).trans (congrArg Host.Outcome.next
    (performAtomic_error hr ((asideHome_homeError hb a.pa).trans he)))
  refine ⟨fun ht => ?_, fun ht => ?_⟩
  · rw [if_pos ht] at hexec
    obtain ⟨hperf, hsame⟩ := failed_performs (s.leave c a) c a (s.leave c a).moment d
    rw [asideHome_ctx hb] at hperf
    exact ⟨_, hexec, sameBytes_trans (asideHome_sameBytes hb) hsame, performs_of_prepares (asideHome_prepares hb c) hperf⟩
  · rw [if_neg (by simp [ht])] at hexec
    obtain ⟨hperf, hsame, -, hcount⟩ := discard_performs (s.leave c a) c a d
    rw [asideHome_ctx hb] at hperf
    exact ⟨_, hexec, sameBytes_trans (asideHome_sameBytes hb) hsame, performs_of_prepares (asideHome_prepares hb c) hperf,
      hcount.trans (by rw [asideHome_quarter hb])⟩

theorem batched_completes {i : Nat} (hi : a.interval = some i) : Completes (.atomicPerforms c id) s (fun t =>
    s.SameBytes t ∧ (∀ n, n ≠ c → t.ctx n = s.ctx n) ∧ t.ctx c = { s.ctx c with lsu := (t.ctx c).lsu } ∧
      ∃ b, (t.ctx c).access id = some b ∧ b = { a with inBatch := true, interval := b.interval, early := b.early } ∧
        ∃ j, b.interval = some j ∧ i ≤ j ∧ (s.launch (s.ctx c).launch).closed ≤ j) := by
  obtain ⟨hacc, hid⟩ := performable_some h
  have hb := leave_asideHome s c a
  obtain ⟨hsame, hothers, honly, b, haccess, hbatch, j, hj, hij, hclosed⟩ := joinBatch_joins (s := s.leave c a) (c := c) (i := i)
    (by rw [asideHome_ctx hb, hid]; exact hacc)
  rw [asideHome_ctx hb] at honly hclosed
  rw [asideHome_launch hb] at hclosed
  exact ⟨_, atomic_batched h hk ho hi, sameBytes_trans (asideHome_sameBytes hb) hsame,
    fun n hn => (hothers n hn).trans (asideHome_ctx hb n), honly, b, hid ▸ haccess, hbatch, j, hj, hij, hclosed⟩

end Elsewhere
end Clauses

/-! ## The obligation -/

/-- Settles O34: what each kind does at its home, the line of its Quarter's near buffer being gone by then. -/
theorem atomicsPerform : Obligations.AtomicsPerform := by
  intro s c id aop n et i d unit a v r data expect new rmw h ho hm x m entries returned same performs writes combines w rowPart mine idle
  refine ⟨fun hi hr he hu => ⟨fun hidle hs => ⟨?atomic, ?cas, ?rowLast, ?rowUnit⟩, ?split, ?later⟩, ?fails, ?batched⟩
  case atomic => exact atomic_completes h ho hi hr he hu hm hidle hs
  case cas => exact cas_completes h ho hi hr he hu hm hidle hs
  case rowLast => exact row_last_completes h ho hi hr he hu hm hidle hs
  case rowUnit => exact row_unit_completes h ho hi he hu hm hidle hs
  case split => exact split_completes h ho hi he hu
  case later => exact fun ⟨hrmw, hc, hid⟩ => later_completes h ho hi hr he hu hm hrmw hc hid
  case fails => exact fun hi hr he hk => atomic_fails h ho hk hi hr he
  case batched => exact fun hi hk => batched_completes h ho hk hi

end Sys2Proof.Machine

/-! # Proofs: the close of an interval (R60, R109, R110, R117) -/

namespace Sys2Proof.Machine

theorem exec_intervalClose (l : Nat) (s : State) : exec (.intervalClose l) s = execIntervalClose l s := rfl

/-! ## When an interval closes (R109) -/

section Due
variable {s : State} {l : Nat}

theorem closeDue_clocked {t0 : Nat} (hd : (s.launch l).det = true) (he : (s.launch l).ended = false)
    (hr : (s.launch l).replay = false) (ht : (s.launch l).t0 = some t0) :
    s.closeDue l = true ↔ t0 + ((s.launch l).closed + 1) * 2 ^ (s.launch l).ie ≤ s.tick := by
  simp [State.closeDue, Launch.closeTick, hd, he, hr, ht]

theorem closable_due (h : s.closable l = true) : s.closeDue l = true := by
  rw [State.closable, Bool.and_eq_true] at h
  exact h.1

theorem not_closable (h : (s.launch l).det = false ∨ (s.launch l).t0 = none ∨ (s.launch l).ended = true) : s.closable l = false := by
  rw [← Bool.not_eq_true]
  intro hc
  have hdue := closable_due hc
  rcases h with h | h | h <;> simp [State.closeDue, h] at hdue

/-- A launch whose interval is due stands in the table of launches. -/
theorem due_listed (h : s.closeDue l = true) : l ∈ s.launches.map (·.1) := by
  rcases fget_listed {} s.launches l with hmem | hnone
  · exact List.mem_map_of_mem (f := (·.1)) hmem
  · have ht : (s.launch l).t0 = none := by rw [State.launch, hnone]
    simp [State.closeDue, ht] at h

theorem mem_closesWith (h : s.closable l = true) : l ∈ s.closesWith l := by
  have hdue := closable_due h
  unfold State.closesWith
  cases hr : (s.launch l).replay with
  | true => exact List.mem_singleton.2 rfl
  | false =>
    have hlisted : l ∈ s.clockedCloses := by
      simp only [State.clockedCloses, List.mem_filter, List.mem_dedup, hr, hdue, Bool.not_false, Bool.and_self, and_true]
      exact due_listed hdue
    simp [hlisted]

theorem closesWith_nodup (s : State) (l : Nat) : (s.closesWith l).Nodup := by
  unfold State.closesWith
  split
  · exact List.nodup_singleton _
  · exact ((List.nodup_dedup _).filter _).filter _

end Due

/-! ## The order of a batch (R110) -/

/-- Launch admission, then team, then program order. -/
def BatchLe (p q : BatchOp) : Prop :=
  p.1.1 < q.1.1 ∨ (p.1.1 = q.1.1 ∧ (p.2.1 < q.2.1 ∨ (p.2.1 = q.2.1 ∧ p.2.2.id ≤ q.2.2.id)))

section Order

theorem batchLe_of_before {p q : BatchOp} (h : batchBefore p q = true) : BatchLe p q := by
  simp only [batchBefore, Bool.or_eq_true, Bool.and_eq_true, decide_eq_true_eq] at h
  unfold BatchLe
  omega

theorem batchLe_of_not_before {p q : BatchOp} (h : ¬ batchBefore p q = true) : BatchLe q p := by
  simp only [batchBefore, Bool.or_eq_true, Bool.and_eq_true, decide_eq_true_eq] at h
  unfold BatchLe
  omega

theorem batchLe_trans {p q r : BatchOp} (h : BatchLe p q) (k : BatchLe q r) : BatchLe p r := by
  unfold BatchLe at *
  omega

theorem mem_insertBatch {o a : BatchOp} {l : List BatchOp} : o ∈ insertBatch a l ↔ o = a ∨ o ∈ l := by
  induction l with
  | nil => simp [insertBatch]
  | cons b l ih =>
    unfold insertBatch
    split
    · simp
    · rw [List.mem_cons, ih, List.mem_cons]
      exact or_left_comm

theorem insertBatch_sorted {a : BatchOp} {l : List BatchOp} (h : l.Pairwise BatchLe) : (insertBatch a l).Pairwise BatchLe := by
  induction l with
  | nil => simp [insertBatch]
  | cons b l ih =>
    obtain ⟨hb, hl⟩ := List.pairwise_cons.1 h
    unfold insertBatch
    split
    case isTrue hab =>
      have hle := batchLe_of_before hab
      refine List.pairwise_cons.2 ⟨fun o ho => ?_, h⟩
      rcases List.mem_cons.1 ho with rfl | ho
      · exact hle
      · exact batchLe_trans hle (hb o ho)
    case isFalse hab =>
      refine List.pairwise_cons.2 ⟨fun o ho => ?_, ih hl⟩
      rcases mem_insertBatch.1 ho with rfl | ho
      · exact batchLe_of_not_before hab
      · exact hb o ho

theorem batch_sorted (s : State) (ls : List Nat) : (s.batch ls).Pairwise BatchLe :=
  List.foldlRecOn _ _ List.Pairwise.nil fun _ h _ _ => insertBatch_sorted h

theorem mem_foldl_insertBatch {o : BatchOp} (l acc : List BatchOp) :
    o ∈ l.foldl (fun acc a => insertBatch a acc) acc ↔ o ∈ acc ∨ o ∈ l := by
  induction l generalizing acc with
  | nil => simp
  | cons a l ih =>
    rw [List.foldl_cons, ih, mem_insertBatch, List.mem_cons]
    tauto

theorem mem_batch {s : State} {o : BatchOp} {ls : List Nat} :
    o ∈ s.batch ls ↔ ∃ k, k ∈ ls ∧ o ∈ s.batchOf k (s.launch k).closed := by
  rw [State.batch, mem_foldl_insertBatch, List.mem_flatMap]
  simp

end Order

/-! ## What the work of a close leaves as it was -/

/-- The intervals of every launch, whether it records, and the launch of every context are as before. -/
def State.Keeps (s t : State) : Prop :=
  (∀ l, (t.launch l).closed = (s.launch l).closed ∧ (t.launch l).roots = (s.launch l).roots ∧
    (t.launch l).recording = (s.launch l).recording) ∧ ∀ c, (t.ctx c).launch = (s.ctx c).launch

section Keeps
variable {s t u : State} {c : Nat}

theorem keeps_trans (h : s.Keeps t) (k : t.Keeps u) : s.Keeps u := by
  obtain ⟨hl, hc⟩ := h
  obtain ⟨kl, kc⟩ := k
  refine ⟨fun l => ?_, fun c => (kc c).trans (hc c)⟩
  obtain ⟨h1, h2, h3⟩ := hl l
  obtain ⟨k1, k2, k3⟩ := kl l
  exact ⟨k1.trans h1, k2.trans h2, k3.trans h3⟩

theorem keeps_of_eq (hl : t.launches = s.launches) (hc : t.ctxs = s.ctxs) : s.Keeps t :=
  ⟨fun l => by rw [State.launch, hl]; exact ⟨rfl, rfl, rfl⟩, fun c => by rw [State.ctx, hc]; rfl⟩

theorem keeps_refl (s : State) : s.Keeps s := keeps_of_eq rfl rfl

theorem keeps_modCtx (s : State) (c : Nat) (f : Ctx → Ctx) (h : (f (s.ctx c)).launch = (s.ctx c).launch) : s.Keeps (s.modCtx c f) := by
  refine ⟨fun l => ⟨rfl, rfl, rfl⟩, fun d => ?_⟩
  by_cases hd : d = c
  · rw [hd, State.ctx_modCtx_same, h]
  · rw [State.ctx_modCtx_ne _ _ _ _ hd]

theorem keeps_modLaunch (s : State) (l : Nat) (f : Launch → Launch) (hc : (f (s.launch l)).closed = (s.launch l).closed)
    (hr : (f (s.launch l)).roots = (s.launch l).roots) (hrec : (f (s.launch l)).recording = (s.launch l).recording) :
    s.Keeps (s.modLaunch l f) := by
  refine ⟨fun k => ?_, fun _ => rfl⟩
  by_cases hk : k = l
  · rw [hk, State.launch_modLaunch_same]
    exact ⟨hc, hr, hrec⟩
  · rw [State.launch_modLaunch_ne _ _ _ _ hk]
    exact ⟨rfl, rfl, rfl⟩

theorem keeps_recording (h : s.Keeps t) (c : Nat) : t.recording c = s.recording c := by
  rw [State.recording, State.recording, h.2, (h.1 _).2.2]

theorem foldl_keeps {α : Type} {f : State → α → State} (hf : ∀ (s : State) (a : α), s.Keeps (f s a)) (l : List α) (s : State) :
    s.Keeps (l.foldl f s) :=
  List.foldlRecOn (motive := s.Keeps) l f (keeps_refl s) fun _ h _ _ => keeps_trans h (hf _ _)

theorem foldl_sameBytes {α : Type} {f : State → α → State} {l : List α} (hf : ∀ (s : State) (a : α), a ∈ l → s.SameBytes (f s a))
    (s : State) :
    s.SameBytes (l.foldl f s) :=
  List.foldlRecOn (motive := s.SameBytes) l f (sameBytes_refl s) fun _ h _ ha => sameBytes_trans h (hf _ _ ha)

theorem notice_keeps (s : State) (kind who code addr : Nat) : s.Keeps (s.notice kind who code addr) := keeps_of_eq rfl rfl
theorem modMs_keeps (s : State) (f : MemSys → MemSys) : s.Keeps (s.modMs f) := keeps_of_eq rfl rfl
theorem reportAccess_keeps (s : State) (c slot n : Nat) (va : Word) : s.Keeps (s.reportMatch (.access c slot va) n) :=
  keeps_modCtx s c _ rfl

theorem tellAbsent_keeps (s : State) (who pa va : Nat) : s.Keeps (s.tellAbsent who pa va) :=
  keeps_of_eq (by rw [tellAbsent_eq]) (by rw [tellAbsent_eq])

theorem tellUnbacked_keeps (s : State) (c : Nat) (a : Access) (d : Nat) : s.Keeps (s.tellUnbacked c a d) :=
  keeps_of_eq (by rw [tellUnbacked_only]) (by rw [tellUnbacked_only])

theorem deliver_keeps (s : State) (c : Nat) (a : Access) (f : QEntry → QEntry) : s.Keeps (s.deliver c a f) := keeps_modCtx _ _ _ rfl

theorem discard_keeps (s : State) (c : Nat) (a : Access) (d : Nat) : s.Keeps (s.discard c a d) := by
  have hcount : s.Keeps (s.countDiscard c a d) := keeps_of_eq (by rw [countDiscard_only]; rfl) (by rw [countDiscard_only]; rfl)
  have hdef : s.discard c a d = match a.token with
    | some t => (s.countDiscard c a d).tokenError c t { engid := 5, code := 0x14, detail := d, addr := a.va }
    | none => s.countDiscard c a d := rfl
  rw [hdef]
  cases a.token with
  | none => exact hcount
  | some t => exact keeps_trans hcount (keeps_modCtx _ _ _ rfl)

theorem markDirty_keeps (s : State) (l va pa : Nat) : s.Keeps (s.markDirty l va pa) := by
  have hmark (f : Launch → Launch) (hc : ∀ x, (f x).closed = x.closed) (hr : ∀ x, (f x).roots = x.roots)
      (hrec : ∀ x, (f x).recording = x.recording) : s.Keeps (s.modLaunch l f) := keeps_modLaunch s l f (hc _) (hr _) (hrec _)
  unfold State.markDirty
  dsimp only
  split
  · split <;> refine hmark _ ?_ ?_ ?_ <;> intro x <;> split <;> rfl
  · exact keeps_refl s

theorem leave_keeps (s : State) (c : Nat) (a : Access) : s.Keeps (s.leave c a) :=
  keeps_of_eq (by rw [leave_only]) (leave_ctxs ..)

theorem finish_keeps (s : State) (c : Nat) (a : Access) : s.Keeps (s.finish c a) := by
  refine keeps_modCtx _ _ _ ?_
  rw [saw_only]
  rfl

theorem accessDone_keeps (s : State) (c : Nat) (a : Access) : s.Keeps (s.accessDone c a) := by
  unfold State.accessDone
  split
  · exact keeps_modCtx _ _ _ rfl
  · exact keeps_refl s

theorem translateNow_keeps (s : State) (core t : Nat) (va : Word) (need : Need) : s.Keeps (s.translateNow core t va need).2 := by
  have honly := (translateNow_only s core t va need).1
  exact keeps_of_eq (by rw [honly]) (by rw [honly])

theorem ringWrite_keeps (s : State) (c pa : Nat) (va : Word) (b : List Byte) : s.Keeps (s.ringWrite c pa va b) := by
  unfold State.ringWrite
  split
  · exact keeps_of_eq rfl rfl
  · exact keeps_trans (t := s.modQuarter (homeQuarter pa) fun q => { q with discards := q.discards + 1 }) (keeps_of_eq rfl rfl)
      (tellAbsent_keeps ..)

theorem noteExponent_keeps (s : State) (r : Rec) (b : List Byte) (ie : Nat) : s.Keeps (s.noteExponent r b ie) := by
  unfold State.noteExponent
  split <;> exact keeps_of_eq rfl rfl

theorem writeRecord_keeps (s : State) (c : Nat) (r : Rec) (order : Nat) (value : Word) : s.Keeps (s.writeRecord c r order value) := by
  have hwalk := translateNow_keeps s (coreOf c) (s.ctx c).tenant ((s.ctx c).man.slotVa r.index) ringNeed
  unfold State.writeRecord
  dsimp only
  split
  case h_1 heq =>
    rw [heq] at hwalk
    exact keeps_trans hwalk (keeps_trans (ringWrite_keeps ..) (keeps_trans (noteExponent_keeps ..) (keeps_modCtx _ _ _ rfl)))
  case h_2 u heq =>
    rw [heq] at hwalk
    exact keeps_trans (t := u) hwalk (keeps_trans (keeps_modCtx u c _ rfl) (notice_keeps ..))
  case h_3 heq =>
    rw [heq] at hwalk
    exact hwalk

theorem ringWarning_keeps (s : State) (c : Nat) : s.Keeps (s.ringWarning c) := by
  obtain ⟨honly, hothers, hctx⟩ := ringWarning_only s c
  refine ⟨fun l => by rw [State.launch, honly]; exact ⟨rfl, rfl, rfl⟩, fun d => ?_⟩
  by_cases hd : d = c
  · rw [hd, hctx]
  · rw [hothers d hd]

end Keeps

/-! ## Gathering what can still reach its home (R110) -/

section Gather

/-- Launches and contexts alone differ, and what a close counts does not. -/
def State.Gathers (s t : State) : Prop := t = { s with ctxs := t.ctxs, launches := t.launches } ∧ s.Keeps t

theorem gathers_refl (s : State) : s.Gathers s := ⟨rfl, keeps_refl s⟩

theorem gathers_trans {s t u : State} (h : s.Gathers t) (k : t.Gathers u) : s.Gathers u :=
  ⟨by rw [k.1, h.1], keeps_trans h.2 k.2⟩

theorem joinBatch_gathers (s : State) (c : Nat) (a : Access) (i : Nat) : s.Gathers (s.joinBatch c a i) := by
  have hcount (p : Prop) [Decidable p] (n : Nat) :
      s.Gathers (if p then s.modLaunch (s.ctx c).launch fun y => { y with overflow := y.overflow + n } else s) := by
    split
    · exact ⟨rfl, keeps_modLaunch s _ _ rfl rfl rfl⟩
    · exact gathers_refl s
  exact gathers_trans (hcount _ _) ⟨rfl, keeps_modCtx _ _ _ rfl⟩

theorem gatherBatch_gathers (s : State) (l n : Nat) : s.Gathers (s.gatherBatch l n) := by
  refine List.foldlRecOn (motive := s.Gathers) _ _ (gathers_refl s) fun t ht c _ => ?_
  refine List.foldlRecOn (motive := s.Gathers) _ _ ht fun u hu a _ => ?_
  split
  · split
    · exact gathers_trans hu (joinBatch_gathers ..)
    · exact hu
  · exact hu

/-- The state of a close once the batch has been gathered. -/
def State.gathered (s : State) (l : Nat) : State :=
  (s.closesWith l).foldl (fun s l => s.gatherBatch l (s.launch l).closed) s

theorem gathered_gathers (s : State) (l : Nat) : s.Gathers (s.gathered l) :=
  List.foldlRecOn (motive := s.Gathers) _ _ (gathers_refl s) fun _ h _ _ => gathers_trans h (gatherBatch_gathers ..)

theorem gathers_mem {s t : State} (h : s.Gathers t) : t.mem = s.mem := by rw [h.1]
theorem gathers_sameBytes {s t : State} (h : s.Gathers t) : s.SameBytes t := by rw [h.1]; exact sameBytes_of rfl rfl rfl
theorem gathers_homeError {s t : State} (h : s.Gathers t) (pa : Nat) : t.homeError pa = s.homeError pa := by rw [h.1]; rfl
theorem gathers_holds {s t u : State} {pa : Nat} {b : List Byte} (h : s.Gathers t) (k : t.Holds u pa b) : s.Holds u pa b := by
  refine holds_of_mem ?_ ?_ ?_ k <;> rw [h.1]

end Gather

/-! ## What the close does, step by step -/

section Exec
variable {s : State} {l : Nat}

/-- The rest of every operation, once the batches have been applied. -/
def State.overAll (s : State) (before : Memory) (ops : List BatchOp) : State :=
  ops.foldl (fun s o => s.overBatched before (s.launch o.1.1).closed o) s

/-- The batches have been applied, and nothing read in the host window is left. -/
def State.applied (s : State) (ops : List BatchOp) : State := (s.applyBatches ops).modMs fun m => { m with hostBatch := none }

/-- What follows once the batches have been applied: the rest of every operation, and the close of every launch. -/
def State.closeAll (s : State) (before : Memory) (ls : List Nat) (ops : List BatchOp) : State :=
  ls.foldl (fun s l => s.closeOf ops l) (s.overAll before ops)

theorem close_unclosable (h : s.closable l = false) : exec (.intervalClose l) s = .next s := by
  rw [exec_intervalClose, execIntervalClose, h]
  rfl

variable (h : s.closable l = true)
include h

theorem close_unready (hr : (s.gathered l).closeReady (s.closesWith l) ((s.gathered l).batch (s.closesWith l)) = false) :
    exec (.intervalClose l) s = .next s := by
  unfold State.gathered at hr
  rw [exec_intervalClose]
  simp [execIntervalClose, h, hr]

variable (hr : (s.gathered l).closeReady (s.closesWith l) ((s.gathered l).batch (s.closesWith l)) = true)
include hr

theorem close_reads {addrs : List Nat} (hu : (s.gathered l).hostUnread l ((s.gathered l).batch (s.closesWith l)) = addrs)
    (hne : addrs ≠ []) (hfree : (s.gathered l).ms.hostBatch = none → ∀ a, a ∈ addrs → (s.gathered l).hostHeld none a = false) :
    exec (.intervalClose l) s = .next ((s.gathered l).readHost l addrs) := by
  unfold State.gathered at *
  obtain ⟨a, rest, rfl⟩ := List.exists_cons_of_ne_nil hne
  rw [exec_intervalClose]
  simp only [execIntervalClose, h, hr, hu, Bool.not_true, Bool.false_eq_true, if_false]
  refine if_neg ?_
  rw [Bool.and_eq_true, Option.isNone_iff_eq_none]
  exact fun ⟨hnone, hheld⟩ => by simp [hfree hnone a List.mem_cons_self] at hheld

theorem close_closes (hu : (s.gathered l).hostUnread l ((s.gathered l).batch (s.closesWith l)) = []) :
    let u := s.gathered l
    let ops := u.batch (s.closesWith l)
    exec (.intervalClose l) s =
      .next ((u.applied ops).closeAll u.mem (s.closesWith l) ops) := by
  unfold State.gathered at *
  rw [exec_intervalClose]
  simp only [execIntervalClose, h, hr, hu, Bool.not_true, Bool.false_eq_true, if_false]
  rfl

end Exec

section Read
variable {s : State} {l : Nat} {addrs : List Nat}

/-- What the host window holds of a batch has been read. -/
theorem readHost_reads (s : State) (l : Nat) (addrs : List Nat) : let t := s.readHost l addrs
    s.SameBytes t ∧ s.Keeps t ∧ ∃ read, t.ms.hostBatch = some (l, read) ∧ ∀ a, a ∈ addrs → (a, mget s.mem a) ∈ read :=
  ⟨sameBytes_of rfl rfl rfl, keeps_of_eq rfl rfl, _, rfl, fun _ ha => List.mem_append_right _ (List.mem_map_of_mem ha)⟩

end Read

/-! ## The batches -/

section Apply
variable {s : State}

theorem batchFails_keeps (s : State) (o : BatchOp) : s.Keeps (s.batchFails o) := by
  unfold State.batchFails
  dsimp only
  split
  · split
    · exact keeps_trans (tellUnbacked_keeps ..) (deliver_keeps ..)
    · exact discard_keeps ..
  · exact keeps_refl s

theorem batchFails_good {o : BatchOp} (h : s.homeError o.2.2.pa = none) : s.batchFails o = s := by
  simp only [State.batchFails, h]

theorem batchTurns_keeps (n v : Nat) (l : List BatchElem) (s : State) :
    s.Keeps (s.batchTurns n v l).2 ∧ (s.batchTurns n v l).2 = { s with ctxs := (s.batchTurns n v l).2.ctxs } := by
  induction l generalizing s v with
  | nil => exact ⟨keeps_refl s, rfl⟩
  | cons e l ih =>
    unfold State.batchTurns
    dsimp only
    split
    · obtain ⟨hkeeps, honly⟩ := ih (atomicNew e.aop n v e.v)
        (s.deliver (opCtx e.op) e.op.2.2 fun q => { q with data := entryData (toBytes n v) })
      exact ⟨keeps_trans (deliver_keeps ..) hkeeps, by rw [honly]; rfl⟩
    · exact ih ..

theorem batchTurns_value (n v : Nat) (l : List BatchElem) (s : State) :
    (s.batchTurns n v l).1 = l.foldl (fun v e => atomicNew e.aop n v e.v) v := by
  induction l generalizing s v with
  | nil => rfl
  | cons e l ih => exact ih ..

theorem noteMixed_keeps (s : State) (before : Memory) (rivals : List (Nat × Access)) (pa n size : Nat) :
    s.Keeps (s.noteMixed before rivals pa n size) :=
  keeps_trans (keeps_of_eq rfl rfl) (foldl_keeps (fun _ _ => keeps_modCtx _ _ _ rfl) rivals _)

theorem applyBatch_keeps (before : Memory) (l : List BatchElem) (x : State × List (Nat × Byte)) (key : Nat × Nat) :
    x.1.Keeps (State.applyBatch before l x key).1 := by
  unfold State.applyBatch
  dsimp only
  exact keeps_trans (batchTurns_keeps ..).1 (keeps_trans (keeps_of_eq rfl rfl) (noteMixed_keeps ..))

theorem applyBatches_keeps (s : State) (ops : List BatchOp) : s.Keeps (s.applyBatches ops) := by
  unfold State.applyBatches
  dsimp only
  exact List.foldlRecOn (motive := fun x : State × List (Nat × Byte) => s.Keeps x.1) _ _
    (foldl_keeps batchFails_keeps ops s) fun _ h _ _ =>
    keeps_trans h (applyBatch_keeps ..)

theorem applied_keeps (s : State) (ops : List BatchOp) : s.Keeps (s.applied ops) :=
  keeps_trans (applyBatches_keeps ..) (modMs_keeps ..)

theorem applied_sameBytes (s : State) (ops : List BatchOp) : (s.applyBatches ops).SameBytes (s.applied ops) := sameBytes_of rfl rfl rfl

end Apply

/-! ## The rest of an operation and the records of a close -/

section Over
variable {s : State} {o : BatchOp} {n c count : Nat}

theorem performed_keeps (s : State) (c order : Nat) (r : Option Rec) (value : Word) : s.Keeps (s.performed c r order value) := by
  unfold State.performed
  split
  · split
    · exact keeps_refl s
    · exact writeRecord_keeps ..
  · exact keeps_refl s

theorem batchRecord_keeps (s : State) (l c n : Nat) (a : Access) : s.Keeps (s.batchRecord l c n a) := by
  unfold State.batchRecord
  split
  · exact keeps_trans (modMs_keeps ..) (performed_keeps ..)
  · exact keeps_refl s

theorem batchRecord_none {a : Access} (h : a.rcd = none) (s : State) (l c n : Nat) : s.batchRecord l c n a = s := by
  rw [State.batchRecord, h]

/-- The part of an operation's end that concerns its line and its page. -/
def State.batchMarks (s : State) (before : Memory) (o : BatchOp) : State :=
  let c := opCtx o
  let a := o.2.2
  let x := s.ctx c
  let u := s.leave c a
  if (s.homeError a.pa).isSome then u
  else ((u.batchHits x.tenant a before).foldl (fun s i => s.reportMatch (.access c a.slot a.va) i) u).markDirty x.launch a.va.toNat a.pa

/-- The part that concerns the access itself. -/
def State.batchLeaves (s : State) (n l : Nat) (bad : Bool) (o : BatchOp) : State :=
  let c := opCtx o
  let a := o.2.2
  if a.lastBatch || bad then
    let s := (s.batchRecord l c n a).finish c a
    if bad && !a.kind.tagged then s else s.accessDone c a
  else
    s.modCtx c fun y => { y with lsu := modAccess a.id (fun b =>
      { b with applied := a.applied + a.batchElems, interval := b.interval.map (· + 1) }) y.lsu }

theorem overBatched_eq (s : State) (before : Memory) (n : Nat) (o : BatchOp) : s.overBatched before n o =
    (s.batchMarks before o).batchLeaves n (s.ctx (opCtx o)).launch (s.homeError o.2.2.pa).isSome o := rfl

theorem batchMarks_keeps (s : State) (before : Memory) (o : BatchOp) : s.Keeps (s.batchMarks before o) := by
  unfold State.batchMarks
  dsimp only
  split
  · exact leave_keeps ..
  · exact keeps_trans (leave_keeps ..) (keeps_trans (foldl_keeps (fun _ _ => reportAccess_keeps ..) _ _) (markDirty_keeps ..))

theorem reportAccess_sameBytes (s : State) (c slot n : Nat) (va : Word) : s.SameBytes (s.reportMatch (.access c slot va) n) :=
  modCtx_sameBytes s c _

theorem batchMarks_sameBytes (s : State) (before : Memory) (o : BatchOp) : s.SameBytes (s.batchMarks before o) := by
  unfold State.batchMarks
  dsimp only
  split
  · exact leave_sameBytes ..
  · exact sameBytes_trans (leave_sameBytes ..) (sameBytes_trans (foldl_sameBytes (fun _ _ _ => reportAccess_sameBytes ..) _)
      (markDirty_sameBytes ..))

theorem batchLeaves_keeps (s : State) (n l : Nat) (bad : Bool) (o : BatchOp) : s.Keeps (s.batchLeaves n l bad o) := by
  unfold State.batchLeaves
  dsimp only
  split
  · have hend := keeps_trans (batchRecord_keeps s l (opCtx o) n o.2.2) (finish_keeps _ (opCtx o) o.2.2)
    split
    · exact hend
    · exact keeps_trans hend (accessDone_keeps ..)
  · exact keeps_modCtx _ _ _ rfl

theorem batchLeaves_sameBytes (h : o.2.2.rcd = none) (s : State) (n l : Nat) (bad : Bool) : s.SameBytes (s.batchLeaves n l bad o) := by
  unfold State.batchLeaves
  dsimp only
  rw [batchRecord_none h]
  split
  · split
    · exact modCtx_sameBytes ..
    · exact sameBytes_trans (modCtx_sameBytes ..) (onlyWork_sameBytes (accessDone_onlyWork ..))
  · exact modCtx_sameBytes ..

theorem overBatched_keeps (s : State) (before : Memory) (n : Nat) (o : BatchOp) : s.Keeps (s.overBatched before n o) := by
  rw [overBatched_eq]
  exact keeps_trans (batchMarks_keeps ..) (batchLeaves_keeps ..)

theorem overBatched_sameBytes (h : o.2.2.rcd = none) (s : State) (before : Memory) (n : Nat) :
    s.SameBytes (s.overBatched before n o) := by
  rw [overBatched_eq]
  exact sameBytes_trans (batchMarks_sameBytes ..) (batchLeaves_sameBytes h ..)

theorem overAll_keeps (s : State) (before : Memory) (ops : List BatchOp) : s.Keeps (s.overAll before ops) := by
  have hstep (t : State) (o : BatchOp) : t.Keeps (t.overBatched before (t.launch o.1.1).closed o) := overBatched_keeps t before _ o
  exact foldl_keeps hstep ops s

theorem overAll_sameBytes {ops : List BatchOp} (h : ∀ o, o ∈ ops → o.2.2.rcd = none) (s : State) (before : Memory) :
    s.SameBytes (s.overAll before ops) := by
  have hstep (t : State) (o : BatchOp) (ho : o ∈ ops) : t.SameBytes (t.overBatched before (t.launch o.1.1).closed o) :=
    overBatched_sameBytes (h o ho) t before _
  exact foldl_sameBytes hstep s

theorem intervalRecord_keeps (s : State) (c n count : Nat) : s.Keeps (s.intervalRecord c n count) := by
  unfold State.intervalRecord
  split
  · exact keeps_trans (keeps_modCtx s c _ rfl) (keeps_trans (writeRecord_keeps ..) (ringWarning_keeps ..))
  · exact keeps_refl s

theorem intervalRecord_silent (h : s.recording c = false ∨ count = 0) : s.intervalRecord c n count = s := by
  refine if_neg ?_
  rcases h with h | h <;> simp [h]

end Over

/-! ## The close of each launch (R117) -/

section CloseOf

theorem closeOf_counts (s : State) (ops : List BatchOp) (l k : Nat) : let t := s.closeOf ops l
    (t.launch k).closed = (s.launch k).closed + [l].count k ∧ (t.launch k).roots.length = (s.launch k).roots.length + [l].count k := by
  let u := (s.contextsIn l).foldl (fun v c => v.intervalRecord c (s.launch l).closed
    ((ops.filter fun o => opCtx o = c).foldl (fun k o => k + o.2.2.batchElems) 0)) s
  have hkeeps : s.Keeps u := foldl_keeps (fun _ _ => intervalRecord_keeps ..) _ _
  have hdef : s.closeOf ops l = u.modLaunch l fun x =>
      { x with closed := x.closed + 1, roots := x.roots ++ [hashRoot ((u.leaves l).map (·.2))] } := rfl
  obtain ⟨hclosed, hroots, -⟩ := hkeeps.1 k
  dsimp only
  rw [hdef]
  by_cases hk : k = l
  · subst hk
    rw [State.launch_modLaunch_same, List.count_singleton_self]
    exact ⟨congrArg (· + 1) hclosed, by rw [List.length_append, hroots]; rfl⟩
  · rw [State.launch_modLaunch_ne _ _ _ _ hk, List.count_singleton, if_neg (by simpa using Ne.symm hk), hclosed, hroots]
    exact ⟨rfl, rfl⟩

theorem closeAll_counts (ops : List BatchOp) (ls : List Nat) (k : Nat) (s : State) : let t := ls.foldl (fun s l => s.closeOf ops l) s
    (t.launch k).closed = (s.launch k).closed + ls.count k ∧ (t.launch k).roots.length = (s.launch k).roots.length + ls.count k := by
  induction ls generalizing s with
  | nil => exact ⟨rfl, rfl⟩
  | cons l ls ih =>
    obtain ⟨hclosed, hroots⟩ := closeOf_counts s ops l k
    obtain ⟨kclosed, kroots⟩ := ih (s.closeOf ops l)
    dsimp only
    rw [List.foldl_cons, kclosed, kroots, hclosed, hroots, ← List.singleton_append (l := ls), List.count_append]
    exact ⟨Nat.add_assoc .., Nat.add_assoc ..⟩

/-- An interval of launch l has closed. -/
def State.Closes (s t : State) (l : Nat) : Prop :=
  (t.launch l).closed = (s.launch l).closed + 1 ∧ (t.launch l).roots.length = (s.launch l).roots.length + 1

/-- What a close leaves of the state with the batch applied: the interval has closed. -/
theorem closeAll_closes {s u : State} {before : Memory} {ls : List Nat} {ops : List BatchOp} {l : Nat} (hk : s.Keeps u)
    (hl : l ∈ ls) (hn : ls.Nodup) : s.Closes (u.closeAll before ls ops) l := by
  have hkeeps := keeps_trans hk (overAll_keeps u before ops)
  obtain ⟨hclosed, hroots, -⟩ := hkeeps.1 l
  obtain ⟨kclosed, kroots⟩ := closeAll_counts ops ls l (u.overAll before ops)
  rw [List.count_eq_one_of_mem hn hl] at kclosed kroots
  exact ⟨kclosed.trans (congrArg (· + 1) hclosed), kroots.trans (by rw [hroots])⟩

theorem closeOf_silent {s : State} {ops : List BatchOp} (h : ∀ o, o ∈ ops → s.recording (opCtx o) = false) (l : Nat) :
    s.closeOf ops l = s.modLaunch l fun x =>
      { x with closed := x.closed + 1, roots := x.roots ++ [hashRoot ((s.leaves l).map (·.2))] } := by
  have hrecords (c n : Nat) : s.intervalRecord c n ((ops.filter fun o => opCtx o = c).foldl (fun k o => k + o.2.2.batchElems) 0) = s := by
    refine intervalRecord_silent ?_
    rcases hops : ops.filter fun o => opCtx o = c with _ | ⟨o, rest⟩
    · exact Or.inr rfl
    · have ho : o ∈ ops.filter fun o => opCtx o = c := by rw [hops]; exact List.mem_cons_self
      obtain ⟨ho, hc⟩ := List.mem_filter.1 ho
      rw [← of_decide_eq_true hc]
      exact Or.inl (h o ho)
  have hfold (l : List Nat) (n : Nat) : l.foldl (fun s c => s.intervalRecord c n
      ((ops.filter fun o => opCtx o = c).foldl (fun k o => k + o.2.2.batchElems) 0)) s = s :=
    List.foldlRecOn (motive := (· = s)) l _ rfl fun t ht c _ => by rw [ht, hrecords]
  unfold State.closeOf
  dsimp only
  rw [hfold]

/-- Without a record to write a close changes no byte. -/
theorem closeAll_sameBytes {s : State} {before : Memory} {ls : List Nat} {ops : List BatchOp}
    (hr : ∀ o, o ∈ ops → o.2.2.rcd = none) (h : ∀ o, o ∈ ops → s.recording (opCtx o) = false) :
    s.SameBytes (s.closeAll before ls ops) := by
  let u := s.overAll before ops
  have hkeeps : s.Keeps u := overAll_keeps ..
  have hsame : s.SameBytes u := overAll_sameBytes hr ..
  have hrec (o : BatchOp) (ho : o ∈ ops) : u.recording (opCtx o) = false := (keeps_recording hkeeps _).trans (h o ho)
  have hfold : u.SameBytes (ls.foldl (fun s l => s.closeOf ops l) u) ∧
      ∀ c, (ls.foldl (fun s l => s.closeOf ops l) u).recording c = u.recording c := by
    refine List.foldlRecOn (motive := fun t => u.SameBytes t ∧ ∀ c, t.recording c = u.recording c) _ _
      ⟨sameBytes_refl u, fun _ => rfl⟩ fun t ht l _ => ?_
    obtain ⟨htsame, htrec⟩ := ht
    rw [closeOf_silent fun o ho => (htrec _).trans (hrec o ho)]
    refine ⟨sameBytes_trans htsame (sameBytes_of rfl rfl rfl), fun c => (Eq.trans ?_ (htrec c))⟩
    unfold State.recording
    by_cases hl : (t.ctx c).launch = l
    · rw [show ((t.modLaunch l _).ctx c).launch = (t.ctx c).launch from rfl, hl, State.launch_modLaunch_same]
    · rw [show ((t.modLaunch l _).ctx c).launch = (t.ctx c).launch from rfl, State.launch_modLaunch_ne _ _ _ _ hl]
  exact sameBytes_trans hsame hfold.1

end CloseOf

/-! ## A batch of additions to one place (R110) -/

/-- An operation that adds its operand to n bytes at an address, and whose access has noted no byte of another size. -/
def BatchOp.Adds (pa n : Nat) (o : BatchOp) : Prop := ∃ v r, o.2.2.kind = .atomic 0 n v r ∧ o.2.2.pa = pa ∧ o.2.2.mixed = []

/-- The operand of an operation. -/
def BatchOp.operand (o : BatchOp) : Nat := match o.2.2.kind with | .atomic _ _ v _ => v.toNat | _ => 0

/-- Such an operation in its batch. -/
def BatchOp.addition (pa n : Nat) (o : BatchOp) : BatchElem := { op := o, addr := pa, size := n, aop := 0, v := o.operand }

/-- Nothing in another size overlaps n bytes at an address, and nothing of the host window has been read. -/
structure State.Alone (s : State) (pa n : Nat) : Prop where
  rivals : s.rivals none pa n n true = []
  sent : s.sentOver none pa n n = []
  unread : s.ms.hostBatch = none

section Adds
variable {s : State} {pa n : Nat} {ops : List BatchOp}

theorem batchElemsOf_adds {o : BatchOp} (h : BatchOp.Adds pa n o) : batchElemsOf o = [BatchOp.addition pa n o] := by
  obtain ⟨v, r, hkind, hpa, -⟩ := h
  simp [batchElemsOf, BatchOp.addition, BatchOp.operand, hkind, hpa]

theorem flatMap_adds (h : ∀ o, o ∈ ops → BatchOp.Adds pa n o) : ops.flatMap batchElemsOf = ops.map (BatchOp.addition pa n) := by
  induction ops with
  | nil => rfl
  | cons o ops ih =>
    rw [List.flatMap_cons, batchElemsOf_adds (h o List.mem_cons_self), ih fun o ho => h o (List.mem_cons_of_mem _ ho)]
    rfl

theorem batchKeys_adds (hne : ops ≠ []) (pa n : Nat) : batchKeys (ops.map (BatchOp.addition pa n)) = [(pa, n)] := by
  have hkeys : (ops.map (BatchOp.addition pa n)).map (fun e => (e.addr, e.size)) = List.replicate ops.length (pa, n) := by
    rw [List.map_map]
    simp [Function.comp_def, BatchOp.addition]
  rw [batchKeys, hkeys, List.replicate_dedup (List.length_pos_iff.2 hne).ne']

theorem foldl_batchFails_good (h : ∀ o, o ∈ ops → s.homeError o.2.2.pa = none) : ops.foldl State.batchFails s = s :=
  List.foldlRecOn (motive := (· = s)) ops _ rfl fun t ht o ho => by rw [ht, batchFails_good (h o ho)]

/-- A batch that nothing in another size overlaps takes what stands in memory and leaves its own result there. -/
theorem applyBatch_alone {l ops : List BatchElem} (hops : (l.filter fun e => e.addr = pa && e.size = n) = ops)
    (hm : ∀ e, e ∈ ops → e.op.2.2.mixed = []) (h : s.Alone pa n) :
    let r := s.batchTurns n (ofBytes (mread s.mem pa n)) ops
    (State.applyBatch s.mem l (s, []) (pa, n)).1 =
      ({ r.2 with mem := mwrite r.2.mem pa (toBytes n r.1), fresh := s.fresh + 2 * n } : State).noteMixed s.mem [] pa n n := by
  obtain ⟨hrivals, hsent, hunread⟩ := h
  have hnoted : (ops.flatMap fun e => e.op.2.2.mixed) = [] := List.flatMap_eq_nil_iff.2 hm
  unfold State.applyBatch
  simp only [hops, hrivals, hsent, hnoted, hunread, mixBytes, List.filter_nil, List.map_nil, List.append_nil,
    List.filterMap_nil, List.isEmpty_nil, if_true, pickByte_nil, ← mread_eq_map]
  rw [show (fun e : Byte × Nat => e.1) = Prod.fst from rfl, List.zipIdx_map_fst]

variable (hne : ops ≠ []) (hadds : ∀ o, o ∈ ops → BatchOp.Adds pa n o) (hgood : s.homeError pa = none) (halone : s.Alone pa n)
include hne hadds hgood halone

/-- A batch of additions to one place. -/
theorem applyBatches_adds : let r := s.batchTurns n (ofBytes (mread s.mem pa n)) (ops.map (BatchOp.addition pa n))
    s.applyBatches ops =
      ({ r.2 with mem := mwrite r.2.mem pa (toBytes n r.1), fresh := s.fresh + 2 * n } : State).noteMixed s.mem [] pa n n := by
  have herror (o : BatchOp) (ho : o ∈ ops) : s.homeError o.2.2.pa = none := by
    obtain ⟨v, r, -, hpa, -⟩ := hadds o ho
    rw [hpa, hgood]
  have hall : (ops.filter fun o => (s.homeError o.2.2.pa).isNone) = ops :=
    List.filter_eq_self.2 fun o ho => by rw [herror o ho]; rfl
  have hmine : ((ops.map (BatchOp.addition pa n)).filter fun e => e.addr = pa && e.size = n) = ops.map (BatchOp.addition pa n) := by
    refine List.filter_eq_self.2 fun e he => ?_
    obtain ⟨o, -, rfl⟩ := List.mem_map.1 he
    simp [BatchOp.addition]
  have hmixed : ∀ e, e ∈ ops.map (BatchOp.addition pa n) → e.op.2.2.mixed = [] := by
    intro e he
    obtain ⟨o, ho, rfl⟩ := List.mem_map.1 he
    obtain ⟨v, r, -, -, hmixed⟩ := hadds o ho
    exact hmixed
  have happly := applyBatch_alone hmine hmixed halone
  unfold State.applyBatches
  dsimp only
  rw [hall, flatMap_adds hadds, batchKeys_adds hne, foldl_batchFails_good herror]
  exact happly

theorem applyBatches_holds (hm : Memory.wf s.mem = true) :
    s.Holds (s.applyBatches ops) pa (toBytes n (ops.foldl (fun m o => (m + o.operand) % 2 ^ (8 * n)) (ofBytes (mread s.mem pa n)))) := by
  have hvalue := batchTurns_value n (ofBytes (mread s.mem pa n)) (ops.map (BatchOp.addition pa n)) s
  have honly := (batchTurns_keeps n (ofBytes (mread s.mem pa n)) (ops.map (BatchOp.addition pa n)) s).2
  rw [List.foldl_map] at hvalue
  rw [applyBatches_adds hne hadds hgood halone, hvalue]
  refine holds_sameBytes (holds_mwrite hm ?_ ?_ ?_) (noteMixed_sameBytes ..) <;> rw [honly]
  rfl

end Adds

/-! ## The obligation -/

section Close
variable {s : State} {l n : Nat} {ops : List BatchOp} {a : Access} {o : BatchOp}

theorem closed_holds {u : State} {pa : Nat} {ls : List Nat} (hg : s.Gathers u) (hne : ops ≠ [])
    (hadds : ∀ o, o ∈ ops → BatchOp.Adds pa n o) (hgood : s.homeError pa = none) (halone : u.Alone pa n)
    (hrcd : ∀ o, o ∈ ops → o.2.2.rcd = none) (hrec : ∀ o, o ∈ ops → s.recording (opCtx o) = false) (hm : s.memoriesOk = true) :
    s.Holds ((u.applied ops).closeAll u.mem ls ops) pa
      (toBytes n (ops.foldl (fun m o => (m + o.operand) % 2 ^ (8 * n)) (ofBytes (mread s.mem pa n)))) := by
  have hkeeps := keeps_trans hg.2 (applied_keeps u ops)
  have hholds := applyBatches_holds hne hadds ((gathers_homeError hg pa).trans hgood) halone
    (by rw [gathers_mem hg]; exact memoriesOk_mem hm)
  rw [gathers_mem hg] at hholds
  have hsilent (o : BatchOp) (ho : o ∈ ops) : (u.applied ops).recording (opCtx o) = false :=
    (keeps_recording hkeeps _).trans (hrec o ho)
  have hsame := closeAll_sameBytes (before := u.mem) (ls := ls) hrcd hsilent
  exact gathers_holds hg (holds_sameBytes hholds (sameBytes_trans (applied_sameBytes u ops) hsame))

/-- The close of an interval whose batch adds to one place. -/
theorem close_adds {pa : Nat} (hc : s.closable l = true) (hops : (s.gathered l).batch (s.closesWith l) = ops)
    (hr : (s.gathered l).closeReady (s.closesWith l) ops = true) (hu : (s.gathered l).hostUnread l ops = []) (hne : ops ≠ [])
    (hadds : ∀ o, o ∈ ops → BatchOp.Adds pa n o) (hgood : s.homeError pa = none) (halone : (s.gathered l).Alone pa n)
    (hrcd : ∀ o, o ∈ ops → o.2.2.rcd = none) (hrec : ∀ o, o ∈ ops → s.recording (opCtx o) = false) (hm : s.memoriesOk = true) :
    Completes (.intervalClose l) s (fun t =>
      s.Holds t pa (toBytes n (ops.foldl (fun m o => (m + o.operand) % 2 ^ (8 * n)) (ofBytes (mread s.mem pa n)))) ∧ s.Closes t l) := by
  have hg := gathered_gathers s l
  subst hops
  exact ⟨_, close_closes hc hr hu, closed_holds hg hne hadds hgood halone hrcd hrec hm,
    closeAll_closes (keeps_trans hg.2 (applied_keeps ..)) (mem_closesWith hc) (closesWith_nodup s l)⟩

/-- A close without operations changes no byte. -/
theorem closed_empty {u : State} {ls : List Nat} (hg : s.Gathers u) : s.SameBytes ((u.applied []).closeAll u.mem ls []) :=
  sameBytes_trans (gathers_sameBytes hg) (sameBytes_trans (applied_sameBytes u [])
    (closeAll_sameBytes (List.forall_mem_nil _) (List.forall_mem_nil _)))

theorem close_closes_one (hc : s.closable l = true)
    (hr : (s.gathered l).closeReady (s.closesWith l) ((s.gathered l).batch (s.closesWith l)) = true)
    (hu : (s.gathered l).hostUnread l ((s.gathered l).batch (s.closesWith l)) = []) :
    Completes (.intervalClose l) s (fun t => s.Closes t l) :=
  ⟨_, close_closes hc hr hu, closeAll_closes (keeps_trans (gathered_gathers s l).2 (applied_keeps ..)) (mem_closesWith hc)
    (closesWith_nodup s l)⟩

theorem close_empty (hc : s.closable l = true)
    (hr : (s.gathered l).closeReady (s.closesWith l) ((s.gathered l).batch (s.closesWith l)) = true)
    (hu : (s.gathered l).hostUnread l ((s.gathered l).batch (s.closesWith l)) = [])
    (hops : (s.gathered l).batch (s.closesWith l) = []) :
    Completes (.intervalClose l) s (fun t => s.SameBytes t ∧ s.Closes t l) := by
  have hg := gathered_gathers s l
  refine ⟨_, close_closes hc hr hu, ?_, closeAll_closes (keeps_trans hg.2 (applied_keeps ..)) (mem_closesWith hc)
    (closesWith_nodup s l)⟩
  rw [hops]
  exact closed_empty hg

end Close

section Two
variable {s : State} {l1 l2 c d tm tm2 n : Nat} {a b : Access} {v w : Word} {r r' : Bool}

theorem forall_mem_two {o o' : BatchOp} {p : BatchOp → Prop} (h : p o) (h' : p o') : ∀ q, q ∈ [o, o'] → p q :=
  List.forall_mem_cons.2 ⟨h, List.forall_mem_singleton.2 h'⟩

theorem adds_of_kind (hk : a.kind = .atomic 0 n v r) (hm : a.mixed = []) : BatchOp.Adds a.pa n ((l1, c), tm, a) :=
  ⟨v, r, hk, rfl, hm⟩

theorem operand_of_kind (hk : a.kind = .atomic 0 n v r) : BatchOp.operand ((l1, c), tm, a) = v.toNat := by
  simp [BatchOp.operand, hk]

/-- Two operations of a batch at one place: the second returns what the first has left. -/
theorem two_adds_return (hcd : c ≠ d) (ht : b.kind.tagged = true) (ka : a.kind = .atomic 0 n v r) (m : Nat) :
    ((s.batchTurns n m [BatchOp.addition a.pa n ((l1, c), tm, a), BatchOp.addition a.pa n ((l2, d), tm2, b)]).2.ctx d).q0 =
      fillEntry b.id (fun e => { e with data := BitVec.ofNat 1024 ((m + v.toNat) % 2 ^ (8 * n)) }) (s.ctx d).q0 := by
  have hdata : entryData (toBytes n ((m + v.toNat) % 2 ^ (8 * n))) = BitVec.ofNat 1024 ((m + v.toNat) % 2 ^ (8 * n)) := by
    rw [entryData, ofBytes_toBytes, show 256 ^ n = 2 ^ (8 * n) by rw [pow_mul]; rfl, Nat.mod_mod]
  have hsecond (u : State) (hu : (u.ctx d).q0 = (s.ctx d).q0) :
      ((u.batchTurns n ((m + v.toNat) % 2 ^ (8 * n)) [BatchOp.addition a.pa n ((l2, d), tm2, b)]).2.ctx d).q0 =
        fillEntry b.id (fun e => { e with data := BitVec.ofNat 1024 ((m + v.toNat) % 2 ^ (8 * n)) }) (s.ctx d).q0 := by
    simp only [State.batchTurns, BatchOp.addition, ht, if_true, opCtx, State.deliver, State.ctx_modCtx_same, hu, hdata]
  have hfirst : s.batchTurns n m [BatchOp.addition a.pa n ((l1, c), tm, a), BatchOp.addition a.pa n ((l2, d), tm2, b)] =
      (if a.kind.tagged = true then s.deliver c a fun q => { q with data := entryData (toBytes n m) } else s).batchTurns n
        ((m + v.toNat) % 2 ^ (8 * n)) [BatchOp.addition a.pa n ((l2, d), tm2, b)] := by
    rw [← operand_of_kind (l1 := l1) (c := c) (tm := tm) ka]
    rfl
  rw [hfirst]
  refine hsecond _ ?_
  split
  · rw [State.deliver, State.ctx_modCtx_ne _ _ _ _ hcd.symm]
  · rfl

end Two

/-- Settles O39: the batch is sorted by insertion, applied place by place, and the rest of a close touches no byte. -/
theorem intervalCloses : Obligations.IntervalCloses := by
  intro s l c d tm tm2 n t0 l1 l2 ls o a b v w r r' x u ops m closes ready goes alone
  have hg := gathered_gathers s l
  refine ⟨closeDue_clocked, not_closable, close_unclosable, close_unready, fun ⟨hc, hr⟩ hne hfree => ?reads,
    fun ⟨⟨hc, hr⟩, hu⟩ => close_closes_one hc hr hu, fun ⟨⟨hc, hr⟩, hu⟩ hops => ?empty, batch_sorted s ls, mem_batch,
    fun ⟨⟨hc, hr⟩, hu⟩ hops ka hrcd hgood ⟨hmixed, hrivals, hsent, hunread⟩ hrec hm => ?single,
    fun ⟨⟨hc, hr⟩, hu⟩ hops ka kb hpa ⟨hmixed, hrivals, hsent, hunread⟩ hmixed' hrcd hrcd' hgood hrec hrec' hm => ?double,
    fun hcd hr kb ka hpa ⟨hmixed, hrivals, hsent, hunread⟩ hmixed' hgood hm => ?returns⟩
  case reads =>
    obtain ⟨hsame, hkeeps, hread⟩ := readHost_reads u l (u.hostUnread l ops)
    rw [show u.mem = s.mem from gathers_mem hg] at hread
    exact ⟨_, close_reads hc hr rfl hne hfree, sameBytes_trans (gathers_sameBytes hg) hsame,
      ((keeps_trans hg.2 hkeeps).1 l).1, hread⟩
  case empty => exact close_empty hc hr hu hops
  case single =>
    have hadd := close_adds (n := n) hc hops (hops ▸ hr) (hops ▸ hu) (List.cons_ne_nil _ _)
      (List.forall_mem_singleton.2 (adds_of_kind ka hmixed)) hgood ⟨hrivals, hsent, hunread⟩
      (List.forall_mem_singleton.2 hrcd) (List.forall_mem_singleton.2 hrec) hm
    rwa [List.foldl_cons, List.foldl_nil, operand_of_kind ka] at hadd
  case double =>
    have hadd := close_adds (n := n) hc hops (hops ▸ hr) (hops ▸ hu) (List.cons_ne_nil _ _)
      (forall_mem_two (adds_of_kind ka hmixed) (hpa ▸ adds_of_kind kb hmixed')) hgood ⟨hrivals, hsent, hunread⟩
      (forall_mem_two hrcd hrcd') (forall_mem_two hrec hrec') hm
    rwa [List.foldl_cons, List.foldl_cons, List.foldl_nil, operand_of_kind ka, operand_of_kind kb, Nat.mod_add_mod] at hadd
  case returns =>
    intro t
    rw [show t = _ from applyBatches_adds (List.cons_ne_nil _ _) (forall_mem_two (adds_of_kind ka hmixed) (hpa ▸ adds_of_kind kb hmixed'))
      hgood ⟨hrivals, hsent, hunread⟩]
    exact two_adds_return hcd (by rw [kb]; exact hr) ka _

end Sys2Proof.Machine

/-! # Proofs: islands, trace sinks and watchpoints (R53, R54, R348–R354, R356) -/

namespace Sys2Proof.Machine

theorem exec_islandClockChange (island mhz : Nat) (s : State) :
    exec (.islandClockChange island mhz) s = execIslandClockChange island mhz s := rfl
theorem exec_islandPowerGate (island : Nat) (clockOnly : Bool) (s : State) :
    exec (.islandPowerGate island clockOnly) s = execIslandPowerGate island clockOnly s := rfl
theorem exec_islandPowerRestore (island : Nat) (s : State) :
    exec (.islandPowerRestore island) s = execIslandPowerRestore island s := rfl
theorem exec_traceSinkEnable (quarter : Nat) (lossless : Bool) (base size : Nat) (s : State) :
    exec (.traceSinkEnable quarter lossless base size) s = execTraceSinkEnable quarter lossless base size s := rfl
theorem exec_watchpointProgram (quarter n : Nat) (control : Word) (unit : Nat) (value mask : BitVec 128) (s : State) :
    exec (.watchpointProgram quarter n control unit value mask) s = execWatchpointProgram quarter n control unit value mask s := rfl

/-! ## Islands and their Quarters (R356) -/

/-- The Quarter of an island; for the hub's, which are of none, a number past the last. -/
def quarterOfIsland (island : Nat) : Nat :=
  if island < 216 then island / 54 else if island < 240 then (island - 216) / 6 else (island - 240) / 3

section Islands
variable {island : Nat}

theorem islandQuarter_some (h : island < 252) : islandQuarter island = some (quarterOfIsland island) := by
  unfold islandQuarter quarterOfIsland
  split
  · rfl
  · split <;> rfl

theorem islandQuarter_none (h : 252 ≤ island) : islandQuarter island = none := by
  unfold islandQuarter
  rw [if_neg (by omega), if_neg (by omega), if_neg (by omega)]

theorem quarterOf_islandCore (island : Nat) : quarterOf (islandCore island) = quarterOfIsland island := by
  unfold quarterOf islandCore quarterOfIsland
  split
  · rfl
  · split <;> omega

theorem quarterOfIsland_plaza (h : 216 ≤ island) (h' : island < 240) : quarterOfIsland island = (island - 216) / 6 := by
  unfold quarterOfIsland
  rw [if_neg (by omega), if_pos h']

end Islands

/-! ## A trace record (R348–R351) -/

section Trace
variable {s : State} {core type slot ctx : Nat} {payload : BitVec 128}

theorem trace_only (s : State) (core type slot ctx : Nat) (addr : Word) (payload : BitVec 128) :
    s.trace core type slot ctx addr payload = { s with quarters := (s.trace core type slot ctx addr payload).quarters } :=
  traceWith_eq ..

theorem trace_disabled (h : (s.quarter (quarterOf core)).sink.enabled = false) (addr : Word) :
    s.trace core type slot ctx addr payload = s := by
  unfold State.trace State.traceWith
  dsimp only
  rw [if_pos (by simp [h])]

/-- A lossy sink that is full counts the record alone. -/
theorem trace_dropped (he : (s.quarter (quarterOf core)).sink.enabled = true) (hf : (s.quarter (quarterOf core)).sink.full = true)
    (hl : (s.quarter (quarterOf core)).sink.lossless = false) (addr : Word) :
    let k := (s.quarter (quarterOf core)).sink
    ((s.trace core type slot ctx addr payload).quarter (quarterOf core)).sink = { k with dropped := k.dropped + 1 } := by
  unfold State.trace State.traceWith
  dsimp only
  rw [if_neg (by simp [he]), if_pos (by simp [hf, hl]), State.quarter_modQuarter_same]

/-- A record for which no TIME and no GAP record is due is the next of the buffer. -/
theorem trace_made (he : (s.quarter (quarterOf core)).sink.enabled = true) (hf : (s.quarter (quarterOf core)).sink.full = false)
    (hn : (s.quarter (quarterOf core)).sink.needTime = false) (ht : s.tick < (s.quarter (quarterOf core)).sink.prev + 2 ^ 32)
    (hd : (s.quarter (quarterOf core)).sink.dropped = 0) :
    let k := (s.quarter (quarterOf core)).sink
    ((s.trace core type slot ctx 0#64 payload).quarter (quarterOf core)).sink.buffer = k.buffer ++
      [{ type := type, slot := slot, ctx := ctx, core := (s.core core).logical.getD 0, delta := s.tick - k.prev, addr := 0
         payload := payload }] := by
  have hlate : decide (2 ^ 32 ≤ s.tick - (s.quarter (quarterOf core)).sink.prev) = false := decide_eq_false (by omega)
  unfold State.trace State.traceWith
  dsimp only
  rw [if_neg (by simp [he]), if_neg (by simp [hf]), State.quarter_modQuarter_same, hn, hlate, hd]
  simp

end Trace

/-! ## Clocks (R349, R351) -/

section Clock
variable {s : State} {island mhz : Nat}

theorem clockChange_refused (h : 256 ≤ island ∨ mhz = 0) : exec (.islandClockChange island mhz) s = .next s := by
  rw [exec_islandClockChange]
  exact if_pos (by simpa using h)

/-- An island's clock as firmware has set it. -/
def State.clockSet (s : State) (island mhz : Nat) : State := s.modPf fun p => { p with islandMHz := fput p.islandMHz island mhz }

/-- The state after a change of an island's clock: where a Quarter's sink takes its records, with its FREQ record. -/
theorem clockChange_hub (h : 252 ≤ island) (h' : island < 256) (hz : mhz ≠ 0) :
    exec (.islandClockChange island mhz) s = .next (s.clockSet island mhz) := by
  rw [exec_islandClockChange]
  simp only [execIslandClockChange, islandQuarter_none h]
  exact if_neg (by simp; omega)

theorem clockChange_traced (h : island < 252) (hz : mhz ≠ 0) : exec (.islandClockChange island mhz) s =
    .next ((s.clockSet island mhz).trace (islandCore island) 6 7 0 0#64 (BitVec.ofNat 128 (island + mhz % 2 ^ 16 * 2 ^ 16))) := by
  rw [exec_islandClockChange]
  simp only [execIslandClockChange, islandQuarter_some h, Nat.mod_eq_of_lt (by omega : island < 256)]
  exact if_neg (by simp; omega)

theorem clockSet_mhz (s : State) (island mhz i : Nat) : fget Config.nominalMHz (s.clockSet island mhz).pf.islandMHz i =
    if i = island then mhz else fget Config.nominalMHz s.pf.islandMHz i := fget_fput ..

end Clock

/-! ## Power gates (R54, R351) -/

section Gate
variable {s : State} {island : Nat}

theorem clockStopped_only (s : State) (island : Nat) : s.clockStopped island = { s with quarters := (s.clockStopped island).quarters } := by
  unfold State.clockStopped
  cases islandQuarter island <;> rfl

theorem clockStopped_sink (h : island < 252) : ((s.clockStopped island).quarter (quarterOfIsland island)).sink =
    { (s.quarter (quarterOfIsland island)).sink with needTime := true } := by
  unfold State.clockStopped
  rw [islandQuarter_some h]
  exact congrArg Quarter.sink (State.quarter_modQuarter_same ..)

/-- A sink whose next record is to be preceded by a TIME record holds what it held. -/
theorem clockStopped_holds (s : State) (island q : Nat) : ∃ due,
    ((s.clockStopped island).quarter q).sink = { (s.quarter q).sink with needTime := due } := by
  unfold State.clockStopped
  cases islandQuarter island with
  | none => exact ⟨_, rfl⟩
  | some p =>
    by_cases hq : q = p
    · subst hq
      exact ⟨true, congrArg Quarter.sink (State.quarter_modQuarter_same ..)⟩
    · exact ⟨_, congrArg Quarter.sink (State.quarter_modQuarter_ne _ _ _ _ hq)⟩

/-- The near-buffer lines of a Depot group go with its power. -/
def State.depotDropped (s : State) (island : Nat) : State :=
  if decide (240 ≤ island) && decide (island < 252) && (island - 240) % 3 = 0 then
    s.modMs fun m => { m with near := m.near.filter fun l => l.quarter != (island - 240) / 3 }
  else s

theorem depotDropped_only (s : State) (island : Nat) :
    s.depotDropped island = { s with ms := { s.ms with near := (s.depotDropped island).ms.near } } := by
  unfold State.depotDropped
  split <;> rfl

/-- The state after an island has been gated. -/
def State.islandOff (s : State) (island : Nat) : State :=
  ((s.depotDropped island).modPf fun p => { p with gated := island :: p.gated }).clockStopped island

theorem islandOff_only (s : State) (island : Nat) : s.islandOff island = { s with
    ms := { s.ms with near := (s.depotDropped island).ms.near }, quarters := (s.islandOff island).quarters
    pf := { s.pf with gated := island :: s.pf.gated } } := by
  unfold State.islandOff
  rw [clockStopped_only, depotDropped_only]
  rfl

theorem islandOff_sink (h : island < 252) : ((s.islandOff island).quarter (quarterOfIsland island)).sink =
    { (s.quarter (quarterOfIsland island)).sink with needTime := true } := by
  rw [State.islandOff, clockStopped_sink h, depotDropped_only]
  rfl

theorem islandOff_holds (s : State) (island q : Nat) : ∃ due,
    ((s.islandOff island).quarter q).sink = { (s.quarter q).sink with needTime := due } := by
  obtain ⟨due, hsink⟩ := clockStopped_holds ((s.depotDropped island).modPf fun p => { p with gated := island :: p.gated }) island q
  refine ⟨due, hsink.trans ?_⟩
  rw [depotDropped_only]
  rfl

theorem islandOff_records (s : State) (island q : Nat) :
    ((s.islandOff island).quarter q).sink.buffer = (s.quarter q).sink.buffer ∧
      ((s.islandOff island).quarter q).sink.written = (s.quarter q).sink.written := by
  obtain ⟨due, hsink⟩ := islandOff_holds s island q
  rw [hsink]
  exact ⟨rfl, rfl⟩

theorem gate_refused (h : 256 ≤ island ∨ island ∈ s.pf.gated) (clockOnly : Bool) :
    exec (.islandPowerGate island clockOnly) s = .next s := by
  rw [exec_islandPowerGate]
  exact if_pos (by simpa using h)

variable (h : island < 256) (hg : island ∉ s.pf.gated)
include h hg

theorem gate_clock : exec (.islandPowerGate island true) s = .next (s.islandOff island) := by
  rw [exec_islandPowerGate]
  refine (if_neg (by simp [hg, h])).trans ?_
  rw [Bool.not_true, Bool.and_false, if_neg Bool.false_ne_true]
  rfl

theorem gate_other (hp : island < 216 ∨ 240 ≤ island) : exec (.islandPowerGate island false) s = .next (s.islandOff island) := by
  rw [exec_islandPowerGate]
  refine (if_neg (by simp [hg, h])).trans ?_
  rw [if_neg (by simp; omega)]
  rfl

theorem gate_plaza (hp : 216 ≤ island) (hp' : island < 240) :
    exec (.islandPowerGate island false) s = .next ((s.settlePlaza (island - 216)).islandOff island) := by
  rw [exec_islandPowerGate]
  refine (if_neg (by simp [hg, h])).trans ?_
  rw [if_pos (by simp [hp, hp'])]
  rfl

end Gate

/-! ## The records of a Plaza (R350, R351) -/

section Drain
variable {s : State} {q : Nat} {r : TraceRec} {l : List TraceRec}

theorem deviceWrite_only (s : State) (pa : Nat) (b : List Byte) :
    s.deviceWrite pa b = { s with mem := (s.deviceWrite pa b).mem, ms := (s.deviceWrite pa b).ms } := by
  unfold State.deviceWrite
  split <;> rfl

theorem drainSink_ctxs (s : State) (q : Nat) : (s.drainSink q).ctxs = s.ctxs ∧ (s.drainSink q).pf = s.pf := by
  unfold State.drainSink
  split
  · exact ⟨rfl, rfl⟩
  · unfold State.writeTrace
    dsimp only
    rw [deviceWrite_only]
    exact ⟨rfl, rfl⟩

/-- A sink that writes its oldest record has one more in its ring and one fewer in its buffer. -/
theorem drainSink_sink (h : (s.quarter q).sink.buffer = r :: l) : ((s.drainSink q).quarter q).sink =
    { (s.quarter q).sink with buffer := l, written := (s.quarter q).sink.written + 1 } := by
  unfold State.drainSink
  rw [h]
  unfold State.writeTrace
  dsimp only
  rw [State.quarter_modQuarter_same, State.quarter, deviceWrite_only]
  dsimp only
  rw [← State.quarter, State.quarter_modQuarter_same]

theorem drainRecords_succ (s : State) (q n : Nat) : s.drainRecords q (n + 1) = (s.drainRecords q n).drainSink q := by
  rw [State.drainRecords, List.range_succ, List.foldl_append]
  rfl

theorem drainRecords_ctxs (s : State) (q n : Nat) : (s.drainRecords q n).ctxs = s.ctxs ∧ (s.drainRecords q n).pf = s.pf := by
  induction n with
  | zero => exact ⟨rfl, rfl⟩
  | succ n ih =>
    obtain ⟨hctxs, hpf⟩ := drainSink_ctxs (s.drainRecords q n) q
    rw [drainRecords_succ]
    exact ⟨hctxs.trans ih.1, hpf.trans ih.2⟩

/-- The n oldest records have been written. -/
theorem drainRecords_sink (n : Nat) (h : n ≤ (s.quarter q).sink.buffer.length) : ((s.drainRecords q n).quarter q).sink =
    { (s.quarter q).sink with buffer := (s.quarter q).sink.buffer.drop n, written := (s.quarter q).sink.written + n } := by
  induction n with
  | zero => rfl
  | succ n ih =>
    have hn := ih (by omega)
    have hbuffer : ((s.drainRecords q n).quarter q).sink.buffer =
        (s.quarter q).sink.buffer[n] :: (s.quarter q).sink.buffer.drop (n + 1) := by
      rw [hn]
      exact List.drop_eq_getElem_cons h
    rw [drainRecords_succ]
    exact (drainSink_sink hbuffer).trans (congrArg (fun k : Sink =>
      { k with buffer := (s.quarter q).sink.buffer.drop (n + 1), written := k.written + 1 }) hn)

end Drain

section Discard
variable {gone : TraceRec → Bool} {plaza tick : Nat} {k : Sink}

/-- What a buffer keeps was not to go, and differs in its deltas alone. -/
theorem discardRecords_kept (n : Nat) (l : List TraceRec) : ∀ r, r ∈ (discardRecords gone n l).1 →
    ∃ r', gone r' = false ∧ r = { r' with delta := r.delta } := by
  induction l generalizing n with
  | nil => intro r hr; cases hr
  | cons x l ih =>
    intro r hr
    unfold discardRecords at hr
    split at hr
    case isTrue => exact ih _ r hr
    case isFalse hx =>
      rcases List.mem_cons.1 hr with rfl | hr
      · refine ⟨x, by simpa using hx, ?_⟩
        split <;> rfl
      · exact ih _ r hr

/-- The GAP record of a discard stands last. -/
theorem discardPlaza_last (k : Sink) (plaza tick : Nat) : ∃ r, (k.discardPlaza plaza tick).buffer.getLast? = some r ∧ r.type = 4 ∧
    r.payload = BitVec.ofNat 128 (k.dropped + ((k.buffer.filter fun r => r.inPlaza plaza && r.type != 5).map TraceRec.weight).sum) := by
  unfold Sink.discardPlaza
  dsimp only
  rw [List.getLast?_append, List.getLast?_singleton]
  exact ⟨_, rfl, rfl, rfl⟩

/-- Of a Plaza's records TIME and GAP records alone stay. -/
theorem discardPlaza_mine {r : TraceRec} (h : r ∈ (k.discardPlaza plaza tick).buffer) (hp : r.core / 8 = plaza) :
    r.type = 4 ∨ r.type = 5 := by
  unfold Sink.discardPlaza at h
  dsimp only at h
  rcases List.mem_append.1 h with h | h
  · rcases List.mem_append.1 h with h | h
    case inl.inl =>
      obtain ⟨r', hgone, hr⟩ := discardRecords_kept _ _ r h
      rw [hr] at hp ⊢
      have hplaza : r'.inPlaza plaza = true := decide_eq_true hp
      rw [hplaza, Bool.true_and, bne_eq_false_iff_eq] at hgone
      exact Or.inr hgone
    case inl.inr =>
      split at h
      · rw [List.mem_singleton.1 h]; exact Or.inr rfl
      · cases h
  · rw [List.mem_singleton.1 h]; exact Or.inl rfl

end Discard

section Settle
variable {s : State} {plaza : Nat}

theorem settlePlaza_none (h : ∀ r, r ∈ (s.quarter (plaza / 6)).sink.buffer → r.core / 8 ≠ plaza) : s.settlePlaza plaza = s := by
  unfold State.settlePlaza
  dsimp only
  rw [if_pos]
  simpa [TraceRec.inPlaza] using h

/-- The records after the last of a Plaza. -/
def afterPlaza (plaza : Nat) (l : List TraceRec) : List TraceRec := l.reverse.takeWhile fun r => !r.inPlaza plaza

theorem settlePlaza_lossless (h : ∃ r, r ∈ (s.quarter (plaza / 6)).sink.buffer ∧ r.core / 8 = plaza)
    (hl : (s.quarter (plaza / 6)).sink.lossless = true) : let l := (s.quarter (plaza / 6)).sink.buffer
    s.settlePlaza plaza = s.drainRecords (plaza / 6) (l.length - (afterPlaza plaza l).length) := by
  unfold State.settlePlaza
  dsimp only
  rw [if_neg (by simpa [TraceRec.inPlaza] using h), if_pos hl]
  rfl

theorem settlePlaza_lossy (h : ∃ r, r ∈ (s.quarter (plaza / 6)).sink.buffer ∧ r.core / 8 = plaza)
    (hl : (s.quarter (plaza / 6)).sink.lossless = false) :
    let u := s.modQuarter (plaza / 6) fun x => { x with sink := x.sink.discardPlaza plaza s.tick }
    s.settlePlaza plaza = u.drainRecords (plaza / 6) (u.quarter (plaza / 6)).sink.buffer.length := by
  unfold State.settlePlaza
  dsimp only
  rw [if_neg (by simpa [TraceRec.inPlaza] using h), if_neg (by simp [hl])]

theorem settlePlaza_ctxs (s : State) (plaza : Nat) : (s.settlePlaza plaza).ctxs = s.ctxs ∧ (s.settlePlaza plaza).pf = s.pf := by
  unfold State.settlePlaza
  dsimp only
  split
  · exact ⟨rfl, rfl⟩
  · split <;> exact drainRecords_ctxs ..

/-- The records up to the last of a Plaza, and those after it. -/
theorem split_afterPlaza (plaza : Nat) (l : List TraceRec) : let n := l.length - (afterPlaza plaza l).length
    (∀ r, r ∈ l.drop n → r.core / 8 ≠ plaza) ∧ ∀ r, (l.take n).getLast? = some r → r.core / 8 = plaza := by
  have hsplit := List.takeWhile_append_dropWhile (p := fun r : TraceRec => !r.inPlaza plaza) (l := l.reverse)
  have hl : l = (l.reverse.dropWhile fun r => !r.inPlaza plaza).reverse ++ (afterPlaza plaza l).reverse := by
    rw [← List.reverse_append, afterPlaza, hsplit, List.reverse_reverse]
  have hlen : l.length - (afterPlaza plaza l).length = (l.reverse.dropWhile fun r => !r.inPlaza plaza).reverse.length := by
    have := congrArg List.length hl
    rw [List.length_append, List.length_reverse, List.length_reverse] at this
    rw [List.length_reverse]
    omega
  dsimp only
  rw [hlen]
  have hdrop : l.drop (l.reverse.dropWhile fun r => !r.inPlaza plaza).reverse.length = (afterPlaza plaza l).reverse :=
    (congrArg (List.drop _) hl).trans List.drop_left
  have htake : l.take (l.reverse.dropWhile fun r => !r.inPlaza plaza).reverse.length =
      (l.reverse.dropWhile fun r => !r.inPlaza plaza).reverse := (congrArg (List.take _) hl).trans List.take_left
  rw [hdrop, htake]
  refine ⟨fun r hr => ?_, fun r hr => ?_⟩
  · have hnot := List.mem_takeWhile_imp (List.mem_reverse.1 hr)
    simpa [TraceRec.inPlaza] using hnot
  · rw [List.getLast?_reverse] at hr
    have := List.head?_dropWhile_not (fun r : TraceRec => !r.inPlaza plaza) l.reverse
    rw [hr] at this
    simpa [TraceRec.inPlaza] using this

end Settle

/-! ## A gated Plaza (R350, R351) -/

section Plaza
variable {s : State} {island : Nat} (hp : 216 ≤ island) (hp' : island < 240)
include hp hp'

theorem plaza_sink : (s.quarter ((island - 216) / 6)).sink = (s.quarter (quarterOfIsland island)).sink := by
  rw [quarterOfIsland_plaza hp hp']

/-- What a Plaza's gate leaves of a sink without records of its own. -/
theorem plaza_untouched (h : ∀ r, r ∈ (s.quarter (quarterOfIsland island)).sink.buffer → r.core / 8 ≠ island - 216) :
    s.settlePlaza (island - 216) = s :=
  settlePlaza_none (by rwa [plaza_sink hp hp'])

/-- A lossless sink has written the records up to the Plaza's last. -/
theorem plaza_lossless (hl : (s.quarter (quarterOfIsland island)).sink.lossless = true) :
    let k := (s.quarter (quarterOfIsland island)).sink
    let k' := (((s.settlePlaza (island - 216)).islandOff island).quarter (quarterOfIsland island)).sink
    ∃ written, k.buffer = written ++ k'.buffer ∧ (∀ r, r ∈ k'.buffer → r.core / 8 ≠ island - 216) ∧
      (∀ r, written.getLast? = some r → r.core / 8 = island - 216) ∧ k'.written = k.written + written.length := by
  obtain ⟨due, hsink⟩ := islandOff_holds (s.settlePlaza (island - 216)) island (quarterOfIsland island)
  dsimp only
  rw [hsink]
  by_cases hmine : ∃ r, r ∈ (s.quarter (quarterOfIsland island)).sink.buffer ∧ r.core / 8 = island - 216
  · obtain ⟨hafter, hlast⟩ := split_afterPlaza (island - 216) (s.quarter (quarterOfIsland island)).sink.buffer
    have hsettle := settlePlaza_lossless (s := s) (by rwa [plaza_sink hp hp']) (by rwa [plaza_sink hp hp'])
    rw [← quarterOfIsland_plaza hp hp'] at hsettle
    have hdrain := drainRecords_sink (s := s) (q := quarterOfIsland island) _ (Nat.sub_le _
      (afterPlaza (island - 216) (s.quarter (quarterOfIsland island)).sink.buffer).length)
    rw [← hsettle] at hdrain
    rw [hdrain]
    refine ⟨_, (List.take_append_drop _ _).symm, hafter, hlast, ?_⟩
    rw [List.length_take, Nat.min_eq_left (Nat.sub_le ..)]
  · have hnone : ∀ r, r ∈ (s.quarter (quarterOfIsland island)).sink.buffer → r.core / 8 ≠ island - 216 :=
      fun r hr heq => hmine ⟨r, hr, heq⟩
    rw [plaza_untouched hp hp' hnone]
    exact ⟨[], rfl, hnone, fun _ hr => (Option.some_ne_none _ hr.symm).elim, rfl⟩

/-- A lossy sink has discarded the Plaza's records and written the rest with a GAP record that counts them. -/
theorem plaza_lossy (hl : (s.quarter (quarterOfIsland island)).sink.lossless = false)
    (hmine : ∃ r, r ∈ (s.quarter (quarterOfIsland island)).sink.buffer ∧ r.core / 8 = island - 216) :
    let k := (s.quarter (quarterOfIsland island)).sink
    let k' := (((s.settlePlaza (island - 216)).islandOff island).quarter (quarterOfIsland island)).sink
    let left := k.discardPlaza (island - 216) s.tick
    k'.buffer = [] ∧ k'.written = k.written + left.buffer.length ∧ k'.dropped = 0 ∧ k'.prev = s.tick := by
  obtain ⟨due, hsink⟩ := islandOff_holds (s.settlePlaza (island - 216)) island (quarterOfIsland island)
  dsimp only
  rw [hsink]
  have hsettle := settlePlaza_lossy (s := s) (by rwa [plaza_sink hp hp']) (by rwa [plaza_sink hp hp'])
  rw [← quarterOfIsland_plaza hp hp'] at hsettle
  have hdrain := drainRecords_sink (s := s.modQuarter (quarterOfIsland island) fun x =>
    { x with sink := x.sink.discardPlaza (island - 216) s.tick }) (q := quarterOfIsland island) _ le_rfl
  rw [← hsettle, State.quarter_modQuarter_same] at hdrain
  rw [hdrain]
  exact ⟨List.drop_length, rfl, rfl, rfl⟩

end Plaza

/-! ## Sinks and watchpoints (R340, R350, R353, R354) -/

section Sinks
variable {s : State} {quarter base size : Nat}

/-- A sink may be enabled: the feature is accepted, and its ring lies in firmware's memory and holds whole records. -/
def State.SinkLegal (s : State) (quarter base size : Nat) : Prop :=
  (∃ e, e ∈ s.pf.fns ∧ ∃ v, e.2.accepted = some v ∧ v.getLsbD 7 = true) ∧ quarter < 4 ∧ 0 < size ∧ size % 32 = 0 ∧
    s.owner base size = some 0x10

theorem not_lacks_iff {f : HostFn} {bit : Nat} : (!f.lacks bit) = true ↔ ∃ v, f.accepted = some v ∧ v.getLsbD bit = true := by
  unfold HostFn.lacks
  cases f.accepted <;> simp

theorem sinkLegal_iff : s.SinkLegal quarter base size ↔ ((s.pf.fns.any fun e => !e.2.lacks 7) && decide (quarter < 4) &&
    decide (0 < size) && size % 32 = 0 && s.owner base size = some 0x10) = true := by
  simp only [State.SinkLegal, Bool.and_eq_true, List.any_eq_true, not_lacks_iff, decide_eq_true_eq, and_assoc]

end Sinks

section Watch
variable {w : Watchpoint} {tenant pa size : Nat} {before after : Memory}

/-- Byte b of a watchpoint's unit is one of those it watches. -/
def Watchpoint.masked (w : Watchpoint) (b : Nat) : Prop := b < 16 ∧ w.bytes.getLsbD b = true

theorem hit_mode (h : w.hit tenant pa size before after = true) : w.mode = 1 ∨ w.mode = 2 := by
  unfold Watchpoint.hit at h
  simp only [Bool.and_eq_true, Bool.or_eq_true, decide_eq_true_eq] at h
  exact h.1.1.1

theorem byteMeets_value (h : w.mode = 1) (x y : Byte) (b : Nat) : w.byteMeets x y b = true ↔
    y &&& w.mask.extractLsb' (8 * b) 8 = w.value.extractLsb' (8 * b) 8 &&& w.mask.extractLsb' (8 * b) 8 := by
  rw [Watchpoint.byteMeets, if_pos h, beq_iff_eq]

theorem byteMeets_change (h : w.mode = 2) (x y : Byte) (b : Nat) : w.byteMeets x y b = true ↔ x ≠ y := by
  rw [Watchpoint.byteMeets, if_neg (by omega), bne_iff_ne]

/-- When a write matches. -/
theorem hit_iff : w.hit tenant pa size before after = true ↔
    w.tenant = tenant ∧ (∃ b, w.masked b ∧ pa ≤ w.unit * 16 + b ∧ w.unit * 16 + b < pa + size) ∧
      (w.mode = 1 ∧ (∀ b, w.masked b → mget after (w.unit * 16 + b) &&& w.mask.extractLsb' (8 * b) 8 =
          w.value.extractLsb' (8 * b) 8 &&& w.mask.extractLsb' (8 * b) 8) ∨
        w.mode = 2 ∧ ∃ b, w.masked b ∧ mget before (w.unit * 16 + b) ≠ mget after (w.unit * 16 + b)) := by
  have hmasked (b : Nat) : b ∈ (List.range 16).filter (fun i => w.bytes.getLsbD i) ↔ w.masked b := by
    rw [List.mem_filter, List.mem_range]
    rfl
  have hmeets : ((if w.mode = 1 then ((List.range 16).filter fun i => w.bytes.getLsbD i).all
      else ((List.range 16).filter fun i => w.bytes.getLsbD i).any) fun i =>
        w.byteMeets (mget before (w.unit * 16 + i)) (mget after (w.unit * 16 + i)) i) = true ↔
      if w.mode = 1 then ∀ b, w.masked b → w.byteMeets (mget before (w.unit * 16 + b)) (mget after (w.unit * 16 + b)) b = true
      else ∃ b, w.masked b ∧ w.byteMeets (mget before (w.unit * 16 + b)) (mget after (w.unit * 16 + b)) b = true := by
    split <;> simp only [List.all_eq_true, List.any_eq_true, hmasked]
  unfold Watchpoint.hit
  simp only [Bool.and_eq_true, Bool.or_eq_true, decide_eq_true_eq, hmeets, List.any_eq_true, hmasked]
  constructor
  · rintro ⟨⟨⟨hmode | hmode, htenant⟩, hrange⟩, hmeet⟩
    · rw [if_pos hmode] at hmeet
      exact ⟨htenant, hrange, Or.inl ⟨hmode, fun b hb => (byteMeets_value hmode ..).1 (hmeet b hb)⟩⟩
    · rw [if_neg (by omega)] at hmeet
      obtain ⟨b, hb, hmeet⟩ := hmeet
      exact ⟨htenant, hrange, Or.inr ⟨hmode, b, hb, (byteMeets_change hmode ..).1 hmeet⟩⟩
  · rintro ⟨htenant, hrange, ⟨hmode, hmeet⟩ | ⟨hmode, b, hb, hmeet⟩⟩
    · refine ⟨⟨⟨Or.inl hmode, htenant⟩, hrange⟩, ?_⟩
      rw [if_pos hmode]
      exact fun b hb => (byteMeets_value hmode ..).2 (hmeet b hb)
    · refine ⟨⟨⟨Or.inr hmode, htenant⟩, hrange⟩, ?_⟩
      rw [if_neg (by omega)]
      exact ⟨b, hb, (byteMeets_change hmode ..).2 hmeet⟩

end Watch

/-! ## The obligation -/

section Clauses
variable {s : State} {island mhz : Nat}

/-- The change of an island's clock. -/
theorem clockChange_changes (h : island < 256) (hz : mhz ≠ 0) : Completes (.islandClockChange island mhz) s (fun t =>
    let k := (s.quarter (quarterOfIsland island)).sink
    let k' := (t.quarter (quarterOfIsland island)).sink
    s.SameBytes t ∧ s.SameContexts t ∧
      (∀ i, fget Config.nominalMHz t.pf.islandMHz i = if i = island then mhz else fget Config.nominalMHz s.pf.islandMHz i) ∧
      t.cycle = s.cycle ∧ t.tick = s.tick ∧ (252 ≤ island ∨ k.enabled = false → ∀ p, t.quarter p = s.quarter p) ∧
      (island < 252 → k.enabled = true → k.full = false → k.needTime = false → s.tick < k.prev + 2 ^ 32 → k.dropped = 0 →
        k'.buffer = k.buffer ++ [{ type := 6, slot := 7, ctx := 0, core := (s.core (islandCore island)).logical.getD 0
                                   delta := s.tick - k.prev, addr := 0
                                   payload := BitVec.ofNat 128 (island + mhz % 2 ^ 16 * 2 ^ 16) }]) ∧
      (island < 252 → k.enabled = true → k.full = true → k.lossless = false →
        k'.buffer = k.buffer ∧ k'.dropped = k.dropped + 1)) := by
  by_cases hub : 252 ≤ island
  · exact ⟨_, clockChange_hub hub h hz, sameBytes_of rfl rfl rfl, fun _ => rfl, clockSet_mhz s island mhz, rfl, rfl, fun _ _ => rfl,
      fun hlt => absurd hub (by omega), fun hlt => absurd hub (by omega)⟩
  · have hlt : island < 252 := by omega
    let u := s.clockSet island mhz
    have honly := trace_only u (islandCore island) 6 7 0 0#64 (BitVec.ofNat 128 (island + mhz % 2 ^ 16 * 2 ^ 16))
    refine ⟨_, clockChange_traced hlt hz, ?_, fun n => ?_, fun i => ?_, ?_, ?_, fun hoff p => ?_, fun _ he hf hn ht hd => ?_,
      fun _ he hf hl => ?_⟩
    · rw [honly]; exact sameBytes_of rfl rfl rfl
    · rw [honly]; rfl
    · rw [honly]; exact clockSet_mhz s island mhz i
    · rw [honly]; rfl
    · rw [honly]; rfl
    · rw [trace_disabled (s := u) (by rw [quarterOf_islandCore]; exact hoff.resolve_left hub)]; rfl
    · have hmade := trace_made (s := u) (core := islandCore island) (type := 6) (slot := 7) (ctx := 0)
        (payload := BitVec.ofNat 128 (island + mhz % 2 ^ 16 * 2 ^ 16))
      rw [quarterOf_islandCore] at hmade
      exact hmade he hf hn ht hd
    · have hdropped := trace_dropped (s := u) (core := islandCore island) (type := 6) (slot := 7) (ctx := 0)
        (payload := BitVec.ofNat 128 (island + mhz % 2 ^ 16 * 2 ^ 16))
      rw [quarterOf_islandCore] at hdropped
      rw [hdropped he hf hl 0#64]
      exact ⟨rfl, rfl⟩

/-- What every gate leaves. -/
theorem islandOff_leaves (s : State) (island : Nat) : let t := s.islandOff island
    s.SameBytes t ∧ s.SameContexts t ∧ island ∈ t.pf.gated := by
  have honly := islandOff_only s island
  dsimp only
  rw [honly]
  exact ⟨sameBytes_of rfl rfl rfl, fun _ => rfl, List.mem_cons_self⟩

theorem depot_near (h : 240 ≤ island) (h' : island < 252) (hd : island % 3 = 0) (l : NearLine) :
    l ∈ (s.islandOff island).ms.near ↔ l ∈ s.ms.near ∧ l.quarter ≠ (island - 240) / 3 := by
  have hdrop : (s.depotDropped island).ms.near = s.ms.near.filter fun l => l.quarter != (island - 240) / 3 := by
    rw [State.depotDropped, if_pos (by simp [h, h']; omega)]
    rfl
  rw [islandOff_only]
  dsimp only
  rw [hdrop, List.mem_filter, bne_iff_ne]

theorem restore_refused (h : island ∉ s.pf.gated) : exec (.islandPowerRestore island) s = .next s := by
  rw [exec_islandPowerRestore]
  exact if_neg (by simpa using h)

theorem restore_restores (h : island ∈ s.pf.gated) : Completes (.islandPowerRestore island) s (fun t =>
    s.SameBytes t ∧ s.SameContexts t ∧ (∀ i, i ∈ t.pf.gated ↔ i ∈ s.pf.gated ∧ i ≠ island) ∧
      (island < 252 → (t.quarter (quarterOfIsland island)).sink =
        { (s.quarter (quarterOfIsland island)).sink with needTime := true })) := by
  let u := s.modPf fun p => { p with gated := p.gated.filter (· != island) }
  have honly := clockStopped_only u island
  refine ⟨u.clockStopped island, (exec_islandPowerRestore ..).trans (if_pos (by simpa using h)), ?_, fun n => ?_, fun i => ?_,
    fun hlt => clockStopped_sink (s := u) hlt⟩
  · rw [honly]; exact sameBytes_of rfl rfl rfl
  · rw [honly]; rfl
  · rw [honly]
    exact List.mem_filter.trans (and_congr_right fun _ => bne_iff_ne)

/-- The gate of an island outside the Plazas leaves a sink as it was. -/
theorem other_gate (h : island < 256) (hg : island ∉ s.pf.gated) (hp : island < 216 ∨ 240 ≤ island) :
    Completes (.islandPowerGate island false) s (fun t => s.SameContexts t ∧ island ∈ t.pf.gated ∧
      (island < 252 → (t.quarter (quarterOfIsland island)).sink.needTime = true) ∧
      (t.quarter (quarterOfIsland island)).sink.buffer = (s.quarter (quarterOfIsland island)).sink.buffer ∧
        (t.quarter (quarterOfIsland island)).sink.written = (s.quarter (quarterOfIsland island)).sink.written) := by
  obtain ⟨-, hctxs, hgated⟩ := islandOff_leaves s island
  exact ⟨_, gate_other h hg hp, hctxs, hgated, fun hlt => congrArg Sink.needTime (islandOff_sink hlt), islandOff_records ..⟩

/-- What the gate of a Plaza leaves beside the records of its sink. -/
theorem plaza_gate (hp : 216 ≤ island) (hp' : island < 240) : let t := (s.settlePlaza (island - 216)).islandOff island
    s.SameContexts t ∧ island ∈ t.pf.gated ∧ (t.quarter (quarterOfIsland island)).sink.needTime = true := by
  obtain ⟨-, hctxs, hgated⟩ := islandOff_leaves (s.settlePlaza (island - 216)) island
  have hsettle (n : Nat) : (s.settlePlaza (island - 216)).ctx n = s.ctx n := by
    rw [State.ctx, (settlePlaza_ctxs s _).1]
    rfl
  exact ⟨fun n => (hctxs n).trans (hsettle n), hgated, congrArg Sink.needTime (islandOff_sink (by omega))⟩

end Clauses

/-- Settles O52: each event by its own branches; a gated Plaza's sink by the records that it writes or discards first. -/
theorem traceAndPowerEvents : Obligations.TraceAndPowerEvents := by
  intro s island mhz quarter base size n unit pa lo lossless control value mask before after q core k logical freq made gates accepted
    legal w
  refine ⟨clockChange_refused, clockChange_changes, fun h => ⟨gate_refused h true, gate_refused h false⟩,
    fun h hg => ⟨?clockGate, ?powerGate, ?depot⟩, restore_refused, restore_restores, fun hlegal => ?illegal, fun hlegal => ?legal,
    fun h => ?noWatch, fun hq hn => ?watch, fun hmode => ?off, hit_iff⟩
  case clockGate =>
    obtain ⟨hsame, hctxs, hgated⟩ := islandOff_leaves s island
    exact ⟨_, gate_clock h hg, hsame, hctxs, hgated, islandOff_sink⟩
  case powerGate =>
    by_cases hp : 216 ≤ island ∧ island < 240
    case neg =>
      obtain ⟨t, hexec, hctxs, hgated, htime, hbuffer⟩ := other_gate h hg (by omega)
      exact ⟨t, hexec, hctxs, hgated, htime, fun _ => hbuffer, fun hlo hhi => absurd ⟨hlo, hhi⟩ hp,
        fun hlo hhi => absurd ⟨hlo, hhi⟩ hp⟩
    case pos =>
      obtain ⟨hlo, hhi⟩ := hp
      obtain ⟨hctxs, hgated, htime⟩ := plaza_gate (s := s) hlo hhi
      refine ⟨_, gate_plaza h hg hlo hhi, hctxs, hgated, fun _ => htime, fun hnone => ?_, fun _ _ hl => plaza_lossless hlo hhi hl,
        fun _ _ hl hmine => ?_⟩
      · rw [plaza_untouched hlo hhi ((hnone.resolve_left (by omega)).resolve_left (by omega))]
        exact islandOff_records ..
      · obtain ⟨hbuffer, hwritten, hdropped, hprev⟩ := plaza_lossy hlo hhi hl hmine
        exact ⟨hbuffer, hwritten, hdropped, hprev, fun r hr hplaza => discardPlaza_mine hr hplaza, discardPlaza_last ..⟩
  case depot => exact fun hlo hhi hd => ⟨_, gate_clock h hg, depot_near hlo hhi hd⟩
  case illegal => exact (exec_traceSinkEnable ..).trans (if_neg (mt sinkLegal_iff.2 hlegal))
  case legal =>
    refine ⟨_, (exec_traceSinkEnable ..).trans (if_pos (sinkLegal_iff.1 hlegal)), (modQuarter_leaves ..).1, ?_, ?_⟩
    · rw [State.quarter_modQuarter_same]
    · rw [State.quarter_modQuarter_same]
  case noWatch => exact (exec_watchpointProgram ..).trans (if_neg (by simp; omega))
  case watch =>
    refine ⟨_, (exec_watchpointProgram ..).trans (if_pos (by simp [hq, hn])), (modQuarter_leaves ..).1, ?_, fun m => ?_⟩
    · rw [State.quarter_modQuarter_same]
    · rw [State.quarter_modQuarter_same]
      exact fget_fput ..
  case off =>
    rw [← Bool.not_eq_true]
    intro hhit
    have hwrites := hit_mode hhit
    omega

end Sys2Proof.Machine

/-! # Proofs: feature, queue, group, window, measurement and log commands (R49, R83, R319, R336–R341, R344, R345, R347) -/

namespace Sys2Proof.Machine

section Exec
variable (fn : Nat) (s : State)

theorem exec_features : exec (.features fn) s = execFeatures fn s := rfl
theorem exec_accept : exec (.accept fn) s = execAccept fn s := rfl
theorem exec_depotlat : exec (.depotlat fn) s = execDepotlat fn s := rfl
theorem exec_ovlchk : exec (.ovlchk fn) s = execOvlchk fn s := rfl
theorem exec_qreset : exec (.qreset fn) s = execQreset fn s := rfl
theorem exec_collgrp : exec (.collgrp fn) s = execCollgrp fn s := rfl
theorem exec_peerset : exec (.peerset fn) s = execPeerset fn s := rfl
theorem exec_bindq : exec (.bindq fn) s = execBindq fn s := rfl
theorem exec_measure : exec (.measure fn) s = execMeasure fn s := rfl
theorem exec_attest : exec (.attest fn) s = execAttest fn s := rfl
theorem exec_auditread : exec (.auditread fn) s = execAuditread fn s := rfl
theorem exec_winmap : exec (.winmap fn) s = execWinmap fn s := rfl

end Exec

/-! ## Blocks of bytes -/

section Blocks

theorem toBytes_getD (n v i : Nat) (h : i < n) : (toBytes n v).getD i 0#8 = BitVec.ofNat 8 (v / 256 ^ i) := by
  induction n generalizing v i with
  | zero => cases h
  | succ n ih =>
    cases i with
    | zero => simp [toBytes]
    | succ i =>
      rw [toBytes, List.getD_cons_succ, ih _ _ (by omega), Nat.div_div_eq_div_mul, pow_succ, Nat.mul_comm]

/-- A byte of a word's bytes. -/
theorem toBytes_toNat_getD (x : BitVec 256) {n i : Nat} (h : i < n) : (toBytes n x.toNat).getD i 0#8 = x.extractLsb' (8 * i) 8 := by
  rw [toBytes_getD _ _ _ h]
  refine BitVec.eq_of_toNat_eq ?_
  rw [BitVec.toNat_ofNat, BitVec.extractLsb'_toNat, Nat.shiftRight_eq_div_pow, pow_mul]
  rfl

/-- An element of a list of blocks of one size. -/
theorem flatMap_getD {α β : Type} (f : α → List β) {k : Nat} (l : List α) (hf : ∀ a, a ∈ l → (f a).length = k) {i j : Nat}
    (hi : i < l.length) (hj : j < k) (d : β) : (l.flatMap f).getD (k * i + j) d = (f l[i]).getD j d := by
  induction l generalizing i with
  | nil => cases hi
  | cons a l ih =>
    have ha := hf a List.mem_cons_self
    rw [List.flatMap_cons]
    cases i with
    | zero => rw [Nat.mul_zero, Nat.zero_add, List.getD_append _ _ _ _ (ha ▸ hj), List.getElem_cons_zero]
    | succ i =>
      rw [List.getD_append_right _ _ _ _ (by rw [ha]; exact (Nat.le_mul_of_pos_right k (Nat.succ_pos i)).trans (Nat.le_add_right _ _)), ha,
        show k * (i + 1) + j - k = k * i + j by rw [Nat.mul_succ]; omega, ih (fun b hb => hf b (List.mem_cons_of_mem _ hb))
          (by simpa using hi),
        List.getElem_cons_succ]

theorem length_flatMap_blocks {α β : Type} (f : α → List β) {k : Nat} (l : List α) (hf : ∀ a, a ∈ l → (f a).length = k) :
    (l.flatMap f).length = l.length * k := by
  rw [List.length_flatMap, List.map_congr_left hf, List.map_const', List.sum_replicate, smul_eq_mul]

end Blocks

/-! ## Tables, measurements and the audit log (R49, R344, R345, R347) -/

section Tables

theorem latencyTable_length : latencyTable.length = 49152 := by
  rw [latencyTable, length_flatMap_blocks (k := 256) _ _ fun c _ => by rw [List.length_map, List.length_range], List.length_range]

theorem latencyTable_getD {c d : Nat} (hc : c < 192) (hd : d < 256) : latencyTable.getD (256 * c + d) 0#8 = Config.depotLatency c d := by
  rw [latencyTable, flatMap_getD (k := 256) _ _ (fun c _ => by rw [List.length_map, List.length_range]) (by simpa using hc) hd,
    List.getElem_range, List.getD_eq_getElem _ _ (by simpa using hd), List.getElem_map, List.getElem_range]

theorem mregs_length (s : State) : s.mregs.length = 256 := by
  rw [State.mregs, length_flatMap_blocks (k := 32) _ _ fun i _ => length_toBytes .., List.length_range]

theorem mregs_getD (s : State) {c i : Nat} (hc : c < 8) (hi : i < 32) :
    s.mregs.getD (32 * c + i) 0#8 = (fget 0#256 s.pf.mreg c).extractLsb' (8 * i) 8 := by
  rw [State.mregs, flatMap_getD (k := 32) _ _ (fun i _ => length_toBytes ..) (by simpa using hc) hi, List.getElem_range,
    toBytes_toNat_getD _ hi]

theorem measurement_length (s : State) : s.measurement.length ≤ 4096 := by
  rw [State.measurement, List.length_take]
  exact Nat.min_le_left ..

theorem measurement_register (s : State) {c i : Nat} (hc : c < 8) (hi : i < 32) : 32 * c + i < s.measurement.length ∧
    s.measurement.getD (32 * c + i) 0#8 = (fget 0#256 s.pf.mreg c).extractLsb' (8 * i) 8 := by
  have hlt : 32 * c + i < s.mregs.length := by rw [mregs_length]; omega
  have hlen : 32 * c + i < s.measurement.length := by
    rw [State.measurement, List.length_take, List.length_append, mregs_length]
    omega
  refine ⟨hlen, ?_⟩
  rw [← mregs_getD s hc hi, List.getD_eq_getElem _ _ hlen, List.getD_eq_getElem _ _ hlt]
  exact (List.getElem_take ..).trans (List.getElem_append_left hlt)

theorem quote_length (s : State) {nonce : List Byte} (h : nonce.length = 32) : (s.quote nonce).length = 30168 := by
  simp [State.quote, mregs_length, h, signatureSize]

theorem auditHead_length (counter time type tenant master : Nat) (detail : List Word) :
    (auditHead counter time type tenant master detail).length = 96 := by
  have hdetail : (((detail ++ List.replicate 8 0#64).take 8).flatMap fun w => toBytes 8 w.toNat).length = 64 := by
    rw [length_flatMap_blocks (k := 8) _ _ fun w _ => length_toBytes .., List.length_take, List.length_append, List.length_replicate,
      Nat.min_eq_left (by omega)]
  rw [auditHead]
  simp only [List.length_append, length_toBytes, hdetail]

theorem audit_bytes (a : Audit) : a.bytes.take 96 = auditHead a.counter a.time a.type a.tenant a.master a.detail ∧
    a.bytes.length = 128 := by
  have hhead := auditHead_length a.counter a.time a.type a.tenant a.master a.detail
  exact ⟨List.take_left' hhead, by rw [Audit.bytes, List.length_append, hhead, length_toBytes]⟩

theorem records_length (l : List Audit) : (l.flatMap Audit.bytes).length = 128 * l.length := by
  rw [length_flatMap_blocks _ _ fun a _ => (audit_bytes a).2, Nat.mul_comm]

end Tables

/-! ## How these commands end -/

/-- One function is as given, and the others and every context are as before. -/
def State.Frames (s t : State) (fn : Nat) (g : HostFn) : Prop := t.fn fn = g ∧ (∀ m, m ≠ fn → t.fn m = s.fn m) ∧ s.SameContexts t

/-- A command has ended and changed no more than the platform. -/
def State.EndsAs (s t : State) (fn : Nat) (g : HostFn) : Prop := s.OnlyPlatform t ∧ s.Frames t fn g

section Ends
variable {s t : State} {fn status : Nat} {res : List Word} {g : HostFn}

/-- The outcome of a command whose effect is elsewhere than in the functions and the contexts. -/
theorem outcome_frames (hf : t.pf.fns = s.pf.fns) (hc : t.ctxs = s.ctxs) (status : Nat) (res : List Word) :
    s.Frames (t.outcome fn status res) fn { s.fn fn with outcome := some (status, res) } := by
  have hfn (m : Nat) : t.fn m = s.fn m := by rw [State.fn, State.fn, hf]
  obtain ⟨-, hctxs, hown, hothers⟩ := outcome_leaves t fn status res
  exact ⟨by rw [hown, hfn], fun m hm => (hothers m hm).trans (hfn m), fun c => (hctxs c).trans (by rw [State.ctx, State.ctx, hc])⟩

/-- The outcome of a command that has changed its own function. -/
theorem outcome_modFn (s : State) (fn status : Nat) (res : List Word) (f : HostFn → HostFn) :
    s.EndsAs ((s.modFn fn f).outcome fn status res) fn { f (s.fn fn) with outcome := some (status, res) } := by
  obtain ⟨honly, hctxs, hown, hothers⟩ := outcome_leaves (s.modFn fn f) fn status res
  obtain ⟨fonly, fothers⟩ := modFn_others s fn f
  exact ⟨onlyPlatform_trans fonly honly, by rw [hown, State.fn_modFn_same], fun m hm => (hothers m hm).trans (fothers m hm), hctxs⟩

/-- The outcome of a command that has changed another part of the platform. -/
theorem outcome_modPf (f : Platform → Platform) (hf : (f s.pf).fns = s.pf.fns) (status : Nat) (res : List Word) :
    s.EndsAs ((s.modPf f).outcome fn status res) fn { s.fn fn with outcome := some (status, res) } :=
  ⟨onlyPlatform_trans (modPf_onlyPlatform s f) (outcome_leaves ..).1, outcome_frames (t := s.modPf f) hf rfl status res⟩

theorem outcome_ends (s : State) (fn status : Nat) (res : List Word) :
    s.EndsAs (s.outcome fn status res) fn { s.fn fn with outcome := some (status, res) } :=
  ⟨(outcome_leaves ..).1, outcome_frames rfl rfl ..⟩

theorem refused_ends {i : Instr} (h : exec i s = .next (s.outcome fn status [])) :
    Completes i s (fun t => s.EndsAs t fn { s.fn fn with outcome := some (status, []) }) := ⟨_, h, outcome_ends ..⟩

end Ends

section Writes
variable {s : State} {fn : Nat} {a : Word} {b : List Byte}

theorem backed_host (s : State) {pa : Nat} (h : 0x1000000000000 ≤ pa) (h' : pa < 0x2000000000000) : s.backed pa = true := by
  have hr : region pa = .host := by
    unfold region
    rw [if_neg (by omega), if_neg (by omega), if_neg (by omega), if_neg (by omega), if_pos h']
  simp [State.backed, hr]

/-- Firmware writes inside the host window. -/
theorem hostWrite_holds (hb : ¬ 0x1000000000000 < a.toNat + b.length) (hm : s.memoriesOk = true) :
    s.Holds (s.deviceWrite (hostPa a) b) (hostPa a) b := by
  by_cases hback : s.backed (hostPa a) = true
  · exact deviceWrite_holds hback (memoriesOk_mem hm)
  · have hlen : b.length = 0 := by
      by_contra hne
      exact hback (backed_host s (Nat.le_add_right _ _) (by unfold hostPa; omega))
    have hsame : s.deviceWrite (hostPa a) b = s := if_neg hback
    rw [hsame]
    exact ⟨fun i hi => by omega, fun _ _ => rfl, fun _ => rfl, fun _ _ => rfl⟩

/-- A command that writes to the host window. -/
theorem outcome_writes (hb : ¬ 0x1000000000000 < a.toNat + b.length) (hm : s.memoriesOk = true) (res : List Word) :
    let t := (s.deviceWrite (hostPa a) b).outcome fn 1 res
    s.Holds t (0x1000000000000 + a.toNat) b ∧ s.Frames t fn { s.fn fn with outcome := some (1, res) } := by
  have honly := deviceWrite_only s (hostPa a) b
  exact ⟨holds_sameBytes (hostWrite_holds hb hm) (outcome_leaves ..).1.2, outcome_frames (by rw [honly]) (by rw [honly]) ..⟩

end Writes

/-! ## FEATURES and ACCEPT (R340) -/

/-- Bits above the eighth alone are left of what is not offered. -/
theorem unoffered_iff (v : BitVec 128) : (v &&& ~~~Config.offeredFeatures != 0#128) = true ↔ 256 ≤ v.toNat := by
  have hoffered (i : Nat) : Config.offeredFeatures.getLsbD i = decide (i < 8) := by
    rw [Config.offeredFeatures, BitVec.getLsbD_ofNat, show (0xFF : Nat) = 2 ^ 8 - 1 from rfl, Nat.testBit_two_pow_sub_one]
    by_cases hi : i < 8 <;> simp [hi]
    omega
  rw [bne_iff_ne, ← not_lt, not_iff_not]
  constructor
  · intro h
    refine Nat.lt_pow_two_of_testBit (n := 8) v.toNat fun i hi => ?_
    have hbit := congrArg (fun x : BitVec 128 => x.getLsbD i) h
    by_cases hlt : i < 128
    · have hclear : v.getLsbD i = false := by
        simpa only [BitVec.getLsbD_and, BitVec.getLsbD_not, BitVec.getLsbD_zero, hoffered, hlt, decide_true, Bool.true_and,
          decide_eq_false (Nat.not_lt.2 hi), Bool.not_false, Bool.and_true] using hbit
      exact hclear
    · exact BitVec.getLsbD_of_ge v i (Nat.not_lt.1 hlt)
  · intro h
    refine BitVec.eq_of_getLsbD_eq fun i hi => ?_
    by_cases hlt : i < 8
    · simp [hoffered, hlt]
    · have hbit : v.getLsbD i = false := Nat.testBit_lt_two_pow (h.trans_le (Nat.pow_le_pow_right (n := 2) (by decide) (Nat.not_lt.1 hlt)))
      simp [hbit]

section Features
variable {s : State} {fn : Nat}

theorem features_ends (h : s.Runs fn 1) : Completes (.features fn) s (fun t =>
    s.EndsAs t fn { s.fn fn with outcome := some (1, [0xFF#64, 0#64]) }) := by
  refine ⟨_, ?_, outcome_ends s fn 1 [0xFF#64, 0#64]⟩
  rw [exec_features, execFeatures]
  exact command_runs h rfl

variable (h : s.Runs fn 2)
include h

theorem accept_refused (hr : (s.fn fn).accepted ≠ none ∨ 256 ≤ ((s.fn fn).arg 1 ++ (s.fn fn).arg 0).toNat) :
    Completes (.accept fn) s (fun t => s.EndsAs t fn { s.fn fn with outcome := some (0x11, []) }) := by
  refine refused_ends ?_
  rw [exec_accept, execAccept]
  refine command_refused h (firstStatus_some (by simp) ?_)
  rcases hr with hr | hr
  · exact ⟨_, List.mem_cons_self, Option.isSome_iff_ne_none.2 hr⟩
  · exact ⟨_, List.mem_cons_of_mem _ List.mem_cons_self, (unoffered_iff _).2 hr⟩

theorem accept_ends (hn : (s.fn fn).accepted = none) (hv : ((s.fn fn).arg 1 ++ (s.fn fn).arg 0).toNat < 256) :
    Completes (.accept fn) s (fun t =>
      s.EndsAs t fn { s.fn fn with accepted := some ((s.fn fn).arg 1 ++ (s.fn fn).arg 0), outcome := some (1, []) }) := by
  refine ⟨_, ?_, outcome_modFn s fn 1 [] fun f => { f with accepted := some ((s.fn fn).arg 1 ++ (s.fn fn).arg 0) }⟩
  rw [exec_accept, execAccept]
  have hoffered := Bool.eq_false_iff.2 (mt (unoffered_iff _).1 (Nat.not_le.2 hv))
  exact command_runs h ((firstStatus_next (by rw [hn]; rfl)).trans (firstStatus_next hoffered))

end Features

/-! ## DEPOTLAT and OVLCHK (R49, R83, R340) -/

section Depotlat
variable {s : State} {fn : Nat} (h : s.Runs fn 6)
include h

theorem depotlat_refused (hb : 0x1000000000000 < ((s.fn fn).arg 0).toNat + 49152) :
    Completes (.depotlat fn) s (fun t => s.EndsAs t fn { s.fn fn with outcome := some (0x11, []) }) := by
  refine refused_ends ?_
  rw [exec_depotlat, execDepotlat]
  exact command_refused h (if_pos (outOfHost_iff.2 hb))

theorem depotlat_writes (hb : ¬ 0x1000000000000 < ((s.fn fn).arg 0).toNat + 49152) (hm : s.memoriesOk = true) (c d : Nat) :
    Completes (.depotlat fn) s (fun t =>
      (s.Holds t (0x1000000000000 + ((s.fn fn).arg 0).toNat) latencyTable ∧
        s.Frames t fn { s.fn fn with outcome := some (1, []) }) ∧
      (c < 192 → d < 256 → mget t.mem (0x1000000000000 + ((s.fn fn).arg 0).toNat + 256 * c + d) = Config.depotLatency c d)) := by
  have hwrites := outcome_writes (s := s) (fn := fn) (a := (s.fn fn).arg 0) (b := latencyTable) (by rwa [latencyTable_length]) hm []
  refine ⟨_, ?_, hwrites, fun hc hd => ?_⟩
  · rw [exec_depotlat, execDepotlat]
    exact command_runs h (firstStatus_next (Bool.eq_false_iff.2 (mt outOfHost_iff.1 hb)))
  · rw [Nat.add_assoc _ (256 * c), hwrites.1.1 _ (by rw [latencyTable_length]; omega), latencyTable_getD hc hd]

end Depotlat

section Ovlchk
variable {s : State} {fn : Nat} (h : s.Runs fn 7)
include h

theorem ovlchk_lacking (hl : (s.fn fn).lacks 4 = true) :
    Completes (.ovlchk fn) s (fun t => s.EndsAs t fn { s.fn fn with outcome := some (0x12, []) }) := by
  refine refused_ends ?_
  rw [exec_ovlchk, execOvlchk]
  exact command_refused h (if_pos hl)

variable (hl : (s.fn fn).lacks 4 = false)
include hl

theorem ovlchk_foreign (hf : (s.fn fn).foreign ((s.fn fn).arg 0) = true) :
    Completes (.ovlchk fn) s (fun t => s.EndsAs t fn { s.fn fn with outcome := some (0x11, []) }) := by
  refine refused_ends ?_
  rw [exec_ovlchk, execOvlchk]
  exact command_refused h ((firstStatus_next hl).trans (if_pos hf))

omit h hl in
theorem mem_ovlSet (l : List Nat) (t m : Nat) (b : Bool) :
    m ∈ (if b = true then t :: l.filter (· != t) else l.filter (· != t)) ↔ (m = t ∧ b = true) ∨ (m ∈ l ∧ m ≠ t) := by
  cases b <;> simp

theorem ovlchk_ends (hf : (s.fn fn).foreign ((s.fn fn).arg 0) = false) : Completes (.ovlchk fn) s (fun t =>
    s.Frames t fn { s.fn fn with outcome := some (1, []) } ∧ s.SameBytes t ∧
      (((s.fn fn).arg 0).toNat ∈ t.ms.ovl ↔ ((s.fn fn).arg 1).getLsbD 0 = true) ∧
      ∀ m, m ≠ ((s.fn fn).arg 0).toNat → (m ∈ t.ms.ovl ↔ m ∈ s.ms.ovl)) := by
  have hovl (m : Nat) := mem_ovlSet s.ms.ovl ((s.fn fn).arg 0).toNat m (((s.fn fn).arg 1).getLsbD 0)
  refine ⟨_, ?_, outcome_frames (s := s) (t := s.modMs fun m =>
    let others := m.ovl.filter (· != ((s.fn fn).arg 0).toNat)
    { m with ovl := if ((s.fn fn).arg 1).getLsbD 0 then ((s.fn fn).arg 0).toNat :: others else others }) rfl rfl 1 [],
    sameBytes_of rfl rfl rfl, (hovl _).trans (by simp), fun m hm => (hovl m).trans (by simp [hm])⟩
  rw [exec_ovlchk, execOvlchk]
  exact command_runs h ((firstStatus_next hl).trans (firstStatus_next hf))

end Ovlchk

/-! ## QRESET and BINDQ (R146, R147, R339) -/

section Queues
variable {s : State} {fn : Nat}

theorem qreset_refused (h : s.Runs fn 8) (hp : s.pageLive fn ((s.fn fn).arg 0).toNat = false) :
    Completes (.qreset fn) s (fun t => s.EndsAs t fn { s.fn fn with outcome := some (0x11, []) }) := by
  refine refused_ends ?_
  rw [exec_qreset, execQreset]
  exact command_refused h (if_pos (by rw [hp]; rfl))

/-- A command that changes one queue. -/
theorem queue_ends (s : State) (fn q : Nat) (f : Queue → Queue) : let t := (s.modQueue q f).outcome fn 1 []
    s.EndsAs t fn { s.fn fn with outcome := some (1, []) } ∧ (∀ m, m ≠ q → t.queue m = s.queue m) ∧ t.queue q = f (s.queue q) :=
  ⟨outcome_modPf _ rfl 1 [], fun m hm => State.queue_modQueue_ne s q m f hm, State.queue_modQueue_same ..⟩

theorem qreset_ends (h : s.Runs fn 8) (hp : s.pageLive fn ((s.fn fn).arg 0).toNat = true) : Completes (.qreset fn) s (fun t =>
    let q := ((s.fn fn).arg 0).toNat
    let old := Ticket.ofBytes (s.queue q).desc
    s.EndsAs t fn { s.fn fn with outcome := some (1, []) } ∧ (∀ m, m ≠ q → t.queue m = s.queue m) ∧
      t.queue q = { s.queue q with
        desc := { old with resv := old.take, commit := 0, free := 2 ^ old.lg : Ticket }.toBytes, stored := [] }) := by
  refine ⟨_, ?_, queue_ends s fn ((s.fn fn).arg 0).toNat fun x =>
    let t := Ticket.ofBytes x.desc
    { x with desc := { t with resv := t.take, commit := 0, free := 2 ^ t.lg : Ticket }.toBytes, stored := [] }⟩
  rw [exec_qreset, execQreset]
  exact command_runs h (firstStatus_next (by rw [hp]; rfl))

theorem bindq_refused (h : s.Runs fn 0x0B) (hr : 4096 ≤ ((s.fn fn).arg 0).toNat ∨ ((s.fn fn).arg 1).toNat ∉ (s.fn fn).tenants ∨
    ((s.fn fn).arg 3).toNat < 1 ∨ 8 < ((s.fn fn).arg 3).toNat ∨ (s.fn fn).ringAt fn ((s.fn fn).arg 2) = none) :
    Completes (.bindq fn) s (fun t => s.EndsAs t fn { s.fn fn with outcome := some (0x11, []) }) := by
  refine refused_ends ?_
  rw [exec_bindq, execBindq]
  refine command_refused h (firstStatus_some (by simp) ?_)
  simpa [foreign_iff, or_assoc] using hr

theorem bindq_ends {ring : Nat} (h : s.Runs fn 0x0B) (hq : ((s.fn fn).arg 0).toNat < 4096)
    (hf : ((s.fn fn).arg 1).toNat ∈ (s.fn fn).tenants) (hl : 1 ≤ ((s.fn fn).arg 3).toNat) (hl' : ((s.fn fn).arg 3).toNat ≤ 8)
    (hring : (s.fn fn).ringAt fn ((s.fn fn).arg 2) = some ring) : Completes (.bindq fn) s (fun t =>
      let q := ((s.fn fn).arg 0).toNat
      s.EndsAs t fn { s.fn fn with outcome := some (1, []) } ∧ (∀ m, m ≠ q → t.queue m = s.queue m) ∧
        t.queue q = freshQueue ((s.fn fn).arg 1).toNat ring ((s.fn fn).arg 3).toNat) := by
  refine ⟨_, ?_, queue_ends s fn ((s.fn fn).arg 0).toNat fun _ =>
    freshQueue ((s.fn fn).arg 1).toNat ring ((s.fn fn).arg 3).toNat⟩
  rw [exec_bindq, execBindq]
  refine (command_runs h (firstStatus_none ?_)).trans (by rw [hring]; rfl)
  simp [HostFn.foreign, hring, hf]
  omega

end Queues

/-! ## COLLGRP and PEERSET (R319, R340, R341) -/

theorem ffind_fput_ne {β : Type} (m : FMap β) (k n : Nat) (v : β) (h : n ≠ k) : ffind (fput m k v) n = ffind m n := by
  induction m with
  | nil => simp [fput, ffind, h.symm]
  | cons e l ih =>
    obtain ⟨x, w⟩ := e
    simp only [fput]
    split
    case isTrue hx =>
      subst hx
      simp [ffind, h.symm]
    case isFalse =>
      split
      case isTrue => simp [ffind, h.symm]
      case isFalse => simp only [ffind, ih]

section Groups
variable {s : State} {fn : Nat}

theorem collgrp_lacking (h : s.Runs fn 9) (hl : (s.fn fn).lacks 1 = true) :
    Completes (.collgrp fn) s (fun t => s.EndsAs t fn { s.fn fn with outcome := some (0x12, []) }) := by
  refine refused_ends ?_
  rw [exec_collgrp, execCollgrp]
  exact command_refused h (if_pos hl)

theorem collgrp_refused (h : s.Runs fn 9) (hl : (s.fn fn).lacks 1 = false) (hr : 2 ^ 32 ≤ ((s.fn fn).arg 0).toNat ∨
    ((s.fn fn).arg 2).toNat < 2 ∨ 4096 < ((s.fn fn).arg 2).toNat ∨
    0x1000000000000 < ((s.fn fn).arg 1).toNat + ((s.fn fn).arg 2).toNat * memberBytes ∨
    ∃ m, m ∈ s.membersHere ((s.fn fn).arg 1) ((s.fn fn).arg 2).toNat ∧ m.2 ∉ (s.fn fn).tenants) :
    Completes (.collgrp fn) s (fun t => s.EndsAs t fn { s.fn fn with outcome := some (0x11, []) }) := by
  refine refused_ends ?_
  rw [exec_collgrp, execCollgrp]
  refine command_refused h ((firstStatus_next hl).trans (firstStatus_some (by simp) ?_))
  simpa [outOfHost_iff, or_assoc] using hr

/-- The group that COLLGRP makes. -/
def State.newGroup (s : State) (fn : Nat) : Group where
  size := ((s.fn fn).arg 2).toNat
  members := s.membersHere ((s.fn fn).arg 1) ((s.fn fn).arg 2).toNat

theorem collgrp_ends (h : s.Runs fn 9) (hl : (s.fn fn).lacks 1 = false) (hi : ((s.fn fn).arg 0).toNat < 2 ^ 32)
    (hn : 2 ≤ ((s.fn fn).arg 2).toNat) (hn' : ((s.fn fn).arg 2).toNat ≤ 4096)
    (hb : ¬ 0x1000000000000 < ((s.fn fn).arg 1).toNat + ((s.fn fn).arg 2).toNat * memberBytes)
    (hm : ∀ m, m ∈ s.membersHere ((s.fn fn).arg 1) ((s.fn fn).arg 2).toNat → m.2 ∈ (s.fn fn).tenants) :
    Completes (.collgrp fn) s (fun t => s.EndsAs t fn { s.fn fn with outcome := some (1, []) } ∧
      ffind t.pf.groups ((s.fn fn).arg 0).toNat = some (s.newGroup fn) ∧
      ∀ m, m ≠ ((s.fn fn).arg 0).toNat → ffind t.pf.groups m = ffind s.pf.groups m) := by
  refine ⟨_, ?_, outcome_modPf (fun p => { p with groups := fput p.groups ((s.fn fn).arg 0).toNat (s.newGroup fn) }) rfl 1 [],
    ffind_fput_same .., fun m hne => ffind_fput_ne _ _ _ _ hne⟩
  rw [exec_collgrp, execCollgrp]
  have hrest : ∀ e, e ∈ [(decide (2 ^ 32 ≤ ((s.fn fn).arg 0).toNat), 0x11),
      (decide (((s.fn fn).arg 2).toNat < 2) || decide (4096 < ((s.fn fn).arg 2).toNat), 0x11),
      (outOfHost ((s.fn fn).arg 1) (((s.fn fn).arg 2).toNat * memberBytes), 0x11),
      ((s.membersHere ((s.fn fn).arg 1) ((s.fn fn).arg 2).toNat).any fun x => !(s.fn fn).tenants.contains x.2, 0x11)] → e.1 = false := by
    have hout := Bool.eq_false_iff.2 (mt outOfHost_iff.1 hb)
    have hmine : ((s.membersHere ((s.fn fn).arg 1) ((s.fn fn).arg 2).toNat).any fun x => !(s.fn fn).tenants.contains x.2) = false := by
      simpa using hm
    simp only [List.forall_mem_cons, hout, hmine, Bool.or_eq_false_iff, decide_eq_false_iff_not]
    exact ⟨by omega, ⟨by omega, by omega⟩, trivial, trivial, List.forall_mem_nil _⟩
  exact command_runs h ((firstStatus_next hl).trans (firstStatus_none hrest))

section Peerset
variable (h : s.Runs fn 0x0A)
include h

theorem peerset_lacking (hl : (s.fn fn).lacks 1 = true) :
    Completes (.peerset fn) s (fun t => s.EndsAs t fn { s.fn fn with outcome := some (0x12, []) }) := by
  refine refused_ends ?_
  rw [exec_peerset, execPeerset]
  exact command_refused h (if_pos hl)

variable (hl : (s.fn fn).lacks 1 = false)
include hl

theorem peerset_refused (hd : 64 ≤ ((s.fn fn).arg 1).toNat) :
    Completes (.peerset fn) s (fun t => s.EndsAs t fn { s.fn fn with outcome := some (0x11, []) }) := by
  refine refused_ends ?_
  rw [exec_peerset, execPeerset]
  exact command_refused h ((firstStatus_next hl).trans (if_pos (decide_eq_true hd)))

variable (hd : ((s.fn fn).arg 1).toNat < 64)
include hd

theorem peerset_busy (hi : s.installed = true) :
    Completes (.peerset fn) s (fun t => s.EndsAs t fn { s.fn fn with outcome := some (0x10, []) }) := by
  refine refused_ends ?_
  rw [exec_peerset, execPeerset]
  exact command_refused h ((firstStatus_next hl).trans ((firstStatus_next (decide_eq_false (Nat.not_le.2 hd))).trans (if_pos hi)))

theorem peerset_ends (hi : s.installed = false) : Completes (.peerset fn) s (fun t =>
    s.EndsAs t fn { s.fn fn with outcome := some (1, []) } ∧ t.pf.domain = ((s.fn fn).arg 0).toNat ∧
      t.pf.device = ((s.fn fn).arg 1).toNat) := by
  refine ⟨_, ?_, outcome_modPf (fun p => { p with domain := ((s.fn fn).arg 0).toNat, device := ((s.fn fn).arg 1).toNat })
    rfl 1 [], rfl, rfl⟩
  rw [exec_peerset, execPeerset]
  exact command_runs h ((firstStatus_next hl).trans ((firstStatus_next (decide_eq_false (Nat.not_le.2 hd))).trans (firstStatus_next hi)))

end Peerset

end Groups

/-! ## MEASURE, ATTEST and AUDITREAD (R344, R345, R347) -/

section Logs
variable {s : State} {fn : Nat}

theorem measure_refused (h : s.Runs fn 0x0E) (hb : 0x1000000000000 < ((s.fn fn).arg 0).toNat + 4096) :
    Completes (.measure fn) s (fun t => s.EndsAs t fn { s.fn fn with outcome := some (0x11, []) }) := by
  refine refused_ends ?_
  rw [exec_measure, execMeasure]
  exact command_refused h (if_pos (outOfHost_iff.2 hb))

theorem measure_writes (h : s.Runs fn 0x0E) (hb : ¬ 0x1000000000000 < ((s.fn fn).arg 0).toNat + 4096)
    (hm : s.memoriesOk = true) (c : Nat) :
    Completes (.measure fn) s (fun t =>
      (s.Holds t (0x1000000000000 + ((s.fn fn).arg 0).toNat) s.measurement ∧
        s.Frames t fn { s.fn fn with outcome := some (1, []) }) ∧
      (c < 8 → ∀ i, i < 32 → mget t.mem (0x1000000000000 + ((s.fn fn).arg 0).toNat + 32 * c + i) =
        (fget 0#256 s.pf.mreg c).extractLsb' (8 * i) 8)) := by
  have hlen := measurement_length s
  have hwrites := outcome_writes (s := s) (fn := fn) (a := (s.fn fn).arg 0) (b := s.measurement) (by omega) hm []
  refine ⟨_, ?_, hwrites, fun hc i hi => ?_⟩
  · rw [exec_measure, execMeasure]
    exact command_runs h (firstStatus_next (Bool.eq_false_iff.2 (mt outOfHost_iff.1 hb)))
  · obtain ⟨hlt, hbyte⟩ := measurement_register s hc hi
    rw [Nat.add_assoc _ (32 * c), hwrites.1.1 _ hlt, hbyte]

theorem attest_refused (h : s.Runs fn 0x0F) (hb : 0x1000000000000 < ((s.fn fn).arg 0).toNat + 32 ∨
    0x1000000000000 < ((s.fn fn).arg 1).toNat + 0x8000) :
    Completes (.attest fn) s (fun t => s.EndsAs t fn { s.fn fn with outcome := some (0x11, []) }) := by
  refine refused_ends ?_
  rw [exec_attest, execAttest]
  refine command_refused h (firstStatus_some (by simp) ?_)
  simpa [outOfHost_iff] using hb

theorem attest_writes (h : s.Runs fn 0x0F) (hb : ¬ 0x1000000000000 < ((s.fn fn).arg 0).toNat + 32)
    (hb' : ¬ 0x1000000000000 < ((s.fn fn).arg 1).toNat + 0x8000) (hm : s.memoriesOk = true) : Completes (.attest fn) s (fun t =>
      s.Holds t (0x1000000000000 + ((s.fn fn).arg 1).toNat) (s.quote (s.hostRead ((s.fn fn).arg 0) 32)) ∧
        s.Frames t fn { s.fn fn with outcome := some (1, [30168#64]) }) := by
  have hlen := quote_length s (nonce := s.hostRead ((s.fn fn).arg 0) 32) (length_mread ..)
  refine ⟨_, ?_, outcome_writes (a := (s.fn fn).arg 1) (b := s.quote (s.hostRead ((s.fn fn).arg 0) 32)) (by omega) hm [30168#64]⟩
  rw [exec_attest, execAttest]
  exact command_runs h ((firstStatus_next (Bool.eq_false_iff.2 (mt outOfHost_iff.1 hb))).trans
    (firstStatus_next (Bool.eq_false_iff.2 (mt outOfHost_iff.1 hb'))))

theorem auditread_refused (h : s.Runs fn 0x10) (hb : 0x1000000000000 < ((s.fn fn).arg 2).toNat +
    128 * (s.auditFrom ((s.fn fn).arg 0).toNat ((s.fn fn).arg 1).toNat).length) :
    Completes (.auditread fn) s (fun t => s.EndsAs t fn { s.fn fn with outcome := some (0x11, []) }) := by
  refine refused_ends ?_
  rw [exec_auditread, execAuditread]
  exact command_refused h (if_pos (outOfHost_iff.2 hb))

theorem auditread_writes (h : s.Runs fn 0x10) (hb : ¬ 0x1000000000000 < ((s.fn fn).arg 2).toNat +
    128 * (s.auditFrom ((s.fn fn).arg 0).toNat ((s.fn fn).arg 1).toNat).length) (hm : s.memoriesOk = true) :
    let records := s.auditFrom ((s.fn fn).arg 0).toNat ((s.fn fn).arg 1).toNat
    Completes (.auditread fn) s (fun t =>
      s.Holds t (0x1000000000000 + ((s.fn fn).arg 2).toNat) (records.flatMap Audit.bytes) ∧
        s.Frames t fn { s.fn fn with outcome := some (1, [BitVec.ofNat 64 records.length]) }) := by
  refine ⟨_, ?_, outcome_writes (a := (s.fn fn).arg 2) (by rwa [records_length]) hm _⟩
  rw [exec_auditread, execAuditread]
  exact command_runs h (firstStatus_next (Bool.eq_false_iff.2 (mt outOfHost_iff.1 hb)))

end Logs

/-! ## WINMAP (R35, R336) -/

section Winmap
variable {s : State} {fn c : Nat}

/-- What a tenant holds lies in device memory. -/
theorem inMemory_of_tenantAt {pa : Nat} (h : s.tenantAt pa = some c) : inMemory pa = true := by
  rw [inMemory]
  unfold State.tenantAt at h
  cases hr : region pa with
  | hbm => rfl
  | cxl p => rfl
  | _ => rw [hr] at h; cases h

theorem granuleExists_of_tenantAt {base : Nat} (hb : base % 0x20000000 = 0) (h : s.tenantAt base = some c) :
    granuleExists (base / 0x20000000) = true := by
  rw [granuleExists_eq, Nat.div_mul_cancel (Nat.dvd_of_mod_eq_zero hb)]
  exact inMemory_of_tenantAt h

/-- A granule of a tenant of the function may be shown in its window. -/
theorem mappable_iff {f : HostFn} {base : Nat} : s.mappable f base = true ↔
    base % 0x20000000 = 0 ∧ ∃ c, s.tenantAt base = some c ∧ c ∈ f.tenants := by
  rw [State.mappable, granuleSize, Bool.and_eq_true, Bool.and_eq_true, decide_eq_true_eq]
  constructor
  · rintro ⟨⟨hb, -⟩, ht⟩
    cases htenant : s.tenantAt base with
    | none => rw [htenant] at ht; cases ht
    | some c =>
      rw [htenant] at ht
      exact ⟨hb, c, rfl, List.contains_iff_mem.1 ht⟩
  · rintro ⟨hb, c, ht, hc⟩
    refine ⟨⟨hb, granuleExists_of_tenantAt hb ht⟩, ?_⟩
    rw [ht]
    exact List.contains_iff_mem.2 hc

theorem region_registers {pa : Nat} (h : 0xF000000000000 ≤ pa) : region pa = .registers := by
  unfold region
  rw [if_neg (by omega), if_neg (by omega), if_neg (by omega), if_neg (by omega), if_neg (by omega), if_neg (by omega), if_neg (by omega)]

theorem registers_le {pa : Nat} (h : region pa = .registers) : 0xF000000000000 ≤ pa := by
  by_contra hlt
  unfold region at h
  split_ifs at h
  all_goals omega

variable (h : s.Runs fn 0x13)
include h

theorem winmap_refused (hb : (s.fn fn).barSize / 0x20000000 ≤ ((s.fn fn).arg 0).toNat) :
    Completes (.winmap fn) s (fun t => s.EndsAs t fn { s.fn fn with outcome := some (0x11, []) }) := by
  refine refused_ends ?_
  rw [exec_winmap, execWinmap]
  exact command_refused h (if_pos (decide_eq_true hb))

variable (hb : ((s.fn fn).arg 0).toNat < (s.fn fn).barSize / 0x20000000)
include hb

theorem winmap_eq : exec (.winmap fn) s = .next (
    if (s.fn fn).arg 1 = 0xFFFFFFFFFFFFFFFF#64 then
      (s.modFn fn fun f => { f with winmap := fput f.winmap ((s.fn fn).arg 0).toNat none }).outcome fn 1 []
    else if s.mappable (s.fn fn) ((s.fn fn).arg 1).toNat = true then
      (s.modFn fn fun f => { f with winmap := fput f.winmap ((s.fn fn).arg 0).toNat (some ((s.fn fn).arg 1).toNat) }).outcome fn 1 []
    else if (region ((s.fn fn).arg 1).toNat = .registers && decide (((s.fn fn).arg 1).toNat < 2 ^ 52)) = true then
      (((s.audit 2 ((s.fn fn).tenants.headD 0xFF) 3 [(s.fn fn).arg 1]).notice 2 3 4 ((s.fn fn).arg 1).toNat).modFn fn fun f =>
        { f with aborted := true }).outcome fn 0x11 []
    else s.outcome fn 0x11 []) := by
  rw [exec_winmap, execWinmap]
  exact command_runs h (firstStatus_next (decide_eq_false (Nat.not_le.2 hb)))

theorem winmap_clears (hn : (s.fn fn).arg 1 = 0xFFFFFFFFFFFFFFFF#64) : Completes (.winmap fn) s (fun t => s.EndsAs t fn
    { s.fn fn with winmap := fput (s.fn fn).winmap ((s.fn fn).arg 0).toNat none, outcome := some (1, []) }) := by
  refine ⟨_, (winmap_eq h hb).trans (congrArg _ (if_pos hn)), outcome_modFn ..⟩

variable (hn : (s.fn fn).arg 1 ≠ 0xFFFFFFFFFFFFFFFF#64)
include hn

theorem winmap_maps (ha : ((s.fn fn).arg 1).toNat % 0x20000000 = 0) (ht : s.tenantAt ((s.fn fn).arg 1).toNat = some c)
    (hc : c ∈ (s.fn fn).tenants) : Completes (.winmap fn) s (fun t => s.EndsAs t fn
      { s.fn fn with winmap := fput (s.fn fn).winmap ((s.fn fn).arg 0).toNat (some ((s.fn fn).arg 1).toNat)
                     outcome := some (1, []) }) := by
  have heq := winmap_eq h hb
  rw [if_neg hn, if_pos (mappable_iff.2 ⟨ha, c, ht, hc⟩)] at heq
  exact ⟨_, heq, outcome_modFn ..⟩

theorem winmap_violates (hlo : 0xF000000000000 ≤ ((s.fn fn).arg 1).toNat) (hhi : ((s.fn fn).arg 1).toNat < 2 ^ 52) :
    Completes (.winmap fn) s (fun t => s.OnlyPlatform t ∧ s.Audits t 2 ((s.fn fn).tenants.headD 0xFF) 3 [(s.fn fn).arg 1] ∧
      s.Frames t fn { s.fn fn with aborted := true, outcome := some (0x11, []) }) := by
  have hregion := region_registers hlo
  have hnone : s.mappable (s.fn fn) ((s.fn fn).arg 1).toNat ≠ true := by
    rw [Ne, mappable_iff]
    rintro ⟨-, c, ht, -⟩
    simp [State.tenantAt, hregion] at ht
  have heq := winmap_eq h hb
  rw [if_neg hn, if_neg hnone, if_pos (by rw [hregion, decide_eq_true hhi]; rfl)] at heq
  let u := (s.audit 2 ((s.fn fn).tenants.headD 0xFF) 3 [(s.fn fn).arg 1]).notice 2 3 4 ((s.fn fn).arg 1).toNat
  have hu : s.OnlyPlatform u := onlyPlatform_of rfl
  obtain ⟨honly, hown, hothers, hctxs⟩ := outcome_modFn u fn 0x11 [] fun f => { f with aborted := true }
  exact ⟨_, heq, onlyPlatform_trans hu honly, audits_congr (audit_audits ..) rfl rfl rfl rfl rfl rfl rfl, hown, hothers, hctxs⟩

theorem winmap_foreign (hr : ((s.fn fn).arg 1).toNat < 0xF000000000000 ∨ 2 ^ 52 ≤ ((s.fn fn).arg 1).toNat)
    (hf : ((s.fn fn).arg 1).toNat % 0x20000000 ≠ 0 ∨
      ∀ c, s.tenantAt ((s.fn fn).arg 1).toNat = some c → c ∉ (s.fn fn).tenants) :
    Completes (.winmap fn) s (fun t => s.EndsAs t fn { s.fn fn with outcome := some (0x11, []) }) := by
  have hnone : s.mappable (s.fn fn) ((s.fn fn).arg 1).toNat ≠ true := by
    rw [Ne, mappable_iff]
    rintro ⟨ha, c, ht, hc⟩
    exact hf.elim (fun hna => hna ha) fun hno => hno c ht hc
  have hplain : ¬ (region ((s.fn fn).arg 1).toNat = .registers && decide (((s.fn fn).arg 1).toNat < 2 ^ 52)) = true := by
    rw [Bool.and_eq_true, decide_eq_true_eq, decide_eq_true_eq]
    rintro ⟨hregion, hlt⟩
    have hlo := registers_le hregion
    omega
  have heq := winmap_eq h hb
  rw [if_neg hn, if_neg hnone, if_neg hplain] at heq
  exact refused_ends heq

end Winmap

/-! ## The obligation -/

/-- The commands of this family, each with its code. -/
def familyCommands (fn : Nat) : List (Instr × Nat) :=
  [(.features fn, 1), (.accept fn, 2), (.depotlat fn, 6), (.ovlchk fn, 7), (.qreset fn, 8), (.collgrp fn, 9), (.peerset fn, 0x0A),
    (.bindq fn, 0x0B), (.measure fn, 0x0E), (.attest fn, 0x0F), (.auditread fn, 0x10), (.winmap fn, 0x13)]

/-- A command that does not run changes nothing. -/
theorem familyCommands_idle (s : State) (fn : Nat) : ∀ p, p ∈ familyCommands fn → ¬ s.Runs fn p.2 → exec p.1 s = .next s := by
  simp only [familyCommands, List.forall_mem_cons]
  refine ⟨fun h => ?_, fun h => ?_, fun h => ?_, fun h => ?_, fun h => ?_, fun h => ?_,
    fun h => ?_, fun h => ?_, fun h => ?_, fun h => ?_, fun h => ?_, fun h => ?_, List.forall_mem_nil _⟩
  · rw [exec_features, execFeatures]; exact command_idle h
  · rw [exec_accept, execAccept]; exact command_idle h
  · rw [exec_depotlat, execDepotlat]; exact command_idle h
  · rw [exec_ovlchk, execOvlchk]; exact command_idle h
  · rw [exec_qreset, execQreset]; exact command_idle h
  · rw [exec_collgrp, execCollgrp]; exact command_idle h
  · rw [exec_peerset, execPeerset]; exact command_idle h
  · rw [exec_bindq, execBindq]; exact command_idle h
  · rw [exec_measure, execMeasure]; exact command_idle h
  · rw [exec_attest, execAttest]; exact command_idle h
  · rw [exec_auditread, execAuditread]; exact command_idle h
  · rw [exec_winmap, execWinmap]; exact command_idle h

/-- Settles O49: each command by the checks it makes in their order, and by what it leaves where none of them fails. -/
theorem mailboxCommands : Obligations.MailboxCommands := by
  intro s fn c d n f arg runs frame refused ends writes foreign beyond lacks v e queue old members table records
  have lacking {bit : Nat} (h : lacks bit) : f.lacks bit = true := lacks_iff.2 h
  have accepted {bit : Nat} (h : ¬ lacks bit) : f.lacks bit = false := Bool.eq_false_iff.2 (mt lacks_iff.1 h)
  have held {i : Nat} (h : ¬ foreign i) : arg i ∈ f.tenants := not_not.1 h
  refine ⟨familyCommands_idle s fn, features_ends, accept_refused, accept_ends, depotlat_refused,
    fun h hb hm => depotlat_writes h hb hm c d, fun h hl => ovlchk_lacking h (lacking hl),
    fun h hl hf => ovlchk_foreign h (accepted hl) (foreign_iff.2 hf),
    fun h hl hf => ovlchk_ends h (accepted hl) (Bool.eq_false_iff.2 (mt foreign_iff.1 hf)), qreset_refused, qreset_ends, bindq_refused,
    fun h hq hf hl hl' hring => bindq_ends h hq (held hf) hl hl' hring, fun h hl => collgrp_lacking h (lacking hl),
    fun h hl hr => collgrp_refused h (accepted hl) hr, fun h hl hi hn hn' hb hm => collgrp_ends h (accepted hl) hi hn hn' hb hm,
    fun h hl => peerset_lacking h (lacking hl), fun h hl hd => peerset_refused h (accepted hl) hd,
    fun h hl hd hi => peerset_busy h (accepted hl) hd hi, fun h hl hd hi => peerset_ends h (accepted hl) hd hi, measure_refused,
    fun h hb hm => measure_writes h hb hm c, attest_refused, attest_writes, auditread_refused, auditread_writes,
    fun a _ => audit_bytes a, winmap_refused, fun h hb => ⟨winmap_clears h hb, winmap_maps h hb, winmap_violates h hb,
      winmap_foreign h hb⟩⟩

end Sys2Proof.Machine

/-! # Proofs: fences and ticket operations at issue (R73–R75, R77, R321) -/

namespace Sys2Proof.Machine

theorem exec_fenceC (c : CSlot) (mask : BitVec 16) (s : State) : exec (.fenceC c mask) s = execFenceC c mask s := rfl
theorem exec_acq (c : CSlot) (scope : BitVec 3) (s : State) : exec (.acq c scope) s = execAcq c scope s := rfl
theorem exec_rel (c : CSlot) (scope : BitVec 3) (s : State) : exec (.rel c scope) s = execRel c scope s := rfl
theorem exec_fenceS (c : CSlot) (scope : BitVec 3) (s : State) : exec (.fenceS c scope) s = execFenceS c scope s := rfl

/-! ## Fences (R73–R75) -/

/-- An item enters the load-store unit behind all others, and what is over leaves it. -/
theorem lsuAdd_retire_only (s : State) (f : Nat → LsuItem) :
    s.OnlyMe ((s.lsuAdd f).modMe Ctx.retire) ∧ ((s.lsuAdd f).modMe Ctx.retire).me =
      Ctx.retire { s.me with lsu := s.me.lsu ++ [f s.me.seq], seq := s.me.seq + 1 } :=
  ⟨onlyMe_trans (modMe_onlyMe _ _) (modMe_onlyMe _ _), by rw [State.me_modMe, State.lsuAdd, State.me_modMe]⟩

/-- A fence alone, with every access far done, has nothing to hold (R74). -/
theorem retire_fence_alone (x : Ctx) {i : LsuItem} (hl : x.lsu = [i]) (hf : x.far = []) (hi : ∀ a, i ≠ .access a) :
    x.retire.lsu = [] := by
  cases i with
  | access a => exact absurd rfl (hi a)
  | fenceC id m => simp [Ctx.retire, hl, hf, retireList]
  | acq id sc => simp [Ctx.retire, hl, hf, retireList]
  | rel id sc => simp [Ctx.retire, hl, hf, retireList, farHolds]

/-- What a fence's entry leaves. -/
theorem fence_added (s : State) (f : Nat → LsuItem) (hf : ∀ n a, f n ≠ .access a) :
    let t := (s.lsuAdd f).modMe Ctx.retire
    s.OnlyMe t ∧ t.me = Ctx.retire { s.me with lsu := s.me.lsu ++ [f s.me.seq], seq := s.me.seq + 1 } ∧
      (s.me.lsu = [] → s.me.far = [] → t.me.lsu = []) := by
  obtain ⟨ho, hm⟩ := lsuAdd_retire_only s f
  refine ⟨ho, hm, fun hl hfar => ?_⟩
  rw [hm]
  exact retire_fence_alone _ (i := f s.me.seq) (by simp [hl]) hfar (hf _)

theorem fenceC_enters (s : State) (c : CSlot) (mask : BitVec 16) :
    exec (.fenceC c mask) s = .next ((s.lsuAdd (.fenceC · mask)).modMe Ctx.retire) := by
  rw [exec_fenceC, execFenceC, staticGate_of_wellFormed rfl, gated_go]

theorem acq_enters (s : State) (c : CSlot) {scope : BitVec 3} (h : WellFormed.scopeOk scope = true) :
    exec (.acq c scope) s = .next ((s.lsuAdd (.acq · scope.toNat)).modMe Ctx.retire) := by
  rw [exec_acq, execAcq, staticGate_of_wellFormed (i := .acq c scope) h, gated_go]

theorem rel_enters {s : State} (c : CSlot) {scope : BitVec 3} (h : WellFormed.scopeOk scope = true) (ho : s.me.overlap = []) :
    exec (.rel c scope) s = .next ((s.lsuAdd (.rel · scope.toNat)).modMe Ctx.retire) := by
  rw [exec_rel, execRel, staticGate_of_wellFormed (i := .rel c scope) h, gated_go, atOrderingPoint_clear _ _ _ ho]

/-- The earlier accesses that a `fence.s` waits for, as its gate collects them. -/
theorem mem_accesses {x : Ctx} {a : Access} : a ∈ x.accesses ↔ .access a ∈ x.lsu := by
  simp only [Ctx.accesses, List.mem_filterMap]
  constructor
  · rintro ⟨i, hi, h⟩
    cases i <;> simp_all
  · exact fun h => ⟨_, h, rfl⟩

section FenceS
variable {s : State} {c : CSlot} {scope : BitVec 3}

/-- An access of an earlier bundle that has not performed. -/
def State.earlier (s : State) (a : Access) : Prop :=
  .access a ∈ s.me.lsu ∧ a.global = true ∧ s.fromThisBundle a = false

/-- What holds a `fence.s`, as its gate tests it (R74, R75). -/
theorem fenceS_holds_iff : ((!(s.me.accesses.filter fun a => a.global && !s.fromThisBundle a).isEmpty ||
      (decide (scope = 5#3) && !s.me.far.isEmpty)) = true) ↔
    (∃ a, s.earlier a) ∨ ¬ (scope = 5#3 → s.me.far = []) := by
  simp [State.earlier, mem_accesses, List.filter_eq_nil_iff]

theorem fenceS_waits (h : WellFormed.scopeOk scope = true) (hw : (∃ a, s.earlier a) ∨ ¬ (scope = 5#3 → s.me.far = [])) :
    exec (.fenceS c scope) s = .next (s.stall .fenceS) := by
  rw [exec_fenceS, execFenceS, static_and (show (Instr.fenceS c scope).wellFormed = true from h), fenceS_holds_iff.mpr hw,
    waitIf_true, gated_wait]

/-- A `fence.s` that nothing earlier holds: an access of its own bundle in C0 holds the next bundle instead. -/
theorem fenceS_passes (h : WellFormed.scopeOk scope = true) (ho : s.me.overlap = []) (hfar : scope = 5#3 → s.me.far = [])
    (ha : ∀ a, ¬ s.earlier a) : exec (.fenceS c scope) s = .next
      (if c = .c1 && s.me.accesses.any (fun a => a.slot = 4 && s.fromThisBundle a) then
        s.modMe fun x => { x with fenceWait := some x.seq, fenceFar := scope = 5#3 } else s) := by
  have hw := mt (fenceS_holds_iff (scope := scope)).mp (not_or.mpr ⟨not_exists.mpr ha, not_not.mpr hfar⟩)
  rw [exec_fenceS, execFenceS, static_and (show (Instr.fenceS c scope).wellFormed = true from h),
    (Bool.not_eq_true _).mp hw, waitIf_false, gated_go, atOrderingPoint_clear _ _ _ ho]

end FenceS

/-! ## An access that takes no tag (R88, R95, R304) -/

/-- An access as it stands in the load-store unit (R95). -/
def State.entered (s : State) (a : Access) (u : Mask) : Access :=
  { a with id := s.me.seq, deps := (s.me.dependence u).1, bound := max (s.me.dependence u).2 s.me.nearFloor
           dependent := u != 0#9, tag := none, issueTick := s.tick, issueCycle := s.cycle, bundle := s.me.pc }

theorem issueAccess_untagged (s : State) (a : Access) (u : Mask) (h : a.kind.tagged = false) :
    s.issueAccess a u = s.modMe fun c => { c with lsu := c.lsu ++ [.access (s.entered a u)], seq := c.seq + 1 } := by
  simp only [State.issueAccess, State.modMe, State.modCtx, State.entered, State.me, h]
  rfl

theorem issueAccess_me_untagged (s : State) (a : Access) (u : Mask) (h : a.kind.tagged = false) : (s.issueAccess a u).me =
    { s.me with lsu := s.me.lsu ++ [.access (s.entered a u)], seq := s.me.seq + 1 } := by
  rw [issueAccess_untagged s a u h, State.me_modMe]

theorem issueAccess_issues (s : State) (a : Access) (u : Mask) (h : a.kind.tagged = false) (ht : a.token = none)
    (hr : a.rcd = none) : s.Issues (s.issueAccess a (u ||| s.ctaint)) 8#4 u (s.entered a (u ||| s.ctaint)) := by
  rw [issueAccess_untagged s a _ h]
  refine ⟨modMe_onlyMe _ _, rfl, rfl, rfl, hr, ht, rfl, rfl, Nat.le_max_right .., ?_⟩
  rw [State.me_modMe]
  exact ⟨rfl, fun n => rfl, fun _ => ⟨rfl, rfl, rfl, rfl, rfl, rfl⟩, fun k => absurd (h.symm.trans k) (by decide)⟩

/-! ## A global access that nothing holds (R303) -/

theorem recordGate_off {s : State} (h : s.recording s.cur = false) (k : s.replaying s.cur = false) (b : Bool) :
    s.recordGate b = .go := by
  simp [State.recordGate, State.ringReady, h, k]

theorem tokenFault_free {s : State} {tk : BitVec 4} (h : tk.toNat < 8 → (fget {} s.me.tokens tk.toNat : Token).st ≠ 1) :
    s.tokenFault tk = none := by
  rw [State.tokenFault, Bool.and_eq_false_imp.mpr fun ht => decide_eq_false (h (by simpa [BitVec.ult] using ht))]
  rfl

/-- Outside record and replay, an access whose checks all pass enters the load-store unit without a record. -/
theorem globalForm_enters {i : Instr} {g : GAccess} {s : State} {pa : Nat} {nb : Bool} (hi : i.wellFormed = true)
    (hw : g.window = none) (hp : g.point = true → s.me.overlap = [])
    (h : s.MayIssue g.slot g.kind.tagged g.tk g.addr g.align g.need pa nb) :
    globalForm i g s = .next (s.enqueue g pa nb none) := by
  obtain ⟨hrec, hrep, hroom, hqueue, htk, halign, hcheck⟩ := h
  have hq : (g.kind.tagged && decide (32 ≤ (s.me.queue (feedsQ1 g.slot)).length)) = false := by
    rw [Bool.and_eq_false_imp]
    exact fun ht => decide_eq_false (Nat.not_le.mpr (hqueue ht))
  have hgate : s.accessGate i g.slot g.kind g.record.isSome = .go := by
    rw [State.accessGate, static_and hi, show decide (Config.accessLimit ≤ _) = false from decide_eq_false (Nat.not_le.mpr hroom),
      show (g.kind.tagged && decide (Config.queueEntries ≤ _)) = false from hq, recordGate_off hrec hrep]
    rfl
  have ha : alignFault g.addr g.align = none := by simp [alignFault, halign, faultIf]
  have hbody : ∀ k : State → State, (if g.point = true then s.atOrderingPoint g.slot k else k s) = k s := fun k => by
    split
    · next hpt => exact atOrderingPoint_clear _ _ _ (hp hpt)
    · rfl
  rw [globalForm, hgate, gated_go, hbody, hw, tokenFault_free htk, ha]
  simp only [firstFault, State.orFault, hcheck]
  cases g.record with
  | none => rfl
  | some r => exact congrArg _ (withRecord_off _ _ _ _ _ _ _ _ hrec hrep)

/-! ## Ticket operations (R77, R321) -/

/-- A ticket operation as it is checked (R321): a post and a freeing read the register r and come after a `rel`; the others
write it, and an `acq` follows them. -/
def State.ticketParts (s : State) (c : CSlot) (cls : BitVec 4) (op : Nat) (base r : BitVec 5) : GAccess :=
  let reads := op = 1 || op = 3
  let x := if reads then s.rd.sreg r else 0#64
  { slot := cslot c, cls := cls, addr := s.rd.sreg base, align := 64, need := { rd := true, wr := true, at' := true }
    kind := .ticket op x r.toNat, taint := s.rd.staint base ||| (if reads then s.rd.staint r else 0#9)
    acq := !reads, rel := reads, afterRel := reads, scope := 4
    record := some (if op = 2 then (6, 0, 0#64) else (5, if op = 3 then 2 else op, x)) }

/-- A ticket operation as it is handed to the load-store unit; `l` says that a `rel` stands before it. -/
def ticketAccess (c : CSlot) (cls : BitVec 4) (op : Nat) (value : Word) (r : BitVec 5) (va : Word) (pa : Nat) (nb l : Bool) :
    Access :=
  { id := 0, slot := cslot c, cls := cls.toNat, kind := .ticket op value r.toNat, va := va, pa := pa, nb := nb
    acq := !l, rel := l, scope := 4 }

section Ticket
variable {s : State} {i : Instr} {c : CSlot} {cls : BitVec 4} {op pa : Nat} {base r : BitVec 5} {nb : Bool}

/-- A ticket operation that may issue passes its checks; one that returns a slot number has its context wait for it. -/
theorem ticketForm_enters (hi : i.wellFormed = true)
    (h : s.MayIssue (cslot c) false 8#4 (s.rd.sreg base) 64 { rd := true, wr := true, at' := true } pa nb) :
    let t := s.enqueue (s.ticketParts c cls op base r) pa nb none
    ticketForm i c cls op base r s =
      if (!(decide (op = 1) || decide (op = 3)) && decide (t.me.seq = s.me.seq + 1)) = true then
        .next (t.modMe fun y => { y with ticketWait := y.ticketWait ++ [s.me.seq] })
      else .next t := by
  have e := globalForm_enters (g := s.ticketParts c cls op base r) hi rfl nofun h
  intro t
  unfold ticketForm
  change (match globalForm i (s.ticketParts c cls op base r) s with
    | .next t => _
    | r => r) = _
  rw [e]

/-- A reservation or a taking that may issue enters the load-store unit, and its context waits for the slot number. -/
theorem ticketForm_returns (hi : i.wellFormed = true) (ho : op = 0 ∨ op = 2)
    (h : s.MayIssue (cslot c) false 8#4 (s.rd.sreg base) 64 { rd := true, wr := true, at' := true } pa nb) :
    ticketForm i c cls op base r s =
      .next ((s.issueAccess (ticketAccess c cls op 0#64 r (s.rd.sreg base) pa nb false) (s.rd.staint base ||| s.ctaint)).modMe
        fun y => { y with ticketWait := s.me.ticketWait ++ [s.me.seq] }) := by
  have he : s.enqueue (s.ticketParts c cls op base r) pa nb none =
      s.issueAccess (ticketAccess c cls op 0#64 r (s.rd.sreg base) pa nb false) (s.rd.staint base ||| s.ctaint) := by
    rw [show s.rd.staint base = s.rd.staint base ||| 0#9 from BitVec.or_zero.symm]
    obtain rfl | rfl := ho <;> rfl
  rw [ticketForm_enters hi h, he, State.modMe_eq, State.modMe_eq, issueAccess_me_untagged _ _ _ rfl]
  obtain rfl | rfl := ho <;> exact if_pos (by simp)

/-- A post or a freeing that may issue enters the load-store unit behind a `rel` of the device's scope. -/
theorem ticketForm_posts (hi : i.wellFormed = true) (ho : op = 1 ∨ op = 3)
    (h : s.MayIssue (cslot c) false 8#4 (s.rd.sreg base) 64 { rd := true, wr := true, at' := true } pa nb) :
    ticketForm i c cls op base r s =
      .next ((s.lsuAdd fun n => .rel n 4).issueAccess (ticketAccess c cls op (s.rd.sreg r) r (s.rd.sreg base) pa nb true)
        ((s.rd.staint base ||| s.rd.staint r) ||| (s.lsuAdd fun n => .rel n 4).ctaint)) := by
  rw [ticketForm_enters hi h]
  obtain rfl | rfl := ho <;> rfl

end Ticket


/-- Settles O25: each fence by what its gate tests and what then leaves the load-store unit; each ticket operation by whether it
returns a slot number or comes after a `rel`. -/
theorem fenceAndTicketIssue : Obligations.FenceAndTicketIssue := by
  refine ⟨fun s c mask scope ho => ?_, fun s c cls base r pa nb => ?_⟩
  · intro added answered earlier
    refine ⟨?_, fun hs => ⟨?_, ?_, ?_, ?_, ?_⟩⟩
    · have h := fence_added s (.fenceC · mask) (by simp)
      exact ⟨_, fenceC_enters s c mask, h⟩
    · have h := fence_added s (.acq · scope.toNat) (by simp)
      exact ⟨_, acq_enters s c hs, h⟩
    · have h := fence_added s (.rel · scope.toNat) (by simp)
      exact ⟨_, rel_enters c hs ho, h⟩
    · exact fun hw => ⟨_, fenceS_waits hs hw, stall_stalls s .fenceS⟩
    · intro hfar hnone
      rw [fenceS_passes hs ho hfar fun a ha => hnone a ha.1]
      have hacc : s.me.accesses = [] := List.eq_nil_iff_forall_not_mem.mpr fun a ha => hnone a (mem_accesses.mp ha)
      rw [hacc, List.any_nil, Bool.and_false]
      rfl
    · intro hfar hnone
      refine ⟨_, fenceS_passes hs ho hfar hnone, ?_⟩
      split
      · exact ⟨modMe_onlyMe _ _, .inr (State.me_modMe ..)⟩
      · exact ⟨onlyMe_refl s, .inl rfl⟩
  · intro slot va released enters h
    have hpost : ∀ op, op = 1 ∨ op = 3 → ∀ i : Instr, i.wellFormed = true → exec i s = ticketForm i c cls op base r s →
        Completes i s (enters op (s.rd.sreg r) (s.rd.staint base ||| s.rd.staint r) false true) := by
      intro op ho i hi e
      refine ⟨_, e.trans (ticketForm_posts hi ho h), released.entered (ticketAccess c cls op (s.rd.sreg r) r va pa nb true)
        (s.rd.staint base ||| s.rd.staint r ||| released.ctaint), ?_, rfl, rfl, rfl, rfl, rfl, rfl, rfl, rfl⟩
      rw [if_pos rfl]
      exact issueAccess_issues released _ _ rfl rfl rfl
    have hreturn : ∀ op, op = 0 ∨ op = 2 → ∀ i : Instr, i.wellFormed = true → exec i s = ticketForm i c cls op base r s →
        Completes i s (fun t => ∃ u, enters op 0#64 (s.rd.staint base) true false u ∧
          t = u.modMe fun y => { y with ticketWait := s.me.ticketWait ++ [s.me.seq] }) := by
      intro op ho i hi e
      refine ⟨_, e.trans (ticketForm_returns hi ho h), s.issueAccess (ticketAccess c cls op 0#64 r va pa nb false)
        (s.rd.staint base ||| s.ctaint), ⟨s.entered (ticketAccess c cls op 0#64 r va pa nb false)
        (s.rd.staint base ||| s.ctaint), ?_, rfl, rfl, rfl, rfl, rfl, rfl, rfl, rfl⟩, rfl⟩
      rw [if_neg Bool.false_ne_true]
      exact issueAccess_issues s _ _ rfl rfl rfl
    exact ⟨hpost 1 (.inl rfl) _ rfl rfl, hpost 3 (.inr rfl) _ rfl rfl, hreturn 0 (.inl rfl) _ rfl rfl,
      hreturn 2 (.inr rfl) _ rfl rfl⟩

end Sys2Proof.Machine

/-! # Proofs: ticket operations and arrivals at their homes (R57, R59, R77, R147, R242, R300, R321) -/

namespace Sys2Proof.Machine

theorem exec_ticketOpPerforms (c id : Nat) (s : State) : exec (.ticketOpPerforms c id) s = execTicketOpPerforms c id s := rfl
theorem exec_barrierArrival (c id : Nat) (s : State) : exec (.barrierArrival c id) s = execBarrierArrival c id s := rfl

/-! ## The end of a ticket operation (R321) -/

/-- Of the contexts only c differs, and of it only its faults and its slot numbers that are still to be delivered. -/
def State.AsideTicket (s t : State) (c : Nat) : Prop := (∀ d, d ≠ c → t.ctx d = s.ctx d) ∧
  t.ctx c = { s.ctx c with doom := (t.ctx c).doom, ticketWait := (t.ctx c).ticketWait, ticketDone := (t.ctx c).ticketDone }

theorem performs_asideTicket {s u t : State} {c st : Nat} {a : Access} {q0 q1 : List QEntry} (h : s.Performs u c a st q0 q1)
    (k : u.AsideTicket t c) : s.Performs t c a st q0 q1 := by
  obtain ⟨hothers, hsame⟩ := k
  obtain ⟨hgone, hids, htoken, htokens, hq0, hq1, hr, hpc, hst, hpend, hbars, hman, hrest⟩ := h
  unfold State.Performs
  rw [hsame]
  exact ⟨hgone, hids, htoken, htokens, hq0, hq1, hr, hpc, hst, hpend, hbars, hman, fun d hd => (hothers d hd).trans (hrest d hd)⟩

/-- An access without a token has no token whose state could differ. -/
theorem performs_tokenless {s t : State} {c st st' : Nat} {a : Access} {q0 q1 : List QEntry} (ht : a.token = none)
    (h : s.Performs t c a st q0 q1) : s.Performs t c a st' q0 q1 := by
  obtain ⟨hgone, hids, -, hrest⟩ := h
  refine ⟨hgone, hids, fun n hn => ?_, hrest⟩
  rw [ht] at hn
  cases hn

section Over
variable {a : Access} (ht : a.token = none)
include ht

theorem finish_performs (s : State) (c : Nat) : s.Performs (s.finish c a) c a 2 (s.ctx c).q0 (s.ctx c).q1 := by
  have h := (over_performs s c a s.moment).1
  rwa [State.accessDone, ht] at h

omit ht in
/-- What an access's end leaves of its context beside its order and its timing. -/
theorem finish_ctx (s : State) (c : Nat) (a : Access) : (s.finish c a).ctx c =
    { ((s.ctx c).performed a s.tick) with seen := ((s.finish c a).ctx c).seen } := by
  rw [show (s.finish c a).ctx c = ((s.ctx c).performed a s.tick).saw a s.moment s.tick from State.ctx_modCtx_same .., saw_only]

omit ht in
theorem finish_access (s : State) (c : Nat) (a : Access) : ((s.finish c a).ctx c).access a.id = none := by
  have hids : idsOf ((s.finish c a).ctx c).lsu = (idsOf (s.ctx c).lsu).filter (· != a.id) := by
    rw [finish_ctx]
    exact (idsOf_retireList ..).trans (idsOf_dropAccess ..)
  rw [← Option.not_isSome_iff_eq_none, access_isSome, hids]
  simp

variable (hr : a.rcd = none)
include hr

/-- A ticket operation that has acted is over; one that returns a slot number has it on its way. -/
theorem ticketOver_performs (s : State) (c op dest : Nat) (v : Word) (r : Option Nat) : let t := s.ticketOver c a op dest v r
    s.Performs t c a 2 (s.ctx c).q0 (s.ctx c).q1 ∧ s.OnlyWork t ∧
      (t.ctx c).ticketDone = (s.ctx c).ticketDone ++ if op = 0 ∨ op = 2 then [(a.id, dest, slotWord r)] else [] := by
  have hdone : ((s.finish c a).ctx c).ticketDone = (s.ctx c).ticketDone := by rw [finish_ctx]; rfl
  unfold State.ticketOver
  dsimp only
  rw [takeOrder_none hr]
  by_cases ho : op = 0 ∨ op = 2
  · rw [if_pos (by simpa using ho), if_pos ho]
    refine ⟨performs_asideTicket (finish_performs ht s c) ⟨fun d hd => State.ctx_modCtx_ne _ _ _ _ hd, ?_⟩, rfl, ?_⟩
    · rw [State.ctx_modCtx_same]
    · rw [State.ctx_modCtx_same, hdone]
  · rw [if_neg (by simpa using ho), if_neg ho, List.append_nil]
    exact ⟨finish_performs ht s c, rfl, hdone⟩

end Over

/-! ## What a ticket operation makes of its descriptor (R147) -/

section Operate
variable {t : Ticket} {v : Word}

theorem reserve_empty (h : t.free = 0) : t.operate 0 v = (t, none) := if_pos h

theorem reserve_takes (h : t.free ≠ 0) :
    t.operate 0 v = ({ t with resv := t.resv + 1, free := t.free - 1 }, some (t.resv % 2 ^ t.lg)) := if_neg h

theorem post_again (h : t.committed (v.toNat % 2 ^ t.lg) = true) : t.operate 1 v = (t, some v.toNat) :=
  congrArg (·, _) (if_pos h)

theorem post_commits (h : t.committed (v.toNat % 2 ^ t.lg) = false) :
    t.operate 1 v = ({ t with commit := t.commit + 2 ^ (v.toNat % 2 ^ t.lg) }, some v.toNat) :=
  congrArg (·, _) (if_neg (by simp [h]))

theorem take_empty (h : t.committed (t.take % 2 ^ t.lg) = false) : t.operate 2 v = (t, none) := if_neg (by simp [h])

theorem take_takes (h : t.committed (t.take % 2 ^ t.lg) = true) : t.operate 2 v =
    ({ t with take := t.take + 1, commit := t.commit - 2 ^ (t.take % 2 ^ t.lg) }, some (t.take % 2 ^ t.lg)) := if_pos h

theorem length_ticketBytes (t : Ticket) : t.toBytes.length = 64 := by simp [Ticket.toBytes]

end Operate

/-! ## A ticket operation at its home (R77, R147, R321) -/

theorem ticket_unperformable {s : State} {c id : Nat} (h : s.performable c id = none) :
    exec (.atomicPerforms c id) s = .next s ∧ exec (.ticketOpPerforms c id) s = .next s := by
  rw [exec_atomicPerforms, exec_ticketOpPerforms, execAtomicPerforms, execTicketOpPerforms, h]
  exact ⟨rfl, rfl⟩

/-- A ticket operation is over, and its slot number, if it returns one, is on its way. -/
def State.TicketResult (s t : State) (c : Nat) (a : Access) (op dest : Nat) (w : Option Nat) : Prop :=
  s.Performs t c a 2 (s.ctx c).q0 (s.ctx c).q1 ∧
    (t.ctx c).ticketDone = (s.ctx c).ticketDone ++ if op = 0 ∨ op = 2 then [(a.id, dest, slotWord w)] else []

theorem ticketOver_result {s u : State} {c op dest : Nat} {a : Access} {w w' : Option Nat} (h : s.Aside u c) (ht : a.token = none)
    (hr : a.rcd = none) (hw : op = 0 ∨ op = 2 → w' = w) (v : Word) :
    s.TicketResult (u.ticketOver c a op dest v w') c a op dest w := by
  obtain ⟨hperf, -, hdone⟩ := ticketOver_performs ht hr u c op dest v w'
  rw [h.2] at hperf hdone
  refine ⟨performs_of_prepares (aside_prepares h) hperf, hdone.trans (congrArg _ ?_)⟩
  split
  · next ho => rw [hw ho]
  · rfl

/-- What a ticket operation does with the descriptor t that stands at its home: a malformed one is counted, a sound one
written where it changes. -/
def State.ticketAct (s : State) (c : Nat) (a : Access) (op dest : Nat) (v : Word) (t : Ticket) : State :=
  if t.malformed then
    (s.modQuarter (homeQuarter a.pa) fun q => { q with malformed := q.malformed + 1 }).ticketOver c a op dest v none
  else
    (if (t.operate op v).1 = t then s.markDirty (s.ctx c).launch a.va.toNat a.pa
      else (s.homeStore c a 0 (t.operate op v).1.toBytes).noteWrite (s.ctx c).tenant a.pa 64 c a.cls).ticketOver
        c a op dest v (t.operate op v).2

section Ticket
variable {s : State} {c id op dest : Nat} {v : Word} {a : Access} (h : s.performable c id = some a)
  (hk : a.kind = .ticket op v dest) (ht : a.token = none) (hr : a.rcd = none) (ho : s.accessOverlaps c a = false)

section Home
variable (he : s.homeError a.pa = none) (hu : s.unmixed c a = true)
include h hk ho he hu

/-- A ticket operation that does not fail acts on the descriptor as it stands. -/
theorem ticket_acts : exec (.ticketOpPerforms c id) s =
    .next ((s.leave c a).ticketAct c a op dest v (Ticket.ofBytes (mread s.mem a.pa 64))) := by
  have hb := leave_asideHome s c a
  have hread : (s.leave c a).homeRead c a 0 64 true = (mread s.mem a.pa 64, s.leave c a) := by
    rw [homeRead_unmixed ((asideHome_unmixed hb c a).trans hu) (by rw [Access.size, hk]) (fun _ => by rw [Access.writes, hk]),
      asideHome_mem hb]
    rfl
  rw [exec_ticketOpPerforms]
  unfold execTicketOpPerforms
  rw [h]
  dsimp only
  rw [hk]
  dsimp only
  rw [leave_accessOverlaps, ho, if_neg Bool.false_ne_true, asideHome_homeError hb, he, hread, State.ticketAct,
    apply_ite Host.Outcome.next]

include ht hr

/-- A malformed descriptor is counted and left as it is. -/
theorem ticket_malformed (hm : (Ticket.ofBytes (mread s.mem a.pa 64)).malformed = true) :
    Completes (.ticketOpPerforms c id) s (fun t => s.SameBytes t ∧ s.TicketResult t c a op dest none ∧
      (t.quarter (homeQuarter a.pa)).malformed = (s.quarter (homeQuarter a.pa)).malformed + 1) := by
  have hb := leave_asideHome s c a
  let u := (s.leave c a).modQuarter (homeQuarter a.pa) fun q => { q with malformed := q.malformed + 1 }
  have hwork := (ticketOver_performs ht hr u c op dest v none).2.1
  have haside : s.Aside u c := aside_of_ctxs (show (s.leave c a).ctxs = s.ctxs from asideHome_ctxs hb)
  refine ⟨_, (ticket_acts h hk ho he hu).trans (congrArg _ (if_pos hm)), ?_, ticketOver_result haside ht hr (fun _ => rfl) v, ?_⟩
  · exact sameBytes_trans (asideHome_sameBytes hb) (sameBytes_trans (t := u) (sameBytes_of rfl rfl rfl) (onlyWork_sameBytes hwork))
  · rw [show (u.ticketOver c a op dest v none).quarter (homeQuarter a.pa) = u.quarter (homeQuarter a.pa) by
      rw [State.quarter, hwork]; rfl, State.quarter_modQuarter_same, asideHome_quarter hb]

variable (hmem : s.memoriesOk = true)
include hmem

/-- What an operation on a sound descriptor leaves, by what `operate` makes of it. -/
theorem ticket_does {new : Ticket} {w w' : Option Nat} (hm : (Ticket.ofBytes (mread s.mem a.pa 64)).malformed = false)
    (hop : (Ticket.ofBytes (mread s.mem a.pa 64)).operate op v = (new, w')) (hw : op = 0 ∨ op = 2 → w' = w) :
    Completes (.ticketOpPerforms c id) s (fun t => s.TicketResult t c a op dest w ∧
      (new ≠ Ticket.ofBytes (mread s.mem a.pa 64) → s.Holds t a.pa new.toBytes) ∧
      (new = Ticket.ofBytes (mread s.mem a.pa 64) → s.SameBytes t)) := by
  have hb := leave_asideHome s c a
  have hacts := ticket_acts h hk ho he hu
  rw [State.ticketAct, if_neg (by simp [hm]), hop] at hacts
  have hleave : s.Aside (s.leave c a) c := aside_of_ctxs (asideHome_ctxs hb)
  have hbytes (u : State) : u.SameBytes (u.ticketOver c a op dest v w') :=
    onlyWork_sameBytes (ticketOver_performs ht hr u c op dest v w').2.1
  by_cases hn : new = Ticket.ofBytes (mread s.mem a.pa 64)
  · rw [if_pos hn] at hacts
    have hdirty : (s.leave c a).Aside ((s.leave c a).markDirty ((s.leave c a).ctx c).launch a.va.toNat a.pa) c :=
      aside_of_ctxs (by rw [markDirty_only])
    exact ⟨_, hacts, ticketOver_result (aside_trans hleave hdirty) ht hr hw v, fun hne => absurd hn hne, fun _ =>
      sameBytes_trans (asideHome_sameBytes hb) (sameBytes_trans (markDirty_sameBytes ..) (hbytes _))⟩
  · rw [if_neg hn] at hacts
    have hwrites := homeStore_writes (s := s.leave c a) (c := c) (off := 0) (b := new.toBytes)
      ((asideHome_unmixed hb c a).trans hu) (by rw [length_ticketBytes, Access.size, hk]) (by rw [Access.writes, hk])
      ((asideHome_memoriesOk hb).trans hmem) ((s.leave c a).ctx c).tenant a.pa 64 a.cls
    exact ⟨_, hacts, ticketOver_result (aside_trans hleave hwrites.aside) ht hr hw v,
      fun _ => asideHome_holds hb (holds_sameBytes hwrites.holds (hbytes _)), fun heq => absurd heq hn⟩

end Home

section Failed
variable {d : Nat} (he : s.homeError a.pa = some d)
include h hk ho he

theorem ticket_fails (returns : Bool) (hret : (decide (op = 0) || decide (op = 2)) = returns) :
    exec (.ticketOpPerforms c id) s = .next ((s.leave c a).ticketError c a returns d) := by
  rw [exec_ticketOpPerforms]
  unfold execTicketOpPerforms
  rw [h]
  dsimp only
  rw [hk]
  dsimp only
  rw [leave_accessOverlaps, ho, if_neg Bool.false_ne_true, asideHome_homeError (leave_asideHome s c a), he, hret]

include ht hr

/-- A reservation or a taking that fails at its home leaves its context a fault. -/
theorem ticket_faults (hret : op = 0 ∨ op = 2) : Completes (.ticketOpPerforms c id) s (fun t => s.SameBytes t ∧
    s.Performs t c a 2 (s.ctx c).q0 (s.ctx c).q1 ∧ (t.ctx c).doom = (s.ctx c).doom ++ [(0x14, d, a.slot, a.va)] ∧
      (t.ctx c).ticketWait = (s.ctx c).ticketWait.filter fun i => i != a.id) := by
  have hb := leave_asideHome s c a
  have hexec := ticket_fails h hk ho he true (by simpa using hret)
  let u := (s.leave c a).finish c a
  have hctx (n : Nat) : (u.tellUnbacked c a d).ctx n = u.ctx n := by rw [tellUnbacked_only]; rfl
  have hperf := finish_performs ht (s.leave c a) c
  have hfin := finish_ctx (s.leave c a) c a
  rw [State.ticketError, takeOrder_none hr, if_pos rfl] at hexec
  rw [asideHome_ctx hb] at hperf hfin
  refine ⟨_, hexec, ?_, ?_, ?_, ?_⟩
  · refine sameBytes_trans (asideHome_sameBytes hb) (sameBytes_trans (t := u) (modCtx_sameBytes ..) ?_)
    rw [tellUnbacked_only]
    exact sameBytes_of rfl rfl rfl
  · refine performs_asideTicket (performs_of_prepares (asideHome_prepares hb c) hperf) ⟨fun n hn => ?_, ?_⟩
    · rw [State.ctx_modCtx_ne _ _ _ _ hn, hctx]
    · rw [State.ctx_modCtx_same, hctx]
  · rw [State.ctx_modCtx_same, hctx, hfin]
    rfl
  · rw [State.ctx_modCtx_same, hctx, hfin]
    rfl

/-- A post or a freeing that fails at its home is discarded there. -/
theorem ticket_discards (hret : ¬ (op = 0 ∨ op = 2)) : Completes (.ticketOpPerforms c id) s (fun t => s.SameBytes t ∧
    s.Performs t c a 2 (s.ctx c).q0 (s.ctx c).q1 ∧
      (t.quarter (homeQuarter a.pa)).discards = (s.quarter (homeQuarter a.pa)).discards + 1) := by
  have hb := leave_asideHome s c a
  have hexec := ticket_fails h hk ho he false (by simpa using hret)
  obtain ⟨hperf, hsame, -, hcount⟩ := discard_performs (s.leave c a) c a d
  rw [State.ticketError, takeOrder_none hr, if_neg Bool.false_ne_true] at hexec
  rw [asideHome_ctx hb] at hperf
  exact ⟨_, hexec, sameBytes_trans (asideHome_sameBytes hb) hsame,
    performs_of_prepares (asideHome_prepares hb c) (performs_tokenless ht hperf), hcount.trans (by rw [asideHome_quarter hb])⟩

end Failed
end Ticket

/-! ## Arrivals (R242, R300) -/


/-- The barrier that one more arrival leaves, where each generation needs as many as its first arrival names. -/
def Barrier.arrived (b : Barrier) (need tick : Nat) : Barrier :=
  let total := if b.count = 0 then need else b.need
  if total ≤ b.count + 1 then { gen := b.gen + 1, count := 0, need := 0, stamp := tick }
  else { b with count := b.count + 1, need := total }

section Arrive
variable (s : State) (c key n need scope : Nat) (own : Bool)

/-- An arrival changes one barrier, and its context's record of it. -/
theorem arrive_only : let b : Barrier := fget {} s.ms.barriers key
    let t := s.arrive c key n need scope own
    t.ms.barriers = fput s.ms.barriers key (b.arrived need s.tick) ∧ (∀ d, d ≠ c → t.ctx d = s.ctx d) ∧
      (∃ r : BarRecord, t.ctx c = { s.ctx c with bars := fput (s.ctx c).bars n r } ∧
        (own = true → r.arrived = true ∧ r.gen = b.gen ∧ r.scope = scope) ∧
        (own = false → r.arrived = (fget {} (s.ctx c).bars n : BarRecord).arrived ∧
          r.gen = (fget {} (s.ctx c).bars n : BarRecord).gen)) ∧ s.SameBytes t := by
  refine ⟨?_, fun d hd => State.ctx_modCtx_ne _ _ _ _ hd, ⟨_, State.ctx_modCtx_same .., ?_, ?_⟩, sameBytes_of rfl rfl rfl⟩
  · simp only [State.arrive, Barrier.arrived, decide_eq_true_eq]
    rfl
  · rintro rfl
    exact ⟨rfl, rfl, rfl⟩
  · rintro rfl
    exact ⟨rfl, rfl⟩

end Arrive

section Arrival
variable {s : State} {c id n need scope : Nat} {a : Access}

theorem barrierArrival_arrives (h : (s.ctx c).access id = some a) (hk : a.kind = .arrive n need scope) (hr : a.rcd = none)
    (hmay : (s.ctx c).mayPerform a = true) : exec (.barrierArrival c id) s =
      .next ((s.arrive c (barrierKey (s.ctx c).launch (coreOf c) n) n need scope (a.slot != 3)).finish c a) := by
  rw [exec_barrierArrival]
  unfold execBarrierArrival
  dsimp only
  rw [h]
  dsimp only
  rw [hk]
  dsimp only
  rw [hmay, show arrivalTurn a _ = true by rw [arrivalTurn, hr], hr]
  rfl

/-- An arrival that may perform registers at its barrier, and its access is over. -/
theorem barrierArrival_completes (h : (s.ctx c).access id = some a) (hk : a.kind = .arrive n need scope) (hr : a.rcd = none)
    (hmay : (s.ctx c).mayPerform a = true) :
    let x := s.ctx c
    let key := barrierKey x.launch (coreOf c) n
    let b : Barrier := fget {} s.ms.barriers key
    Completes (.barrierArrival c id) s (fun t =>
      s.SameBytes t ∧ (t.ctx c).access id = none ∧ (t.ctx c).r = x.r ∧ (t.ctx c).pc = x.pc ∧
      (∀ d, d ≠ c → t.ctx d = s.ctx d) ∧
      (∀ k, k ≠ key → (fget {} t.ms.barriers k : Barrier) = fget {} s.ms.barriers k) ∧
      (fget {} t.ms.barriers key : Barrier) = b.arrived need s.tick ∧
      (a.slot ≠ 3 → (fget {} (t.ctx c).bars n : BarRecord).arrived = true ∧ (fget {} (t.ctx c).bars n : BarRecord).gen = b.gen ∧
        (fget {} (t.ctx c).bars n : BarRecord).scope = scope) ∧
      (a.slot = 3 → (fget {} (t.ctx c).bars n : BarRecord).arrived = (fget {} x.bars n : BarRecord).arrived ∧
        (fget {} (t.ctx c).bars n : BarRecord).gen = (fget {} x.bars n : BarRecord).gen)) := by
  intro x key b
  let u := s.arrive c key n need scope (a.slot != 3)
  obtain ⟨hbarriers, hothers, ⟨r, hctx, hown, hengine⟩, hsame⟩ := arrive_only s c key n need scope (a.slot != 3)
  have hfin := finish_ctx u c a
  have hms : (u.finish c a).ms.barriers = fput s.ms.barriers key (b.arrived need s.tick) := hbarriers
  have hbar : (fget {} ((u.finish c a).ctx c).bars n : BarRecord) = r := by
    rw [hfin, hctx]
    exact fget_fput_same ..
  refine ⟨_, barrierArrival_arrives h hk hr hmay, sameBytes_trans hsame (modCtx_sameBytes ..), ?_, ?_, ?_,
    fun d hd => (State.ctx_modCtx_ne _ _ _ _ hd).trans (hothers d hd), fun k hk => ?_, ?_, fun hslot => ?_, fun hslot => ?_⟩
  · rw [← access_id h]
    exact finish_access u c a
  · rw [hfin, hctx]
    rfl
  · rw [hfin, hctx]
    rfl
  · rw [hms, fget_fput_ne _ _ _ _ _ hk]
  · rw [hms, fget_fput_same]
  · rw [hbar]
    exact hown (by simpa using hslot)
  · rw [hbar]
    exact hengine (by simp [hslot])

end Arrival

/-! ## The obligation -/

/-- Settles O35: a ticket operation by whether its home answers, whether the descriptor is well formed, and what the operation makes
of it; an arrival by the barrier that it leaves. -/
theorem ticketsAndArrivalsPerform : Obligations.TicketsAndArrivalsPerform := by
  intro s c id op dest n need scope d v a x old returns result slots does
  refine ⟨fun h hk ht hr ho he hmem hu => ⟨fun hm => ticket_malformed h hk ht hr ho he hu hm, fun hm => ?sound⟩,
    fun h hk ht hr ho he => ⟨fun hret => ticket_faults h hk ht hr ho he hret, fun hret => ticket_discards h hk ht hr ho he hret⟩,
    ticket_unperformable, ?arrival⟩
  case sound =>
    refine ⟨?_, ?_, ?_, ?_, ?_, ?_, ?_⟩
    · rintro rfl hfree
      have hdoes := ticket_does h hk ht hr ho he hu hmem hm (reserve_empty hfree) fun _ => rfl
      exact hdoes
    · rintro rfl hfree
      have hdoes := ticket_does h hk ht hr ho he hu hmem hm (reserve_takes hfree) fun _ => rfl
      exact hdoes
    · rintro rfl hc
      have hdoes := ticket_does (w := none) h hk ht hr ho he hu hmem hm (post_again hc) (fun ho => by omega)
      exact hdoes
    · rintro rfl hc
      have hdoes := ticket_does (w := none) h hk ht hr ho he hu hmem hm (post_commits hc) (fun ho => by omega)
      exact hdoes
    · rintro rfl hc
      have hdoes := ticket_does h hk ht hr ho he hu hmem hm (take_empty hc) fun _ => rfl
      exact hdoes
    · rintro rfl hc
      have hdoes := ticket_does h hk ht hr ho he hu hmem hm (take_takes hc) fun _ => rfl
      exact hdoes
    · rintro rfl
      have hdoes := ticket_does (w := none) h hk ht hr ho he hu hmem hm rfl (fun ho => by omega)
      exact hdoes
  case arrival => exact fun h hk hr hmay => barrierArrival_completes h hk hr hmay

end Sys2Proof.Machine

/-! # Proofs: pre-emption, sealed images and their return, and migration off a frozen core (R37, R84, R140, R142, R144, R145, R175, R179, R182–R189, R330) -/

namespace Sys2Proof.Machine

theorem exec_preemption (quarter : Nat) (s : State) : exec (.preemption quarter) s = execPreemption quarter s := rfl
theorem exec_teamRestore (quarter : Nat) (s : State) : exec (.teamRestore quarter) s = execTeamRestore quarter s := rfl
theorem exec_checkpoint (c : Nat) (s : State) : exec (.checkpoint c) s = execCheckpoint c s := rfl
theorem exec_coreFreeze (core : Nat) (damage : Damage) (s : State) :
    exec (.coreFreeze core damage) s = execCoreFreeze core damage s := rfl
theorem exec_migrationComplete (core : Nat) (s : State) : exec (.migrationComplete core) s = execMigrationComplete core s := rfl

/-! ## The newcomers of a Quarter (R141, R144) -/

/-- What keeps one of its two arguments at each step chooses one of a list. -/
theorem foldl_chooses {f : Option Nat → Nat → Option Nat} (hnone : ∀ n, f none n = some n)
    (hsome : ∀ m n, f (some m) n = some m ∨ f (some m) n = some n) {l : List Nat} (hl : l ≠ []) :
    ∃ m, m ∈ l ∧ l.foldl f none = some m := by
  have hacc (l : List Nat) (a : Nat) : ∃ m, m ∈ a :: l ∧ l.foldl f (some a) = some m := by
    induction l generalizing a with
    | nil => exact ⟨a, List.mem_cons_self, rfl⟩
    | cons n l ih =>
      rw [List.foldl_cons]
      obtain h | h := hsome a n
      · obtain ⟨m, hm, hf⟩ := ih a
        refine ⟨m, ?_, by rw [h, hf]⟩
        obtain rfl | hm := List.mem_cons.mp hm
        · exact List.mem_cons_self
        · exact List.mem_cons_of_mem _ (List.mem_cons_of_mem _ hm)
      · obtain ⟨m, hm, hf⟩ := ih n
        exact ⟨m, List.mem_cons_of_mem _ hm, by rw [h, hf]⟩
  obtain ⟨a, l, rfl⟩ := List.exists_cons_of_ne_nil hl
  rw [List.foldl_cons, hnone]
  exact hacc l a

/-- A launch in a Quarter's queue has a team to install or resume there. -/
theorem nextIn_of_queued {s : State} {quarter n : Nat} (h : n ∈ s.queuedIn quarter) :
    ((s.launch n).nextIn quarter).isSome = true := by
  have hq := (List.mem_filter.mp h).2
  simp only [Bool.and_eq_true] at hq
  exact hq.2

/-- The earlier of a launch and the first of those before it. -/
def State.firstBefore (s : State) (acc : Option Nat) (n : Nat) : Option Nat :=
  match acc with
  | none => some n
  | some m => if s.launchBefore n m then some n else some m

theorem headOf_eq (s : State) (quarter : Nat) (l : List Nat) : s.headOf quarter l =
    (l.foldl s.firstBefore none).bind fun n => ((s.launch n).nextIn quarter).map fun t => (n, t) := rfl

/-- Some launches of a Quarter's queue have a head. -/
theorem headOf_isSome {s : State} {quarter : Nat} {l : List Nat} (hl : l ≠ []) (hq : ∀ n, n ∈ l → n ∈ s.queuedIn quarter) :
    (s.headOf quarter l).isSome = true := by
  have hsome (m n : Nat) : s.firstBefore (some m) n = some m ∨ s.firstBefore (some m) n = some n := (ite_eq_or_eq _ _ _).symm
  obtain ⟨n, hn, hf⟩ := foldl_chooses (fun _ => rfl) hsome hl
  have hnext := nextIn_of_queued (hq n hn)
  rw [headOf_eq, hf, Option.bind_some, Option.isSome_map]
  exact hnext

/-- A Quarter whose queue has no head has no newcomer in any class. -/
theorem classHeads_nil {s : State} {quarter : Nat} (h : s.queueHead quarter = none) : s.classHeads quarter = [] := by
  have hundrained : ((s.queuedIn quarter).filter fun n => !s.drainedIn n quarter) = [] := by
    by_contra hne
    unfold State.queueHead at h
    dsimp only at h
    split at h
    · next n hn =>
      have := headOf_isSome (quarter := quarter) (List.cons_ne_nil n [])
        (by simpa using List.mem_of_find?_eq_some hn)
      rw [h] at this
      cases this
    · have := headOf_isSome hne fun n hn => (List.mem_filter.mp hn).1
      rw [h] at this
      cases this
  unfold State.classHeads
  simp only [hundrained, h, List.filter_nil]
  rfl

/-- The head of each class is a newcomer of the Quarter. -/
theorem mem_classHeads {s : State} {quarter p n t : Nat} (hp : p < 4) (h : s.headOf quarter ((s.queuedIn quarter).filter fun m =>
    !s.drainedIn m quarter && (s.launch m).prio = p) = some (n, t)) : (n, t) ∈ s.classHeads quarter := by
  have hclass : p ∈ [3, 2, 1, 0] := by
    simp only [List.mem_cons, List.not_mem_nil, or_false]
    omega
  unfold State.classHeads
  dsimp only
  rw [List.mem_append, List.mem_filter, List.mem_filterMap]
  by_cases hhead : s.queueHead quarter = some (n, t)
  · exact .inl (by rw [hhead]; exact List.mem_singleton_self _)
  · refine .inr ⟨⟨p, hclass, ?_⟩, bne_iff_ne.mpr hhead⟩
    rw [List.filter_filter, ← h]
    refine congrArg (s.headOf quarter) (List.filter_congr fun m _ => Bool.and_comm ..)

/-! ## A Quarter's act on a victim (R37, R142, R144, R185) -/

section Preemption
variable {s : State} {quarter n t : Nat}

theorem preemption_none (h : s.queueHead quarter = none) : exec (.preemption quarter) s = .next s := by
  rw [exec_preemption, execPreemption, classHeads_nil h]
  rfl

theorem teamRestore_none (h : s.queueHead quarter = none) : exec (.teamRestore quarter) s = .next s := by
  rw [exec_teamRestore, execTeamRestore, h]

/-- The only newcomer of a Quarter has no place, and no context is on its way to being free. -/
def State.Blocked (s : State) (quarter n t : Nat) : Prop :=
  s.classHeads quarter = [(n, t)] ∧ s.freeing quarter = false ∧ s.headBlocked quarter n t = true

variable (h : s.Blocked quarter n t)
include h

theorem preemption_noVictim (hv : s.victim n (if s.urgentIn quarter n = true then 16 else (s.launch n).tokens) quarter = none) :
    exec (.preemption quarter) s = .next s := by
  obtain ⟨hc, hf, hb⟩ := h
  rw [exec_preemption, execPreemption, hc, List.foldl_cons, List.foldl_nil, State.preemptFor, hf, hb]
  simp only [Bool.not_true, Bool.or_self, Bool.false_eq_true, if_false, hv]

theorem preemption_acts {v : Nat} {a : Preempt}
    (hv : s.victim n (if s.urgentIn quarter n = true then 16 else (s.launch n).tokens) quarter = some v)
    (ha : s.actionOn v = some a) : exec (.preemption quarter) s = .next (s.preempt n v quarter a) := by
  obtain ⟨hc, hf, hb⟩ := h
  rw [exec_preemption, execPreemption, hc, List.foldl_cons, List.foldl_nil, State.preemptFor, hf, hb]
  simp only [Bool.not_true, Bool.or_self, Bool.false_eq_true, if_false, hv, ha]

end Preemption

theorem actionOn_drain {s : State} {v : Nat} (h : s.actionOn v = some .drain) : (s.launch v).estimate ≠ 0xFFFFFFFF := by
  intro he
  have hno : s.actionOn v = if s.canCheckpoint v then some .checkpoint else if (s.launch v).killable then some .kill else none := by
    simp [State.actionOn, he]
  rw [hno] at h
  split at h
  · cases h
  · split at h <;> cases h

theorem actionOn_kill {s : State} {v : Nat} (h : s.actionOn v = some .kill) :
    (s.launch v).killable = true ∧ s.canCheckpoint v = false := by
  unfold State.actionOn at h
  dsimp only at h
  split at h
  · cases h
  · split at h
    · cases h
    · next hc =>
      split at h
      · next hk => exact ⟨hk, Bool.eq_false_iff.mpr hc⟩
      · cases h

/-! ### Drains (R144) -/

theorem mem_addNewcomer {n m : Nat} {l : List Nat} : m ∈ addNewcomer n l ↔ m = n ∨ m ∈ l := by
  unfold addNewcomer
  split
  · next hc =>
    have hn : n ∈ l := List.contains_iff_mem.mp hc
    exact ⟨.inr, fun h => h.elim (fun h => h ▸ hn) id⟩
  · rw [List.mem_append, List.mem_singleton, or_comm]

section Drain
variable {s : State} {n v quarter : Nat}

theorem preempt_drain_waits (hr : s.schedsReady v quarter = false) : s.preempt n v quarter .drain = s := by
  refine if_pos ?_
  rw [hr]
  exact Bool.or_true _

/-- Contexts of launches that make no records make none of a drain (R122). -/
theorem foldl_sched_off (event : Nat) {l : List Nat} (h : ∀ e, e ∈ l → s.recording e = false) :
    l.foldl (fun s c => s.sched c event) s = s := by
  induction l with
  | nil => rfl
  | cons c l ih =>
    rw [List.foldl_cons, sched_off event (h c List.mem_cons_self)]
    exact ih fun e he => h e (List.mem_cons_of_mem _ he)

theorem drainFor_recording (quarters : List Nat) (e : Nat) : (s.drainFor v n quarters).recording e = s.recording e := by
  change ((s.drainFor v n quarters).launch (s.ctx e).launch).recording = (s.launch (s.ctx e).launch).recording
  generalize (s.ctx e).launch = m
  by_cases hm : m = v
  · subst hm
    rw [State.drainFor, State.launch_modLaunch_same]
  · rw [State.drainFor, State.launch_modLaunch_ne _ _ _ _ hm]

/-- A victim that is no co-resident launch is drained in one Quarter. -/
theorem preempt_drain_leaves (hr : s.schedsReady v quarter = true) (hoff : ∀ e, e ∈ (s.launch v).residents [quarter] → s.recording e = false)
    (hc : (s.launch v).cores = false) :
    let w := s.preempt n v quarter .drain
    w = { s with launches := w.launches } ∧
      ∀ m, m ∈ (fget [] (w.launch v).drained quarter : List Nat) ↔ m = n ∨ m ∈ (fget [] (s.launch v).drained quarter : List Nat) := by
  have hacted : (s.launch v).actedIn quarter = [quarter] := if_neg (by simp [hc])
  by_cases hin : n ∈ (fget [] (s.launch v).drained quarter : List Nat)
  · have hkeep : s.preempt n v quarter .drain = s := if_pos (by simp [hin])
    rw [hkeep]
    exact ⟨rfl, fun m => ⟨.inr, fun h => h.elim (fun h => h ▸ hin) id⟩⟩
  · have hdrain : s.preempt n v quarter .drain = s.drainFor v n [quarter] := by
      have hstep : s.preempt n v quarter .drain =
          ((s.launch v).residents ([quarter].filter fun q => !s.drainedIn v q)).foldl (fun s c => s.sched c 4)
            (s.drainFor v n [quarter]) := by
        rw [← hacted]
        exact if_neg (by simp [hin, hr])
      rw [hstep]
      refine foldl_sched_off 4 fun e he => ?_
      rw [drainFor_recording]
      cases hd : s.drainedIn v quarter with
      | false => exact hoff e (by simpa [hd] using he)
      | true => simp [hd, Launch.residents] at he
    have hset : fget [] ((s.drainFor v n [quarter]).launch v).drained quarter =
        addNewcomer n (fget [] (s.launch v).drained quarter : List Nat) := by
      rw [show (s.drainFor v n [quarter]).launch v = _ from State.launch_modLaunch_same ..]
      exact fget_fput_same ..
    rw [hdrain]
    exact ⟨rfl, fun m => by rw [hset]; exact mem_addNewcomer⟩

end Drain

/-! ### Checkpoints (R144, R184, R186) -/

/-- Only the launches change, each in what is drained and what was chosen for a checkpoint. -/
def State.OnlyChosen (s t : State) : Prop :=
  t = { s with launches := t.launches } ∧
    ∀ m, t.launch m = { s.launch m with drained := (t.launch m).drained, saving := (t.launch m).saving }

theorem onlyChosen_savable {s t : State} (h : s.OnlyChosen t) (c : Nat) : t.savable c = s.savable c := by
  obtain ⟨ht, hl⟩ := h
  have hx : t.ctx c = s.ctx c := by rw [ht]; rfl
  have hk : t.core (coreOf c) = s.core (coreOf c) := by rw [ht]; rfl
  have hpf : t.pf = s.pf := by rw [ht]
  have hckpt (m : Nat) : (t.launch m).ckpt = (s.launch m).ckpt := by rw [hl]
  have htenant (m : Nat) : (t.launch m).tenant = (s.launch m).tenant := by rw [hl]
  simp only [State.savable, State.canCheckpoint, State.canSeal, State.stranded, hx, hk, hpf, hckpt, htenant]

theorem drainFor_chooseSaved (s : State) (v n : Nat) (quarters : List Nat) :
    let t := (s.drainFor v n quarters).chooseSaved v quarters
    s.OnlyChosen t ∧ ∀ e, e ∈ (s.launch v).teams → e.2.st = .resident → (s.launch v).quarterOf e.1 ∈ quarters →
      e.1 ∈ (t.launch v).saving := by
  refine ⟨⟨rfl, fun m => ?_⟩, fun e he hst hq => ?_⟩
  · by_cases hm : m = v
    · subst hm
      rw [State.chooseSaved, State.launch_modLaunch_same, State.drainFor, State.launch_modLaunch_same]
    · rw [State.chooseSaved, State.launch_modLaunch_ne _ _ _ _ hm, State.drainFor, State.launch_modLaunch_ne _ _ _ _ hm]
  · rw [State.chooseSaved, State.launch_modLaunch_same, State.drainFor, State.launch_modLaunch_same]
    have hchosen : e.1 ∈ (((s.launch v).teams.filter fun e =>
        (e.2.st = .resident || e.2.st = .migrating) && quarters.contains ((s.launch v).quarterOf e.1)).map (·.1)) :=
      List.mem_map_of_mem (List.mem_filter.mpr ⟨he, by simp [hst, hq]⟩)
    rw [List.mem_append]
    by_cases hin : e.1 ∈ (s.launch v).saving
    · exact .inl hin
    · exact .inr (List.mem_filter.mpr ⟨hchosen, by simpa using hin⟩)

/-- A context whose checkpoint begins. -/
def Ctx.startedSave (x : Ctx) : Ctx :=
  { x with st := .saving, skip := if x.st = .held then x.skip ||| x.donemask else x.skip
           iss := { x.iss with cause := none, active := false } }

theorem dropWidth_width (s : State) (c : Nat) : ((s.dropWidth c).core (coreOf c)).width ≠ some c := by
  unfold State.dropWidth
  split
  · rw [State.core_modCore_same]
    simp
  · next h => exact h

theorem startSave_leaves (s : State) (c : Nat) :
    let t := s.startSave c
    t.ctx c = (s.ctx c).startedSave ∧ (∀ d, d ≠ c → t.ctx d = s.ctx d) ∧ (t.core (coreOf c)).width ≠ some c := by
  refine ⟨?_, fun d hd => ?_, dropWidth_width _ c⟩
  · rw [State.startSave, dropWidth_ctx, State.ctx_modCtx_same]
    rfl
  · rw [State.startSave, dropWidth_ctx, State.ctx_modCtx_ne _ _ _ _ hd]
    rfl

theorem saveGang_alone {s : State} {c : Nat} (hc : (s.ctx c).csize = 0) (hs : s.savable c = true) : s.saveGang c = s.startSave c := by
  have hgang : s.gangOf c = [c] := if_pos hc
  rw [State.saveGang, hgang]
  simp [hs]

section Checkpoint
variable {s : State} {n v quarter c : Nat} (hl : (s.launch v).residents ((s.launch v).actedIn quarter) = [c])
include hl

theorem preempt_checkpoint : s.preempt n v quarter .checkpoint =
    let t := (s.drainFor v n ((s.launch v).actedIn quarter)).chooseSaved v ((s.launch v).actedIn quarter)
    if s.savable c then t.saveGang c else t := by
  have hsav := onlyChosen_savable (drainFor_chooseSaved s v n ((s.launch v).actedIn quarter)).1 c
  unfold State.preempt
  dsimp only
  rw [hl, if_neg (by simp), List.foldl_cons, List.foldl_nil, hsav]

theorem preempt_checkpoint_starts (hs : s.savable c = true) (hc : (s.ctx c).csize = 0) :
    let w := s.preempt n v quarter .checkpoint
    w.ctx c = (s.ctx c).startedSave ∧ ∀ d, d ≠ c → w.ctx d = s.ctx d := by
  have hsav := onlyChosen_savable (drainFor_chooseSaved s v n ((s.launch v).actedIn quarter)).1 c
  rw [preempt_checkpoint hl, if_pos hs]
  generalize ht : (s.drainFor v n ((s.launch v).actedIn quarter)).chooseSaved v ((s.launch v).actedIn quarter) = t at hsav
  have hctx (d : Nat) : t.ctx d = s.ctx d := by rw [← ht]; rfl
  obtain ⟨hx, ho, -⟩ := startSave_leaves t c
  dsimp only
  rw [saveGang_alone (by rw [hctx, hc]) (hsav.trans hs)]
  exact ⟨by rw [hx, hctx], fun d hd => by rw [ho d hd, hctx]⟩

end Checkpoint

/-! ## A context chosen for a checkpoint (R140, R144, R184, R186) -/

theorem foldl_startSave (l : List Nat) (s : State) :
    let t := l.foldl State.startSave s
    (∀ e, e ∈ l → (t.ctx e).st = .saving ∧ (t.ctx e).r = (s.ctx e).r ∧ (t.ctx e).pc = (s.ctx e).pc) ∧
      ∀ e, e ∉ l → t.ctx e = s.ctx e := by
  induction l using List.reverseRecOn with
  | nil => exact ⟨fun e he => absurd he List.not_mem_nil, fun _ _ => rfl⟩
  | append_singleton l c ih =>
    obtain ⟨hin, hout⟩ := ih
    rw [List.foldl_append, List.foldl_cons, List.foldl_nil]
    obtain ⟨hc, ho, -⟩ := startSave_leaves (l.foldl State.startSave s) c
    refine ⟨fun e he => ?_, fun e he => ?_⟩
    · by_cases hec : e = c
      · subst hec
        rw [hc]
        by_cases hel : e ∈ l
        · obtain ⟨-, hr, hpc⟩ := hin e hel
          exact ⟨rfl, hr, hpc⟩
        · rw [hout e hel]
          exact ⟨rfl, rfl, rfl⟩
      · rw [ho e hec]
        exact hin e ((List.mem_append.mp he).resolve_right (by simpa using hec))
    · rw [List.mem_append, List.mem_singleton, not_or] at he
      rw [ho e he.2, hout e he.1]

section Chosen
variable {s : State} {c : Nat}

theorem checkpoint_refused (hst : (s.ctx c).st ≠ .saving) (hs : s.savable c = false) : exec (.checkpoint c) s = .next s := by
  rw [exec_checkpoint, execCheckpoint, if_neg hst, hs]
  rfl

variable (hst : (s.ctx c).st = .resident) (hs : s.savable c = true)
include hst hs

theorem checkpoint_starts : exec (.checkpoint c) s = .next (s.saveGang c) := by
  rw [exec_checkpoint, execCheckpoint, if_neg (by simp [hst]), if_pos hs]

theorem checkpoint_strandedMember (h : ∃ e, e ∈ s.gangOf c ∧ s.savable e = false ∧ (s.ctx e).st ≠ .saving ∧ (s.ctx e).st ≠ .releasing) :
    exec (.checkpoint c) s = .next s := by
  obtain ⟨e, he, hsav, hsaving, hreleasing⟩ := h
  have hall : ¬ ((s.gangOf c).all fun d => s.savable d || (s.ctx d).st = .saving || (s.ctx d).st = .releasing) = true := by
    intro hall
    have := List.all_eq_true.mp hall e he
    simp [hsav, hsaving, hreleasing] at this
  rw [checkpoint_starts hst hs, State.saveGang, if_neg hall]

theorem checkpoint_gang (h : ∀ e, e ∈ s.gangOf c → s.savable e = true) :
    exec (.checkpoint c) s = .next ((s.gangOf c).foldl State.startSave s) := by
  have hall : ((s.gangOf c).all fun d => s.savable d || (s.ctx d).st = .saving || (s.ctx d).st = .releasing) = true :=
    List.all_eq_true.mpr fun e he => by simp [h e he]
  rw [checkpoint_starts hst hs, State.saveGang, if_pos hall, List.filter_eq_self.mpr h]

end Chosen

/-! ## The image of a context (R37, R84, R175, R184, R187, R188) -/

theorem checkpoint_waits {s : State} {c : Nat} (hst : (s.ctx c).st = .saving) (hr : ((s.ctx c).reports.find? fun r => r.code = 4) = none)
    (h : s.quiet c = false ∨ s.fillsSettled c = false ∨ s.schedReady (s.ctx c).launch (quarterOf (coreOf c)) = false) :
    exec (.checkpoint c) s = .next s := by
  have hwait : (!(s.quiet c && s.fillsSettled c && s.schedReady (s.ctx c).launch (quarterOf (coreOf c)))) = true := by
    obtain h | h | h := h <;> simp [h]
  rw [exec_checkpoint, execCheckpoint, if_pos hst, State.finishSave, hr, if_pos hwait]

theorem schedReady_off {s : State} {n : Nat} (quarter : Nat) (h : (s.launch n).recording = false) : s.schedReady n quarter = true := by
  simp [State.schedReady, h]

theorem checkpoint_saves {s : State} {c : Nat} {key : BitVec 256} (hst : (s.ctx c).st = .saving)
    (hr : ((s.ctx c).reports.find? fun r => r.code = 4) = none) (hq : s.quiet c = true) (hf : s.fillsSettled c = true)
    (hoff : s.recording c = false) (hk : (fget {} s.pf.keys (s.ctx c).tenant : KeySlot).key = some key)
    (hseal : s.canSeal (s.ctx c).tenant = true) : exec (.checkpoint c) s = .next (s.saveTeam c key) := by
  have hready : (!(s.quiet c && s.fillsSettled c && s.schedReady (s.ctx c).launch (quarterOf (coreOf c)))) = false := by
    rw [hq, hf, schedReady_off _ hoff]
    rfl
  rw [exec_checkpoint, execCheckpoint, if_pos hst]
  simp only [State.finishSave, hr, hready, Bool.false_eq_true, if_false, hk, hseal, if_true]

/-- A write of an image's area changes memory and its poison. -/
theorem areaWrite_only (tenant : Nat) (l : List (Nat × Nat)) (s : State) (b : List Byte) :
    let t := s.areaWrite tenant l b
    t = { s with mem := t.mem, ms := t.ms } := by
  induction l generalizing s b with
  | nil => rfl
  | cons p l ih =>
    unfold State.areaWrite
    split
    · next e entry _ =>
      have hrest := ih ((s.markLeaf entry true).deviceWrite (e.pa p.1) (b.take p.2)) (b.drop p.2)
      dsimp only at hrest ⊢
      rw [hrest, deviceWrite_only]
      rfl
    · rfl

/-- The arrivals that a context takes away leave the rest of the machine. -/
theorem removeArrivals_only (s : State) (c : Nat) : s.removeArrivals c = { s with ms := (s.removeArrivals c).ms } := by
  unfold State.removeArrivals
  generalize s.carriedBars c = l
  induction l generalizing s with
  | nil => rfl
  | cons e l ih =>
    rw [List.foldl_cons, ih]
    split <;> rfl

theorem foldl_modDray_only (core : Nat) (f : Nat → Dray → Dray) (l : List Nat) (s : State) :
    let t := l.foldl (fun s d => s.modDray core d (f d)) s
    t = { s with cores := t.cores } := by
  induction l generalizing s with
  | nil => rfl
  | cons d l ih =>
    have hrest := ih (s.modDray core d (f d))
    dsimp only at hrest ⊢
    rw [List.foldl_cons, hrest]
    rfl

/-- A context that leaves its core: what was pending in it goes, and nothing of another context, of a launch or of the platform
changes. -/
theorem depart_leaves (s : State) (c : Nat) :
    let t := s.depart c
    t.ctx c = (s.ctx c).leaving ∧ (∀ d, d ≠ c → t.ctx d = s.ctx d) ∧ (∀ m, t.launch m = s.launch m) ∧ t.pf = s.pf := by
  let gone (y : Option DrayCmd) : Option DrayCmd := y.filter fun y => y.owner != c
  let emptied (_ : Nat) (x : Dray) : Dray := match gone x.running, gone x.shadow with
    | none, y => { x with running := y, shadow := none }
    | r, y => { x with running := r, shadow := y }
  let u := [0, 1].foldl (fun s d => s.modDray (coreOf c) d (emptied d)) ((s.removeArrivals c).dropMatrix c)
  have hu : u = { s with ms := u.ms, cores := u.cores } := by
    rw [show u = { (s.removeArrivals c).dropMatrix c with cores := u.cores } from foldl_modDray_only ..,
      (dropMatrix_leaves (s.removeArrivals c) c).1, removeArrivals_only]
  obtain ⟨hc, ho, hl, -⟩ := leave_leaves u c
  have hdef : s.depart c = (u.modCtx c Ctx.leaving).dropWidth c := rfl
  rw [hdef]
  refine ⟨hc.trans ?_, fun d hd => (ho d hd).trans ?_, fun m => (hl m).trans ?_, (dropWidth_pf ..).trans ?_⟩
  · rw [hu]; rfl
  · rw [hu]; rfl
  · rw [hu]; rfl
  · change u.pf = s.pf
    rw [hu]

/-- The image of a context, with the table of its sections. -/
def State.tabled (s : State) (c : Nat) (key : BitVec 256) : Image := { s.capture c key [] with sections := (s.capture c key []).table }

/-- A tenant's key slot once its key has sealed one more image. -/
def State.sealing (s : State) (tenant : Nat) (key : BitVec 256) : State :=
  s.modPf fun p => { p with keys := fput p.keys tenant { key := some key, counter := (fget {} s.pf.keys tenant : KeySlot).counter + 1 } }

/-- The bytes of a context's image. -/
def State.sealedBytes (s : State) (c : Nat) (key : BitVec 256) : List Byte :=
  let t := s.sealing (s.ctx c).tenant key
  t.imageBytes (t.tabled c key) key ((fget {} s.pf.keys (s.ctx c).tenant : KeySlot).counter + 1) (s.launch (s.ctx c).launch).object

/-- A context's image stands in its area and in the platform's list, and its team is saved. -/
def State.written (s : State) (c : Nat) (key : BitVec 256) (bytes : List Byte) : State :=
  let x := s.ctx c
  let t := s.sealing x.tenant key
  (((t.areaWrite x.tenant (pagePieces 66 ((s.launch x.launch).imageAt x.team) bytes.length) bytes).modPf fun p =>
    { p with images := p.images ++ [{ t.tabled c key with bytes := bytes }] }).modTeam x.launch x.team fun y =>
      { y with st := .saved, counter := (fget {} s.pf.keys x.tenant : KeySlot).counter + 1, mstall := x.man.mstall })

/-- The area of a context's image takes it. -/
theorem saveTeam_eq {s : State} {c : Nat} {key : BitVec 256} (hoff : s.recording c = false)
    (ha : (s.sealing (s.ctx c).tenant key).areaFault (s.ctx c).tenant
      (pagePieces 66 ((s.launch (s.ctx c).launch).imageAt (s.ctx c).team) (s.sealedBytes c key).length) = none) :
    s.saveTeam c key = (s.written c key (s.sealedBytes c key)).depart c := by
  -- Lean's kernel computes the length of the image when it unfolds `saveTeam` in place: unfold it alone, and keep its `let`s.
  obtain ⟨save, hsave⟩ : ∃ save, save = State.saveTeam := ⟨_, rfl⟩
  rw [← hsave]
  delta State.saveTeam at hsave
  subst hsave
  beta_reduce
  rw [sched_off 2 hoff]
  extract_lets -lift +onlyGivenNames u x l counter v im im' bytes pieces
  have hpieces : v.areaFault x.tenant pieces = none := ha
  rw [hpieces]
  rfl

theorem length_imageHeader (x : Ctx) (lease : Bool) (counter length : Nat) (object : Word) :
    (imageHeader x lease counter length object).length = 64 := rfl

/-- The header of an image's bytes, with their length (R187). -/
theorem imageBytes_header (s : State) (im : Image) (key : BitVec 256) (counter : Nat) (object : Word) :
    let bytes := s.imageBytes im key counter object
    bytes.take 64 = imageHeader im.ctx im.lease counter bytes.length object := by
  have hlen : (s.imageBytes im key counter object).length = 80 + (plainSections s.pf.images.length im.sections).length := by
    simp only [State.imageBytes, List.length_append, length_imageHeader, List.length_map, List.length_zipIdx, List.length_range]
    omega
  dsimp only
  rw [hlen]
  unfold State.imageBytes
  dsimp only
  rw [List.append_assoc]
  exact List.take_left' (length_imageHeader ..)

/-- What the saving of a context leaves. -/
theorem written_leaves (s : State) (c : Nat) (key : BitVec 256) (bytes : List Byte) :
    let t := s.written c key bytes
    let counter := (fget {} s.pf.keys (s.ctx c).tenant : KeySlot).counter + 1
    (∀ d, t.ctx d = s.ctx d) ∧ ((t.launch (s.ctx c).launch).team (s.ctx c).team).st = .saved ∧
      ((t.launch (s.ctx c).launch).team (s.ctx c).team).counter = counter ∧
      (fget {} t.pf.keys (s.ctx c).tenant : KeySlot) = { key := some key, counter := counter } ∧
      { (s.sealing (s.ctx c).tenant key).tabled c key with bytes := bytes } ∈ t.pf.images := by
  let x := s.ctx c
  let l := pagePieces 66 ((s.launch x.launch).imageAt x.team) bytes.length
  have hw : ((s.sealing x.tenant key).areaWrite x.tenant l bytes) = { s.sealing x.tenant key with
      mem := ((s.sealing x.tenant key).areaWrite x.tenant l bytes).mem, ms := ((s.sealing x.tenant key).areaWrite x.tenant l bytes).ms } :=
    areaWrite_only ..
  have hteam := team_modTeam_same (((s.sealing x.tenant key).areaWrite x.tenant l bytes).modPf fun p =>
    { p with images := p.images ++ [{ (s.sealing x.tenant key).tabled c key with bytes := bytes }] }) x.launch x.team fun y =>
      { y with st := .saved, counter := (fget {} s.pf.keys x.tenant : KeySlot).counter + 1, mstall := x.man.mstall }
  refine ⟨fun d => ?_, congrArg Team.st hteam, congrArg Team.counter hteam, ?_, List.mem_append_right _ (List.mem_singleton_self _)⟩
  · change ((s.sealing x.tenant key).areaWrite x.tenant l bytes).ctx d = _
    rw [hw]
    rfl
  · change (fget {} ((s.sealing x.tenant key).areaWrite x.tenant l bytes).pf.keys x.tenant : KeySlot) = _
    rw [hw]
    exact fget_fput_same ..

/-! ### The table of an image's sections (R188) -/

theorem mem_table {im : Image} {e : Nat × Nat} (h : e ∈ im.table) : (1 ≤ e.1 ∧ e.1 ≤ 17) ∧ (e.1 = 17 → im.lease = true) := by
  obtain ⟨n, hn, rfl⟩ := List.mem_map.mp h
  obtain hn | hn := List.mem_append.mp hn
  · obtain ⟨i, hi, rfl⟩ := List.mem_map.mp hn
    have := List.mem_range.mp hi
    exact ⟨⟨by simp, by dsimp only; omega⟩, fun h => by dsimp only at h; omega⟩
  · split at hn
    · next hl =>
      cases List.mem_singleton.mp hn
      exact ⟨⟨by simp, by simp⟩, fun _ => hl⟩
    · cases hn

theorem table_ascends (im : Image) : im.table.Pairwise fun a b => a.1 < b.1 := by
  refine List.pairwise_map.mpr ?_
  dsimp only
  cases im.lease
  · decide
  · decide

/-! ## The return of a saved team (R140, R145, R189) -/

section Restore
variable {s : State} {quarter n t : Nat} (h : s.queueHead quarter = some (n, t))
include h

theorem teamRestore_waits (hw : s.unitLeaving n t = true ∨ s.schedReady n quarter = false) :
    exec (.teamRestore quarter) s = .next s := by
  have hwait : (((s.launch n).team t).st != .saved || s.unitLeaving n t || !s.schedReady n quarter) = true := by
    obtain hw | hw := hw <;> simp [hw]
  rw [exec_teamRestore, execTeamRestore, h]
  exact if_pos hwait

variable (hst : ((s.launch n).team t).st = .saved) (hl : s.unitLeaving n t = false) (hr : s.schedReady n quarter = true)
include hst hl hr

/-- An image that does not open ends its team. -/
theorem teamRestore_unopened {o : Opened} (ho : ∀ im, o ≠ .ok im) (hu : s.savedUnit n t = [(t, o)]) :
    exec (.teamRestore quarter) s = .next (s.unrestored n t o) := by
  have hgo : (((s.launch n).team t).st != .saved || s.unitLeaving n t || !s.schedReady n quarter) = false := by
    simp [hst, hl, hr]
  simp only [exec_teamRestore, execTeamRestore, h, hgo, Bool.false_eq_true, if_false, hu]
  cases o with
  | ok im => exact absurd rfl (ho im)
  | nokey => rfl
  | bad d => rfl

theorem teamRestore_opened {im : Image} (hu : s.savedUnit n t = [(t, .ok im)]) :
    exec (.teamRestore quarter) s = .next (((s.restoreUnit quarter n t [(t, im)]).getD s).endDrains n) := by
  have hgo : (((s.launch n).team t).st != .saved || s.unitLeaving n t || !s.schedReady n quarter) = false := by
    simp [hst, hl, hr]
  simp only [exec_teamRestore, execTeamRestore, h, hgo, Bool.false_eq_true, if_false, hu]
  rfl

end Restore

/-- A team whose image does not open ends with the cause, and no context is written. -/
theorem teamOver_keeps (s : State) (n t : Nat) (cause : Cause) (fault faddr : Word) :
    let u := s.teamOver n t cause fault faddr
    (∀ e, u.ctx e = s.ctx e) ∧ ((u.launch n).team t).st = endState cause ∧ ((u.launch n).team t).cause = cause ∧
      ((u.launch n).team t).fault = fault := by
  obtain ⟨honly, hteam, -, -⟩ := teamOver_leaves s n t cause fault faddr
  refine ⟨fun e => by rw [honly]; rfl, ?_, ?_, ?_⟩
  all_goals rw [hteam]

/-! ### Scratchpad bytes of an image -/

/-- Bytes put one by one, in ascending order, stand as the list has them where nothing stood. -/
theorem mget_foldl_mput {l : Memory} {lo : Nat} (hl : wfFrom lo l = true) {m : Memory} (hm : Memory.wf m = true) (a : Nat) :
    (a < lo → mget (l.foldl (fun m e => mput m e.1 e.2) m) a = mget m a) ∧
      (mget m a = unlisted → mget (l.foldl (fun m e => mput m e.1 e.2) m) a = mget l a) := by
  induction l generalizing lo m with
  | nil => exact ⟨fun _ => rfl, id⟩
  | cons e l ih =>
    obtain ⟨x, v⟩ := e
    simp only [wfFrom, Bool.and_eq_true, decide_eq_true_eq] at hl
    obtain ⟨⟨hlo, -⟩, hrest⟩ := hl
    obtain ⟨hbelow, habove⟩ := ih hrest (wf_mput m x v hm)
    have hput := mget_mput m x a v hm
    rw [List.foldl_cons]
    refine ⟨fun ha => ?_, fun hnone => ?_⟩
    · rw [hbelow (by omega), hput, if_neg (by omega)]
    · by_cases hx : x = a
      · subst hx
        rw [hbelow (by omega), hput, if_pos rfl, mget, if_pos rfl]
      · rw [mget, if_neg hx]
        exact habove (hput.trans ((if_neg (fun h => hx h.symm)).trans hnone))

theorem wf_foldl_mclear (l : List Nat) {m : Memory} (hm : Memory.wf m = true) :
    Memory.wf (l.foldl (fun m b => mclear m (0x10000 * b) 0x10000) m) = true := by
  induction l generalizing m with
  | nil => exact hm
  | cons b l ih => exact ih (wf_mclear m _ _ hm)

/-- A byte of a bank among those that are cleared is zero. -/
theorem mget_foldl_mclear {l : List Nat} {m : Memory} {a : Nat} (h : mget m a = 0#8 ∨ ∃ b, b ∈ l ∧ 0x10000 * b ≤ a ∧ a < 0x10000 * (b + 1)) :
    mget (l.foldl (fun m b => mclear m (0x10000 * b) 0x10000) m) a = 0#8 := by
  induction l generalizing m with
  | nil => exact h.resolve_right fun ⟨_, hb, _⟩ => absurd hb List.not_mem_nil
  | cons b l ih =>
    refine ih ?_
    rw [mget_mclear]
    obtain h | ⟨d, hd, hlo, hhi⟩ := h
    · exact .inl (by rw [h, ite_self])
    · obtain rfl | hd := List.mem_cons.mp hd
      · exact .inl (if_pos ⟨hlo, by omega⟩)
      · exact .inr ⟨d, hd, hlo, hhi⟩

/-- The keys of a list are taken out of a table. -/
theorem fget_foldl_fdel {β : Type} (d : β) (l : List Nat) (m : FMap β) (k : Nat) :
    fget d (l.foldl (fun m b => fdel m b) m) k = if k ∈ l then d else fget d m k := by
  induction l generalizing m with
  | nil => rfl
  | cons b l ih =>
    rw [List.foldl_cons, ih, fget_fdel]
    by_cases hl : k ∈ l <;> by_cases hb : k = b <;> simp [hl, hb]

/-! ### The context and the core of a restored team (R141, R170, R189) -/

/-- A core once an image's partitions, its banks and their bytes stand in it. -/
def CoreState.takeImage (k : CoreState) (im : Image) (c rows entries : Nat) : CoreState :=
  let banks := banksOf im.banks
  { k with
    bankOwner := banks.foldl (fun o b => fput o b (c + 1)) k.bankOwner
    bankZero := banks.foldl (fun o b => fdel o b) k.bankZero
    scratch := im.scratch.foldl (fun m (e : Nat × Byte) => mput m e.1 e.2) (banks.foldl (fun m b => mclear m (0x10000 * b) 0x10000) k.scratch)
    spPoison := im.spPoison ++ k.spPoison.filter fun u => !im.banks.getLsbD (bankOf (16 * u))
    acc := im.acc.foldl (fun m (e : Nat × BitVec 4096) => fput m (rows + e.1) e.2) k.acc
    accPoison := im.accPoison.map (· + rows) ++ k.accPoison
    cwt := im.words.foldl (fun m (e : Nat × BitVec 256) => fput m (entries + e.1) e.2) k.cwt }

theorem takeEngine_keeps (k : CoreState) (im : Image) (c rows cycle lead : Nat) :
    let w := k.takeEngine im c rows cycle lead
    w.bankOwner = k.bankOwner ∧ w.bankZero = k.bankZero ∧ w.scratch = k.scratch := by
  unfold CoreState.takeEngine
  dsimp only
  split <;> exact ⟨rfl, rfl, rfl⟩

/-- A bank of an image is its context's, is not zeroed, and holds the image's bytes. -/
theorem takeImage_bank {k : CoreState} {im : Image} (hk : Memory.wf k.scratch = true) (him : Memory.wf im.scratch = true)
    (c rows entries : Nat) {b : Nat} (hb : b < 48) (hbank : im.banks.getLsbD b = true) :
    let w := k.takeImage im c rows entries
    fget 0 w.bankOwner b = c + 1 ∧ fget 0 w.bankZero b = 0 ∧
      ∀ a, 0x10000 * b ≤ a → a < 0x10000 * (b + 1) → mget w.scratch a = mget im.scratch a := by
  have hmem : b ∈ banksOf im.banks := (mem_banksOf _ b).mpr ⟨hb, hbank⟩
  refine ⟨(fget_foldl_fput ..).trans (if_pos hmem), (fget_foldl_fdel ..).trans (if_pos hmem), fun a hlo hhi => ?_⟩
  exact (mget_foldl_mput him (wf_foldl_mclear _ hk) a).2 (mget_foldl_mclear (.inr ⟨b, hmem, hlo, hhi⟩))

section Place
variable {s : State} {n t c lead : Nat} {im : Image} (hbars : im.ctx.bars = []) (hdrays : im.drays = [])

/-- The context of a restored team that carries no barrier record. -/
def State.restoredCtx (s : State) (n t c : Nat) (im : Image) : Ctx :=
  im.restored n t (s.launch n).tenant s.cycle ((s.rowBase (coreOf c) im.rows).getD 0) ((s.entryBase (coreOf c) im.entries).getD 0) []

/-- An image with no barrier record and no dray command stands in a context, before the record of its return. -/
def State.placed (s : State) (n t c lead : Nat) (im : Image) : State :=
  let rows := (s.rowBase (coreOf c) im.rows).getD 0
  let entries := (s.entryBase (coreOf c) im.entries).getD 0
  (((s.setCtx c (s.restoredCtx n t c im)).modCore (coreOf c) fun k =>
    (k.takeImage im c rows entries).takeEngine im c rows s.cycle (coreOf lead))).modTeam n t fun x =>
      { x with st := .resident, ctx := c, urgent := false }

include hbars hdrays in
theorem place_eq : s.place n t im c lead = (s.placed n t c lead im).sched c 3 := by
  unfold State.place State.settledBars
  rw [hbars, hdrays]
  rfl

theorem placed_leaves : let u := s.placed n t c lead im
    u.ctx c = s.restoredCtx n t c im ∧ (∀ e, e ≠ c → u.ctx e = s.ctx e) ∧
      (u.launch n).team t = { (s.launch n).team t with st := .resident, ctx := c, urgent := false } ∧
      (u.launch n).recording = (s.launch n).recording ∧ u.cycle = s.cycle ∧
      u.core (coreOf c) = ((s.core (coreOf c)).takeImage im c ((s.rowBase (coreOf c) im.rows).getD 0)
        ((s.entryBase (coreOf c) im.entries).getD 0)).takeEngine im c ((s.rowBase (coreOf c) im.rows).getD 0) s.cycle (coreOf lead) := by
  refine ⟨State.ctx_setCtx_same .., fun e he => State.ctx_setCtx_ne _ _ _ _ he, team_modTeam_same .., ?_, rfl, ?_⟩
  · rw [State.placed, State.modTeam, State.launch_modLaunch_same]
    rfl
  · rw [State.placed, State.modTeam, State.modLaunch_core, State.core_modCore_same]
    rfl

include hbars hdrays in
theorem place_quiet (hr : (s.launch n).recording = false) : s.place n t im c lead = s.placed n t c lead im := by
  obtain ⟨hc, -, -, hrec, -, -⟩ := placed_leaves (s := s) (n := n) (t := t) (c := c) (lead := lead) (im := im)
  have hoff : (s.placed n t c lead im).recording c = false := by
    rw [State.recording, hc]
    exact hrec.trans hr
  rw [place_eq hbars hdrays, sched_off 3 hoff]

/-- A granted bank of a placed image. -/
theorem placed_bank (hm : s.memoriesOk = true) (him : Memory.wf im.scratch = true) {b : Nat} (hb : b < 48)
    (hbank : im.banks.getLsbD b = true) : let u := s.placed n t c lead im
    fget 0 (u.core (coreOf c)).bankOwner b = c + 1 ∧ u.zeroing (coreOf c) b = false ∧
      ∀ a, 0x10000 * b ≤ a → a < 0x10000 * (b + 1) → mget (u.core (coreOf c)).scratch a = mget im.scratch a := by
  obtain ⟨-, -, -, -, -, hcore⟩ := placed_leaves (s := s) (n := n) (t := t) (c := c) (lead := lead) (im := im)
  obtain ⟨howner, hzero, hbytes⟩ := takeImage_bank (k := s.core (coreOf c)) (core_wf hm) him c
    ((s.rowBase (coreOf c) im.rows).getD 0) ((s.entryBase (coreOf c) im.entries).getD 0) hb hbank
  obtain ⟨ho, hz, hs⟩ := takeEngine_keeps ((s.core (coreOf c)).takeImage im c ((s.rowBase (coreOf c) im.rows).getD 0)
    ((s.entryBase (coreOf c) im.entries).getD 0)) im c ((s.rowBase (coreOf c) im.rows).getD 0) s.cycle (coreOf lead)
  dsimp only at ho hz hs howner hzero hbytes ⊢
  unfold State.zeroing
  rw [hcore, ho, hz, hs, hzero]
  exact ⟨howner, by simp, hbytes⟩

end Place

/-- A unit of one saved team is restored in the core that its ranking gives. -/
theorem restoreUnit_one {s : State} {quarter n t core : Nat} {im : Image}
    (hp : s.places quarter 1 (fun core => s.eligible n (coreOf ((s.launch n).team t).ctx) im core &&
      (s.unitCores n t).all fun o => plazaOf o = plazaOf core && o != core) = some [core]) :
    ∃ lead, s.restoreUnit quarter n t [(t, im)] = some (s.place n t im ((s.freeOn core).headD (4 * core)) lead) := by
  have hseats : s.seats [core] 1 = [s.seatOn core] := by simp [State.seats, State.seatOn]
  have hplaces : s.places quarter 1 (fun core => ([(t, im)].all fun x =>
      s.eligible n (coreOf ((s.launch n).team x.1).ctx) x.2 core) &&
        (s.unitCores n t).all fun o => plazaOf o = plazaOf core && o != core) = some [core] := by
    rw [← hp]
    congr 1
    funext core
    rw [List.all_cons, List.all_nil, Bool.and_true]
  have hunit : s.restoreUnit quarter n t [(t, im)] = (s.places quarter 1 (fun core => ([(t, im)].all fun x =>
      s.eligible n (coreOf ((s.launch n).team x.1).ctx) x.2 core) &&
        (s.unitCores n t).all fun o => plazaOf o = plazaOf core && o != core)).map fun cores =>
          ([(t, im)].zip (s.seats cores 1)).foldl (fun u x => u.place n x.1.1 x.1.2 x.2.ctx
            (match ([(t, im)].zip (s.seats cores 1)).find? fun x => x.1.1 % (s.launch n).gangSize = 0 with
            | some x => x.2.ctx
            | none => ((s.launch n).team (t / (s.launch n).gangSize * (s.launch n).gangSize)).ctx)) s := rfl
  rw [hunit, hplaces, Option.map_some, hseats]
  exact ⟨_, rfl⟩

/-! ## The freeze of a core (R65, R179, R182, R183, R330) -/

theorem contextsOf_nodup (core : Nat) : (contextsOf core).Nodup := by
  simp only [contextsOf, List.nodup_cons, List.mem_cons, List.not_mem_nil, or_false, List.nodup_nil, not_or, not_false_eq_true, and_true]
  omega

theorem coreFreeze_refused {s : State} {core : Nat} (damage : Damage)
    (h : 216 ≤ core ∨ (s.core core).frozen = true ∨ (s.core core).retired = true) : exec (.coreFreeze core damage) s = .next s := by
  rw [exec_coreFreeze, execCoreFreeze]
  refine if_pos ?_
  obtain h | h | h := h <;> simp [h]

/-! ### What is damaged (R179, R330) -/

/-- Only other cores' matrix commands are told of a damaged buffer. -/
theorem spoilShares_leaves (s : State) (core : Nat) (d : Damage) :
    let t := s.spoilShares core d
    t = { s with cores := t.cores } ∧ t.core core = s.core core := by
  have hfold (f : CoreState → CoreState) (l : List Nat) (s : State) (h : ∀ n, n ∈ l → n ≠ core) :
      let t := l.foldl (fun s n => s.modCore n f) s
      t = { s with cores := t.cores } ∧ t.core core = s.core core := by
    induction l generalizing s with
    | nil => exact ⟨rfl, rfl⟩
    | cons n l ih =>
      obtain ⟨honly, hcore⟩ := ih (s.modCore n f) fun m hm => h m (List.mem_cons_of_mem _ hm)
      dsimp only at honly hcore ⊢
      rw [List.foldl_cons]
      refine ⟨?_, hcore.trans (State.core_modCore_ne _ _ _ _ (h n List.mem_cons_self).symm)⟩
      rw [honly]
      rfl
  unfold State.spoilShares
  split
  · exact hfold _ _ s fun n hn => by simpa using (List.mem_filter.mp hn).2
  · exact ⟨rfl, rfl⟩

/-- A context after damage to one: at most its bays, its anchors and its queues differ. -/
def Ctx.DamagedFrom (x y : Ctx) : Prop :=
  y = { x with r := { x.r with b := y.r.b, a := y.r.a }, q0 := y.q0, q1 := y.q1 }

theorem damagedFrom_refl (x : Ctx) : x.DamagedFrom x := rfl

/-- A freeze damages at most one context, of its own core. -/
theorem damageCtx_leaves (s : State) (core : Nat) (d : Damage) :
    let t := s.damageCtx core d
    t = { s with ctxs := t.ctxs } ∧ (∀ e, coreOf e ≠ core → t.ctx e = s.ctx e) ∧ (∀ e, (s.ctx e).DamagedFrom (t.ctx e)) ∧
      (∀ e v u i, coreOf e = core → d = .bay v u → v % 4 ≠ e % 4 ∨ i ≠ u % 32 →
        fget 0#1024 (t.ctx e).r.b i = fget 0#1024 (s.ctx e).r.b i) ∧
      ((∀ i j, d ≠ .bay i j) → ∀ e, (t.ctx e).r.b = (s.ctx e).r.b) ∧ ((∀ i j, d ≠ .anchor i j) → ∀ e, (t.ctx e).r.a = (s.ctx e).r.a) := by
  have hplace (v : Nat) {e : Nat} (he : coreOf e ≠ core) : e ≠ core * 4 + v % 4 := by
    rintro rfl
    simp only [coreOf] at he
    omega
  have hdamaged (v : Nat) (f : Ctx → Ctx) (hf : ∀ x : Ctx, x.DamagedFrom (f x)) (e : Nat) :
      (s.ctx e).DamagedFrom ((s.modCtx (core * 4 + v % 4) f).ctx e) := by
    rw [State.ctx_modCtx]
    split
    · next h => rw [h]; exact hf _
    · exact damagedFrom_refl _
  have hkeep {α : Type} (g : Ctx → α) (v : Nat) (f : Ctx → Ctx) (hf : ∀ x : Ctx, g (f x) = g x) (e : Nat) :
      g ((s.modCtx (core * 4 + v % 4) f).ctx e) = g (s.ctx e) := by
    rw [State.ctx_modCtx]
    split
    · next h => rw [h]; exact hf _
    · rfl
  cases d with
  | bay v u =>
    refine ⟨rfl, fun e he => State.ctx_modCtx_ne _ _ _ _ (hplace v he), hdamaged v _ fun x => rfl, fun e v' u' i he heq hor => ?_,
      fun h => absurd rfl (h v u), fun _ => hkeep (fun x => x.r.a) v _ fun x => rfl⟩
    cases heq
    change fget 0#1024 ((s.modCtx (core * 4 + v % 4) _).ctx e).r.b i = _
    rw [State.ctx_modCtx]
    split
    · next hctx =>
      have hi : i ≠ u % 32 := hor.resolve_left fun h => h (by rw [hctx]; omega)
      rw [hctx]
      exact fget_fput_ne _ _ _ _ _ hi
    · rfl
  | anchor v n =>
    exact ⟨rfl, fun e he => State.ctx_modCtx_ne _ _ _ _ (hplace v he), hdamaged v _ fun x => rfl, fun e v' u' i _ heq => (by cases heq),
      fun _ => hkeep (fun x => x.r.b) v _ fun x => rfl, fun h => absurd rfl (h v n)⟩
  | queueEntry v q n =>
    refine ⟨rfl, fun e he => State.ctx_modCtx_ne _ _ _ _ (hplace v he), hdamaged v _ fun x => ?_, fun e v' u' i _ heq => (by cases heq),
      fun _ => hkeep (fun x => x.r.b) v _ fun x => ?_, fun _ => hkeep (fun x => x.r.a) v _ fun x => ?_⟩
    all_goals split <;> rfl
  | _ =>
    exact ⟨rfl, fun _ _ => rfl, fun e => damagedFrom_refl _, fun e v' u' i _ _ _ => rfl, fun _ _ => rfl, fun _ _ => rfl⟩

/-! ### The contexts of a frozen core stop (R171, R179, R182) -/

/-- Memory, every core and every launch are as before. -/
def State.KeepsRest (s t : State) : Prop := t.mem = s.mem ∧ (∀ n, t.core n = s.core n) ∧ ∀ m, t.launch m = s.launch m

/-- A context that stopped with its core, its registers and its team as before. -/
structure Ctx.Froze (x y : Ctx) : Prop where
  st : y.st = .frozen
  launch : y.launch = x.launch
  team : y.team = x.team
  regs : y.r = x.r
  fault : y.fault = faultWord 0x14 1 0 ∨ y.fault = faultWord 0x14 1 3

theorem dropWidth_none {s : State} {c : Nat} (h : (s.core (coreOf c)).width = none) : s.dropWidth c = s :=
  if_neg (by simp [h])

theorem stopWith_keepsRest {s : State} {c : Nat} (h : (s.core (coreOf c)).width = none) (word faddr : Word) (slotres : Nat)
    (donemask : BitVec 6) (l : List (Nat × Nat)) : s.KeepsRest (s.stopWith c word faddr slotres donemask l) := by
  unfold State.stopWith
  dsimp only
  rw [dropWidth_none (by exact h)]
  refine ⟨?_, fun n => ?_, fun m => ?_⟩
  · rw [traceWith_mem]; rfl
  · rw [traceWith_core]; rfl
  · rw [traceWith_launch]; rfl

/-- The context of a bundle that is to be issued again, or that goes on past a share that came before it (R182). -/
def State.redoing (s : State) (d : Damage) (c : Nat) : State :=
  if s.mustRedo c d then s.modCtx c Ctx.rewind else if s.shareAhead c then s.modCtx c fun x => { x with redo := true } else s

theorem redoing_leaves (s : State) (d : Damage) (c : Nat) :
    let t := s.redoing d c
    t = { s with ctxs := t.ctxs } ∧ (∀ e, e ≠ c → t.ctx e = s.ctx e) ∧ (t.ctx c).launch = (s.ctx c).launch ∧
      (t.ctx c).team = (s.ctx c).team ∧ (t.ctx c).r = (s.ctx c).r := by
  have hmod (f : Ctx → Ctx) (hf : ∀ x : Ctx, (f x).launch = x.launch ∧ (f x).team = x.team ∧ (f x).r = x.r) :
      let t := s.modCtx c f
      t = { s with ctxs := t.ctxs } ∧ (∀ e, e ≠ c → t.ctx e = s.ctx e) ∧ (t.ctx c).launch = (s.ctx c).launch ∧
        (t.ctx c).team = (s.ctx c).team ∧ (t.ctx c).r = (s.ctx c).r := by
    refine ⟨rfl, fun e he => State.ctx_modCtx_ne _ _ _ _ he, ?_⟩
    rw [State.ctx_modCtx_same]
    exact hf _
  unfold State.redoing
  split
  · exact hmod Ctx.rewind fun x => ⟨rfl, rfl, rfl⟩
  · split
    · exact hmod (fun x => { x with redo := true }) fun x => ⟨rfl, rfl, rfl⟩
    · exact ⟨rfl, fun _ _ => rfl, rfl, rfl, rfl⟩

/-- A context stops with its core. -/
theorem stopFrozen_stops {s : State} {c : Nat} (d : Damage) (h : (s.core (coreOf c)).width = none) :
    let t := s.stopFrozen d c
    s.KeepsRest t ∧ (∀ e, e ≠ c → t.ctx e = s.ctx e) ∧ (s.ctx c).Froze (t.ctx c) := by
  obtain ⟨honly, hothers, hlaunch, hteam, hregs⟩ := redoing_leaves s d c
  let slot := if s.mustRedo c d then 3 else 0
  let u := s.redoing d c
  let v := { u with fresh := u.fresh + 1 }.stopWith c (faultWord 0x14 1 slot) (u.faultAddress none) slot (u.ctx c).skip
  have hdef : s.stopFrozen d c = v.modCtx c fun y => { y with st := .frozen } := rfl
  have hcore (n : Nat) : u.core n = s.core n := by rw [show u = _ from honly]; rfl
  obtain ⟨hmem, hcores, hlaunches⟩ := stopWith_keepsRest (s := { u with fresh := u.fresh + 1 }) (c := c) ((congrArg _ (hcore _)).trans h)
    (faultWord 0x14 1 slot) (u.faultAddress none) slot (u.ctx c).skip []
  have hctx (e : Nat) := stopWith_ctx { u with fresh := u.fresh + 1 } c (faultWord 0x14 1 slot) (u.faultAddress none) slot (u.ctx c).skip [] e
  have hself : (s.stopFrozen d c).ctx c = { v.ctx c with st := .frozen } := by rw [hdef, State.ctx_modCtx_same]
  have hv : v.ctx c = _ := (hctx c).trans (if_pos rfl)
  refine ⟨⟨?_, fun n => ?_, fun m => ?_⟩, fun e he => ?_, ?_⟩
  · rw [hdef]
    exact hmem.trans (by change u.mem = s.mem; rw [show u = _ from honly])
  · rw [hdef]
    exact (hcores n).trans (hcore n)
  · rw [hdef]
    exact (hlaunches m).trans (by change u.launch m = s.launch m; rw [show u = _ from honly]; rfl)
  · rw [hdef, State.ctx_modCtx_ne _ _ _ _ he]
    exact ((hctx e).trans (if_neg he)).trans (hothers e he)
  · rw [hself]
    refine ⟨rfl, ?_, ?_, ?_, ?_⟩
    all_goals rw [hv]
    · exact hlaunch
    · exact hteam
    · exact hregs
    · change faultWord 0x14 1 slot = _ ∨ faultWord 0x14 1 slot = _
      simp only [slot]
      split
      · exact .inr rfl
      · exact .inl rfl

/-- A context stops with its core, but for one that is held. -/
def State.freezeOne (d : Damage) (s : State) (c : Nat) : State := if (s.ctx c).st = .held then s else s.stopFrozen d c

theorem foldl_freezeOne (d : Damage) (core : Nat) (l : List Nat) (hl : ∀ c, c ∈ l → coreOf c = core) (hn : l.Nodup) (s : State)
    (h : (s.core core).width = none) :
    let t := l.foldl (State.freezeOne d) s
    s.KeepsRest t ∧ (∀ e, e ∉ l → t.ctx e = s.ctx e) ∧
      ∀ e, e ∈ l → ((s.ctx e).st = .held → t.ctx e = s.ctx e) ∧ ((s.ctx e).st ≠ .held → (s.ctx e).Froze (t.ctx e)) := by
  induction l generalizing s with
  | nil => exact ⟨⟨rfl, fun _ => rfl, fun _ => rfl⟩, fun _ _ => rfl, fun e he => absurd he List.not_mem_nil⟩
  | cons c l ih =>
    obtain ⟨hc, hn'⟩ := List.nodup_cons.mp hn
    have hcore : coreOf c = core := hl c List.mem_cons_self
    have hone : s.KeepsRest (State.freezeOne d s c) ∧ (∀ e, e ≠ c → (State.freezeOne d s c).ctx e = s.ctx e) ∧
        ((s.ctx c).st = .held → (State.freezeOne d s c).ctx c = s.ctx c) ∧
        ((s.ctx c).st ≠ .held → (s.ctx c).Froze ((State.freezeOne d s c).ctx c)) := by
      unfold State.freezeOne
      split
      · next hst => exact ⟨⟨rfl, fun _ => rfl, fun _ => rfl⟩, fun _ _ => rfl, fun _ => rfl, fun hne => absurd hst hne⟩
      · next hst =>
        obtain ⟨hk, ho, hf⟩ := stopFrozen_stops d (s := s) (c := c) (by rw [hcore]; exact h)
        exact ⟨hk, ho, fun heq => absurd heq hst, fun _ => hf⟩
    obtain ⟨⟨hmem, hcores, hlaunches⟩, hothers, hheld, hfroze⟩ := hone
    obtain ⟨⟨kmem, kcores, klaunches⟩, kout, kin⟩ := ih (fun e he => hl e (List.mem_cons_of_mem _ he)) hn' (State.freezeOne d s c)
      ((congrArg _ (hcores core)).trans h)
    rw [List.foldl_cons]
    refine ⟨⟨kmem.trans hmem, fun n => (kcores n).trans (hcores n), fun m => (klaunches m).trans (hlaunches m)⟩, fun e he => ?_, fun e he => ?_⟩
    · rw [List.mem_cons, not_or] at he
      exact (kout e he.2).trans (hothers e he.1)
    · by_cases hec : e = c
      · subst hec
        rw [kout e hc]
        exact ⟨hheld, hfroze⟩
      · rw [← hothers e hec]
        exact kin e ((List.mem_cons.mp he).resolve_left hec)

/-- The teams of some contexts are migrating. -/
theorem foldl_migrating (l : List Nat) (s : State) :
    let t := l.foldl (fun s c => s.modTeam (s.ctx c).launch (s.ctx c).team fun t => { t with st := .migrating }) s
    t = { s with launches := t.launches } ∧ ∀ e, e ∈ l → ((t.launch (s.ctx e).launch).team (s.ctx e).team).st = .migrating := by
  induction l using List.reverseRecOn with
  | nil => exact ⟨rfl, fun e he => absurd he List.not_mem_nil⟩
  | append_singleton l c ih =>
    obtain ⟨honly, hin⟩ := ih
    rw [List.foldl_append, List.foldl_cons, List.foldl_nil]
    generalize l.foldl (fun s c => s.modTeam (s.ctx c).launch (s.ctx c).team fun t => { t with st := .migrating }) s = u at honly hin
    have hctx (e : Nat) : u.ctx e = s.ctx e := by rw [honly]; rfl
    refine ⟨?_, fun e he => ?_⟩
    · rw [honly]; rfl
    · rw [hctx c]
      by_cases hl : (s.ctx e).launch = (s.ctx c).launch
      · by_cases ht : (s.ctx e).team = (s.ctx c).team
        · rw [hl, ht, team_modTeam_same]
        · have he' : e ∈ l := (List.mem_append.mp he).resolve_right fun hc => ht (by rw [List.mem_singleton.mp hc])
          have hkeep := hin e he'
          rw [hl] at hkeep ⊢
          rw [State.modTeam, State.launch_modLaunch_same]
          exact (congrArg Team.st (fget_fput_ne _ _ _ _ _ ht)).trans hkeep
      · have he' : e ∈ l := (List.mem_append.mp he).resolve_right fun hc => hl (by rw [List.mem_singleton.mp hc])
        rw [State.modTeam, State.launch_modLaunch_ne _ _ _ _ hl]
        exact hin e he'

/-! ### The frozen core -/

/-- A core that is frozen with a damaged unit, and with no width. -/
def CoreState.frozenWith (k : CoreState) (d : Damage) (fresh : Nat) : CoreState :=
  { k.damaged d fresh with frozen := true, width := none, giver := none }

/-- The damage of a freeze is done, and the core stands frozen with no width. -/
def State.struck (s : State) (core : Nat) (d : Damage) : State :=
  let t := (s.spoilShares core d).damageCtx core d
  { t.modCore core (·.frozenWith d t.fresh) with fresh := t.fresh + 16 }

theorem struck_leaves (s : State) (core : Nat) (d : Damage) :
    let t := s.struck core d
    t.mem = s.mem ∧ (∀ m, t.launch m = s.launch m) ∧
      t.core core = (s.core core).frozenWith d s.fresh ∧
      (∀ e, t.ctx e = (s.damageCtx core d).ctx e) := by
  obtain ⟨hspoil, hcore⟩ := spoilShares_leaves s core d
  obtain ⟨hdamage, -⟩ := damageCtx_leaves (s.spoilShares core d) core d
  refine ⟨?_, fun m => ?_, ?_, fun e => ?_⟩
  · change ((s.spoilShares core d).damageCtx core d).mem = s.mem
    rw [hdamage, hspoil]
  · change ((s.spoilShares core d).damageCtx core d).launch m = s.launch m
    rw [hdamage, hspoil]
    rfl
  · have hfresh : ((s.spoilShares core d).damageCtx core d).fresh = s.fresh := by rw [hdamage, hspoil]
    have hk : ((s.spoilShares core d).damageCtx core d).core core = s.core core := by
      rw [hdamage]
      exact hcore
    refine (State.core_modCore_same ((s.spoilShares core d).damageCtx core d) core
      (·.frozenWith d ((s.spoilShares core d).damageCtx core d).fresh)).trans ?_
    rw [hk, hfresh]
  · change ((s.spoilShares core d).damageCtx core d).ctx e = _
    rw [hspoil]
    cases d <;> rfl

/-- The contexts that a freeze concerns. -/
def State.stopping (s : State) (core : Nat) : List Nat :=
  (contextsOf core).filter fun c => (s.ctx c).st = .resident || (s.ctx c).st = .saving || (s.ctx c).st = .held

theorem mem_stopping {s : State} {core c : Nat} : c ∈ s.stopping core ↔
    coreOf c = core ∧ ((s.ctx c).st = .resident ∨ (s.ctx c).st = .saving ∨ (s.ctx c).st = .held) := by
  rw [State.stopping, List.mem_filter, mem_contextsOf]
  simp [or_assoc]

/-- A core freezes: its contexts stop, and their teams are migrating. -/
def State.freeze (s : State) (core : Nat) (d : Damage) : State :=
  (((s.stopping core).foldl (fun s c => s.modTeam (s.ctx c).launch (s.ctx c).team fun t => { t with st := .migrating })
    ((s.stopping core).foldl (State.freezeOne d) (s.struck core d)))).notice 8 core 0x14 1

theorem coreFreeze_freezes {s : State} {core : Nat} (d : Damage) (hc : core < 216) (hf : (s.core core).frozen = false)
    (hr : (s.core core).retired = false) : exec (.coreFreeze core d) s = .next (s.freeze core d) := by
  rw [exec_coreFreeze, execCoreFreeze]
  refine (if_neg ?_).trans rfl
  simp [hc, hf, hr]

theorem freeze_leaves (s : State) (core : Nat) (d : Damage) :
    let w := s.freeze core d
    w.mem = s.mem ∧ w.core core = (s.core core).frozenWith d s.fresh ∧
      (∀ e, e ∉ s.stopping core → w.ctx e = (s.damageCtx core d).ctx e) ∧
      ∀ e, e ∈ s.stopping core → ((w.launch (s.ctx e).launch).team (s.ctx e).team).st = .migrating ∧
        ((s.ctx e).st = .held → w.ctx e = (s.damageCtx core d).ctx e) ∧
        ((s.ctx e).st ≠ .held → ((s.damageCtx core d).ctx e).Froze (w.ctx e)) := by
  obtain ⟨hmem, -, hcore, hctx⟩ := struck_leaves s core d
  obtain ⟨-, -, hdamaged, -⟩ := damageCtx_leaves s core d
  have hplaces : (s.stopping core).Nodup := (contextsOf_nodup core).filter _
  obtain ⟨⟨fmem, fcore, -⟩, fout, fin⟩ := foldl_freezeOne d core (s.stopping core) (fun c hc => (mem_stopping.mp hc).1) hplaces
    (s.struck core d) (congrArg CoreState.width hcore)
  obtain ⟨honly, hteam⟩ := foldl_migrating (s.stopping core) ((s.stopping core).foldl (State.freezeOne d) (s.struck core d))
  generalize hu : (s.stopping core).foldl (State.freezeOne d) (s.struck core d) = u at fmem fcore fout fin honly hteam
  generalize hv : (s.stopping core).foldl (fun s c => s.modTeam (s.ctx c).launch (s.ctx c).team fun t => { t with st := .migrating }) u = v
    at honly hteam
  have hw : s.freeze core d = v.notice 8 core 0x14 1 := by rw [State.freeze, hu, hv]
  have hvctx (e : Nat) : v.ctx e = u.ctx e := by rw [honly]; rfl
  have hplace (e : Nat) : ((s.damageCtx core d).ctx e).launch = (s.ctx e).launch ∧ ((s.damageCtx core d).ctx e).team = (s.ctx e).team ∧
      ((s.damageCtx core d).ctx e).st = (s.ctx e).st := by
    rw [hdamaged e]
    exact ⟨rfl, rfl, rfl⟩
  dsimp only
  rw [hw]
  refine ⟨?_, ?_, fun e he => ?_, fun e he => ?_⟩
  · change v.mem = s.mem
    rw [honly]
    exact fmem.trans hmem
  · change v.core core = _
    rw [honly]
    exact (fcore core).trans hcore
  · exact (hvctx e).trans ((fout e he).trans (hctx e))
  · obtain ⟨fheld, ffroze⟩ := fin e he
    obtain ⟨hlaunch, hteams, hst⟩ := hplace e
    rw [hctx, hst] at fheld ffroze
    refine ⟨?_, fun h => (hvctx e).trans (fheld h), fun h => ?_⟩
    · have hsame : (u.ctx e).launch = (s.ctx e).launch ∧ (u.ctx e).team = (s.ctx e).team := by
        by_cases h : (s.ctx e).st = .held
        · rw [fheld h]
          exact ⟨hlaunch, hteams⟩
        · exact ⟨(ffroze h).launch.trans hlaunch, (ffroze h).team.trans hteams⟩
      have hmig := hteam e he
      rw [hsame.1, hsame.2] at hmig
      exact hmig
    · change ((s.damageCtx core d).ctx e).Froze (v.ctx e)
      rw [hvctx]
      exact ffroze h

/-! ## Migration (R179, R183, R331) -/

/-- The one context that is to move off a frozen core is quiet. -/
structure State.MovesOff (s : State) (core c : Nat) : Prop where
  frozen : (s.core core).frozen = true
  live : (s.core core).retired = false
  movers : s.movers core = [c]
  quiet : s.quiet c = true
  ready : s.schedReady (s.ctx c).launch (quarterOf core) = true

theorem migration_refused {s : State} {core : Nat} (h : (s.core core).frozen = false ∨ (s.core core).retired = true) :
    exec (.migrationComplete core) s = .next s := by
  rw [exec_migrationComplete, execMigrationComplete]
  refine if_pos ?_
  obtain h | h := h <;> simp [h]

theorem migration_waits {s : State} {core : Nat} (h : ∃ e, e ∈ s.movers core ∧
    (s.quiet e = false ∨ s.schedReady (s.ctx e).launch (quarterOf core) = false)) : exec (.migrationComplete core) s = .next s := by
  obtain ⟨e, he, hno⟩ := h
  have hall : ((s.movers core).all fun c => s.quiet c && s.schedReady (s.ctx c).launch (quarterOf core)) = false := by
    refine List.all_eq_false.mpr ⟨e, he, ?_⟩
    obtain hno | hno := hno <;> simp [hno]
  rw [exec_migrationComplete, execMigrationComplete]
  refine if_pos ?_
  simp [hall]

/-- A core gives up its place. -/
def State.retire (s : State) (core : Nat) : State := s.modCore core fun k => { k with retired := true, logical := none }

section Moves
variable {s : State} {core c : Nat} (h : s.MovesOff core c)
include h

theorem State.MovesOff.notWaiting : ¬ (!(s.core core).frozen || (s.core core).retired ||
    !(s.movers core).all fun c => s.quiet c && s.schedReady (s.ctx c).launch (quarterOf core)) = true := by
  simp [h.frozen, h.live, h.movers, h.quiet, h.ready]

theorem migration_kills (hk : (s.launch (s.ctx c).launch).killing = true) : exec (.migrationComplete core) s =
    .next (if (s.endAs c .killed).spareFree core then (s.endAs c .killed).moveCore core [] else (s.endAs c .killed).retire core) := by
  have hdying : (s.movers core).filter (fun c => (s.launch (s.ctx c).launch).killing) = [c] := by rw [h.movers]; simp [hk]
  have hrest : ((s.movers core).filter fun d => !([c] : List Nat).contains d) = [] := by rw [h.movers]; simp
  rw [exec_migrationComplete, execMigrationComplete]
  dsimp only
  rw [if_neg (State.MovesOff.notWaiting h), hdying, hrest, List.foldl_cons, List.foldl_nil, List.foldl_nil]
  split <;> rfl

variable (hk : (s.launch (s.ctx c).launch).killing = false)
include hk

theorem migration_goes : exec (.migrationComplete core) s =
    .next (if s.spareFree core then s.moveCore core [c] else (s.saveStranded c).retire core) := by
  have hdying : (s.movers core).filter (fun c => (s.launch (s.ctx c).launch).killing) = [] := by rw [h.movers]; simp [hk]
  have hrest : ((s.movers core).filter fun d => !([] : List Nat).contains d) = [c] := by rw [h.movers]; simp
  rw [exec_migrationComplete, execMigrationComplete]
  dsimp only
  rw [if_neg (State.MovesOff.notWaiting h), hdying, hrest, List.foldl_nil, List.foldl_cons, List.foldl_nil]
  split <;> rfl

end Moves

/-! ### The move of a core (R49, R179) -/

/-- Where only cores change, the contexts and the launches stay. -/
theorem onlyCores_keeps {s t : State} (h : t = { s with cores := t.cores }) :
    (∀ e, t.ctx e = s.ctx e) ∧ ∀ m, t.launch m = s.launch m :=
  ⟨fun e => by rw [h]; rfl, fun m => by rw [h]; rfl⟩

/-- The spare core takes a frozen core over, which gives up its place; no context has moved yet. -/
def State.handOver (s : State) (core : Nat) (l : List Nat) : State :=
  let k := s.core core
  let gone (y : Option DrayCmd) : Option DrayCmd := y.filter fun y => !l.contains y.owner
  (s.modCore (spareOf core) fun spare => spare.takeOver k core s.cycle l).modCore core fun k =>
    { k with logical := none, retired := true, lease := none
             cmds := k.cmds.filter fun m => !l.contains m.owner
             bankOwner := k.bankOwner.filter fun e => !l.contains (e.2 - 1)
             drays := [0, 1].map fun d => (d, { k.dray d with running := gone (k.dray d).running, shadow := gone (k.dray d).shadow }) }

theorem moveCore_eq (s : State) (core : Nat) (l : List Nat) :
    s.moveCore core l = (l.foldl (fun s c => s.moveCtx core c) (s.handOver core l)).followLead core := rfl

theorem handOver_leaves (s : State) (core : Nat) (l : List Nat) :
    let t := s.handOver core l
    t = { s with cores := t.cores } ∧ (t.core core).logical = none ∧ (t.core core).retired = true ∧
      (spareOf core ≠ core → t.core (spareOf core) = (s.core (spareOf core)).takeOver (s.core core) core s.cycle l) := by
  refine ⟨rfl, ?_, ?_, fun hne => ?_⟩
  · rw [State.handOver, State.core_modCore_same]
  · rw [State.handOver, State.core_modCore_same]
  · rw [State.handOver, State.core_modCore_ne _ _ _ _ hne, State.core_modCore_same]

/-- The commands that follow their lead change in nothing else of a core. -/
theorem followLead_leaves (s : State) (core : Nat) :
    let t := s.followLead core
    t = { s with cores := t.cores } ∧ ∀ n, t.core n = { s.core n with cmds := (t.core n).cmds } := by
  have hfold (f : MCmd → MCmd) (l : List Nat) (s : State) :
      let t := l.foldl (fun s n => s.modCore n fun k => { k with cmds := k.cmds.map f }) s
      t = { s with cores := t.cores } ∧ ∀ n, t.core n = { s.core n with cmds := (t.core n).cmds } := by
    induction l generalizing s with
    | nil => exact ⟨rfl, fun _ => rfl⟩
    | cons d l ih =>
      obtain ⟨honly, hcore⟩ := ih (s.modCore d fun k => { k with cmds := k.cmds.map f })
      dsimp only at honly hcore ⊢
      rw [List.foldl_cons]
      refine ⟨?_, fun n => ?_⟩
      · rw [honly]; rfl
      · rw [hcore n, State.core_modCore]
        split
        · next h => rw [h]
        · rfl
  exact hfold _ _ s

/-- A frozen core that no context leaves gives up its place, and nothing changes but cores. -/
theorem moveCore_empty (s : State) (core : Nat) :
    let t := s.moveCore core []
    t = { s with cores := t.cores } ∧ (t.core core).retired = true ∧ (t.core core).logical = none := by
  obtain ⟨hh, hlogical, hretired, -⟩ := handOver_leaves s core []
  obtain ⟨hf, hcore⟩ := followLead_leaves (s.handOver core []) core
  dsimp only
  rw [moveCore_eq, List.foldl_nil]
  refine ⟨?_, by rw [hcore]; exact hretired, by rw [hcore]; exact hlogical⟩
  rw [hf, hh]

/-- A frozen core gives up its place, with its spare core or without. -/
theorem emptied_leaves (s : State) (core : Nat) :
    let t := if s.spareFree core then s.moveCore core [] else s.retire core
    (∀ e, t.ctx e = s.ctx e) ∧ (∀ m, t.launch m = s.launch m) ∧ (t.core core).retired = true ∧ (t.core core).logical = none := by
  dsimp only
  split
  · obtain ⟨honly, hplace⟩ := moveCore_empty s core
    obtain ⟨hctx, hlaunch⟩ := onlyCores_keeps honly
    exact ⟨hctx, hlaunch, hplace⟩
  · refine ⟨fun _ => rfl, fun _ => rfl, ?_, ?_⟩
    all_goals rw [State.retire, State.core_modCore_same]

section Move
variable {s : State} {core c : Nat}

/-- A context as it stands on the spare core. -/
def Ctx.moved (x : Ctx) (cycle : Nat) : Ctx :=
  { x with lsu := [], line := none, walkFail := [], bars := [], st := if x.st = .held then .held else .resident, migrated := true
           iss := { x.iss with cause := none, notBefore := x.iss.notBefore.map (max cycle) } }

/-- A context with no barrier record stands on the spare core, before the record of its move. -/
def State.relocated (s : State) (core c : Nat) : State :=
  ((s.setCtx (onSpare core c) ((s.ctx c).moved s.cycle)).setCtx c { iss := { off := (s.ctx c).iss.off } }).modTeam
    (s.ctx c).launch (s.ctx c).team fun t => { t with st := .resident, ctx := onSpare core c }

theorem moveCtx_eq (hb : (s.ctx c).bars = []) : s.moveCtx core c = (s.relocated core c).sched (onSpare core c) 5 := by
  have hbars : s.carriedBars c = [] := by rw [State.carriedBars, hb]; rfl
  unfold State.moveCtx State.carriedCtx State.removeArrivals
  rw [hbars]
  rfl

theorem onSpare_ne (hs : spareOf core ≠ core) (hc : coreOf c = core) : onSpare core c ≠ c := by
  simp only [onSpare, coreOf] at *
  omega

theorem relocated_leaves (hs : spareOf core ≠ core) (hc : coreOf c = core) :
    let t := s.relocated core c
    t.ctx (onSpare core c) = (s.ctx c).moved s.cycle ∧ (t.ctx c).st = .free ∧ (∀ n, t.core n = s.core n) ∧
      (t.launch (s.ctx c).launch).recording = (s.launch (s.ctx c).launch).recording ∧
      (t.launch (s.ctx c).launch).team (s.ctx c).team =
        { (s.launch (s.ctx c).launch).team (s.ctx c).team with st := .resident, ctx := onSpare core c } := by
  refine ⟨?_, ?_, fun _ => rfl, ?_, team_modTeam_same ..⟩
  · exact (State.ctx_setCtx_ne _ _ _ _ (onSpare_ne hs hc)).trans (State.ctx_setCtx_same ..)
  · exact congrArg Ctx.st (State.ctx_setCtx_same ..)
  · rw [State.relocated, State.modTeam, State.launch_modLaunch_same]
    rfl

/-- A context moves, with no record of it. -/
theorem moveCtx_quiet (hs : spareOf core ≠ core) (hc : coreOf c = core) (hb : (s.ctx c).bars = []) (hr : s.recording c = false) :
    s.moveCtx core c = s.relocated core c := by
  obtain ⟨hctx, -, -, hrec, -⟩ := relocated_leaves (s := s) hs hc
  have hoff : (s.relocated core c).recording (onSpare core c) = false := by
    rw [State.recording, hctx]
    exact hrec.trans hr
  rw [moveCtx_eq hb, sched_off 5 hoff]

/-- The one context of a frozen core stands on the spare core, which has taken over what the core held. -/
theorem moveCore_one (hs : spareOf core ≠ core) (hc : coreOf c = core) (hb : (s.ctx c).bars = []) (hr : s.recording c = false) :
    let t := s.moveCore core [c]
    t.ctx (onSpare core c) = (s.ctx c).moved s.cycle ∧ (t.ctx c).st = .free ∧ (t.core core).logical = none ∧
      (t.core core).retired = true ∧ (t.core (spareOf core)).logical = (s.core core).logical ∧
      (t.core (spareOf core)).acc = (s.core core).acc ∧ (t.core (spareOf core)).cwt = (s.core core).cwt ∧
      (t.launch (s.ctx c).launch).team (s.ctx c).team =
        { (s.launch (s.ctx c).launch).team (s.ctx c).team with st := .resident, ctx := onSpare core c } := by
  obtain ⟨hh, hlogical, hretired, htaken⟩ := handOver_leaves s core [c]
  have hctx : (s.handOver core [c]).ctx c = s.ctx c := (onlyCores_keeps hh).1 c
  have hquiet := moveCtx_quiet (s := s.handOver core [c]) hs hc (by rw [hctx]; exact hb) hr
  obtain ⟨hx, hfree, hcores, -, hteam⟩ := relocated_leaves (s := s.handOver core [c]) hs hc
  obtain ⟨hfollow, hcmds⟩ := followLead_leaves ((s.handOver core [c]).relocated core c) core
  obtain ⟨hfctx, hflaunch⟩ := onlyCores_keeps hfollow
  have hw : s.moveCore core [c] = ((s.handOver core [c]).relocated core c).followLead core := by
    rw [moveCore_eq, List.foldl_cons, List.foldl_nil, hquiet]
  have hkept (n : Nat) : let k := (((s.handOver core [c]).relocated core c).followLead core).core n
      let old := (s.handOver core [c]).core n
      k.logical = old.logical ∧ k.retired = old.retired ∧ k.acc = old.acc ∧ k.cwt = old.cwt := by
    rw [hcmds n, hcores]
    exact ⟨rfl, rfl, rfl, rfl⟩
  obtain ⟨klogical, kretired, -, -⟩ := hkept core
  obtain ⟨slogical, -, sacc, scwt⟩ := hkept (spareOf core)
  dsimp only
  rw [hw, hfctx, hfctx, hflaunch, klogical, kretired, slogical, sacc, scwt, htaken hs]
  exact ⟨hx, hfree, hlogical, hretired, rfl, rfl, rfl, hteam⟩

end Move

/-! ### A frozen context that cannot be saved (R37, R179) -/

/-- However its engines' commands end, a team ends with its cause and its fault, and its context is being released. -/
theorem endTeam_tells (s : State) (c : Nat) (cause : Cause) :
    let t := s.endTeam c cause
    (t.ctx c).st = .releasing ∧ ((t.launch (s.ctx c).launch).team (s.ctx c).team).st = endState cause ∧
      ((t.launch (s.ctx c).launch).team (s.ctx c).team).cause = cause ∧
      ((t.launch (s.ctx c).launch).team (s.ctx c).team).fault = (s.ctx c).fault := by
  let x := s.ctx c
  let v := (((((s.cancelDray (coreOf c) 0 c).cancelDray (coreOf c) 1 c).withdraw c).dropMatrix c).modTeam x.launch x.team fun t =>
    { t with mstall := x.man.mstall })
  obtain ⟨-, hteam, -, -⟩ := teamOver_leaves v x.launch x.team cause x.fault x.faddr
  obtain ⟨hc, -, hl, -⟩ := leave_leaves (v.teamOver x.launch x.team cause x.fault x.faddr) c
  have hend : s.endTeam c cause = ((v.teamOver x.launch x.team cause x.fault x.faddr).modCtx c Ctx.leaving).dropWidth c := rfl
  dsimp only at hc hl ⊢
  rw [hend]
  refine ⟨by rw [hc]; rfl, ?_, ?_, ?_⟩
  all_goals rw [hl, hteam]

/-- A context with the fault of a core that failed. -/
def Ctx.lost (x : Ctx) (faddr : Word) : Ctx := { x with fault := faultWord 0x14 1 0, faddr := faddr }

/-- A frozen context loses its matrix commands, and has the fault of its core. -/
def State.loseCore (s : State) (c : Nat) : State :=
  (s.modCore (coreOf c) fun k => { k with cmds := k.cmds.filter fun m => m.owner != c }).modCtx c (·.lost (s.faultAddress none))

theorem saveFrozen_noKey {s : State} {c : Nat} (hk : (fget {} s.pf.keys (s.ctx c).tenant : KeySlot).key = none) :
    s.saveFrozen c = (s.loseCore c).endTeam c .fault := by
  unfold State.saveFrozen
  dsimp only
  split
  · next key hkey => exact absurd (hk.symm.trans hkey) (by simp)
  · rfl

/-- A frozen context whose tenant has no key ends faulted. -/
theorem saveStranded_noKey {s : State} {c : Nat} (hsize : (s.ctx c).csize = 0)
    (hk : (fget {} s.pf.keys (s.ctx c).tenant : KeySlot).key = none) :
    let t := s.saveStranded c
    let team := (t.launch (s.ctx c).launch).team (s.ctx c).team
    (t.ctx c).st = .releasing ∧ team.st = .faulted ∧ team.cause = .fault ∧ team.fault = faultWord 0x14 1 0 := by
  have hx : (s.loseCore c).ctx c = (s.ctx c).lost (s.faultAddress none) := State.ctx_modCtx_same _ c (·.lost (s.faultAddress none))
  have htells := endTeam_tells (s.loseCore c) c .fault
  rw [hx] at htells
  rw [← saveFrozen_noKey hk] at htells
  obtain ⟨-, hteam, -, -⟩ := id htells
  have hnot : ¬ (((s.saveFrozen c).launch (s.ctx c).launch).team (s.ctx c).team).st = .saved := fun h => by
    cases hteam.symm.trans h
  have hall : s.saveStranded c = s.saveFrozen c := by
    unfold State.saveStranded
    dsimp only
    rw [gangOf_alone hsize, if_neg hnot]
    rfl
  rw [hall]
  exact htells

/-! ## The moves of teams -/

/-- Settles O44: a Quarter's act on its victim by the action that the victim's state selects; a context's image in bytes, in the
table and in the launch's record; a saved team by what its image opens to; a frozen core by what was damaged, and the move of its
context by whether its launch is being killed and the spare core is free. -/
theorem teamMoves : Obligations.TeamMoves := by
  unfold Obligations.TeamMoves
  intro s c core quarter n t v p im key damage d u x l k slot others tokens violates blocked
  refine ⟨fun h => ⟨preemption_none h, teamRestore_none h⟩, mem_classHeads, fun hb hv => preemption_noVictim hb hv,
    fun hb hv ha => ⟨_, preemption_acts hb hv ha, rfl, State.launch_modLaunch_same ..⟩,
    fun hb hv ha hl => ⟨fun hs hc => ?checkpointed, fun hs => ?chosen⟩,
    fun hb hv ha hr hoff hc => ⟨_, preemption_acts hb hv ha, preempt_drain_leaves hr hoff hc⟩,
    fun hb hv ha hr => (preemption_acts hb hv ha).trans (congrArg _ (preempt_drain_waits hr)), actionOn_drain, actionOn_kill,
    fun hst hs => ⟨checkpoint_strandedMember hst hs, fun hall => ⟨_, checkpoint_gang hst hs hall, foldl_startSave ..⟩⟩,
    checkpoint_refused, fun hst hs hc => ?begun, checkpoint_waits, fun hst hr hq hf hoff hk hseal => ?saved, fun e he => mem_table he,
    table_ascends im, teamRestore_waits,
    fun h hst hl hr => ⟨fun hu => ?nokey, fun hu => ?bad, fun hu hoff hbars hdrays hm him hp hc hcore => ?restored⟩,
    coreFreeze_refused damage, fun hc hf hr => ?freeze, migration_refused, fun _ h => migration_waits h, ?kills, ?lost, ?moved⟩
  case checkpointed =>
    obtain ⟨hx, ho⟩ := preempt_checkpoint_starts (n := n) hl hs hc
    refine ⟨_, preemption_acts hb hv ha, ho, ?_, ?_, ?_⟩
    all_goals rw [hx]; rfl
  case chosen =>
    obtain ⟨⟨honly, -⟩, hchosen⟩ := drainFor_chooseSaved s v n ((s.launch v).actedIn quarter)
    have hw : s.preempt n v quarter .checkpoint =
        (s.drainFor v n ((s.launch v).actedIn quarter)).chooseSaved v ((s.launch v).actedIn quarter) :=
      (preempt_checkpoint hl).trans (if_neg (by simp [hs]))
    refine ⟨_, preemption_acts hb hv ha, ?_⟩
    rw [hw]
    exact ⟨honly, hchosen⟩
  case begun =>
    obtain ⟨hx, ho, hwidth⟩ := startSave_leaves s c
    refine ⟨_, checkpoint_starts hst hs, ?_⟩
    rw [saveGang_alone hc hs]
    refine ⟨ho, hx.trans ?_, hwidth⟩
    have hskip : (if (s.ctx c).st = .held then (s.ctx c).skip ||| (s.ctx c).donemask else (s.ctx c).skip) = (s.ctx c).skip :=
      if_neg (by rw [show (s.ctx c).st = .resident from hst]; simp)
    rw [Ctx.startedSave, hskip]
  case saved =>
    intro sealed plain ha
    obtain ⟨hctx, hsaved, hcounter, hslot, himage⟩ := written_leaves s c key (s.sealedBytes c key)
    obtain ⟨hc, ho, hl', hpf⟩ := depart_leaves (s.written c key (s.sealedBytes c key)) c
    have hsave : s.saveTeam c key = (s.written c key (s.sealedBytes c key)).depart c := saveTeam_eq hoff ha
    refine ⟨_, checkpoint_saves hst hr hq hf hoff hk hseal, ?_⟩
    rw [hsave]
    refine ⟨fun e he => (ho e he).trans (hctx e), by rw [hc]; rfl, by rw [hl']; exact hsaved, by rw [hl']; exact hcounter,
      by rw [hpf]; exact hslot, _, by rw [hpf]; exact himage, rfl, rfl, rfl, rfl, rfl, rfl, rfl, ?_⟩
    exact imageBytes_header ..
  case nokey =>
    obtain ⟨hctx, hst', hcause, -⟩ := teamOver_keeps s n t .nokey 0#64 0#64
    exact ⟨_, teamRestore_unopened h hst hl hr (fun _ h => by cases h) hu, hctx, hst', hcause⟩
  case bad =>
    obtain ⟨hctx, hst', hcause, hfault⟩ := teamOver_keeps s n t .fault (faultWord 0x14 d 0) (s.faultAddress none)
    exact ⟨_, teamRestore_unopened h hst hl hr (fun _ h => by cases h) hu, hctx, hst', hcause, hfault⟩
  case restored =>
    obtain ⟨lead, hunit⟩ := restoreUnit_one hp
    rw [hc] at hunit
    rw [place_quiet hbars hdrays hoff] at hunit
    obtain ⟨hx, ho, hteam, -, -, -⟩ := placed_leaves (s := s) (n := n) (t := t) (c := c) (lead := lead) (im := im)
    have hw : exec (.teamRestore quarter) s = .next ((s.placed n t c lead im).endDrains n) := by
      rw [teamRestore_opened h hst hl hr hu, hunit]
      rfl
    have hteam' : (((s.placed n t c lead im).endDrains n).launch n).team t =
        { (s.launch n).team t with st := .resident, ctx := c, urgent := false } := by
      rw [endDrains_launch]
      exact hteam
    refine ⟨_, hw, ho, by rw [hteam'], by rw [hteam'], ?_⟩
    rw [show ((s.placed n t c lead im).endDrains n).ctx c = _ from hx]
    refine ⟨rfl, rfl, rfl, rfl, rfl, rfl, rfl, rfl, fun b hb hbank => ?_⟩
    have hbanks := placed_bank (s := s) (n := n) (t := t) (c := c) (lead := lead) hm him hb hbank
    rw [hcore] at hbanks
    exact hbanks
  case freeze =>
    obtain ⟨hmem, hcore, hout, hin⟩ := freeze_leaves s core damage
    obtain ⟨-, hothers, hdamaged, hbays, hb, ha⟩ := damageCtx_leaves s core damage
    refine ⟨_, coreFreeze_freezes damage hc hf hr, by rw [hcore]; rfl, by rw [hcore]; rfl, fun e he => ?_, fun a => by rw [hmem],
      fun hplace hst => ?_, fun hplace hst => ?_, fun hplace hst => ?_, fun hd => ?_, fun hd => ?_⟩
    · exact (hout e fun h => he (mem_stopping.mp h).1).trans (hothers e he)
    · have hmember : c ∈ s.stopping core := mem_stopping.mpr ⟨hplace, hst.imp_right .inl⟩
      obtain ⟨hteam, -, hfroze⟩ := hin c hmember
      have hz := hfroze (by obtain h | h := hst <;> rw [show (s.ctx c).st = _ from h] <;> simp)
      have hregs : ((s.damageCtx core damage).ctx c).r = { x.r with b := ((s.damageCtx core damage).ctx c).r.b, a := ((s.damageCtx core damage).ctx c).r.a } :=
        congrArg Ctx.r (hdamaged c)
      rw [hz.regs]
      exact ⟨hz.st, hregs, fun i hd hor => hbays c v u i hplace hd hor, fun h => hb h c, fun h => ha h c, hz.fault, hteam⟩
    · have hmember : c ∈ s.stopping core := mem_stopping.mpr ⟨hplace, .inr (.inr hst)⟩
      obtain ⟨hteam, hheld, -⟩ := hin c hmember
      exact ⟨by rw [hheld hst, hdamaged c]; exact hst, hteam⟩
    · have hnot : c ∉ s.stopping core := fun h => by
        obtain ⟨-, h⟩ := mem_stopping.mp h
        rw [show (s.ctx c).st = .free from hst] at h
        simp at h
      rw [hout c hnot, hdamaged c]
      exact hst
    · subst hd
      rw [hcore]
      refine ⟨fun a hlo hhi => ?_, List.mem_cons_self, fun a hno => ?_⟩
      · exact (mget_mclear ..).trans (if_pos ⟨hlo, hhi⟩)
      · exact (mget_mclear ..).trans (if_neg (by omega))
    · subst hd
      rw [hcore]
      exact ⟨fget_fput_same .., List.mem_cons_self⟩
  case kills =>
    rintro ⟨hf, hr, hm, hq, hs⟩ hk hcore hd
    have hmoves : s.MovesOff core c := ⟨hf, hr, hm, hq, hs⟩
    obtain ⟨hctx, hlaunch, hretired, hlogical⟩ := emptied_leaves (s.endAs c .killed) core
    refine ⟨_, migration_kills hmoves hk, ?_, hretired, hlogical, fun hv => ?_, fun hv => ?_⟩
    · obtain ⟨_, _, _, hend⟩ := endAs_ends .killed hd
      exact (congrArg Ctx.st (hctx c)).trans hend.st
    · obtain ⟨_, _, hend⟩ := endAs_violates .killed hv hd
      rw [hlaunch, hend.team]
      exact ⟨rfl, rfl⟩
    · have hend := endTeam_ends .killed hd
      rw [hlaunch, endAs_quiet _ hv, hend.team]
      exact ⟨rfl, rfl⟩
  case lost =>
    rintro ⟨hf, hr, hm, hq, hs⟩ hk hspare hcore hsize hkey
    have hmoves : s.MovesOff core c := ⟨hf, hr, hm, hq, hs⟩
    obtain ⟨hst, hteam, hcause, hfault⟩ := saveStranded_noKey hsize hkey
    refine ⟨_, migration_goes hmoves hk, ?_⟩
    rw [if_neg (by simp [hspare])]
    refine ⟨hst, ?_, ?_, hteam, hcause, hfault⟩
    all_goals rw [State.retire, State.core_modCore_same]
  case moved =>
    rintro ⟨hf, hr, hm, hq, hs⟩ hk hoff hbars hspare hcore hne
    have hmoves : s.MovesOff core c := ⟨hf, hr, hm, hq, hs⟩
    obtain ⟨hx, hfree, hlogical, hretired, hspot, hacc, hcwt, hteam⟩ := moveCore_one hne hcore hbars hoff
    refine ⟨_, migration_goes hmoves hk, ?_⟩
    rw [if_pos hspare]
    dsimp only
    rw [show (s.moveCore core [c]).ctx (spareOf core * 4 + c % 4) = x.moved s.cycle from hx]
    exact ⟨rfl, rfl, rfl, rfl, rfl, rfl, rfl, rfl, rfl, rfl, hfree, hspot, hlogical, hretired, hacc, hcwt, congrArg Team.st hteam,
      congrArg Team.ctx hteam⟩

end Sys2Proof.Machine
